-- ==== Sys2Proof/Word.lean ====
section
/-! DEFINITION. The word types of the OV-5124 and their plainest arithmetic. -/

namespace Sys2Proof

/-- A 64-bit register, register word or call number (03 R88, 04 R126, 18 R548). -/
abbrev Word := BitVec 64
/-- A 32-bit value: an instruction word, an FP32 encoding, a completion counter. -/
abbrev W32 := BitVec 32
/-- One byte. -/
abbrev Byte := BitVec 8
/-- The number of a general register g0 to g63 (04 R126). -/
abbrev Reg := BitVec 6
/-- The number of one of the 512 completion counters of a context (03 R79). -/
abbrev CtrNo := BitVec 9
/-- A thread number, 256 × core + 4 × SP + slot (03 R73). -/
abbrev ThreadNo := BitVec 17

namespace ThreadNo

/-- Core of a thread. -/
def core (t : ThreadNo) : Nat := t.toNat / 256
/-- Scalar processor of a thread within its core. -/
def sp (t : ThreadNo) : Nat := t.toNat % 256 / 4
/-- Slot of a thread within its scalar processor. -/
def slot (t : ThreadNo) : Nat := t.toNat % 4

end ThreadNo

end Sys2Proof
end

