-- ==== Sys2Proof/Syntax.lean ====
section
/-! DEFINITION. The commands of the block: one constructor of `Instr` per row of spec/opcode_table.json,
with the operands its rule gives it, and the data those operands are made of (command fields of 04
Tables 4.8 to 4.15, frames of 10 Tables 10.3, 10.4 and 10.12, loan records of 15 Table 15.2). -/

namespace Sys2Proof

/-- The engines of a core, numbered as ERRCNT and ENGRST number them (18 Tables 18.2, 18.11). -/
inductive Engine where
  | me | ve | te
  deriving DecidableEq, Repr, Inhabited

namespace Engine

/-- The engine's number k of 18 Table 18.11. -/
def num : Engine → Nat
  | .me => 0
  | .ve => 1
  | .te => 2

end Engine

/-- A writer or requester on the host link: function 0 (physical) to 8 (17 R530). -/
abbrev Fn := Fin 9
/-- A fabric port, numbered as 10 Table 10.1. -/
abbrev PortNo := Fin 10

/-- The completion fields every engine command carries (04 Table 4.8). -/
structure Done where
  ctr : CtrNo
  ce : Bool
  deriving DecidableEq, Repr, Inhabited

/-- ME command fields (04 Table 4.11). -/
structure MmaF where
  fin : Done
  acc : BitVec 2
  za : Bool
  emit : Bool
  ta : Bool
  tb : Bool
  fmta : BitVec 4
  fmtb : BitVec 4
  ra : Reg
  rb : Reg
  rt : Reg
  kt : BitVec 8
  deriving DecidableEq, Repr, Inhabited

/-- VE command fields (04 Table 4.13). -/
structure ChainF where
  fin : Done
  src : BitVec 2
  ts : BitVec 3
  rs : Reg
  ro : Reg
  rc : Reg
  rt : Reg
  rnd : BitVec 2
  fmto : BitVec 4
  fmti : BitVec 4
  deriving DecidableEq, Repr, Inhabited

/-- TE COPY fields (04 Table 4.14). -/
structure CopyF where
  fin : Done
  rs : Reg
  rd : Reg
  rl : Reg
  fmts : BitVec 4
  fmtd : BitVec 4
  rnd : BitVec 2
  rt : Reg
  deriving DecidableEq, Repr, Inhabited

/-- TE DESC fields (04 Table 4.14). -/
structure DescF where
  fin : Done
  ra : Reg
  deriving DecidableEq, Repr, Inhabited

/-- RES fields (04 Table 4.15). -/
structure ResF where
  fin : Done
  stage : BitVec 4
  ra : Reg
  rm : Reg
  rl : Reg
  deriving DecidableEq, Repr, Inhabited

/-- What the receiver of a port takes from a frame besides its body (10 Table 10.3, R325): the port, the
sequence number, the acknowledged sequence number, the credits returned, and whether the frame passed
its CRC and FEC (for a control frame, also its GMAC: `auth`). -/
structure Rx where
  port : PortNo
  seq : BitVec 16
  ackseq : BitVec 16
  crvc : BitVec 4
  crcnt : BitVec 12
  good : Bool
  auth : Bool
  deriving DecidableEq, Repr, Inhabited

/-- Transaction kinds of 10 Table 10.4. -/
inductive TxKind where
  | write | read | atomic | coll | ack | nack | readdata
  deriving DecidableEq, Repr, Inhabited

/-- The cause field of a NACK (10 Table 10.4). -/
inductive NackCause where
  | noTarget | remoteDenied
  deriving DecidableEq, Repr, Inhabited

/-- The collective fields of a transaction header (10 Table 10.4). -/
structure CollH where
  n1 : BitVec 32
  first : BitVec 32
  group : BitVec 12
  cser : BitVec 8
  ckind : BitVec 4
  cop : BitVec 4
  fmt : BitVec 4
  shidx : BitVec 16
  contrib : BitVec 16
  shfirst : BitVec 32
  shcount : BitVec 32
  deriving DecidableEq, Repr, Inhabited

/-- Six saturating event counts in the order of 10 R323. -/
abbrev Events := List Nat

/-- What a WRITE of another module's Librarian names at its target beside ADDR; 14 gives deposits and fills no field of Table
10.4 for it (logs 100, 103). `none` for every other transaction; a byte of slot B or A of the deposit region that holds
for the sender (14 R460, R461); a page of a fill; and bytes from `off` of the schedule image of a fill of a step, which is
`len` long (14 R470). -/
inductive LibWrite where
  | none
  | deposit (b : Bool) (off : Nat)
  | page
  | image (step off len : Nat)
  deriving DecidableEq, Repr, Inhabited

/-- Which MOVE a WRITE with TCE belongs to, by a serial of its sender, and how many WRITEs the MOVE has (07 R228); no field of
Table 10.4 holds it (log 136). -/
structure MoveOf where
  no : Nat
  count : Nat
  deriving DecidableEq, Repr, Inhabited

/-- A transaction (10 Table 10.4) with its payload in clear, the words its poison map marks, and its
event record. For a READ, `len` is the number of bytes asked for; `keyOk` says whether the payload
decrypts under the key the receiver holds for `job` (10 R340). `tagless`: it holds no tag, a copy of a broadcast by 0, a
combined transaction by one more than its identifier; its reply echoes it (log 146). -/
structure Txn where
  kind : TxKind
  vc : BitVec 4
  job : BitVec 16
  ttid : BitVec 8
  dst : BitVec 16
  src : BitVec 16
  tag : BitVec 16
  inc : BitVec 6
  srcgen : BitVec 10
  srcslot : BitVec 6
  tce : Bool
  tctr : CtrNo
  det : Bool
  addr : BitVec 48
  fn : BitVec 8
  cause : NackCause
  half : Bool
  len : Nat
  payload : List Byte
  bad : List Nat
  ev : Events
  coll : CollH
  keyOk : Bool
  nonce : Nat
  keystamp : Nat
  lib : LibWrite
  move : MoveOf
  tagless : Option Nat
  deriving DecidableEq, Repr, Inhabited

/-- PSTATE of a STATUS body (10 Table 10.12). -/
inductive PState where
  | training | run | miswire
  deriving DecidableEq, Repr, Inhabited

/-- Coordinates or lengths on the axes T, S, E, P, D (10 R315). -/
structure Coord where
  t : Nat
  s : Nat
  e : Nat
  p : Nat
  d : Nat
  deriving DecidableEq, Repr, Inhabited

/-- STATUS body (10 Table 10.12). -/
structure StatusB where
  pstate : PState
  port : PortNo
  modnum : BitVec 16
  coord : Coord
  inc : BitVec 32
  stamp : Nat
  deriving DecidableEq, Repr, Inhabited

/-- TYPE of a FAULT body (10 R354). -/
inductive FaultType where
  | linkDown | peerFenced | job
  deriving DecidableEq, Repr, Inhabited

/-- FAULT body (10 Table 10.12). -/
structure FaultB where
  type : FaultType
  reporter : BitVec 16
  subject : BitVec 16
  serial : BitVec 32
  dstamp : Nat
  deriving DecidableEq, Repr, Inhabited

/-- FENCED body (10 Table 10.12). -/
structure FencedB where
  modnum : BitVec 16
  inc : BitVec 32
  fstamp : Nat
  deriving DecidableEq, Repr, Inhabited

/-- A candidate timing parent (09 R291): its port and whether it lies in the same rack. -/
structure Parent where
  port : PortNo
  sameRack : Bool
  deriving DecidableEq, Repr, Inhabited

/-- The contents of a TOPO message (17 Table 17.7). `feeds` lists (module number, feed identifier). -/
structure TopoB where
  lens : Coord
  coord : Coord
  timekeeper : Bool
  parents : List Parent
  rack : Nat
  linkasym : List (Nat × Int)
  feeds : List (Nat × BitVec 16)
  deriving DecidableEq, Repr, Inhabited

/-- Sensors of 17 Table 17.5; a die sensor names its die. -/
inductive Sensor where
  | computeDie (die : BitVec 3)
  | portDie
  | lpddr
  | optical
  deriving DecidableEq, Repr, Inhabited

/-- Loan record as the Librarian forms it (15 Table 15.2); the signature is over the rest. -/
structure LoanRec where
  isOpen : Bool
  cause : BitVec 8
  part : BitVec 3
  dies : BitVec 8
  role : BitVec 2
  secure : Bool
  loanid : Word
  tenant : Word
  stamp : Nat
  modnum : BitVec 16
  feedid : BitVec 16
  inc : BitVec 32
  idpub : BitVec 256
  xpub : BitVec 256
  attdig : BitVec 512
  libsig : BitVec 512
  deriving DecidableEq, Repr, Inhabited

/-- A host queue entry (17 Table 17.3), as fetched by DMA. -/
structure QEntry where
  op : BitVec 8
  slot : BitVec 6
  ctr : CtrNo
  ce : Bool
  hostaddr : Word
  call : Word
  len : BitVec 32
  cmdid : BitVec 32
  deriving DecidableEq, Repr, Inhabited

/-- The commands: one constructor per row of spec/opcode_table.json. Scalar rows name the issuing thread
first. -/
inductive Instr where
  | add (t : ThreadNo) (rd ra rb : Reg)
  | sub (t : ThreadNo) (rd ra rb : Reg)
  | and (t : ThreadNo) (rd ra rb : Reg)
  | or (t : ThreadNo) (rd ra rb : Reg)
  | xor (t : ThreadNo) (rd ra rb : Reg)
  | sll (t : ThreadNo) (rd ra rb : Reg)
  | srl (t : ThreadNo) (rd ra rb : Reg)
  | sra (t : ThreadNo) (rd ra rb : Reg)
  | slt (t : ThreadNo) (rd ra rb : Reg)
  | sltu (t : ThreadNo) (rd ra rb : Reg)
  | min (t : ThreadNo) (rd ra rb : Reg)
  | max (t : ThreadNo) (rd ra rb : Reg)
  | minu (t : ThreadNo) (rd ra rb : Reg)
  | maxu (t : ThreadNo) (rd ra rb : Reg)
  | mul (t : ThreadNo) (rd ra rb : Reg)
  | mulh (t : ThreadNo) (rd ra rb : Reg)
  | mulhu (t : ThreadNo) (rd ra rb : Reg)
  | div (t : ThreadNo) (rd ra rb : Reg)
  | divu (t : ThreadNo) (rd ra rb : Reg)
  | rem (t : ThreadNo) (rd ra rb : Reg)
  | remu (t : ThreadNo) (rd ra rb : Reg)
  | addi (t : ThreadNo) (rd ra : Reg) (imm : BitVec 14)
  | andi (t : ThreadNo) (rd ra : Reg) (imm : BitVec 14)
  | ori (t : ThreadNo) (rd ra : Reg) (imm : BitVec 14)
  | xori (t : ThreadNo) (rd ra : Reg) (imm : BitVec 14)
  | slti (t : ThreadNo) (rd ra : Reg) (imm : BitVec 14)
  | shiSll (t : ThreadNo) (rd ra : Reg) (amt : BitVec 6)
  | shiSrl (t : ThreadNo) (rd ra : Reg) (amt : BitVec 6)
  | shiSra (t : ThreadNo) (rd ra : Reg) (amt : BitVec 6)
  | shiRor (t : ThreadNo) (rd ra : Reg) (amt : BitVec 6)
  | movi (t : ThreadNo) (rd : Reg) (lane : BitVec 2) (imm : BitVec 16)
  | movk (t : ThreadNo) (rd : Reg) (lane : BitVec 2) (imm : BitVec 16)
  | fadd (t : ThreadNo) (rd ra rb : Reg)
  | fsub (t : ThreadNo) (rd ra rb : Reg)
  | fmul (t : ThreadNo) (rd ra rb : Reg)
  | fdiv (t : ThreadNo) (rd ra rb : Reg)
  | fsqrt (t : ThreadNo) (rd ra : Reg)
  | fmin (t : ThreadNo) (rd ra rb : Reg)
  | fmax (t : ThreadNo) (rd ra rb : Reg)
  | fmadd (t : ThreadNo) (rd ra rb : Reg)
  | feq (t : ThreadNo) (rd ra rb : Reg)
  | flt (t : ThreadNo) (rd ra rb : Reg)
  | fle (t : ThreadNo) (rd ra rb : Reg)
  | fcvtSL (t : ThreadNo) (rd ra : Reg)
  | fcvtLS (t : ThreadNo) (rd ra : Reg)
  | ld8u (t : ThreadNo) (rd ra : Reg) (imm : BitVec 14)
  | ld16u (t : ThreadNo) (rd ra : Reg) (imm : BitVec 14)
  | ld32u (t : ThreadNo) (rd ra : Reg) (imm : BitVec 14)
  | ld64 (t : ThreadNo) (rd ra : Reg) (imm : BitVec 14)
  | ld8s (t : ThreadNo) (rd ra : Reg) (imm : BitVec 14)
  | ld16s (t : ThreadNo) (rd ra : Reg) (imm : BitVec 14)
  | ld32s (t : ThreadNo) (rd ra : Reg) (imm : BitVec 14)
  | st8 (t : ThreadNo) (rs ra : Reg) (imm : BitVec 14)
  | st16 (t : ThreadNo) (rs ra : Reg) (imm : BitVec 14)
  | st32 (t : ThreadNo) (rs ra : Reg) (imm : BitVec 14)
  | st64 (t : ThreadNo) (rs ra : Reg) (imm : BitVec 14)
  | aadd32 (t : ThreadNo) (rd ra rb : Reg)
  | aadd64 (t : ThreadNo) (rd ra rb : Reg)
  | aswp32 (t : ThreadNo) (rd ra rb : Reg)
  | aswp64 (t : ThreadNo) (rd ra rb : Reg)
  | acas32 (t : ThreadNo) (rd ra rb : Reg)
  | acas64 (t : ThreadNo) (rd ra rb : Reg)
  | beq (t : ThreadNo) (ra rb : Reg) (off : BitVec 14)
  | bne (t : ThreadNo) (ra rb : Reg) (off : BitVec 14)
  | blt (t : ThreadNo) (ra rb : Reg) (off : BitVec 14)
  | bge (t : ThreadNo) (ra rb : Reg) (off : BitVec 14)
  | bltu (t : ThreadNo) (ra rb : Reg) (off : BitVec 14)
  | bgeu (t : ThreadNo) (ra rb : Reg) (off : BitVec 14)
  | jal (t : ThreadNo) (rd : Reg) (off : BitVec 20)
  | jalr (t : ThreadNo) (rd ra : Reg) (imm : BitVec 14)
  | fenceL (t : ThreadNo)
  | fenceG (t : ThreadNo)
  | fencePt (t : ThreadNo)
  | halt (t : ThreadNo)
  | stamp (t : ThreadNo) (rd : Reg)
  | wait (t : ThreadNo) (reg : Reg) (ctr : CtrNo)
  | cinc (t : ThreadNo) (reg : Reg) (ctr : CtrNo)
  | crd (t : ThreadNo) (reg : Reg) (ctr : CtrNo)
  | tstart (t : ThreadNo) (rd ra rb : Reg)
  | dueI (t : ThreadNo) (f : BitVec 26)
  | dueR (t : ThreadNo) (ra : Reg)
  /-- An encoding no table allocates, met by the thread at its next word. -/
  | unallocatedEncoding (t : ThreadNo)
  | meMma (t : ThreadNo) (f : MmaF)
  | veChain (t : ThreadNo) (f : ChainF)
  | teCopy (t : ThreadNo) (f : CopyF)
  | teDesc (t : ThreadNo) (f : DescF)
  | resPush (t : ThreadNo) (f : ResF)
  | resPop (t : ThreadNo) (f : ResF)
  | resFree (t : ThreadNo) (f : ResF)
  | loadValueArrival (t : ThreadNo)
  /-- `i` is the place of the accepted write among the waiting ones. -/
  | localWriteAccept (i : Nat)
  | fencePtComplete (slot : BitVec 6)
  | dueInstructionLaunch (t : ThreadNo)
  | meCommandStart (core : BitVec 9)
  | meStepEnd (core : BitVec 9)
  | meEmit (core : BitVec 9)
  | meEmitDone (core : BitVec 9)
  | chainStart (core : BitVec 9)
  | cartSlotFree (core : BitVec 9)
  /-- `i` names one of the at most two chains in the chain unit. -/
  | chainPassEnd (core : BitVec 9) (i : Nat)
  | teCommandStart (core : BitVec 9)
  | parkedPushRestart (core : BitVec 9) (i : Nat)
  /-- `tag` is the free tag the module grants. -/
  | tagGrant (tag : BitVec 16)
  /-- `i` names the transaction among those ready at the port. -/
  | transactionSend (port : PortNo) (i : Nat)
  | transactionTimeout (tag : BitVec 16)
  | writeReceive (rx : Rx) (x : Txn)
  | readReceive (rx : Rx) (x : Txn)
  | atomicReceive (rx : Rx) (x : Txn)
  | collReceive (rx : Rx) (x : Txn)
  | ackReceive (rx : Rx) (x : Txn)
  | nackReceive (rx : Rx) (x : Txn)
  | readdataReceive (rx : Rx) (x : Txn)
  | transactionForward (rx : Rx) (x : Txn)
  | idleReceive (rx : Rx)
  | replayReceive (rx : Rx) (expseq : BitVec 16)
  | statusReceive (rx : Rx) (b : StatusB)
  /-- `at8` is the receive stamp in eighths of a nanosecond. -/
  | syncReceive (rx : Rx) (seqid : BitVec 16) (at8 : Nat)
  /-- `isResp`: the frame follows a DELAYRESP; `t8` is the precise send stamp in eighths. -/
  | followupReceive (rx : Rx) (isResp : Bool) (seqid : BitVec 16) (t8 : Nat)
  | delayreqReceive (rx : Rx) (seqid : BitVec 16) (at8 : Nat)
  /-- `t8` is the parent's receive stamp, `at8` the child's receive stamp of this frame. -/
  | delayrespReceive (rx : Rx) (seqid : BitVec 16) (t8 at8 : Nat)
  | faultReceive (rx : Rx) (b : FaultB)
  | fencedReceive (rx : Rx) (b : FencedB)
  | linkSilenceTimeout (port : PortNo)
  | fecAlignmentLoss (port : PortNo) (lane : BitVec 4)
  | trainingAttempt (port : PortNo)
  /-- `fail` has bit l set when lane l failed to train. -/
  | trainingEnd (port : PortNo) (fail : BitVec 16)
  | idleSend (port : PortNo)
  | statusSend (port : PortNo)
  | fencedSend (port : PortNo)
  | detourLoad (port : PortNo)
  | heldTrafficDiscard (port : PortNo)
  /-- `pd1`: the port die is PD1; `i` names the slot. -/
  | reductionSlotExpire (pd1 : Bool) (i : Nat)
  | combinedAckTimeout (pd1 : Bool) (i : Nat)
  /-- The parent starts an exchange with the child on `port`; `t8`: the eighths of a nanosecond beyond the stamp at which its sync
  crosses the port. -/
  | alignmentExchange (port : PortNo) (t8 : BitVec 3)
  | holdoverEntry
  | parentRetry
  | tkset (stamp : BitVec 64)
  | topo (b : TopoB)
  | fabkey (key : BitVec 256)
  | ttsw (f : Fn) (bank : Bool) (frame : BitVec 48)
  | timetableSwitch
  | stamploRead (f : Fn)
  /-- Module input power in mW. -/
  | powerTelemetrySample (mw : Nat)
  | powerDecision
  | clockChangeEffect (core : BitVec 9)
  | temperatureLimit (sensor : Sensor) (celsius : Nat)
  | thermalTrip (sensor : Sensor)
  | pwrcapWrite (f : Fn) (v : Word)
  | overdueCheck (slot : BitVec 6)
  | ovdwinWrite (f : Fn) (slot : BitVec 6) (v : Word)
  /-- `pick` is the free slot the module takes, or where its search starts. -/
  | create (f : Fn) (part : BitVec 3) (pick : BitVec 6)
  | createProceed (part : BitVec 3) (pick : BitVec 6)
  | start (f : Fn) (slot : BitVec 6)
  | stop (f : Fn) (slot : BitVec 6)
  | delete (f : Fn) (slot : BitVec 6)
  | reset (f : Fn) (slot : BitVec 6)
  | teardownComplete (slot : BitVec 6)
  | engrst (f : Fn) (core : BitVec 9) (engine : BitVec 2)
  | engineStopTimeout (core : BitVec 9) (e : Engine)
  | engineResetDone (core : BitVec 9) (e : Engine)
  | engineResetTimeout (core : BitVec 9) (e : Engine)
  | partrst (f : Fn) (part : BitVec 3)
  | partitionResetIslands (part : BitVec 3)
  | partitionReady (part : BitVec 3)
  | partitionResetTimeout (part : BitVec 3)
  | modrst (f : Fn)
  | rstNAssert
  | rstNRelease
  | librarianWatchdog
  | refclkLoss
  | pwrEnAssert (pwrGood : Bool)
  | pwrEnDeassert
  | powerLoss
  | supplySag
  | perstAssert
  | perstDeassert
  | flr (f : Fn)
  | vfDisable (f : Fn)
  | sriovDisable
  | flrBackstop (f : Fn)
  | renewalSend
  | renewalAccept (seq : Nat)
  | renewalRefuse (seq : Nat)
  | leaseExpiry
  | lapseNotice (m : BitVec 16) (inc : BitVec 32) (s : Nat)
  | peerDeadDeclare (m : BitVec 16)
  | loanOpen (f : Fn) (part : BitVec 3) (role : BitVec 2) (secure : Bool)
  | loanClose (f : Fn) (part : BitVec 3)
  | meterOpenAnswer
  | meterTimeout (part : BitVec 3)
  | meterCloseCosign
  | closeResend (part : BitVec 3)
  | closeDelayLedger (part : BitVec 3)
  | restartLoanClose
  | partlayoutWrite (f : Fn) (v : BitVec 24)
  | partbindWrite (f : Fn) (part : BitVec 3) (v : BitVec 4)
  /-- Entry and die powers in mW over the sampling interval of 1 ms. -/
  | meterSample (entry : Nat) (dies : List Nat)
  | meterApportion
  | meterCommit
  | meterOpenRecord
  | meterCloseRecord
  | meterListOpen
  | meterRecordDrop
  | meterPowerUp
  | caseSwitchOpen
  | readId
  | readSnapshot
  | readLog (mseq : Nat)
  | ackLog (mseq : Nat)
  | setTime (ms : Nat)
  /-- `certOk`: the certificate checks against the Caerly certificate key. -/
  | pair (certOk : Bool) (idpub : BitVec 256) (address : Byte)
  | readEvents (i : Nat)
  | mtrSnapshot (f : Fn)
  | mtrLogEntry (f : Fn) (mseq : BitVec 32)
  | mtrAnswerReady (f : Fn)
  | patrolScrub (die : BitVec 3) (stripe : BitVec 2)
  | memretRetire (f : Fn) (die : BitVec 3) (stripe : BitVec 2) (channel : BitVec 4)
  | kvfree (f : Option Fn) (slot : BitVec 6) (ctr : CtrNo) (frame : BitVec 28)
  | kvwinWrite (f : Fn) (slot : BitVec 6) (w : BitVec 2) (word : BitVec 2) (v : Word)
  /-- `ide`: the request came over an established IDE stream. -/
  | bar4Read (f : Fn) (off : BitVec 36) (len : Nat) (ide : Bool)
  /-- `ep`: the write arrived poisoned. -/
  | bar4Write (f : Fn) (off : BitVec 36) (data : List Byte) (ep ide : Bool)
  | bmtake (f : Option Fn) (slot : BitVec 6) (step : BitVec 32)
  | cowCopyDone (i : Nat)
  | bmrestore (f : Fn) (slot : BitVec 6) (step : BitVec 32)
  | depholdWrite (f : Fn) (part : BitVec 3) (depmod job : BitVec 16) (first count : BitVec 28)
  | depositCommit (job : BitVec 16)
  | fillcmd (f : Fn) (part : BitVec 3) (spare job : BitVec 16) (kind : BitVec 2) (step : BitVec 32)
  | fillEnd (part : BitVec 3)
  /-- What the other module sent: virtual page numbers with their 64 KiB; `refOk`: its bookmark is neither LOST nor
  MIXED. -/
  | collationEnd (slot : BitVec 6) (pages : List (Nat × List Byte)) (refOk : Bool)
  | shadowAdmit (f : Fn) (slot : BitVec 6)
  | unitDispatch (slot : BitVec 6) (stage : BitVec 4)
  | unitdone (f : Option Fn) (slot : BitVec 6) (unit : BitVec 12)
  | stepStart (slot : BitVec 6)
  | claimGrant (slot : BitVec 6) (tensor : BitVec 10)
  | edbind (f : Option Fn) (slot : BitVec 6) (tensor : BitVec 10)
  | edclaim (f : Option Fn) (slot : BitVec 6) (ctr : CtrNo) (tensor : BitVec 10)
  | edpub (f : Option Fn) (slot : BitVec 6) (tensor : BitVec 10)
  | schedmodeWrite (f : Fn) (slot : BitVec 6) (v : BitVec 2)
  | varcurWrite (f : Fn) (slot : BitVec 6) (v : BitVec 2)
  | rsvboundWrite (f : Fn) (slot : BitVec 6) (stage : BitVec 4) (lim : Bool) (v : Word)
  | variantEvaluate (slot : BitVec 6)
  | varnoteReceive (job : BitVec 16) (variant : BitVec 2) (step : BitVec 32) (frame : Word)
  | varnoteResend (slot : BitVec 6) (m : BitVec 16)
  | gngo (f : Option Fn) (slot : BitVec 6) (step : BitVec 32)
  | gnLaunch (slot : BitVec 6)
  | grpbind (f : Fn) (slot : BitVec 6) (group : BitVec 12) (g1 : BitVec 15)
  | grpunbind (f : Fn) (slot : BitVec 6) (group : BitVec 12)
  /-- A new submission tail, with the entries the fetch by DMA returns. -/
  | doorbell (f : Fn) (q : BitVec 4) (tail : BitVec 32) (entries : List QEntry) (ide : Bool)
  /-- The host bytes the DMA returns; none when the DMA fails. -/
  | copyIn (f : Fn) (q : BitVec 4) (i : Nat) (data : Option (List Byte))
  | copyOut (f : Fn) (q : BitVec 4) (i : Nat) (dmaOk : Bool)
  | queueCinc (f : Fn) (q : BitVec 4) (i : Nat)
  | queueCompletion (f : Fn) (q : BitVec 4) (i : Nat)
  | qcfgWrite (f : Fn) (q : BitVec 4) (word : BitVec 2) (v : Word)
  | attchal (f : Fn) (chal : BitVec 256) (part : BitVec 3)
  | ideKm (f : Fn)
  | cataccept (f : Fn) (v : BitVec 256)
  | catpubPublish (v : BitVec 256)
  | ptinv (f : Fn) (slot : BitVec 6) (ce : Bool) (ctr : CtrNo)
  | errclr (f : Option Fn) (slot : BitVec 6) (sets : BitVec 4)
  | rsvhwmClear (f : Option Fn) (slot : BitVec 6) (stage : BitVec 4)
  | ctxctlWrite (f : Fn) (slot : BitVec 6) (v : Word)
  | bootgo (f : Fn)
  | ready
  /-- A host write of `size` 4 or 8 bytes (other sizes are ignored) at a BAR0 offset. -/
  | registerWrite (f : Fn) (off : BitVec 26) (size : Nat) (v : Word)
  | engineInternalCheck (core : BitVec 9) (e : Engine)
  | uncorrectableControlError (part : BitVec 3)
  | portDieUncorrectableError (pd1 : Bool)
  | refclkReturn
  | localTransferComplete (core : BitVec 9) (i : Nat)
  | sriovEnable (numvfs : BitVec 4)
  | d3hotTransition (f : Fn) (enter : Bool)
  | spdmSessionOpen
  deriving DecidableEq, Repr, Inhabited

end Sys2Proof
end

