-- ==== Sys2Proof/WellFormed.lean ====
section
/-! DEFINITION. The well-formed commands: format, source and rounding codes in combinations 04 allows
(R124, Tables 4.9 to 4.15), transactions whose payload is as long as their header says (10 R323), topologies
of 10 R315 and 09 R291. -/

namespace Sys2Proof

/-- A format code an ME or VE command may hold (04 Tables 4.11, 4.13). -/
def elemCode (c : BitVec 4) : Bool := c.toNat ≤ 5 || (8 ≤ c.toNat && c.toNat ≤ 10)

/-- An ME command's format codes are allocated. -/
def MmaF.wf (f : MmaF) : Bool := elemCode f.fmta && elemCode f.fmtb

/-- A chain command's source code and format codes are allocated; FMTI counts only for source 0b10. -/
def ChainF.wf (f : ChainF) : Bool :=
  decide (f.src ≠ 3) && elemCode f.fmto && (decide (f.src ≠ 2) || elemCode f.fmti)

/-- A COPY's format codes: both raw, or both element formats (04 R151). -/
def CopyF.wf (f : CopyF) : Bool :=
  (decide (f.fmts = 15) && decide (f.fmtd = 15)) || (elemCode f.fmts && elemCode f.fmtd)

/-- A transaction's length and poison map (10 Table 10.4, R323). -/
def Txn.wf (x : Txn) : Bool :=
  decide (x.len ≤ 4096) && decide (x.payload.length ≤ 4096) && x.bad.all (fun w => decide (w < 512)) &&
  (match x.kind with
   | .write => decide (x.payload.length = x.len)
   | .coll => decide (x.payload.length = x.len)
   | .readdata => decide (x.payload.length = x.len)
   | .atomic => decide (x.payload.length = x.len) && decide (x.len = 16)
   | .read => decide (x.payload = [])
   | .ack => decide (x.payload = [])
   | .nack => decide (x.payload = [])
   )

/-- Axis lengths of 10 R315. -/
def Coord.lensOk (l : Coord) : Bool :=
  let ok (n : Nat) : Bool := decide (1 ≤ n ∧ n ≤ 256)
  ok l.t && ok l.s && ok l.e && ok l.p && ok l.d && decide (l.t * l.s * l.e * l.p * l.d ≤ 32768)

/-- Coordinates within the lengths. -/
def Coord.within (c l : Coord) : Bool :=
  decide (c.t < l.t) && decide (c.s < l.s) && decide (c.e < l.e) && decide (c.p < l.p) && decide (c.d < l.d)

/-- A TOPO message (10 R315; 09 R291: at most three candidate parents, none for the machine timekeeper). -/
def TopoB.wf (b : TopoB) : Bool :=
  b.lens.lensOk && b.coord.within b.lens && decide (b.parents.length ≤ 3) &&
  (!b.timekeeper || b.parents.isEmpty)

/-- The well-formed commands. -/
def Instr.wf : Instr → Bool
  | .meMma _ f => f.wf
  | .veChain _ f => f.wf
  | .teCopy _ f => f.wf
  | .writeReceive _ x => x.wf && decide (x.kind = .write)
  | .readReceive _ x => x.wf && decide (x.kind = .read)
  | .atomicReceive _ x => x.wf && decide (x.kind = .atomic)
  | .collReceive _ x => x.wf && decide (x.kind = .coll)
  | .ackReceive _ x => x.wf && decide (x.kind = .ack)
  | .nackReceive _ x => x.wf && decide (x.kind = .nack)
  | .readdataReceive _ x => x.wf && decide (x.kind = .readdata)
  | .transactionForward _ x => x.wf
  | .topo b => b.wf
  | .meterSample _ dies => decide (dies.length = 8)
  | .bar4Write _ _ data _ _ => decide (data.length ≤ 512)
  | .bar4Read _ _ len _ => decide (len ≤ 4096)
  | .sriovEnable n => decide (n.toNat ≤ 8)
  | .vfDisable f => decide (f.val ≠ 0)
  | _ => true

end Sys2Proof
end

