-- ==== Sys2Proof/Decode.lean ====
section
/-! DEFINITION. The words of the Gelga instruction set (04 R122 to R124, Tables 4.1 to 4.15), decoder and encoder, and the
command that a word of the command table spells: none, since that table gives its rows no bits. -/

namespace Sys2Proof

/-! Decoder -/

/-- Fields of a word (Table 4.1). -/
def wOp (w : W32) : Nat := (w.extractLsb' 26 6).toNat
def wRd (w : W32) : Reg := w.extractLsb' 20 6
def wRa (w : W32) : Reg := w.extractLsb' 14 6
def wRb (w : W32) : Reg := w.extractLsb' 8 6
def wFn (w : W32) : Nat := (w.extractLsb' 0 8).toNat
def wImm (w : W32) : BitVec 14 := w.extractLsb' 0 14

/-- ALU function codes (Table 4.3). -/
def decodeAlu (t : ThreadNo) (rd ra rb : Reg) (fn : Nat) : Instr :=
  match fn with
  | 0x00 => .add t rd ra rb
  | 0x01 => .sub t rd ra rb
  | 0x02 => .and t rd ra rb
  | 0x03 => .or t rd ra rb
  | 0x04 => .xor t rd ra rb
  | 0x05 => .sll t rd ra rb
  | 0x06 => .srl t rd ra rb
  | 0x07 => .sra t rd ra rb
  | 0x08 => .slt t rd ra rb
  | 0x09 => .sltu t rd ra rb
  | 0x0A => .min t rd ra rb
  | 0x0B => .max t rd ra rb
  | 0x0C => .minu t rd ra rb
  | 0x0D => .maxu t rd ra rb
  | 0x10 => .mul t rd ra rb
  | 0x11 => .mulh t rd ra rb
  | 0x12 => .mulhu t rd ra rb
  | 0x14 => .div t rd ra rb
  | 0x15 => .divu t rd ra rb
  | 0x16 => .rem t rd ra rb
  | 0x17 => .remu t rd ra rb
  | _ => .unallocatedEncoding t

/-- FP function codes (Table 4.4). -/
def decodeFp (t : ThreadNo) (rd ra rb : Reg) (fn : Nat) : Instr :=
  match fn with
  | 0x00 => .fadd t rd ra rb
  | 0x01 => .fsub t rd ra rb
  | 0x02 => .fmul t rd ra rb
  | 0x03 => .fdiv t rd ra rb
  | 0x04 => .fsqrt t rd ra
  | 0x05 => .fmin t rd ra rb
  | 0x06 => .fmax t rd ra rb
  | 0x07 => .fmadd t rd ra rb
  | 0x08 => .feq t rd ra rb
  | 0x09 => .flt t rd ra rb
  | 0x0A => .fle t rd ra rb
  | 0x0C => .fcvtSL t rd ra
  | 0x0D => .fcvtLS t rd ra
  | _ => .unallocatedEncoding t

/-- ATOM function codes (Table 4.5). -/
def decodeAtom (t : ThreadNo) (rd ra rb : Reg) (fn : Nat) : Instr :=
  match fn with
  | 0x00 => .aadd32 t rd ra rb
  | 0x01 => .aadd64 t rd ra rb
  | 0x02 => .aswp32 t rd ra rb
  | 0x03 => .aswp64 t rd ra rb
  | 0x04 => .acas32 t rd ra rb
  | 0x05 => .acas64 t rd ra rb
  | _ => .unallocatedEncoding t

/-- SYNC function codes (Table 4.6). -/
def decodeSync (t : ThreadNo) (rd : Reg) (fn : Nat) : Instr :=
  match fn with
  | 0x00 => .fenceL t
  | 0x01 => .fenceG t
  | 0x02 => .fencePt t
  | 0x08 => .halt t
  | 0x10 => .stamp t rd
  | _ => .unallocatedEncoding t

/-- SHI: the shift is in bits 13 and 12 of the immediate, the amount in bits 5 to 0. -/
def decodeShi (t : ThreadNo) (rd ra : Reg) (i : BitVec 14) : Instr :=
  let a : BitVec 6 := i.extractLsb' 0 6
  match (i.extractLsb' 12 2).toNat with
  | 0 => .shiSll t rd ra a
  | 1 => .shiSrl t rd ra a
  | 2 => .shiSra t rd ra a
  | _ => .shiRor t rd ra a

/-- MOVI and MOVK. -/
def decodeMov (t : ThreadNo) (w : W32) : Instr :=
  if w.getLsbD 1 then .movk t (wRd w) (w.extractLsb' 18 2) (w.extractLsb' 2 16)
  else .movi t (wRd w) (w.extractLsb' 18 2) (w.extractLsb' 2 16)

/-- An allocated command, or the unallocated encoding. -/
def orUnallocated (t : ThreadNo) (i : Instr) : Instr := if i.wf then i else .unallocatedEncoding t

/-- Completion fields (Table 4.8). -/
def decodeDone (c : Word) : Done := { ctr := c.extractLsb' 49 9, ce := c.getLsbD 48 }

/-- ME commands (Table 4.11). -/
def decodeMe (t : ThreadNo) (c : Word) : Instr :=
  orUnallocated t (.meMma t
    { fin := decodeDone c, acc := c.extractLsb' 46 2, za := c.getLsbD 45, emit := c.getLsbD 44, ta := c.getLsbD 43,
      tb := c.getLsbD 42, fmta := c.extractLsb' 38 4, fmtb := c.extractLsb' 34 4, ra := c.extractLsb' 28 6,
      rb := c.extractLsb' 22 6, rt := c.extractLsb' 16 6, kt := c.extractLsb' 8 8 })

/-- VE commands (Table 4.13). -/
def decodeVe (t : ThreadNo) (c : Word) : Instr :=
  orUnallocated t (.veChain t
    { fin := decodeDone c, src := c.extractLsb' 46 2, ts := c.extractLsb' 43 3, rs := c.extractLsb' 37 6,
      ro := c.extractLsb' 31 6, rc := c.extractLsb' 25 6, rt := c.extractLsb' 19 6, rnd := c.extractLsb' 17 2,
      fmto := c.extractLsb' 13 4, fmti := c.extractLsb' 9 4 })

/-- TE commands (Table 4.14). -/
def decodeTe (t : ThreadNo) (c : Word) : Instr :=
  match (c.extractLsb' 44 4).toNat with
  | 0 =>
    orUnallocated t (.teCopy t
      { fin := decodeDone c, rs := c.extractLsb' 38 6, rd := c.extractLsb' 32 6, rl := c.extractLsb' 26 6,
        fmts := c.extractLsb' 22 4, fmtd := c.extractLsb' 18 4, rnd := c.extractLsb' 16 2, rt := c.extractLsb' 10 6 })
  | 1 => .teDesc t { fin := decodeDone c, ra := c.extractLsb' 38 6 }
  | _ => .unallocatedEncoding t

/-- RES commands (Table 4.15). -/
def decodeRes (t : ThreadNo) (c : Word) : Instr :=
  let f : ResF := { fin := decodeDone c, stage := c.extractLsb' 40 4, ra := c.extractLsb' 34 6, rm := c.extractLsb' 28 6,
                    rl := c.extractLsb' 22 6 }
  match (c.extractLsb' 44 4).toNat with
  | 0 => .resPush t f
  | 1 => .resPop t f
  | 2 => .resFree t f
  | _ => .unallocatedEncoding t

/-- The instruction, prefix or command of thread t whose first word is w0; the second word w1 counts for an engine command
only (Table 4.2). -/
def decodeGelga (t : ThreadNo) (w0 w1 : W32) : Instr :=
  let rd := wRd w0
  let ra := wRa w0
  let rb := wRb w0
  let fn := wFn w0
  let i := wImm w0
  let c : Word := w0 ++ w1
  match wOp w0 with
  | 0x00 => decodeAlu t rd ra rb fn
  | 0x01 => .addi t rd ra i
  | 0x02 => .andi t rd ra i
  | 0x03 => .ori t rd ra i
  | 0x04 => .xori t rd ra i
  | 0x05 => .slti t rd ra i
  | 0x06 => decodeShi t rd ra i
  | 0x07 => decodeMov t w0
  | 0x08 => decodeFp t rd ra rb fn
  | 0x10 => .ld8u t rd ra i
  | 0x11 => .ld16u t rd ra i
  | 0x12 => .ld32u t rd ra i
  | 0x13 => .ld64 t rd ra i
  | 0x14 => .ld8s t rd ra i
  | 0x15 => .ld16s t rd ra i
  | 0x16 => .ld32s t rd ra i
  | 0x18 => .st8 t rd ra i
  | 0x19 => .st16 t rd ra i
  | 0x1A => .st32 t rd ra i
  | 0x1B => .st64 t rd ra i
  | 0x1C => decodeAtom t rd ra rb fn
  | 0x20 => .beq t rd ra i
  | 0x21 => .bne t rd ra i
  | 0x22 => .blt t rd ra i
  | 0x23 => .bge t rd ra i
  | 0x24 => .bltu t rd ra i
  | 0x25 => .bgeu t rd ra i
  | 0x26 => .jal t rd (w0.extractLsb' 0 20)
  | 0x27 => .jalr t rd ra i
  | 0x28 => decodeSync t rd fn
  | 0x29 => .wait t rd (w0.extractLsb' 11 9)
  | 0x2A => .cinc t rd (w0.extractLsb' 11 9)
  | 0x2B => .crd t rd (w0.extractLsb' 11 9)
  | 0x2C => .tstart t rd ra rb
  | 0x30 => decodeMe t c
  | 0x31 => decodeVe t c
  | 0x32 => decodeTe t c
  | 0x33 => decodeRes t c
  | 0x3E => .dueI t (w0.extractLsb' 0 26)
  | 0x3F => .dueR t rd
  | _ => .unallocatedEncoding t

/-! Encoder -/

/-- R layout. -/
def encR (op : BitVec 6) (rd ra rb : Reg) (fn : BitVec 8) : W32 := op ++ rd ++ ra ++ rb ++ fn
/-- I, S and B layouts. -/
def encI (op : BitVec 6) (rd ra : Reg) (i : BitVec 14) : W32 := op ++ rd ++ ra ++ i
/-- SHI. -/
def encShi (k : BitVec 2) (rd ra : Reg) (a : BitVec 6) : W32 := (0x06 : BitVec 6) ++ rd ++ ra ++ k ++ (0 : BitVec 6) ++ a
/-- M layout. -/
def encM (k : BitVec 1) (rd : Reg) (lane : BitVec 2) (i : BitVec 16) : W32 :=
  (0x07 : BitVec 6) ++ rd ++ lane ++ i ++ k ++ (0 : BitVec 1)
/-- C layout. -/
def encC (op : BitVec 6) (r : Reg) (c : CtrNo) : W32 := op ++ r ++ c ++ (0 : BitVec 11)

/-- Class and completion fields of an engine command: bits 63 to 48. -/
def encDone (cls : BitVec 6) (d : Done) : BitVec 16 := cls ++ d.ctr ++ BitVec.ofBool d.ce

def MmaF.enc (f : MmaF) : Word :=
  encDone 0x30 f.fin ++ f.acc ++ BitVec.ofBool f.za ++ BitVec.ofBool f.emit ++ BitVec.ofBool f.ta ++ BitVec.ofBool f.tb ++
    f.fmta ++ f.fmtb ++ f.ra ++ f.rb ++ f.rt ++ f.kt ++ (0 : BitVec 8)
def ChainF.enc (f : ChainF) : Word :=
  encDone 0x31 f.fin ++ f.src ++ f.ts ++ f.rs ++ f.ro ++ f.rc ++ f.rt ++ f.rnd ++ f.fmto ++ f.fmti ++ (0 : BitVec 9)
def CopyF.enc (f : CopyF) : Word :=
  encDone 0x32 f.fin ++ (0 : BitVec 4) ++ f.rs ++ f.rd ++ f.rl ++ f.fmts ++ f.fmtd ++ f.rnd ++ f.rt ++ (0 : BitVec 10)
def DescF.enc (f : DescF) : Word := encDone 0x32 f.fin ++ (1 : BitVec 4) ++ f.ra ++ (0 : BitVec 38)
def ResF.enc (sub : BitVec 4) (f : ResF) : Word :=
  encDone 0x33 f.fin ++ sub ++ f.stage ++ f.ra ++ f.rm ++ f.rl ++ (0 : BitVec 22)

/-- One word. -/
def one (w : W32) : Option (W32 × W32) := some (w, 0)
/-- The two words of an engine command. -/
def two (c : Word) : Option (W32 × W32) := some (c.extractLsb' 32 32, c.extractLsb' 0 32)

/-- The words of an instruction, prefix or engine command, with RSV bits zero; none for a command that no thread issues. -/
def encodeGelga (c : Instr) : Option (W32 × W32) :=
  match c with
  | .add _ rd ra rb => one (encR 0x00 rd ra rb 0)
  | .sub _ rd ra rb => one (encR 0x00 rd ra rb 1)
  | .and _ rd ra rb => one (encR 0x00 rd ra rb 2)
  | .or _ rd ra rb => one (encR 0x00 rd ra rb 3)
  | .xor _ rd ra rb => one (encR 0x00 rd ra rb 4)
  | .sll _ rd ra rb => one (encR 0x00 rd ra rb 5)
  | .srl _ rd ra rb => one (encR 0x00 rd ra rb 6)
  | .sra _ rd ra rb => one (encR 0x00 rd ra rb 7)
  | .slt _ rd ra rb => one (encR 0x00 rd ra rb 8)
  | .sltu _ rd ra rb => one (encR 0x00 rd ra rb 9)
  | .min _ rd ra rb => one (encR 0x00 rd ra rb 10)
  | .max _ rd ra rb => one (encR 0x00 rd ra rb 11)
  | .minu _ rd ra rb => one (encR 0x00 rd ra rb 12)
  | .maxu _ rd ra rb => one (encR 0x00 rd ra rb 13)
  | .mul _ rd ra rb => one (encR 0x00 rd ra rb 16)
  | .mulh _ rd ra rb => one (encR 0x00 rd ra rb 17)
  | .mulhu _ rd ra rb => one (encR 0x00 rd ra rb 18)
  | .div _ rd ra rb => one (encR 0x00 rd ra rb 20)
  | .divu _ rd ra rb => one (encR 0x00 rd ra rb 21)
  | .rem _ rd ra rb => one (encR 0x00 rd ra rb 22)
  | .remu _ rd ra rb => one (encR 0x00 rd ra rb 23)
  | .fadd _ rd ra rb => one (encR 0x08 rd ra rb 0)
  | .fsub _ rd ra rb => one (encR 0x08 rd ra rb 1)
  | .fmul _ rd ra rb => one (encR 0x08 rd ra rb 2)
  | .fdiv _ rd ra rb => one (encR 0x08 rd ra rb 3)
  | .fmin _ rd ra rb => one (encR 0x08 rd ra rb 5)
  | .fmax _ rd ra rb => one (encR 0x08 rd ra rb 6)
  | .fmadd _ rd ra rb => one (encR 0x08 rd ra rb 7)
  | .feq _ rd ra rb => one (encR 0x08 rd ra rb 8)
  | .flt _ rd ra rb => one (encR 0x08 rd ra rb 9)
  | .fle _ rd ra rb => one (encR 0x08 rd ra rb 10)
  | .aadd32 _ rd ra rb => one (encR 0x1C rd ra rb 0)
  | .aadd64 _ rd ra rb => one (encR 0x1C rd ra rb 1)
  | .aswp32 _ rd ra rb => one (encR 0x1C rd ra rb 2)
  | .aswp64 _ rd ra rb => one (encR 0x1C rd ra rb 3)
  | .acas32 _ rd ra rb => one (encR 0x1C rd ra rb 4)
  | .acas64 _ rd ra rb => one (encR 0x1C rd ra rb 5)
  | .fsqrt _ rd ra => one (encR 0x08 rd ra 0 4)
  | .fcvtSL _ rd ra => one (encR 0x08 rd ra 0 12)
  | .fcvtLS _ rd ra => one (encR 0x08 rd ra 0 13)
  | .addi _ rd ra i => one (encI 0x01 rd ra i)
  | .andi _ rd ra i => one (encI 0x02 rd ra i)
  | .ori _ rd ra i => one (encI 0x03 rd ra i)
  | .xori _ rd ra i => one (encI 0x04 rd ra i)
  | .slti _ rd ra i => one (encI 0x05 rd ra i)
  | .ld8u _ rd ra i => one (encI 0x10 rd ra i)
  | .ld16u _ rd ra i => one (encI 0x11 rd ra i)
  | .ld32u _ rd ra i => one (encI 0x12 rd ra i)
  | .ld64 _ rd ra i => one (encI 0x13 rd ra i)
  | .ld8s _ rd ra i => one (encI 0x14 rd ra i)
  | .ld16s _ rd ra i => one (encI 0x15 rd ra i)
  | .ld32s _ rd ra i => one (encI 0x16 rd ra i)
  | .st8 _ rd ra i => one (encI 0x18 rd ra i)
  | .st16 _ rd ra i => one (encI 0x19 rd ra i)
  | .st32 _ rd ra i => one (encI 0x1a rd ra i)
  | .st64 _ rd ra i => one (encI 0x1b rd ra i)
  | .beq _ rd ra i => one (encI 0x20 rd ra i)
  | .bne _ rd ra i => one (encI 0x21 rd ra i)
  | .blt _ rd ra i => one (encI 0x22 rd ra i)
  | .bge _ rd ra i => one (encI 0x23 rd ra i)
  | .bltu _ rd ra i => one (encI 0x24 rd ra i)
  | .bgeu _ rd ra i => one (encI 0x25 rd ra i)
  | .jalr _ rd ra i => one (encI 0x27 rd ra i)
  | .shiSll _ rd ra a => one (encShi 0 rd ra a)
  | .shiSrl _ rd ra a => one (encShi 1 rd ra a)
  | .shiSra _ rd ra a => one (encShi 2 rd ra a)
  | .shiRor _ rd ra a => one (encShi 3 rd ra a)
  | .movi _ rd l i => one (encM 0 rd l i)
  | .movk _ rd l i => one (encM 1 rd l i)
  | .jal _ rd o => one ((0x26 : BitVec 6) ++ rd ++ o)
  | .fenceL _ => one (encR 0x28 0 0 0 0)
  | .fenceG _ => one (encR 0x28 0 0 0 1)
  | .fencePt _ => one (encR 0x28 0 0 0 2)
  | .halt _ => one (encR 0x28 0 0 0 8)
  | .stamp _ rd => one (encR 0x28 rd 0 0 0x10)
  | .wait _ r c => one (encC 0x29 r c)
  | .cinc _ r c => one (encC 0x2A r c)
  | .crd _ r c => one (encC 0x2B r c)
  | .tstart _ rd ra rb => one (encR 0x2C rd ra rb 0)
  | .dueI _ f => one ((0x3E : BitVec 6) ++ f)
  | .dueR _ ra => one ((0x3F : BitVec 6) ++ ra ++ (0 : BitVec 20))
  | .meMma _ f => two f.enc
  | .veChain _ f => two f.enc
  | .teCopy _ f => two f.enc
  | .teDesc _ f => two f.enc
  | .resPush _ f => two (ResF.enc 0 f)
  | .resPop _ f => two (ResF.enc 1 f)
  | .resFree _ f => two (ResF.enc 2 f)
  | _ => none

/-- The thread that issues an instruction. -/
def issuer (c : Instr) : Option ThreadNo :=
  match c with
  | .add t _ _ _ => some t
  | .sub t _ _ _ => some t
  | .and t _ _ _ => some t
  | .or t _ _ _ => some t
  | .xor t _ _ _ => some t
  | .sll t _ _ _ => some t
  | .srl t _ _ _ => some t
  | .sra t _ _ _ => some t
  | .slt t _ _ _ => some t
  | .sltu t _ _ _ => some t
  | .min t _ _ _ => some t
  | .max t _ _ _ => some t
  | .minu t _ _ _ => some t
  | .maxu t _ _ _ => some t
  | .mul t _ _ _ => some t
  | .mulh t _ _ _ => some t
  | .mulhu t _ _ _ => some t
  | .div t _ _ _ => some t
  | .divu t _ _ _ => some t
  | .rem t _ _ _ => some t
  | .remu t _ _ _ => some t
  | .fadd t _ _ _ => some t
  | .fsub t _ _ _ => some t
  | .fmul t _ _ _ => some t
  | .fdiv t _ _ _ => some t
  | .fmin t _ _ _ => some t
  | .fmax t _ _ _ => some t
  | .fmadd t _ _ _ => some t
  | .feq t _ _ _ => some t
  | .flt t _ _ _ => some t
  | .fle t _ _ _ => some t
  | .aadd32 t _ _ _ => some t
  | .aadd64 t _ _ _ => some t
  | .aswp32 t _ _ _ => some t
  | .aswp64 t _ _ _ => some t
  | .acas32 t _ _ _ => some t
  | .acas64 t _ _ _ => some t
  | .fsqrt t _ _ => some t
  | .fcvtSL t _ _ => some t
  | .fcvtLS t _ _ => some t
  | .addi t _ _ _ => some t
  | .andi t _ _ _ => some t
  | .ori t _ _ _ => some t
  | .xori t _ _ _ => some t
  | .slti t _ _ _ => some t
  | .ld8u t _ _ _ => some t
  | .ld16u t _ _ _ => some t
  | .ld32u t _ _ _ => some t
  | .ld64 t _ _ _ => some t
  | .ld8s t _ _ _ => some t
  | .ld16s t _ _ _ => some t
  | .ld32s t _ _ _ => some t
  | .st8 t _ _ _ => some t
  | .st16 t _ _ _ => some t
  | .st32 t _ _ _ => some t
  | .st64 t _ _ _ => some t
  | .beq t _ _ _ => some t
  | .bne t _ _ _ => some t
  | .blt t _ _ _ => some t
  | .bge t _ _ _ => some t
  | .bltu t _ _ _ => some t
  | .bgeu t _ _ _ => some t
  | .jalr t _ _ _ => some t
  | .shiSll t _ _ _ => some t
  | .shiSrl t _ _ _ => some t
  | .shiSra t _ _ _ => some t
  | .shiRor t _ _ _ => some t
  | .movi t _ _ _ => some t
  | .movk t _ _ _ => some t
  | .jal t _ _ => some t
  | .fenceL t => some t
  | .fenceG t => some t
  | .fencePt t => some t
  | .halt t => some t
  | .stamp t _ => some t
  | .wait t _ _ => some t
  | .cinc t _ _ => some t
  | .crd t _ _ => some t
  | .tstart t _ _ _ => some t
  | .dueI t _ => some t
  | .dueR t _ => some t
  | .meMma t _ => some t
  | .veChain t _ => some t
  | .teCopy t _ => some t
  | .teDesc t _ => some t
  | .resPush t _ => some t
  | .resPop t _ => some t
  | .resFree t _ => some t
  | _ => none

/-! The command table -/

/-- spec/opcode_table.json gives no row bits: no word spells a command. -/
def decodeTableWord (_nbits _w : Nat) : Option Instr := none

end Sys2Proof
end

