-- ==== Sys2Proof/Config.lean ====
section
/-! DEFINITION. What the spec fixes as figures, and what it leaves to the implementation or open: the free
values are constants without a body, so that nothing can be proved of their values. -/

namespace Sys2Proof.Config

/-! Figures of the spec, times in nanoseconds of stamp time -/

/-- Software-mapped frames of a die (08 R257). -/
def softFrames : Nat := 4392352
/-- Frames of a die, the hidden ones among them (08 R257). -/
def dieFrames : Nat := 4394531
/-- Fabric transaction timeout (07 R243). -/
def txTimeout : Nat := 2000000
/-- Frame and slot of the links (09 R300). -/
def frameNs : Nat := 16000
def slotNs : Nat := 128
/-- Most reserved slots of a frame (09 R303). -/
def maxReserved : Nat := 93
/-- Least time from acceptance to a timetable switch (09 R312). -/
def switchLead : Nat := 32000
/-- Silence that declares a link DOWN, and idle time before an IDLE frame (10 R326). -/
def silenceNs : Nat := 500
def idleNs : Nat := 250
/-- Memory of FAULT pairs (10 R355). -/
def faultMemoryNs : Nat := 100000000
/-- Exchange period of 64 frames (09 R292) and exchanges for ALIGNED and HOLDOVER (Table 9.1). -/
def exchangeNs : Nat := 1024000
/-- Period of the FENCED frames of a fenced module (10 R358), and of STATUS (10 Table 10.10). -/
def fencedNs : Nat := 1000
def statusNs : Nat := 1000
/-- ±244 ppm of an exchange period, in eighths of a nanosecond (09 R288, R290). -/
def rateMax8 : Int := 1998
def alignRuns : Nat := 16
def holdoverPeriods : Nat := 8
/-- Bounds of R295 in eighths of a nanosecond: inside a rack and across racks. -/
def rackBound8 : Nat := 16
def machineBound8 : Nat := 200
/-- Slewing: at most one count in 4,096 ns (09 R288). -/
def slewNs : Nat := 4096
/-- Renewals: period, lease, declaration of death (13 R438, R439, R441). -/
def renewNs : Nat := 50000000
def leaseNs : Nat := 150000000
def deadNs : Nat := 300000000
/-- Reset limits of 13 Table 13.1 and R434. -/
def engineStopNs : Nat := 1000000
def engineResetNs : Nat := 5000000
def partResetNs : Nat := 40000000
def flrBackstopNs : Nat := 90000000
/-- Meter limits of 15 R489, R490. -/
def meterTimeoutNs : Nat := 100000000
def closeLedgerNs : Nat := 1000000000
/-- Decision interval of the power manager, and the time a new clock takes (01 R24). -/
def decisionNs : Nat := 100000
def clockEffectNs : Nat := 2000
/-- Window of MEMCETHR (08 R263). -/
def day : Nat := 86400000000000
/-- SET_TIME limit of 16 R506 in ms of the time base. -/
def setTimeWindowMs : Nat := 3600000
def setTimeMaxMs : Nat := 1000
/-- Catalogue bits this firmware publishes (17 Table 17.10). -/
def catalogueBits : Nat := 0xFFFF
/-- Attestation entries, fingerprints, ledger entries. -/
def attMax : Nat := 4096
def fingerprintMax : Nat := 1024
def ledgerMax : Nat := 65536

/-! Free values -/

/-- A word the spec leaves open, drawn by a counter of the state. -/
opaque freeWord : Nat → Word
/-- A number in a ledger entry that 13 Tables 13.7 to 13.9 name by its subject and give no code for, by event code and
subject (log 85). -/
opaque ledgerNo : Nat → Nat → Nat
/-- The island's stamp is ahead of PD0's by one count (09 R289 allows 1 ns), by island and stamp. -/
opaque islandSkew : Nat → Nat → Bool
/-- Eighths of a nanosecond beyond the stamp at which a frame crosses a port (09 R292), by port and stamp. -/
opaque stampFrac : Nat → Nat → BitVec 3
/-- The correction of a module's rate after an exchange, from the one before and the offset found, both in eighths of a
nanosecond per exchange period (09 R290 gives no formula). -/
opaque rateOf : Int → Int → Int
/-- The members of a group of a job in the route plan of a module where the group is not bound (10 R344, R352; log 147). -/
opaque routePlan : BitVec 16 → BitVec 12 → List (BitVec 16)
/-- The incarnation a module chooses at its n-th reset (13 R438: random). -/
opaque incarnation : Nat → BitVec 32
/-- Digest and signature functions named by the spec (15 R494 to R502, 17 R542), left uninterpreted. -/
opaque sha512 : List Byte → BitVec 512
opaque sign : Word → BitVec 512 → BitVec 512
opaque verify : BitVec 256 → BitVec 512 → BitVec 512 → Bool
/-- The hash of the firmware-signing key in the boot ROM (15 R500). -/
opaque romKeyHash : BitVec 512
/-- The log entry of the boot ROM (15 R501). -/
opaque romDigest : BitVec 512
/-- Identity key pair's public half, certificate, and whether the PUF reconstruction succeeded (15 R500,
R501), for the module and its n-th power-up. -/
opaque idPub : BitVec 256
opaque idCert : List Byte
opaque pufOk : Nat → Bool
/-- Public half of the n-th transport key pair (15 R494). -/
opaque xPub : Nat → BitVec 256
/-- Unwrapping a job key (15 R495) under the n-th transport key: loan, job, module, E, W and tag to the
key, or none when the tag check fails. -/
opaque unwrap : Nat → Word → BitVec 16 → BitVec 16 → BitVec 256 → BitVec 256 → BitVec 128 → Option (BitVec 256)
/-- Key identity of the Librarian key for fingerprints after the n-th reset (15 R496). -/
opaque libKey : Nat → Word × Word
/-- The meter's serial number, software version, software digest and key (16 R512, R517). -/
opaque meterId : Word
opaque lrVer : BitVec 8
opaque lrDigest : BitVec 512
opaque meterPub : BitVec 256
opaque meterSign : BitVec 512 → BitVec 512
/-- The profile that the compiler supplies for each plan variant (11 R398): a job-wide stage's share of the step in units
of 1/65,536. -/
opaque stageShare : Nat → Nat → Nat
/-- Whether a byte of a region of quires holds a scale code, by the region's format, base and length and the byte's offset
(14 R451, Table 14.2), and whether pages of quires whose scale codes differ agree (R468). -/
opaque isScale : Nat → Nat → Nat → Nat → Bool
opaque quiresAgree : List Byte → List Byte → Bool
/-- The module whose context shadows the context of a job on a module, at a stamp (14 R480, R481): no register of the
shadowed module names it. -/
opaque shadowOf : BitVec 16 → BitVec 16 → Nat → Option (BitVec 16)
/-- Rate and width at which the host link came up, as LINKSTAT numbers them (17 R521, 18 Table 18.4). -/
opaque linkRate : Nat
opaque linkWidth : Nat

end Sys2Proof.Config
end

