-- ==== Sys2Proof/Machine/Sparse.lean ====
section
/-! DEFINITION. Sparse data: a list of (key, value) pairs in one canonical form, keys strictly rising and
no value equal to the default that an unlisted key reads as; and rising lists of keys (sets). Memory,
register files and register blocks are held this way, so that equal contents are equal data. -/

namespace Sys2Proof.Machine

/-- A map from numbers to values with a default. -/
abbrev Sparse (β : Type) := List (Nat × β)

namespace Sparse

variable {β : Type}

/-- The value at a key: the listed one, else the default. -/
def get (d : β) : Sparse β → Nat → β
  | [], _ => d
  | (j, v) :: m, k => if k = j then v else get d m k

/-- Remove a key. -/
def drop : Sparse β → Nat → Sparse β
  | [], _ => []
  | (j, v) :: m, k => if k = j then drop m k else (j, v) :: drop m k

/-- List a key with a value, whatever the value is. -/
def put : Sparse β → Nat → β → Sparse β
  | [], k, x => [(k, x)]
  | (j, v) :: m, k, x =>
    if k = j then (k, x) :: m else if k < j then (k, x) :: (j, v) :: m else (j, v) :: put m k x

/-- Write a value at a key; the default removes the entry. -/
def set [DecidableEq β] (d : β) (m : Sparse β) (k : Nat) (x : β) : Sparse β :=
  if x = d then drop m k else put m k x

/-- Change the value at a key. -/
def upd [DecidableEq β] (d : β) (m : Sparse β) (k : Nat) (f : β → β) : Sparse β :=
  set d m k (f (get d m k))

/-- The canonical form: every key at least `lo`, keys strictly rising, no default listed. -/
def okFrom [DecidableEq β] (d : β) : Nat → Sparse β → Bool
  | _, [] => true
  | lo, (j, v) :: m => decide (lo ≤ j) && decide (v ≠ d) && okFrom d (j + 1) m

/-- The canonical form of a map. -/
def ok [DecidableEq β] (d : β) (m : Sparse β) : Bool := okFrom d 0 m

/-- Keep the entries whose key satisfies a test. -/
def keep (p : Nat → Bool) (m : Sparse β) : Sparse β := m.filter fun e => p e.1

end Sparse

/-- A set of numbers, as a strictly rising list. -/
abbrev NatSet := List Nat

namespace NatSet

/-- Membership. -/
def has : NatSet → Nat → Bool
  | [], _ => false
  | j :: m, k => if k = j then true else has m k

/-- Add a number. -/
def add : NatSet → Nat → NatSet
  | [], k => [k]
  | j :: m, k => if k = j then j :: m else if k < j then k :: j :: m else j :: add m k

/-- Remove a number. -/
def del : NatSet → Nat → NatSet
  | [], _ => []
  | j :: m, k => if k = j then del m k else j :: del m k

/-- Add or remove a number. -/
def put (m : NatSet) (k : Nat) (b : Bool) : NatSet := if b then add m k else del m k

end NatSet

end Sys2Proof.Machine
end

