-- ==== Sys2Proof/Machine/State.lean ====
section
/-! DEFINITION. The state of one OV-5124 module and its Circulation Meter as plain data, and the state
right after a module reset of a powered module (log 7). -/

namespace Sys2Proof.Machine

/-- The acts of 03 Table 3.10, which give undefined behaviour (R119): what each may do stands in Machine/Wild.lean. -/
inductive Act where
  /-- Two writes to one 256 B granule from different threads or engine commands with nothing that orders them. -/
  | granuleRace
  /-- Data written that an engine command still reads, a tile register among it (R139, R180). -/
  | writtenWhileEngineReads
  /-- A tile register read while an engine writes it. -/
  | tileReadWhileWritten
  /-- A page-table entry changed other than as R99 allows, without FENCE.PT. -/
  | entryChanged
  /-- 1 written to the COW bit of a page-table entry (R96). -/
  | cowBitWritten
  /-- A wait on a counter outside the range of R113. -/
  | waitOutOfRange
  /-- F4 code 0x8 or quire scale 0xFF as an ME operand (R55). -/
  | f4NanOperand
  /-- An engine operand not aligned as its engine requires (R164, R191, R202, R225, R363, R367). -/
  | misalignedEngineOperand
  /-- A chain writes over what it still reads, other than as R221 allows. -/
  | chainOverlap
  /-- A Reserve entry matched by a second POP or FREE before the first completed (R369). -/
  | reservePoppedTwice
  /-- A non-zero value written to an RSV field (R549). -/
  | rsvFieldWritten
  /-- A catalogue bit that was not published written as 1 (R546). -/
  | unpublishedCatalogueBit
  /-- The 72 V entry below 66 V (R533). -/
  | supplyBelow66V
  deriving DecidableEq, Repr, Inhabited

/-- Why the machine stops: it never does. The spec gives an effect to every command, and 03 R119 gives one to every act of
Table 3.10. -/
inductive Fault where
  deriving DecidableEq, Repr

/-- Why a command has no meaning. -/
inductive Refusal where
  /-- Raised by an arm of `exec` whose meaning is not written yet; safe. -/
  | notModelled (mnemonic : String)
  deriving DecidableEq, Repr

/-! Threads -/

/-- A due prefix a thread has reached (04 R154, R155): its kind, its operand, the stamp at which the thread reached it, the
due stamp fixed then, and its call number. -/
structure Due where
  imm : Bool
  f : BitVec 26
  reg : Word
  s : Nat
  d : Nat
  at_ : Word
  deriving DecidableEq, Repr, Inhabited

/-- The operation of a load or atomic awaiting its value (04 Tables 4.2, 4.5). -/
inductive LoadOp where
  | ld (n : Nat) (signed : Bool)
  | atom (fn : Nat) (b d : Word) (bad : Bool)
  deriving DecidableEq, Repr, Inhabited

/-- Where a checked access lands: bytes of the module's memories, a control-space offset, or another
module. -/
inductive Loc where
  | mem (pas : List Nat)
  | ctl (off : Nat)
  | remote
  deriving DecidableEq, Repr, Inhabited

/-- A load or atomic whose value has not arrived (04 R133). `value` is what a remote answer or a timeout
has supplied, with its poison mark; `timedOut`: a timeout supplied it; `got`: the bytes of a misaligned local load that
have been read, with their index and mark (03 R93). -/
structure LoadWait where
  rd : Reg
  op : LoadOp
  call : Word
  loc : Loc
  value : Option (Word × Bool)
  timedOut : Bool
  got : List (Nat × Byte × Bool)
  deriving DecidableEq, Repr, Inhabited

/-- Why a thread has not issued the command it was given (03 R74, 04 R159). -/
inductive Stall where
  | none
  | due
  | counter (c : CtrNo) (v : BitVec 32)
  | commands
  | queue
  | fence
  | path
  | tag
  deriving DecidableEq, Repr, Inhabited

/-- A hardware thread (03 R73 to R77). -/
structure Thread where
  running : Bool
  pc : Word
  regs : Sparse Word
  marks : NatSet
  pfx : Option Due
  held : Option (Instr × Nat)
  load : Option LoadWait
  outCmds : Nat
  stall : Stall
  deriving DecidableEq, Repr, Inhabited

/-- A halted thread that no context has started. -/
def Thread.idle : Thread :=
  { running := false, pc := 0, regs := [], marks := [], pfx := none, held := none, load := none,
    outCmds := 0, stall := .none }

/-! Engine commands -/

/-- Who issued a command: thread, context slot and generation, call number of its first word, due stamp,
the stamp at issue, and completion fields. -/
structure Iss where
  t : ThreadNo
  slot : Nat
  gen : Nat
  at_ : Word
  due : Option Nat
  since : Nat
  fin : Done
  deriving DecidableEq, Repr, Inhabited

structure MeCmd where
  iss : Iss
  f : MmaF
  a : Word
  b : Word
  tag : W32
  deriving DecidableEq, Repr, Inhabited

/-- The running ME command: rounding mode in which it began (R57), steps done, emit under way. -/
structure MeRun where
  cmd : MeCmd
  rne : Bool
  k : Nat
  emitting : Bool
  deriving DecidableEq, Repr, Inhabited

/-- A finished accumulator tile in the cart: tag, element encodings by logical index, poisoned elements; `err`: its 8 B
words whose parity is wrong (08 R252), by the number of their first element / 2. -/
structure CartTile where
  tag : W32
  data : Sparse W32
  bad : NatSet
  err : NatSet
  deriving DecidableEq, Repr, Inhabited

structure ChainCmd where
  iss : Iss
  f : ChainF
  src : Word
  out : Word
  desc : Word
  tag : W32
  n : Nat
  deriving DecidableEq, Repr, Inhabited

/-- A stage entry (06 Table 6.2). -/
structure Stg where
  op : Nat
  b : Nat
  c : Nat
  col : Bool
  slip : Nat
  imm0 : W32
  imm1 : W32
  deriving DecidableEq, Repr, Inhabited

/-- A chain descriptor (06 Tables 6.1, 6.2). -/
structure ChainDesc where
  ilay : Bool
  olay : Bool
  first : Bool
  srec : Bool
  fmts : List (BitVec 4)
  slay : List Bool
  routm : BitVec 4
  width : Nat
  side : List Word
  vec0 : Word
  rout : Word
  state : Word
  stages : List Stg
  deriving DecidableEq, Repr, Inhabited

/-- An element as read: its code and its scale code, each with its mark. -/
structure Elem where
  code : Nat
  scale : Nat
  bad : Bool
  sbad : Bool
  deriving DecidableEq, Repr, Inhabited

/-- A chain in the chain unit: the descriptor it read when it started, its cart tile, whether the tile is still being copied
out, the source it has read for its last pass where another chain has started since (R209), passes done and in all, its
remote writes not yet settled, and whether only those keep it (R239); `slipErr`: words of slips whose parity is wrong (08
R252), 8,192 × slip + word. -/
structure ChainRun where
  cmd : ChainCmd
  d : ChainDesc
  src : Option (List Elem)
  slipErr : NatSet
  tile : Option CartTile
  copying : Bool
  pass : Nat
  passes : Nat
  uid : Nat
  unsettled : Nat
  ending : Bool
  deriving DecidableEq, Repr, Inhabited

/-- A transfer descriptor as the TE read it (07 Table 7.1). -/
structure Desc where
  kind : BitVec 4
  fmts : BitVec 4
  fmtd : BitVec 4
  rnd : BitVec 2
  we : Bool
  wctr : CtrNo
  tce : Bool
  tctr : CtrNo
  ttid : BitVec 8
  cop : BitVec 4
  ckind : BitVec 4
  group : BitVec 12
  wval : BitVec 32
  nrow : Nat
  src : Word
  dst : Word
  nelem : Nat
  sstride : Nat
  dstride : Nat
  tag : W32
  shtab : Word
  deriving DecidableEq, Repr, Inhabited

inductive TeWork where
  | copy (f : CopyF) (src dst : Word) (n : Nat) (tag : W32)
  | desc (call : Word)
  | push (stage : Nat) (data : Word) (mb layer : Nat) (len : Nat)
  | pop (stage : Nat) (data : Word) (mb layer : Nat) (len : Nat)
  | free (stage : Nat) (mb layer : Nat)
  deriving DecidableEq, Repr, Inhabited

structure TeCmd where
  iss : Iss
  work : TeWork
  deriving DecidableEq, Repr, Inhabited

/-- Bytes of a remote operand that have arrived for an engine (03 R105). -/
structure RBlock where
  e : Engine
  call : Word
  data : List (Byte × Bool)
  deriving DecidableEq, Repr, Inhabited

/-- What a started TE command does: its data stay on the module, its transactions are on their way, or it
gathers data of another module. -/
inductive TePhase where
  | local_ | sending | gathering
  deriving DecidableEq, Repr, Inhabited

/-- A started TE command: the descriptor it read and whether it is malformed, transactions not yet settled,
time-outs, the Reserve entry it names, for a COLL its place in the group, the shards and its own and the elements still to
arrive and the collective serial, and whether its STATUS word is on its way to another module. `done`: it has completed and
only receives. `got`: the source bytes that have arrived. -/
structure TeRun where
  cmd : TeCmd
  uid : Nat
  d : Option Desc
  bad : Bool
  phase : TePhase
  unsettled : Nat
  tmo : Nat
  entry : Option Nat
  expect : Nat
  cser : Nat
  rank : Nat
  shards : List (Nat × Nat)
  shard : Nat × Nat
  statSent : Bool
  done : Bool
  got : List RBlock
  deriving DecidableEq, Repr, Inhabited

/-- One core (01 Table 1.2, 18 Table 18.11). `capClk`, `tempClk`: the clocks that the power cap and the temperature of its die
call for (01 R26). `accErr`: 8 B words of the accumulators whose parity is wrong (08 R252). `engStop` lists engines told to stop that have not stopped,
with the stamp of the stop; `engRst` engines in reset, with the stamp of its start. `meAt`, `veAt`, `teAt`:
since when the head of each queue could launch (R298). `rbuf`: remote operands that have arrived; `teTmo`: READs that the
descriptor at the head of the TE queue lost to a timeout before it could start (07 R244). -/
structure CoreSt where
  clk : Nat
  clkNext : Option (Nat × Nat)
  capClk : Nat
  tempClk : Nat
  sramce : Nat
  err : Sparse Nat
  meQ : List MeCmd
  meRun : Option MeRun
  acc : Sparse W32
  accBad : NatSet
  accErr : NatSet
  cart : List CartTile
  cartBusy : Nat
  veQ : List ChainCmd
  chains : List ChainRun
  teQ : List TeCmd
  teRun : List TeRun
  tePark : List TeCmd
  engStop : List (Engine × Nat)
  engRst : List (Engine × Nat)
  meAt : Nat
  veAt : Nat
  teAt : Nat
  rbuf : List RBlock
  teTmo : Nat
  deriving DecidableEq, Repr, Inhabited

/-- A core at reset: CORECLK 40 (18 Table 18.11), engines empty, accumulators +0 (04 R128). -/
def CoreSt.init : CoreSt :=
  { clk := 40, clkNext := none, capClk := 40, tempClk := 40, sramce := 0, err := [], meQ := [], meRun := none, acc := [],
    accBad := [], accErr := [], cart := [], cartBusy := 0, veQ := [], chains := [], teQ := [], teRun := [], tePark := [],
    engStop := [], engRst := [], meAt := 0, veAt := 0, teAt := 0, rbuf := [], teTmo := 0 }

/-! Contexts -/

/-- 03 Table 3.1. -/
inductive CtxState where
  | free | created | running | idle | faulted | teardown
  deriving DecidableEq, Repr, Inhabited

/-- 03 Table 3.8. -/
inductive Cause where
  | none | pageFault | poisonConsumed | reserveFull | reserveTag | overdue | jobAbort | escalated
  deriving DecidableEq, Repr, Inhabited

/-- Sub-causes of a page-fault (03 Table 3.8). -/
inductive PageSub where
  | none | notValid | notWritable | notOwned | badSpace | remoteDenied | noTarget | badModule
  deriving DecidableEq, Repr, Inhabited

/-- The registers written at creation (18 R557): CTXCTL, CTXJOB, CTXPTBASE, CSWIN, CTXENTRY, CTXCORES,
CTXSTARTMASK. -/
structure CtxRegs where
  abort : Bool
  keep : Bool
  rnd : Bool
  job : BitVec 16
  ptbase : BitVec 28
  csBase : BitVec 8
  csSize : BitVec 9
  entry : Word
  cores : BitVec 512
  startmask : BitVec 256
  deriving DecidableEq, Repr, Inhabited

def CtxRegs.zero : CtxRegs :=
  { abort := false, keep := false, rnd := false, job := 0, ptbase := 0, csBase := 0, csSize := 0, entry := 0,
    cores := 0, startmask := 0 }

/-- CTXFAULT, CTXFAULTADDR, CTXFAULTSRC (18 Table 18.7). -/
structure FaultRec where
  cause : Cause
  sub : PageSub
  count : Nat
  addr : Word
  src : BitVec 17
  deriving DecidableEq, Repr, Inhabited

/-- Work carrying a due stamp that is not complete (13 R421): D, call number, thread. -/
structure DueWork where
  d : Nat
  at_ : Word
  t : ThreadNo
  deriving DecidableEq, Repr, Inhabited

/-- Overdue monitor registers (13 Table 13.10) and its times. -/
structure Ovd where
  win : Nat
  grace : Nat
  test : Nat
  lastStat : Nat
  lastProgress : Nat
  nextCheck : Nat
  work : List DueWork
  deriving DecidableEq, Repr, Inhabited

/-- Global-norm registers (12 Table 12.4). `part` is the partial formed for a step, `sent` that it has been
launched. -/
structure Gn where
  en : Bool
  skip : Bool
  ttid : BitVec 8
  ctr : CtrNo
  group : BitVec 12
  off : Nat
  area : Word
  len : Nat
  scale : W32
  maxv : W32
  out : Word
  res : Word
  done : Bool
  nonfinite : Bool
  late : Bool
  skipped : Bool
  step : Nat
  part : Option (W32 × Bool × Nat)
  sent : Bool
  deriving DecidableEq, Repr, Inhabited

def Gn.init : Gn :=
  { en := false, skip := false, ttid := 0, ctr := 0, group := 0, off := 0, area := 0, len := 0,
    scale := 0x3F800000#32, maxv := 0, out := 0, res := 0, done := false, nonfinite := false, late := false,
    skipped := false, step := 0, part := none, sent := false }

/-- Bookmark registers of a context (14 Table 14.5); a region is (format, base, length). `lastRemote` is the stamp of the
last remote write it accepted (R454). -/
structure Bm where
  auto : Bool
  hold : Bool
  rgn : Sparse (Nat × Nat × Nat)
  poolList : Word
  poolCount : Nat
  cause : Nat
  lastRemote : Nat
  deriving DecidableEq, Repr, Inhabited

/-- Deposit registers of a context (14 Table 14.5). Slot states: 0 EMPTY, 1 WRITING, 2 COMMITTED. -/
structure Dep where
  holder : BitVec 16
  holder2 : BitVec 16
  k : Nat
  ttid : BitVec 8
  stepNew : Nat
  newestB : Bool
  noholder : Bool
  correlated : Bool
  samefeed : Bool
  abandoned : Bool
  slotA : Nat
  slotB : Nat
  seq : Nat
  partners : Word
  usable : BitVec 4
  deriving DecidableEq, Repr, Inhabited

/-- Collation registers (14 Table 14.5). -/
structure Col where
  key : BitVec 128
  fbmax : Nat
  compared : Nat
  mismatch : Nat
  firstFailed : Nat
  failed : Nat
  clean : Bool
  deriving DecidableEq, Repr, Inhabited

/-- Shadowing registers (14 Table 14.5). -/
structure Shadow where
  modnum : BitVec 16
  role : Nat
  admitted : Bool
  clean : Nat
  failStep : Nat
  deriving DecidableEq, Repr, Inhabited

/-- A KV window (15 R498). -/
structure Kv where
  base : Nat
  len : Nat
  table : Word
  deriving DecidableEq, Repr, Inhabited

/-- An entry of a Reserve's directory (11 R363 to R369), bottom first. `matchable`: its PUSH has completed;
`taken`: a POP or FREE has matched it and not completed. -/
structure REntry where
  id : Nat
  off : Nat
  size : Nat
  len : Nat
  mb : Nat
  layer : Nat
  eds : List (Nat × Bool × Nat)
  live : Bool
  matchable : Bool
  taken : Bool
  deriving DecidableEq, Repr, Inhabited

/-- One Reserve (11 R361). -/
structure Rsv where
  base : Nat
  lim : Nat
  top : Nat
  hwm : Nat
  dir : List REntry
  aside : Nat
  deriving DecidableEq, Repr, Inhabited

def Rsv.init : Rsv := { base := 0, lim := 0, top := 0, hwm := 0, dir := [], aside := 0 }

/-- A tensor of the edition table (11 R372, R373); `waiting` holds the counters of waiting claims. -/
structure Tensor where
  bound : Bool
  stage : Nat
  layer : Nat
  slot0 : Word
  slot1 : Word
  cur : Bool
  edition : BitVec 16
  pin0 : Nat
  pin1 : Nat
  claimed : Bool
  waiting : List CtrNo
  deriving DecidableEq, Repr, Inhabited

def Tensor.unbound : Tensor :=
  { bound := false, stage := 0, layer := 0, slot0 := 0, slot1 := 0, cur := false, edition := 0, pin0 := 0,
    pin1 := 0, claimed := false, waiting := [] }

/-- A pipeline stage (11 R383 to R391): STGCFG words, mode, running unit with its dispatch stamp, dispatch
count, (step, time) samples of the last 20 steps, micro-batches whose forward unit has completed in the step, newest
first, and the turn counter as it stood when the step began. -/
structure Stage where
  cfg0 : Word
  cfg1 : Word
  cfg2 : Word
  turn : Bool
  filled : Bool
  running : Option (Nat × Nat)
  count : Nat
  fwd : List (Nat × Nat)
  bwd : List (Nat × Nat)
  fdone : List Nat
  tbase : W32
  deriving DecidableEq, Repr, Inhabited

def Stage.init : Stage :=
  { cfg0 := 0, cfg1 := 0, cfg2 := 0, turn := false, filled := false, running := none, count := 0, fwd := [],
    bwd := [], fdone := [], tbase := 0 }

/-- What has become of a unit of the step. -/
inductive UnitSt where
  | waiting | running | done | skipped
  deriving DecidableEq, Repr, Inhabited

/-- Scheduler registers of a context (11 Table 11.7). `units`: what has become of the units of the step; `keep`: forward
units dispatched with KEEP; `started`: dispatch of the step has begun (14 R453); `notices`: members whose switch notice is
not acknowledged, with the stamp of its send (R399); `since`: steps of the live variant still to be measured before
another switch (R398); `evald`: one more than the step in which the reports were last evaluated. -/
structure Sched where
  mode : Nat
  plan : Sparse (Word × Nat)
  varcur : Nat
  varmask : BitVec 4
  varstby : Nat
  note : Option (Nat × Nat × Nat)
  gpool : Nat
  gkept : Nat
  imbthr : Nat
  stragthr : Nat
  coordArea : Word
  coordRank : Nat
  stept0 : Nat
  stepper : Nat
  stages : Sparse Stage
  units : Sparse UnitSt
  keep : NatSet
  started : Bool
  notices : List (Nat × Nat)
  since : Nat
  evald : Nat
  deriving DecidableEq, Repr, Inhabited

def Sched.init : Sched :=
  { mode := 0, plan := [], varcur := 0, varmask := 1, varstby := 0, note := none, gpool := 0, gkept := 0,
    imbthr := 0, stragthr := 0, coordArea := 0, coordRank := 0, stept0 := 0, stepper := 0, stages := [],
    units := [], keep := [], started := false, notices := [], since := 0, evald := 0 }

/-- The schedule state that a bookmark saves (11 R401; 14 R450). -/
structure SchedImg where
  rsv : Sparse Rsv
  tensors : Sparse Tensor
  sched : Sched
  stepnum : W32
  ctrs : Sparse W32
  deriving DecidableEq, Repr, Inhabited

/-- Who a fabric transaction answers to: `lib` is the Librarian's own remote write for a context, which nothing awaits;
`dep` and `fill` are the writes of a deposit of a job and of a fill by a partition, by their serial; `copy` is what the port
dies copy to a shadow (14 R481). -/
inductive Who where
  | store (t : ThreadNo)
  | load (t : ThreadNo)
  | te (core uid : Nat)
  | chain (core uid : Nat)
  | eng (core : Nat) (e : Engine) (call : Word)
  | gn
  | lib
  | notice (m : BitVec 16)
  | dep (job : BitVec 16) (uid : Nat)
  | fill (p uid : Nat)
  | copy
  deriving DecidableEq, Repr, Inhabited

/-- The Librarian's own traffic for deposits, fills and notices, and copies to a shadow: no access of a context. -/
def Who.quiet (w : Who) : Bool :=
  match w with
  | .notice _ => true
  | .dep _ _ => true
  | .fill _ _ => true
  | .copy => true
  | _ => false

/-- An outstanding fabric transaction and its tag (07 R241). -/
structure Flight where
  core : Nat
  slot : Nat
  gen : Nat
  who : Who
  x : Txn
  sent : Option Nat
  deriving DecidableEq, Repr, Inhabited

/-- A page-table fence in progress (03 R100): who waits for it, and what it must wait for: writes that no memory controller
has accepted, loads and atomics of threads, transactions with a tag and transactions that still wait for one. -/
structure Fence where
  thread : Option ThreadNo
  ctr : Option CtrNo
  writes : List Nat
  loads : List ThreadNo
  tags : List (Nat × Nat)
  waits : List Flight
  deriving DecidableEq, Repr, Inhabited

/-- One context slot: Table 18.7. -/
structure Ctx where
  state : CtxState
  gen : BitVec 10
  part : Nat
  r : CtxRegs
  keystamp : Nat
  fault : FaultRec
  errsum : BitVec 32
  errtag : Sparse (Bool × W32)
  srseed : Word
  stepnum : W32
  remtmo : W32
  ovd : Ovd
  ctrs : Sparse W32
  fences : List Fence
  grplist : Word
  grpDone : Bool
  grpRefused : Bool
  gn : Gn
  bm : Bm
  dep : Dep
  col : Col
  shadow : Shadow
  kv : Sparse Kv
  sched : Sched
  rsv : Sparse Rsv
  edtbase : Word
  tensors : Sparse Tensor
  /-- Bytes of a schedule image that a fill sends (14 R470), each plus one. -/
  img : Sparse Nat
  /-- Stamp of step 1 of the teardown, the command that began it, KEEP as sampled then, and transactions
  settled by timeout since (13 R430, 18 R558, 08 R273). -/
  tdAt : Nat
  tdCmd : Nat
  tdKeep : Bool
  tdTmo : Nat
  deriving DecidableEq, Repr, Inhabited

/-- A slot that has never held a context; also the register values of 18 Table 18.7 at creation. -/
def Ctx.init : Ctx :=
  { state := .free, gen := 0, part := 0, r := CtxRegs.zero, keystamp := 0,
    fault := { cause := .none, sub := .none, count := 0, addr := 0, src := 0 }, errsum := 0, errtag := [],
    srseed := 0, stepnum := 0, remtmo := 0,
    ovd := { win := 200, grace := 200000, test := 0, lastStat := 0, lastProgress := 0, nextCheck := 0,
             work := [] },
    ctrs := [], fences := [], grplist := 0, grpDone := false, grpRefused := false, gn := Gn.init,
    bm := { auto := false, hold := false, rgn := [], poolList := 0, poolCount := 0, cause := 0, lastRemote := 0 },
    dep := { holder := 0, holder2 := 0, k := 0, ttid := 0, stepNew := 0, newestB := false, noholder := false,
             correlated := false, samefeed := false, abandoned := false, slotA := 0, slotB := 0, seq := 0,
             partners := 0, usable := 0 },
    col := { key := 0, fbmax := 4096, compared := 0, mismatch := 0, firstFailed := 0, failed := 0,
             clean := false },
    shadow := { modnum := 0, role := 0, admitted := false, clean := 0, failStep := 0 }, kv := [],
    sched := Sched.init, rsv := [], edtbase := 0, tensors := [], img := [], tdAt := 0, tdCmd := 0, tdKeep := false, tdTmo := 0 }

/-! Partitions and loans -/

/-- 15 Table 15.1. -/
inductive LoanSt where
  | closed | opening | open_ | closing
  deriving DecidableEq, Repr, Inhabited

/-- Creation area request (18 Table 18.8). -/
inductive AreaSt where
  | none | pending | done | refused
  deriving DecidableEq, Repr, Inhabited

/-- The creation area (18 R557). -/
structure Area where
  st : AreaSt
  slot : Nat
  gen : Nat
  refuse : Nat
  r : CtxRegs
  keyE : BitVec 256
  keyW : BitVec 256
  keyT : BitVec 128
  by_ : Nat
  deriving DecidableEq, Repr, Inhabited

/-- A co-signed loan record (16 Table 16.3). -/
structure Cosigned where
  lr : LoanRec
  mtime : Nat
  mseq : Nat
  energy : Nat
  duration : Nat
  rep : Bool
  tampered : Bool
  unsynced : Bool
  suspended : Bool
  notopen : Bool
  msig : BitVec 512
  deriving DecidableEq, Repr, Inhabited

/-- A partition block (18 Table 18.5). `rst` is the phase of a reset with the stamp of its start;
`closeReq`: a CLOSE written during OPENING (R491); `closeAt` the stamp of the first close record; `fillLeft`: writes of the
fill `fillUid` that are not settled. -/
structure Part where
  bind : BitVec 4
  rst : Nat
  rstAt : Nat
  rstTrig : Nat
  throt : Nat
  loanid : Word
  tenant : Word
  st : LoanSt
  role : BitVec 2
  secure : Bool
  refuse : Nat
  metercode : Nat
  closecause : Nat
  loanrec : Option Cosigned
  openRec : Option LoanRec
  openAt : Nat
  openedAt : Nat
  closeReq : Bool
  closeRec : Option LoanRec
  closeAt : Nat
  closeSent : Nat
  closeLogged : Nat
  keyNo : Option Nat
  area : Area
  dep0 : Word
  depmod : BitVec 16
  depjob : BitVec 16
  depFirst : Nat
  depCount : Nat
  fill0 : Word
  fillSpare : BitVec 16
  fillJob : BitVec 16
  fillKind : Nat
  fillStep : Nat
  fillPages : Nat
  fillCause : Nat
  fillSt : Nat
  fillUid : Nat
  fillLeft : Nat
  deriving DecidableEq, Repr, Inhabited

def Area.init : Area :=
  { st := .none, slot := 0, gen := 0, refuse := 0, r := CtxRegs.zero, keyE := 0, keyW := 0, keyT := 0, by_ := 0 }

/-- Partition block at module reset, binding aside. -/
def Part.init (bind : BitVec 4) : Part :=
  { bind := bind, rst := 0, rstAt := 0, rstTrig := 0, throt := 0, loanid := 0, tenant := 0, st := .closed,
    role := 0, secure := false, refuse := 0, metercode := 0, closecause := 0, loanrec := none, openRec := none,
    openAt := 0, openedAt := 0, closeReq := false, closeRec := none, closeAt := 0, closeSent := 0,
    closeLogged := 0, keyNo := none, area := Area.init, dep0 := 0, depmod := 0, depjob := 0, depFirst := 0,
    depCount := 0, fill0 := 0, fillSpare := 0, fillJob := 0, fillKind := 0, fillStep := 0, fillPages := 0,
    fillCause := 0, fillSt := 0, fillUid := 0, fillLeft := 0 }

/-! Host side -/

/-- A host queue (17 R527, R556): ring words, head, tail, fetched entries with their index and state
(0 fetched, 1 done and waiting for its completion entry with status and sub-cause). -/
structure HQ where
  sub : Word
  comp : Word
  en : Bool
  ien : Bool
  log2 : Nat
  head : Nat
  tail : Nat
  written : Nat
  fetched : List (Nat × QEntry × Option (Nat × Nat))
  deriving DecidableEq, Repr, Inhabited

def HQ.init : HQ :=
  { sub := 0, comp := 0, en := false, ien := false, log2 := 0, head := 0, tail := 0, written := 0, fetched := [] }

/-- One loan of a signed snapshot (16 Table 16.5). -/
structure SnapLoan where
  loanid : Word
  tenant : Word
  mtime : Nat
  duration : Nat
  energy : Nat
  part : BitVec 3
  dies : BitVec 8
  role : BitVec 2
  suspended : Bool
  deriving DecidableEq, Repr, Inhabited

/-- A signed snapshot (16 Table 16.5). -/
structure Snap where
  mseq : Nat
  mtime : Nat
  total : Nat
  unattr : Nat
  tampered : Bool
  unsynced : Bool
  idpub : BitVec 256
  loans : List SnapLoan
  sig : BitVec 512
  deriving DecidableEq, Repr, Inhabited

/-- Answer of the meter in MTRDATA (16 R516). -/
inductive MtrData where
  | none
  | snapshot (s : Snap)
  | logEntry (c : Option Cosigned)
  deriving DecidableEq, Repr, Inhabited

/-- A quote (15 Table 15.5). -/
structure Quote where
  modnum : BitVec 16
  inc : BitVec 32
  stamp : Nat
  logdig : BitVec 512
  chal : BitVec 256
  loandig : BitVec 512
  loglen : Nat
  sig : BitVec 512
  deriving DecidableEq, Repr, Inhabited

/-- A function block (18 Table 18.4) and the function's host-side state. -/
structure Func where
  stamphi : BitVec 32
  bar4win : BitVec 28
  queues : Sparse HQ
  mtrReq : Option (Nat × Nat)
  mtrdata : MtrData
  chal : BitVec 256
  quote : Option Quote
  d3hot : Bool
  ide : Bool
  flr : Option Nat
  deriving DecidableEq, Repr, Inhabited

def Func.init : Func :=
  { stamphi := 0, bar4win := 0, queues := [], mtrReq := none, mtrdata := .none, chal := 0, quote := none,
    d3hot := false, ide := false, flr := none }

/-! Fabric -/

/-- 10 Table 10.5. -/
inductive PortSt where
  | down | training | miswire | up | peerFenced | fencing
  deriving DecidableEq, Repr, Inhabited

/-- A frame as a port sends it (10 R322 to R324, R360); `frac`: the eighths of a nanosecond beyond the stamp at which a sync
crosses the port (09 R292). -/
inductive Frame where
  | tx (x : Txn)
  | idle
  | replay (expseq : Nat)
  | status (b : StatusB)
  | sync (seqid : Nat) (frac : BitVec 3)
  | followup (isResp : Bool) (seqid : Nat) (t8 : Nat)
  | delayreq (seqid : Nat)
  | delayresp (seqid : Nat) (t8 : Nat)
  | fault (b : FaultB)
  | fenced (b : FencedB)
  deriving DecidableEq, Repr, Inhabited

/-- Where a transaction at an output port comes from (10 R329): an incoming port with its channel and the training in which it
came, a compute die, or the port dies themselves. -/
inductive Inp where
  | port (n vc era : Nat)
  | die (d : Nat)
  | unit
  deriving DecidableEq, Repr, Inhabited

/-- What a transaction at an output port is to this module: forwarded, one that holds a tag, a combined transaction by its
identifier, an acknowledgement or reply, a copy of a broadcast. -/
inductive OutOwn where
  | fwd
  | flight
  | comb (id : Nat)
  | reply
  | copy
  deriving DecidableEq, Repr, Inhabited

/-- A transaction waiting at an output port: the stamp since which its issuer's 2 ms run (for a forwarded
one, of its arrival), and when it became ready. -/
structure OutTx where
  x : Txn
  since : Nat
  ready : Nat
  inp : Inp
  own : OutOwn
  deriving DecidableEq, Repr, Inhabited

/-- A fabric port (10, 18 Table 18.12, 18.13). `lanesUp`: every lane has trained; `slotUse` is (slot start, transactions sent
in it); `missFrame`, `missCount`: the frame in which TTMISS last rose and by how much. `resend`: frames still to be sent again
since a REPLAY at `resendAt`; `fq`: FAULT frames that wait; `rxq`: transactions in the receive buffers with the training `era`
in which they came; `owed`: credits to return; `crTurn`: the channel whose credits were returned last; `wireB`: where the last
frame ends, in bytes since stamp 0; `clsTurn`, `inTurn`: the class and, by channel, the input served last (R329); `syncSeq`,
`syncFrame`: the next exchange and one more than the frame of the last; `reqSent`: the last DELAYREQ and its send stamp in
eighths; `statusAt`: one more than the stamp of the last STATUS asked for. -/
structure Port where
  st : PortSt
  peerport : Nat
  peermod : BitVec 16
  peerInc : BitVec 32
  peerRun : Bool
  lanefail : BitVec 16
  detour : Bool
  linkasym : Int
  linkdelay : Nat
  ttmiss : Nat
  missFrame : Nat
  missCount : Nat
  fabauth : Nat
  txSeq : Nat
  rxSeq : Nat
  replay : List (Nat × Frame)
  resend : List (Nat × Frame)
  resendAt : Nat
  replayAsked : Nat × Nat
  credit : Sparse Nat
  owed : Sparse Nat
  crTurn : Nat
  fq : List FaultB
  cq : List Frame
  oq : List OutTx
  rxq : List (Txn × Nat)
  era : Nat
  lastRx : Nat
  lastTx : Nat
  wireB : Nat
  lanesUp : Bool
  firstDone : Bool
  slotUse : Nat × Nat
  clsTurn : Sparse Nat
  inTurn : Sparse Nat
  syncSeq : Nat
  syncFrame : Nat
  reqSent : Option (Nat × Nat)
  statusAt : Nat
  deriving DecidableEq, Repr, Inhabited

def Port.init : Port :=
  { st := .down, peerport := 0, peermod := 0, peerInc := 0, peerRun := false, lanefail := 0, detour := false,
    linkasym := 0, linkdelay := 0, ttmiss := 0, missFrame := 0, missCount := 0, fabauth := 0, txSeq := 0,
    rxSeq := 0, replay := [], resend := [], resendAt := 0, replayAsked := (0, 0), credit := [], owed := [], crTurn := 0,
    fq := [], cq := [], oq := [], rxq := [], era := 0, lastRx := 0, lastTx := 0, wireB := 0, lanesUp := false,
    firstDone := false, slotUse := (0, 0), clsTurn := [], inTurn := [], syncSeq := 0, syncFrame := 0, reqSent := none,
    statusAt := 0 }

/-- A reduction slot (10 R346): key, sums and poison of its elements, events, contributions, expectation. -/
structure RSlot where
  job : BitVec 16
  coll : CollH
  sums : List W32
  bad : List Bool
  ev : Events
  contrib : Nat
  expect : Nat
  opened : Nat
  ttid : BitVec 8
  deriving DecidableEq, Repr, Inhabited

/-- A combined transaction that waits for its acknowledgement (10 R348): its identifier, and the stamp from which its 2 ms run,
once it has left or was discarded. -/
structure Comb where
  id : Nat
  x : Txn
  sent : Option Nat
  deriving DecidableEq, Repr, Inhabited

/-- Port-die block (18 Table 18.12) with its reduction unit and NONCE counters by job. -/
structure PortDie where
  detdrop : Nat
  unittmo : Nat
  slots : List RSlot
  combs : List Comb
  nonces : Sparse Nat
  deriving DecidableEq, Repr, Inhabited

def PortDie.init : PortDie := { detdrop := 0, unittmo := 0, slots := [], combs := [], nonces := [] }

/-- A bound collective group (10 R343). -/
structure Group where
  slot : Nat
  job : BitVec 16
  id : BitVec 12
  members : List (BitVec 16)
  cser : Nat
  deriving DecidableEq, Repr, Inhabited

/-- A MOVE with TCE whose WRITEs come in: its module, context and serial, and how many of them are visible (07 R228). -/
structure MoveIn where
  src : BitVec 16
  slot : BitVec 6
  gen : BitVec 10
  no : Nat
  got : Nat
  deriving DecidableEq, Repr, Inhabited

/-- Fabric state of the module (07 R241 to R243; 10); `moves`: MOVEs with TCE of which some WRITEs are visible here. -/
structure Fab where
  tagInc : Sparse (BitVec 6)
  flights : List Flight
  waiting : List Flight
  turn : Nat
  groups : List Group
  seen : List (Nat × Nat × Nat)
  serial : Nat
  failedPairs : List (Nat × Nat)
  jobKeys : List (BitVec 16 × BitVec 256 × Nat)
  uid : Nat
  moves : List MoveIn
  deriving DecidableEq, Repr, Inhabited

/-! Memory control -/

/-- A stripe block (18 Tables 18.14, 18.15); `hist` holds (channel, stamp, corrected symbols) of the last
24 h (R263). -/
structure Stripe where
  memce : Sparse Nat
  thr : Nat
  second : Nat
  degraded : Bool
  retired : Option Nat
  memue : Nat
  scrub : Nat
  hist : List (Nat × Nat × Nat)
  deriving DecidableEq, Repr, Inhabited

def Stripe.init : Stripe :=
  { memce := [], thr := 4096, second := 15, degraded := false, retired := none, memue := 0, scrub := 0,
    hist := [] }

/-- A local write no memory path has accepted: bytes by physical address, its mark, the thread and the context
(07 R247). -/
structure PWrite where
  uid : Nat
  t : ThreadNo
  slot : Nat
  gen : Nat
  items : List (Nat × Byte)
  bad : Bool
  call : Word
  deriving DecidableEq, Repr, Inhabited

/-- A write that waits at a copy-on-write copy (14 R455): context and virtual page, and the remote
transaction or engine command that waits is presented again. -/
structure CowWait where
  slot : Nat
  vpn : Nat
  deriving DecidableEq, Repr, Inhabited

/-- A deposit in progress (13 R445; 14 R461): its slot (B: true), its serial, the writes not yet acknowledged, and the writes
that wait: those of the body, and those of the new header. -/
structure DepRun where
  b : Bool
  uid : Nat
  left : Nat
  body : List Flight
  head : List Flight
  deriving DecidableEq, Repr, Inhabited

/-- A bookmark (14 R450): job, partition, step, copies (virtual page, frame), flags, the saved schedule
state (11 R401), page-table base, regions, and the deposit being made from it. -/
structure Bookmark where
  job : BitVec 16
  part : Nat
  step : Nat
  copies : List (Nat × Nat)
  lost : Bool
  mixed : Bool
  rsv : Sparse Rsv
  tensors : Sparse Tensor
  sched : Sched
  stepnum : W32
  ctrs : Sparse W32
  ptbase : BitVec 28
  regions : Sparse (Nat × Nat × Nat)
  dep : Option DepRun
  deriving DecidableEq, Repr, Inhabited

/-- The schedule state of a bookmark. -/
def Bookmark.img (b : Bookmark) : SchedImg :=
  { rsv := b.rsv, tensors := b.tensors, sched := b.sched, stepnum := b.stepnum, ctrs := b.ctrs }

/-! Librarian -/

/-- A ledger entry (13 Table 13.7). -/
structure Entry where
  seq : Nat
  stamp : Nat
  code : Nat
  sev : Nat
  scope : Nat
  part : Nat
  src : Nat
  slot : Nat
  gen : Nat
  job : BitVec 16
  data : List Word
  deriving DecidableEq, Repr, Inhabited

structure Ledger where
  head : Nat
  entries : List Entry
  deriving DecidableEq, Repr, Inhabited

/-- Messages to the tray controller (17 Table 17.7). -/
inductive Tray where
  | renew (seq : Nat) (modnum : BitVec 16) (inc : BitVec 32) (stamp : Nat)
  | log (e : Entry)
  | ready
  | fenced
  | replace (die stripe : Nat)
  | outOfBound
  | ring (axis : Nat)
  deriving DecidableEq, Repr, Inhabited

/-- Completions the host sees of its own requests. -/
inductive HostOut where
  | irq (f : Nat) (vector : Nat)
  | stamplo (f : Nat) (v : BitVec 32)
  | data (f : Nat) (bytes : List Byte) (ep : Bool)
  | unsupported (f : Nat)
  | aer (f : Nat) (poisonedTlp : Bool)
  | dma (f : Nat) (addr : Word) (bytes : List Byte) (ep : Bool)
  | completion (f q : Nat) (cmdid : BitVec 32) (sqhead status sub : Nat) (phase : Bool)
  deriving DecidableEq, Repr, Inhabited

/-- A frame as it left a port (10 R322): its envelope, and the bytes of the envelope and of the header or control body behind
it. -/
structure Sent where
  port : Nat
  seq : Nat
  ackseq : Nat
  crvc : Nat
  crcnt : Nat
  ctl : Bool
  frame : Frame
  bytes : List Byte
  deriving DecidableEq, Repr, Inhabited

/-- What the module has put on its wires. -/
structure Out where
  host : List HostOut
  tray : List Tray
  sent : List Sent
  deriving DecidableEq, Repr, Inhabited

/-- RENEWSTAT states (18 Table 18.2). -/
inductive LeaseSt where
  | none | held | fenced
  deriving DecidableEq, Repr, Inhabited

/-- Lease, lapse notices and declarations (13 R438 to R443). -/
structure Lease where
  st : LeaseSt
  inc : BitVec 32
  resets : Nat
  s : Nat
  seq : Nat
  last : Nat
  sent : List (Nat × Nat)
  notices : List (BitVec 16 × BitVec 32 × Nat)
  seenInc : List (BitVec 16 × BitVec 32)
  dead : List (BitVec 16 × BitVec 32)
  deadCount : Nat
  lastDead : BitVec 16
  fencedAt : Nat
  deriving DecidableEq, Repr, Inhabited

/-- Alignment states (09 Table 9.1). -/
inductive Align where
  | unaligned | coarse | aligned | holdover
  deriving DecidableEq, Repr, Inhabited

/-- Stamp and alignment (09). Times of the exchange in progress are in eighths of a nanosecond. `rate8` is the correction of the
module's rate, in eighths of a nanosecond per exchange period, `rateAcc` what of it is not applied yet; `slew8` is the offset
still to be removed, and `slewWait` the reference nanoseconds before another count may be added or withheld (R288). -/
structure Time where
  now : Nat
  align : Align
  everAligned : Bool
  run : Nat
  offset8 : Int
  parent : Nat
  outOfBound : Bool
  seqid : Nat
  t1 : Option Nat
  t2 : Option Nat
  t4 : Option Nat
  t5 : Option Nat
  t6 : Option Nat
  lastHeard : Nat
  lastTry : Nat
  slew8 : Int
  slewWait : Nat
  rate8 : Int
  rateAcc : Int
  deriving DecidableEq, Repr, Inhabited

/-- Slot maps and switches (09 R308 to R313); an entry is (VALID, JOB, TTID), keyed 256 × port + 128 × bank
+ slot. `pend` is (bank, frame taking effect). -/
structure Tt where
  maps : Sparse (Bool × BitVec 16 × BitVec 8)
  live : Bool
  pend : Option (Bool × Nat)
  lastFrame : Nat
  cause : Nat
  port : Nat
  deriving DecidableEq, Repr, Inhabited

/-- Power manager (01): cap in W, samples (stamp, mW) of the last 1 ms, temperatures; `rtrClk`, `netClk`: the cluster-router and
die-network clocks of a die in sixteenths of nominal (R26); `ran`, `awake`: cores that ran a context, and that had a thread
which was not stalled, since the last decision (R25). -/
structure Pm where
  cap : Nat
  samples : List (Nat × Nat)
  lastDec : Nat
  tDie : Sparse Nat
  tPort : Nat
  tLpddr : Nat
  tOptical : Nat
  rtrClk : Sparse Nat
  netClk : Sparse Nat
  ran : NatSet
  awake : NatSet
  refresh2x : Bool
  throtAt : Nat
  deriving DecidableEq, Repr, Inhabited

inductive BootSt where
  | window | checking | running
  deriving DecidableEq, Repr, Inhabited

/-- Power, pins and boot (17). `inReset`: held in module reset; `rstTrig` what began it. -/
structure Boot where
  rails : Bool
  pwrEn : Bool
  pwrGood : Bool
  rstN : Bool
  perstN : Bool
  trip : Bool
  refclk : Bool
  inReset : Bool
  rstTrig : Nat
  rstAt : Nat
  ctxLost : Nat
  st : BootSt
  cause : Nat
  attempts : Nat
  store : List Host.Cell
  lib : Bool
  spdm : Bool
  trained : Bool
  renewed : Bool
  catalogue : Bool
  ready : Bool
  numvfs : Nat
  identity : Bool
  powerUps : Nat
  restartClose : Bool
  sriovOff : Option Nat
  deriving DecidableEq, Repr, Inhabited

/-- Catalogue (17 R546): published, accepted or not, enabled, words held. -/
structure Cat where
  pub : BitVec 256
  published : Bool
  accepted : Bool
  held : BitVec 256
  en : BitVec 256
  deriving DecidableEq, Repr, Inhabited

/-- Attestation log (15 R501), oldest first, its running digest, and the key store's fingerprints (R496). -/
structure Att where
  log : List (BitVec 512)
  running : BitVec 512
  prints : List (Word × Nat)
  transport : Nat
  deriving DecidableEq, Repr, Inhabited

/-- The module without its meter. `sumBad`: regions whose summary word was lost, with the frames of each not cleared since as
a mask (08 R275). State of the memories' own, which no command sets: `dramErr`, wrong symbols of granules as (beat, symbol,
error); `chanErr`, what a faulty channel adds to each beat; `sramErr`, wrong bits of 8 B words; `trainBad`, channels that fail
training (R263), 16 × stripe + channel. `hidKey`: the key of the hidden frames (R284). -/
structure Module where
  boot : Boot
  time : Time
  topo : TopoB
  fabKey : Option (BitVec 256)
  threads : Sparse Thread
  cores : Sparse CoreSt
  csce : Sparse Nat
  ctxs : Sparse Ctx
  parts : Sparse Part
  layout : BitVec 24
  funs : Sparse Func
  ports : Sparse Port
  pds : Sparse PortDie
  fab : Fab
  stripes : Sparse Stripe
  mem : List Host.Cell
  valid : NatSet
  summary : Sparse Nat
  sumBad : Sparse Nat
  bad : NatSet
  dramErr : Sparse (List (Nat × Nat × Nat))
  chanErr : Sparse Nat
  sramErr : Sparse Nat
  trainBad : NatSet
  hidKey : Nat
  tlb : Sparse Word
  writes : List PWrite
  cows : List CowWait
  ledger : Ledger
  lease : Lease
  cat : Cat
  tt : Tt
  pm : Pm
  att : Att
  bms : List Bookmark
  out : Out
  draw : Nat
  deriving DecidableEq, Repr, Inhabited

/-! The Circulation Meter -/

/-- A loan the meter holds open or SUSPENDED (16 R508, R513). Energy in eighths of a microjoule. -/
structure MLoan where
  co : Cosigned
  energy : Nat
  duration : Nat
  suspended : Bool
  deriving DecidableEq, Repr, Inhabited

/-- What a commit holds (16 R513). -/
structure Commit where
  seq : Nat
  mtime : Nat
  mseq : Nat
  total : Nat
  unattr : Nat
  loans : List MLoan
  paired : Bool
  idpub : BitVec 256
  tampered : Bool
  log : List Cosigned
  closed : List Cosigned
  opened : List Word
  deriving DecidableEq, Repr, Inhabited

/-- Meter events of its event log (16 R520). -/
inductive MEvent where
  | powerUp | paired | timeSet | tamper
  deriving DecidableEq, Repr, Inhabited

/-- Answers on the RS-485 port (16 Table 16.5). -/
inductive MReply where
  | id (serial : Word) (ver : BitVec 8) (dig : BitVec 512) (pub : BitVec 256)
  | snap (d : MtrData)
  | log (c : Option Cosigned)
  | ok
  | refused
  | event (e : Option MEvent)
  deriving DecidableEq, Repr, Inhabited

/-- The Circulation Meter (16). Powers in mW; energies in eighths of a microjoule (mW × ms × 8); `ticks` is
the time base in ms, `sub` the nanoseconds of the present one; `sets` lists (tick, ms moved) of SET_TIMEs. -/
structure Meter where
  powered : Bool
  mtime : Nat
  ticks : Nat
  sub : Nat
  unsynced : Bool
  firstSet : Bool
  sets : List (Nat × Nat)
  tampered : Bool
  paired : Bool
  idpub : BitVec 256
  address : Byte
  entry : Nat
  dies : List Nat
  accEntry : Nat
  accDies : List Nat
  total : Nat
  unattr : Nat
  loans : List MLoan
  queue : List LoanRec
  mseq : Nat
  log : List Cosigned
  closed : List Cosigned
  opened : List Word
  events : List MEvent
  slotA : Option Commit
  slotB : Option Commit
  replies : List MReply
  deriving DecidableEq, Repr, Inhabited

/-- What the meter sends the Librarian over the meter link (16 R509). -/
inductive MAnswer where
  | cosigned (c : Cosigned)
  | refused (lr : LoanRec) (code : Nat)
  | list (cs : List Cosigned)
  deriving DecidableEq, Repr, Inhabited

/-- What the Librarian sends the meter: loan records (R509) and the list request (R511). -/
inductive MRequest where
  | record (lr : LoanRec)
  | list
  deriving DecidableEq, Repr, Inhabited

/-- The whole block: the module, its meter, the meter link both ways, and the waiting commands, first in
first out. -/
structure State where
  mod : Module
  meter : Meter
  toMeter : List MRequest
  fromMeter : List MAnswer
  pending : List Instr
  deriving DecidableEq, Repr, Inhabited

/-! Reset -/

def Boot.init : Boot :=
  { rails := true, pwrEn := true, pwrGood := true, rstN := true, perstN := true, trip := false, refclk := true,
    inReset := false, rstTrig := 4, rstAt := 0, ctxLost := 0, st := .window, cause := 0, attempts := 0,
    store := [], lib := false, spdm := false, trained := false, renewed := false,
    catalogue := false, ready := false, numvfs := 0, identity := true, powerUps := 0, restartClose := false,
    sriovOff := none }

def Time.init : Time :=
  { now := 0, align := .unaligned, everAligned := false, run := 0, offset8 := 0, parent := 0,
    outOfBound := false, seqid := 0, t1 := none, t2 := none, t4 := none, t5 := none, t6 := none, lastHeard := 0,
    lastTry := 0, slew8 := 0, slewWait := 0, rate8 := 0, rateAcc := 0 }

def Topo.init : TopoB :=
  { lens := { t := 1, s := 1, e := 1, p := 1, d := 1 }, coord := { t := 0, s := 0, e := 0, p := 0, d := 0 },
    timekeeper := false, parents := [], rack := 0, linkasym := [], feeds := [] }

def Fab.init : Fab :=
  { tagInc := [], flights := [], waiting := [], turn := 0, groups := [], seen := [], serial := 0,
    failedPairs := [], jobKeys := [], uid := 0, moves := [] }

def Lease.init : Lease :=
  { st := .none, inc := Config.incarnation 0, resets := 0, s := 0, seq := 0, last := 0, sent := [],
    notices := [], seenInc := [], dead := [], deadCount := 0, lastDead := 0, fencedAt := 0 }

def Tt.init : Tt := { maps := [], live := false, pend := none, lastFrame := 0, cause := 0, port := 0 }

def Pm.init : Pm :=
  { cap := 6000, samples := [], lastDec := 0, tDie := [], tPort := 0, tLpddr := 0, tOptical := 0,
    rtrClk := [], netClk := [], ran := [], awake := [], refresh2x := false, throtAt := 0 }

def Cat.init : Cat := { pub := 0, published := false, accepted := false, held := 0, en := 0 }

def Att.init : Att := { log := [], running := 0, prints := [], transport := 0 }

def Module.reset : Module :=
  { boot := Boot.init, time := Time.init, topo := Topo.init, fabKey := none, threads := [], cores := [],
    csce := [], ctxs := [], parts := [(0, Part.init 0)], layout := 0, funs := [], ports := [], pds := [],
    fab := Fab.init, stripes := [], mem := [], valid := [], summary := [], sumBad := [], bad := [],
    dramErr := [], chanErr := [], sramErr := [], trainBad := [], hidKey := 0, tlb := [], writes := [], cows := [],
    ledger := { head := 0, entries := [] }, lease := Lease.init, cat := Cat.init, tt := Tt.init, pm := Pm.init,
    att := Att.init, bms := [], out := { host := [], tray := [], sent := [] }, draw := 0 }

/-- The meter as it leaves the factory (16 R519), powered. -/
def Meter.reset : Meter :=
  { powered := true, mtime := 0, ticks := 0, sub := 0, unsynced := true, firstSet := false, sets := [],
    tampered := false, paired := false, idpub := 0, address := 0, entry := 0, dies := List.replicate 8 0,
    accEntry := 0, accDies := List.replicate 8 0, total := 0, unattr := 0, loans := [], queue := [], mseq := 0,
    log := [], closed := [], opened := [], events := [], slotA := none, slotB := none, replies := [] }

/-- Right after reset. -/
def State.reset : State :=
  { mod := Module.reset, meter := Meter.reset, toMeter := [], fromMeter := [], pending := [] }

end Sys2Proof.Machine

namespace Sys2Proof.Config

/-- The bytes of a schedule image and the state that its bytes give; 14 R462 bounds its size and gives no layout. -/
opaque schedBytes : Sys2Proof.Machine.SchedImg → List Byte
opaque schedOf : List Byte → Sys2Proof.Machine.SchedImg

/-- What an act of 03 Table 3.10 makes of state within its scope (R119), by draw: any bytes with their marks, threads, cores,
counters, Reserves and editions, transactions sent to the job's other contexts; and any module, for an act whose scope is
the whole module. -/
opaque wildBytes : Nat → List (Nat × Byte × Bool)
opaque wildThreads : Nat → List (ThreadNo × Sys2Proof.Machine.Thread)
opaque wildCores : Nat → List (Nat × Sys2Proof.Machine.CoreSt)
opaque wildCtrs : Nat → List (Nat × W32)
opaque wildRsv : Nat → List (Nat × Sys2Proof.Machine.Rsv)
opaque wildTensors : Nat → List (Nat × Sys2Proof.Machine.Tensor)
opaque wildSends : Nat → List Txn
opaque wildCtx : Nat → Sys2Proof.Machine.Ctx
opaque wildPart : Nat → Sys2Proof.Machine.Part
opaque wildModule : Nat → Sys2Proof.Machine.Module

end Sys2Proof.Config
end

