-- ==== Sys2Proof/Machine/Ops.lean ====
section
/-! DEFINITION. The named operations over the state: reading and changing one thread, core, context,
partition, function, port or stripe; the ledger, interrupts and tray messages; free values; who owns what. -/

namespace Sys2Proof.Machine

/-- The module's logic runs: rails on and no module reset held (17 R534, R538). -/
def Module.on (m : Module) : Bool := m.boot.rails && !m.boot.inReset

/-- The Librarian runs (17 R542). -/
def Module.lib (m : Module) : Bool := m.on && m.boot.lib

/-- A command that acts on the module: nothing happens to a module whose logic does not run (R534). -/
def lift (f : Module → Module) (s : State) : Host.Outcome State Fault Refusal :=
  .next (if s.mod.on then { s with mod := f s.mod } else s)

/-- A command that the Librarian carries out. -/
def liftL (f : Module → Module) (s : State) : Host.Outcome State Fault Refusal :=
  lift (fun m => if m.boot.lib then f m else m) s

/-! Access to the parts -/

namespace Module

def thread (m : Module) (t : ThreadNo) : Thread := Sparse.get Thread.idle m.threads t.toNat
def setThread (m : Module) (t : ThreadNo) (x : Thread) : Module :=
  { m with threads := Sparse.set Thread.idle m.threads t.toNat x }
def core (m : Module) (c : Nat) : CoreSt := Sparse.get CoreSt.init m.cores c
def setCore (m : Module) (c : Nat) (x : CoreSt) : Module := { m with cores := Sparse.set CoreSt.init m.cores c x }
def ctx (m : Module) (i : Nat) : Ctx := Sparse.get Ctx.init m.ctxs i
def setCtx (m : Module) (i : Nat) (x : Ctx) : Module := { m with ctxs := Sparse.set Ctx.init m.ctxs i x }
def updCtx (m : Module) (i : Nat) (f : Ctx → Ctx) : Module := m.setCtx i (f (m.ctx i))
def updCore (m : Module) (c : Nat) (f : CoreSt → CoreSt) : Module := m.setCore c (f (m.core c))
def updThread (m : Module) (t : ThreadNo) (f : Thread → Thread) : Module := m.setThread t (f (m.thread t))
/-- Partitions other than 0 reset with no binding (18 Table 18.5). -/
def part (m : Module) (p : Nat) : Part := Sparse.get (Part.init 15) m.parts p
def setPart (m : Module) (p : Nat) (x : Part) : Module := { m with parts := Sparse.set (Part.init 15) m.parts p x }
def updPart (m : Module) (p : Nat) (f : Part → Part) : Module := m.setPart p (f (m.part p))
def func (m : Module) (f : Nat) : Func := Sparse.get Func.init m.funs f
def setFunc (m : Module) (f : Nat) (x : Func) : Module := { m with funs := Sparse.set Func.init m.funs f x }
def updFunc (m : Module) (f : Nat) (g : Func → Func) : Module := m.setFunc f (g (m.func f))
def port (m : Module) (n : Nat) : Port := Sparse.get Port.init m.ports n
def setPort (m : Module) (n : Nat) (x : Port) : Module := { m with ports := Sparse.set Port.init m.ports n x }
def updPort (m : Module) (n : Nat) (g : Port → Port) : Module := m.setPort n (g (m.port n))
def pd (m : Module) (n : Nat) : PortDie := Sparse.get PortDie.init m.pds n
def updPd (m : Module) (n : Nat) (g : PortDie → PortDie) : Module :=
  { m with pds := Sparse.set PortDie.init m.pds n (g (m.pd n)) }
def stripe (m : Module) (k : Nat) : Stripe := Sparse.get Stripe.init m.stripes k
def updStripe (m : Module) (k : Nat) (g : Stripe → Stripe) : Module :=
  { m with stripes := Sparse.set Stripe.init m.stripes k (g (m.stripe k)) }

/-- The PD0 stamp. -/
def now (m : Module) : Nat := m.time.now

/-- The stamp of a core's island, within 1 ns of PD0's (09 R289). -/
def islandStamp (m : Module) (c : Nat) : Nat := m.time.now + (if Config.islandSkew c m.time.now then 1 else 0)

/-- A fresh free word. -/
def fresh (m : Module) : Word × Module := (Config.freeWord m.draw, { m with draw := m.draw + 1 })

end Module

/-- Saturating count of n bits. -/
def satAdd (bits a b : Nat) : Nat := Nat.min (2 ^ bits - 1) (a + b)

/-- Bits hi..lo of a word as a number. -/
def field (w : Word) (lo len : Nat) : Nat := w.toNat / 2 ^ lo % 2 ^ len

/-- Bit i of a word. -/
def bit (w : Word) (i : Nat) : Bool := w.getLsbD i

/-- The numbers below n. -/
def upTo (n : Nat) : List Nat := List.range n

/-! The module's place in the machine (10 R315 to R317) -/

/-- The number of modules of the torus. -/
def topoCount (b : TopoB) : Nat := b.lens.t * b.lens.s * b.lens.e * b.lens.p * b.lens.d

/-- The number of the module at given coordinates (10 R316). -/
def numAt (l c : Coord) : Nat := c.t + l.t * (c.s + l.s * (c.e + l.e * (c.p + l.p * c.d)))

/-- The coordinates of a module number. -/
def coordOf (l : Coord) (n : Nat) : Coord :=
  { t := n % l.t, s := n / l.t % l.s, e := n / l.t / l.s % l.e, p := n / l.t / l.s / l.e % l.p,
    d := n / l.t / l.s / l.e / l.p % l.d }

/-- The module's own number. -/
def Module.num (m : Module) : Nat := numAt m.topo.lens m.topo.coord

/-! Geometry (01 R10 to R18, 08 R257) -/

def dieOfCore (c : Nat) : Nat := c / 64
def clusterOfCore (c : Nat) : Nat := c / 8
def dieOfFrame (fr : Nat) : Nat := fr / 2 ^ 25
/-- Partition index of a die: PARTLAYOUT field (15 R484). -/
def partOfDie (m : Module) (d : Nat) : Nat := m.layout.toNat / 2 ^ (3 * d) % 8
def partOfCore (m : Module) (c : Nat) : Nat := partOfDie m (dieOfCore c)
/-- The dies of a partition. -/
def diesOf (m : Module) (p : Nat) : List Nat := (upTo 8).filter fun d => partOfDie m d == p
/-- A partition index names a current partition: the lowest die of its group. -/
def isPart (m : Module) (p : Nat) : Bool := p < 8 && partOfDie m p == p
/-- The core numbers of a mask. -/
def coresOf (mask : BitVec 512) : List Nat := (upTo 512).filter fun c => mask.getLsbD c

/-- The frame lies in memory that software maps (08 R257). -/
def softFrame (fr : Nat) : Bool := fr < 2 ^ 28 && fr % 2 ^ 25 < Config.softFrames
/-- The stripes of a die hold a loan key: from loan open to step 3 of the close (08 R284, R285; 15 R490). -/
def dieHasLoan (m : Module) (d : Nat) : Bool := (m.part (partOfDie m d)).keyNo.isSome

/-- A context that is on the module and not in TEARDOWN (17 R528). -/
def Ctx.live (x : Ctx) : Bool :=
  match x.state with
  | .free => false
  | .teardown => false
  | _ => true

/-- The slot of the context that owns a core (03 R80). -/
def ownerOf (m : Module) (c : Nat) : Option Nat :=
  (m.ctxs.find? fun e => e.2.state != .free && e.2.r.cores.getLsbD c).map (·.1)

/-- The slot of the live context of a job (03 R82, R101). -/
def jobCtx (m : Module) (job : BitVec 16) : Option Nat :=
  (m.ctxs.find? fun e => e.2.live && e.2.r.job == job).map (·.1)

/-- The slots that hold a context satisfying a test. -/
def slotsWhere (m : Module) (p : Ctx → Bool) : List Nat :=
  (m.ctxs.filter fun e => e.2.state != .free && p e.2).map (·.1)

/-! Functions and partitions -/

/-- The function bound to a partition, 0 physical, n virtual (15 R486). -/
def boundFn (m : Module) (p : Nat) : Option Nat :=
  let b := (m.part p).bind.toNat
  if b ≤ 8 then some b else none

/-- A function is bound to a partition. -/
def isBound (m : Module) (f p : Nat) : Bool := isPart m p && boundFn m p == some f

/-- The partition of a virtual function. -/
def partOfFn (m : Module) (f : Nat) : Option Nat := (upTo 8).find? fun p => isBound m f p

/-- A function owns a context slot: the slot holds a context of its partition (03 R84). -/
def ownsSlot (m : Module) (f slot : Nat) : Bool :=
  (m.ctx slot).state != .free && isBound m f (m.ctx slot).part

/-! Outputs -/

/-- Signal an MSI-X vector (17 R529). -/
def irq (f v : Nat) (m : Module) : Module := { m with out := { m.out with host := m.out.host ++ [.irq f v] } }

/-- A completion on the host link. -/
def hostOut (h : HostOut) (m : Module) : Module := { m with out := { m.out with host := m.out.host ++ [h] } }

/-- A message to the tray controller, which travels only inside the SPDM session (17 R540). -/
def toTray (t : Tray) (m : Module) : Module :=
  if m.boot.spdm then { m with out := { m.out with tray := m.out.tray ++ [t] } } else m

/-! The ledger (13 R446 to R449, R562) -/

/-- Scope of an entry. -/
def scModule : Nat := 0
def scPart : Nat := 1
def scCtx : Nat := 2
def scCore : Nat := 3
def scPort : Nat := 4
def scStripe : Nat := 5

/-- Severities. -/
def sevInfo : Nat := 0
def sevWarn : Nat := 1
def sevError : Nat := 2
def sevFatal : Nat := 3

/-- Append an entry: the oldest is overwritten when the ring is full (R447). -/
def Ledger.push (l : Ledger) (e : Entry) : Ledger :=
  let es := l.entries ++ [{ e with seq := l.head }]
  { head := l.head + 1, entries := if es.length > Config.ledgerMax then es.drop 1 else es }

/-- An entry's fields that identify where it belongs. -/
structure Place where
  scope : Nat
  part : Nat
  src : Nat
  slot : Nat
  gen : Nat
  job : BitVec 16
  deriving DecidableEq, Repr

def atModule : Place := { scope := scModule, part := 0, src := 0, slot := 0, gen := 0, job := 0 }
def atPart (p : Nat) : Place := { scope := scPart, part := p, src := 0, slot := 0, gen := 0, job := 0 }
def atPort (n : Nat) : Place := { scope := scPort, part := 0, src := n, slot := 0, gen := 0, job := 0 }
/-- The place of a context's entry. -/
def atCtx (m : Module) (i : Nat) : Place :=
  { scope := scCtx, part := (m.ctx i).part, src := 0, slot := i, gen := (m.ctx i).gen.toNat,
    job := (m.ctx i).r.job }
/-- The place of a core's entry: with the context that owns the core, if any. -/
def atCore (m : Module) (c : Nat) : Place :=
  match ownerOf m c with
  | some i => { atCtx m i with scope := scCore, src := c }
  | none => { scope := scCore, part := partOfCore m c, src := c, slot := 0, gen := 0, job := 0 }
/-- The place of a stripe's entry. -/
def atStripe (m : Module) (k : Nat) : Place :=
  { scope := scStripe, part := partOfDie m (k / 4), src := k, slot := 0, gen := 0, job := 0 }

/-- The Librarian writes an entry; ERROR and FATAL go to the tray controller and raise vector 4 at the
physical function (R449, 17 R529). Without a running Librarian nothing is written. -/
def led (code sev : Nat) (pl : Place) (data : List Nat) (m : Module) : Module :=
  if m.boot.lib then
    let e : Entry :=
      { seq := m.ledger.head, stamp := m.now, code := code, sev := sev, scope := pl.scope, part := pl.part,
        src := pl.src, slot := pl.slot, gen := pl.gen, job := pl.job,
        data := (data ++ List.replicate (4 - data.length) 0).map (BitVec.ofNat 64) }
    let m := { m with ledger := m.ledger.push e }
    if sev ≥ sevError then irq 0 4 (toTray (.log e) m) else m
  else m

/-! Completion counters (03 R110 to R113, R136) -/

/-- The value of counter c of a context. -/
def Ctx.ctr (x : Ctx) (c : CtrNo) : W32 := Sparse.get 0 x.ctrs c.toNat

/-- Add to a counter modulo 2^32. -/
def addCtr (slot : Nat) (c : CtrNo) (v : W32) (m : Module) : Module :=
  m.updCtx slot fun x => { x with ctrs := Sparse.upd 0 x.ctrs c.toNat (· + v) }

/-- Add one to a counter when an enable bit is set. -/
def bumpCtr (slot : Nat) (en : Bool) (c : CtrNo) (m : Module) : Module := if en then addCtr slot c 1 m else m

/-- (counter − v) read as a signed number is zero or more (R112). -/
def reached (ctr v : W32) : Bool := decide (0 ≤ (ctr - v).toInt)

/-! Progress and due work (07 R249, 13 R420, R421) -/

/-- Record progress of a context. -/
def progress (slot : Nat) (m : Module) : Module :=
  m.updCtx slot fun x => { x with ovd := { x.ovd with lastProgress := m.now } }

/-- Due-stamped work begins to be watched. -/
def dueAdd (slot : Nat) (w : DueWork) (m : Module) : Module :=
  m.updCtx slot fun x => { x with ovd := { x.ovd with work := x.ovd.work ++ [w] } }

/-- It has completed. -/
def dueDone (slot : Nat) (w : DueWork) (m : Module) : Module :=
  m.updCtx slot fun x => { x with ovd := { x.ovd with work := x.ovd.work.erase w } }

/-- A bit of CATEN is set (17 R546). -/
def catOn (m : Module) (i : Nat) : Bool := m.cat.en.getLsbD i

/-- Fold over a list of numbers. -/
def each {α : Type} (l : List α) (f : α → Module → Module) (m : Module) : Module :=
  l.foldl (fun m a => f a m) m

end Sys2Proof.Machine
end

