-- ==== Sys2Proof/Machine/SipHash.lean ====
section
/-! DEFINITION. SipHash-2-4 (02 R60, 14 R467, 15 R496) on a 128-bit key and a message given as bytes, and
the random bits of stochastic rounding. -/

namespace Sys2Proof.Machine

/-- The four words of SipHash's state. -/
structure Sip where
  v0 : Word
  v1 : Word
  v2 : Word
  v3 : Word
  deriving DecidableEq, Repr

/-- One SipRound. -/
def Sip.round (s : Sip) : Sip :=
  let v0 := s.v0 + s.v1
  let v1 := s.v1.rotateLeft 13 ^^^ v0
  let v0 := v0.rotateLeft 32
  let v2 := s.v2 + s.v3
  let v3 := s.v3.rotateLeft 16 ^^^ v2
  let v0 := v0 + v3
  let v3 := v3.rotateLeft 21 ^^^ v0
  let v2 := v2 + v1
  let v1 := v1.rotateLeft 17 ^^^ v2
  let v2 := v2.rotateLeft 32
  { v0 := v0, v1 := v1, v2 := v2, v3 := v3 }

/-- Absorb one message word with two rounds. -/
def Sip.absorb (s : Sip) (m : Word) : Sip :=
  let t := ({ s with v3 := s.v3 ^^^ m } : Sip).round.round
  { t with v0 := t.v0 ^^^ m }

/-- Bytes, least significant first, as a number. -/
def leNat : List Byte → Nat
  | [] => 0
  | b :: bs => b.toNat + 256 * leNat bs

/-- A number as n bytes, least significant first. -/
def leBytes : Nat → Nat → List Byte
  | 0, _ => []
  | n + 1, v => BitVec.ofNat 8 v :: leBytes n (v / 256)

/-- The message words of SipHash: whole 8-byte words, then the last bytes with the length on top. -/
def sipWords (total : Nat) : Nat → List Byte → List Word
  | 0, bs => [BitVec.ofNat 64 (leNat (bs.take 7) + total % 256 * 2 ^ 56)]
  | n + 1, bs => BitVec.ofNat 64 (leNat (bs.take 8)) :: sipWords total n (bs.drop 8)

/-- SipHash-2-4 under the key words k0, k1. -/
def sipHash24 (k0 k1 : Word) (msg : List Byte) : Word :=
  let s : Sip := { v0 := k0 ^^^ 0x736f6d6570736575, v1 := k1 ^^^ 0x646f72616e646f6d,
                   v2 := k0 ^^^ 0x6c7967656e657261, v3 := k1 ^^^ 0x7465646279746573 }
  let s := (sipWords msg.length (msg.length / 8) msg).foldl Sip.absorb s
  let s := ({ s with v2 := s.v2 ^^^ 0xff } : Sip).round.round.round.round
  s.v0 ^^^ s.v1 ^^^ s.v2 ^^^ s.v3

/-- The 16 random bits of the element with a given index (02 R60). -/
def srBits (srseed : Word) (step tag : W32) (index : Nat) : Nat :=
  let k1 : Word := BitVec.ofNat 64 (step.toNat + tag.toNat * 2 ^ 32)
  (sipHash24 srseed k1 (leBytes 8 (index / 4))).toNat / 2 ^ (16 * (index % 4)) % 65536

end Sys2Proof.Machine
end

