-- ==== Sys2Proof/Machine/Memory.lean ====
section
/-! DEFINITION. The memories (08): one list of (physical byte key, byte) pairs for main memory, carrels,
cluster stores and tile registers; valid bits and summaries, poison marks, the symbol code, merging writes,
zeroing and clearing. A byte that nothing has written reads as zero. -/

namespace Sys2Proof.Machine

/-! Physical byte keys -/

/-- Main memory: FRAME × 65,536 + byte (08 R258). -/
def paMain (frame off : Nat) : Nat := frame * 65536 + off
/-- Byte of the carrel of a core. -/
def paCarrel (c off : Nat) : Nat := 2 ^ 45 + c * 2 ^ 22 + off
/-- Byte of a cluster store. -/
def paStore (cl off : Nat) : Nat := 2 ^ 46 + cl * 2 ^ 24 + off
/-- Byte of the tile registers of a core, 64 KiB each. -/
def paTile (c off : Nat) : Nat := 2 ^ 47 + c * 2 ^ 19 + off
/-- The key lies in main memory. -/
def isMain (pa : Nat) : Bool := pa < 2 ^ 44

/-- The unit that carries a poison mark (08 Table 8.7): a 256 B granule or an aligned 8 B word. -/
def unitOf (pa : Nat) : Nat := if isMain pa then pa / 256 else 2 ^ 40 + pa / 8

/-- The die of a granule number a / 256. -/
def dieOfGran (g : Nat) : Nat := g / 2 ^ 33
/-- Stripe number 4 × die + stripe of a granule (08 R258). -/
def stripeOf (g : Nat) : Nat := 4 * (g / 2 ^ 33) + g % 4
/-- The granule's number within its stripe. -/
def stripeGran (g : Nat) : Nat := g % 2 ^ 33 / 4
/-- The region of 32 frames of a granule (08 R269). -/
def regionOf (g : Nat) : Nat := g % 2 ^ 33 / 8192
/-- Key of a stripe's summary state for a region. -/
def sumKey (g : Nat) : Nat := stripeOf g * 2 ^ 20 + regionOf g
/-- First region of the 32 that the summary word of a granule's region covers (08 R275). -/
def sumFirst (g : Nat) : Nat := regionOf g / 32 * 32
/-- Byte key of that word in the reserved area of the stripe's cluster store: two bits a region (08 R255, R269). -/
def sumPa (g : Nat) : Nat := paStore (8 * dieOfGran g + 2 * (g % 4)) (0xFF0000 + 8 * (regionOf g / 32))
/-- The granule lies in a hidden frame of its die (08 R257). -/
def hiddenGran (g : Nat) : Bool :=
  decide (Config.softFrames ≤ g % 2 ^ 33 / 256) && decide (g % 2 ^ 33 / 256 < Config.dieFrames)

/-- The canonical form of the byte list (strictly rising, no zero listed). -/
def Memory.wf (mem : List Host.Cell) : Bool := Sparse.ok (0 : Byte) mem

/-- One stored byte, whatever the valid bits say. -/
def Module.raw (m : Module) (pa : Nat) : Byte := Sparse.get 0 m.mem pa

/-- A die without a loan reads as zero; so does a granule whose valid bit is clear (08 R270, R285). -/
def Module.byte (m : Module) (pa : Nat) : Byte :=
  if isMain pa then
    if dieHasLoan m (dieOfGran (pa / 256)) && NatSet.has m.valid (pa / 256) then m.raw pa else 0
  else m.raw pa

/-- The region of a granule lies under a damaged summary word and has not been cleared since (08 R275). -/
def Module.sumLost (m : Module) (g : Nat) : Bool := Sparse.get 0 m.sumBad (sumKey g) != 0

/-- The poison mark under which a byte reads (08 R270, R275, R277, R285). -/
def Module.isBad (m : Module) (pa : Nat) : Bool :=
  if isMain pa then
    dieHasLoan m (dieOfGran (pa / 256)) &&
      (m.sumLost (pa / 256) || (NatSet.has m.valid (pa / 256) && NatSet.has m.bad (unitOf pa)))
  else NatSet.has m.bad (unitOf pa)

/-! The symbol code (08 R261, R262) -/

/-- Multiplication by α in GF(2^16) with x^16 + x^12 + x^3 + x + 1. -/
def mulAlpha (x : Nat) : Nat := if x ≥ 32768 then (2 * x) ^^^ 0x1100B else 2 * x
/-- x α^n. -/
def mulAlphaPow (x : Nat) : Nat → Nat
  | 0 => x
  | n + 1 => mulAlpha (mulAlphaPow x n)

/-- An error pattern: (beat, symbol, error value). -/
abbrev Errs := List (Nat × Nat × Nat)

/-- S0 of the code word of a beat. -/
def synd0 (es : Errs) (b : Nat) : Nat := es.foldl (fun a e => if e.1 = b then a ^^^ e.2.2 else a) 0
/-- S1 of the code word of a beat. -/
def synd1 (es : Errs) (b : Nat) : Nat :=
  es.foldl (fun a e => if e.1 = b then a ^^^ mulAlphaPow e.2.2 (9 - e.2.1) else a) 0
/-- The beats whose syndromes are not both zero. -/
def badBeats (es : Errs) : List Nat := (upTo 16).filter fun b => synd0 es b != 0 || synd1 es b != 0
/-- The located channel of a code word. -/
def located (es : Errs) (b : Nat) : Option Nat :=
  if synd0 es b = 0 then none else (upTo 10).find? fun j => mulAlphaPow (synd0 es b) (9 - j) == synd1 es b

/-- Outcomes of 08 Table 8.3: delivered as read, corrected in one channel with so many symbols, or
uncorrectable. -/
inductive Decoded where
  | clean
  | corrected (ch n : Nat)
  | lost
  deriving DecidableEq, Repr

/-- Decode a granule under a retired channel, if any. -/
def decodeGran (retired : Option Nat) (es : Errs) : Decoded :=
  match badBeats es with
  | [] => .clean
  | b :: bs =>
    match retired with
    | some c =>
      if (b :: bs).all fun x => mulAlphaPow (synd0 es x) (9 - c) == synd1 es x then .clean else .lost
    | none =>
      match located es b with
      | some j => if bs.all fun x => located es x == some j then .corrected j (bs.length + 1) else .lost
      | none => .lost

/-- The errors a read of a granule meets: those stored with it and those of faulty channels (R561). -/
def errsOf (m : Module) (g : Nat) : Errs :=
  Sparse.get [] m.dramErr g ++
    (upTo 10).flatMap fun j =>
      let e := Sparse.get 0 m.chanErr (stripeOf g * 16 + j)
      if e = 0 then [] else (upTo 16).map fun b => (b, j, e)

/-- The Librarian retires a channel, or sets DEGRADED when one is retired already (08 R263, R264; 18 R559). -/
def retire (k ch trig : Nat) (m : Module) : Module :=
  match (m.stripe k).retired with
  | none => led 0x0401 sevWarn (atStripe m k) [ch, trig] (m.updStripe k fun s => { s with retired := some ch })
  | some r =>
    if r = ch then m
    else
      toTray (.replace (k / 4) (k % 4))
        (led 0x0402 sevError (atStripe m k) [ch, trig, r]
          (m.updStripe k fun s => { s with degraded := true, second := ch }))

/-- Count corrected symbols of a channel and retire it at MEMCETHR within 24 h (08 R262, R263). -/
def countCe (k ch n : Nat) (m : Module) : Module :=
  let m := m.updStripe k fun s =>
    { s with memce := Sparse.upd 0 s.memce ch (fun x => satAdd 32 x n),
             hist := (s.hist.filter fun h => h.2.1 + Config.day > m.now) ++ [(ch, m.now, n)] }
  let sum := ((m.stripe k).hist.filter fun h => h.1 = ch).foldl (fun a h => a + h.2.2) 0
  if m.boot.lib && sum ≥ (m.stripe k).thr && (m.stripe k).retired != some ch && (m.stripe k).second != ch then
    retire k ch 1 m
  else m

/-- The error of symbol j in the code word of a beat. -/
def errAt (es : Errs) (b j : Nat) : Nat := es.foldl (fun a e => if e.1 = b ∧ e.2.1 = j then a ^^^ e.2.2 else a) 0

/-- The code words whose data symbols are wrong although the decoder delivered them; `fix` is the symbol it corrected or took
as an erasure, whose value it moved by S0. -/
def spoiled (fix : Option Nat) (es : Errs) : List Nat :=
  (upTo 16).filter fun b =>
    (upTo 8).any fun j => errAt es b j ^^^ (if fix = some j then synd0 es b else 0) != 0

/-- The bytes 16b to 16b + 15 of code words b whose damage the code did not see (08 R259): one AES block each (R283), so
their values are open (Table 8.4). -/
def garble (g : Nat) (beats : List Nat) (m : Module) : Module :=
  let put := fun (mem : List Host.Cell) (i : Nat) =>
    Sparse.set (0 : Byte) mem (g * 256 + i) ((Config.freeWord (m.draw + i / 8)).extractLsb' (i % 8 * 8) 8)
  { m with mem := (beats.flatMap fun b => (upTo 16).map (16 * b + ·)).foldl put m.mem, draw := m.draw + 32,
           dramErr := Sparse.drop m.dramErr g }

/-- Poison a granule: the signature takes the place of its data, whose decryption is open; MEMUE counts, a ledger entry is
made (08 R276). `src` is 0 for a demand read, 1 for patrol scrub. -/
def poisonGran (g src : Nat) (m : Module) : Module :=
  let k := stripeOf g
  let m := garble g (upTo 16) m
  let m := { m with bad := NatSet.add m.bad g }
  led 0x0403 sevError (atStripe m k) [g * 256, src, (m.stripe k).retired.getD 15]
    (m.updStripe k fun s => { s with memue := satAdd 32 s.memue 1 })

/-- The stripe controller decodes a granule that it reads (08 R262, R561). -/
def decodeRead (g src : Nat) (m : Module) : Module :=
  let k := stripeOf g
  let es := errsOf m g
  match decodeGran (m.stripe k).retired es with
  | .clean =>
    match spoiled (m.stripe k).retired es with
    | [] => m
    | b :: bs => garble g (b :: bs) m
  | .corrected ch n =>
    let m' := countCe k ch n { m with dramErr := Sparse.drop m.dramErr g }
    match spoiled (some ch) es with
    | [] => m'
    | b :: bs => garble g (b :: bs) m'
  | .lost => poisonGran g src m

/-- The corrected-error counter of an SRAM word: SRAMCE of its core, CSCE of its cluster (08 R252). -/
def countSram (pa : Nat) (m : Module) : Module :=
  if pa < 2 ^ 46 then m.updCore ((pa - 2 ^ 45) / 2 ^ 22) fun c => { c with sramce := satAdd 32 c.sramce 1 }
  else if pa < 2 ^ 47 then { m with csce := Sparse.upd 0 m.csce ((pa - 2 ^ 46) / 2 ^ 24) fun x => satAdd 32 x 1 }
  else m.updCore ((pa - 2 ^ 47) / 2 ^ 19) fun c => { c with sramce := satAdd 32 c.sramce 1 }

/-- The stripe controller consults the summary word of a granule: a wrong bit is corrected; two lose the state of the 32
regions (08 R252, R275). -/
def readSummary (g : Nat) (m : Module) : Module :=
  match Sparse.get 0 m.sramErr (sumPa g / 8) with
  | 0 => m
  | 1 => countSram (sumPa g) { m with sramErr := Sparse.drop m.sramErr (sumPa g / 8) }
  | _ =>
    let lost := (upTo 32).foldl (fun s i => Sparse.set 0 s (stripeOf g * 2 ^ 20 + sumFirst g + i) (2 ^ 32 - 1)) m.sumBad
    led 0x0404 sevError (atStripe m (stripeOf g)) [sumFirst g, dieOfGran g]
      { m with sramErr := Sparse.drop m.sramErr (sumPa g / 8), sumBad := lost }

/-- The stripe controller reads a granule (08 R262, R270, R281, R285): one of a hidden frame is decoded; of the others
nothing is read where the die has no loan, the valid bit is clear, or the granule is poisoned already. -/
def readGran (g src : Nat) (m : Module) : Module :=
  if hiddenGran g then (if NatSet.has m.bad g then m else decodeRead g src m)
  else if !(dieHasLoan m (dieOfGran g)) then m
  else
    let m := readSummary g m
    if m.sumLost g || !(NatSet.has m.valid g) || NatSet.has m.bad g then m else decodeRead g src m

/-- A read of an SRAM word: a single-bit error is corrected and counted, a double-bit error poisons. -/
def readWord (pa : Nat) (m : Module) : Module :=
  match Sparse.get 0 m.sramErr (pa / 8) with
  | 0 => m
  | 1 => countSram pa { m with sramErr := Sparse.drop m.sramErr (pa / 8) }
  | _ => { m with sramErr := Sparse.drop m.sramErr (pa / 8), bad := NatSet.add m.bad (unitOf pa) }

/-- What a read of one byte does to the memory it reads. -/
def touch (pa : Nat) (m : Module) : Module := if isMain pa then readGran (pa / 256) 0 m else readWord pa m

/-- Equal neighbours of a list once. -/
def squash : List Nat → List Nat
  | a :: b :: l => if a = b then squash (b :: l) else a :: squash (b :: l)
  | l => l

/-- Read bytes: the memory after the read, in which each granule and each word was read once, and each byte with its mark. -/
def readPas (pas : List Nat) (m : Module) : Module × List (Byte × Bool) :=
  let m := (squash ((pas.filter isMain).map (· / 256))).foldl (fun m g => readGran g 0 m) m
  let m := (squash ((pas.filter fun pa => !isMain pa).map (· / 8))).foldl (fun m k => readWord (8 * k) m) m
  (m, pas.map fun pa => (m.byte pa, m.isBad pa))

/-- The bytes of a read as a number. -/
def bytesNat (bs : List (Byte × Bool)) : Nat := leNat (bs.map (·.1))
/-- Some byte of a read carries a mark. -/
def anyBad (bs : List (Byte × Bool)) : Bool := bs.any (·.2)

/-! Writes -/

/-- A byte on its way to memory: its value, the bits of it that are written, its mark. An F4 tail writes a nibble. -/
structure WByte where
  v : Byte
  mask : Byte
  bad : Bool
  deriving DecidableEq, Repr, Inhabited

/-- A byte written whole. -/
def wb (v : Byte) (bad : Bool) : WByte := { v := v, mask := 0xFF, bad := bad }

/-- What a byte holds after a write. -/
def WByte.over (b : WByte) (old : Byte) : Byte := if b.mask = 0xFF then b.v else (old &&& ~~~b.mask) ||| (b.v &&& b.mask)

/-- Store bytes. -/
def pokes (items : List (Nat × WByte)) (mem : List Host.Cell) : List Host.Cell :=
  items.foldl (fun mem e => Sparse.set (0 : Byte) mem e.1 (e.2.over (Sparse.get 0 mem e.1))) mem

/-- Drop the bytes a test names. -/
def wipe (p : Nat → Bool) (mem : List Host.Cell) : List Host.Cell := Sparse.keep (fun k => !p k) mem

/-- Set a granule's valid bit and bring the summary state along (08 R271). -/
def setValid (g : Nat) (m : Module) : Module :=
  let valid := NatSet.add m.valid g
  let n := (valid.filter fun h => sumKey h == sumKey g).length
  { m with valid := valid, summary := Sparse.set 0 m.summary (sumKey g) (if n = 2048 then 3 else 1) }

/-- Who a discarded write is laid to in event 0x0405: a function, or 0xFF for a context. -/
abbrev Writer := Nat
def byContext : Writer := 0xFF

/-- Bytes written whole: one that keeps a nibble merges (08 R253). -/
def wholeBytes (items : List (Nat × WByte)) : Nat := ((items.filter fun e => e.2.mask = 0xFF).map (·.1)).dedup.length

/-- Write bytes of one granule (08 R265, R268, R270, R271, R285). Event 0x0405 names the granule's first byte (log 135). -/
def writeGran (w : Writer) (g : Nat) (items : List (Nat × WByte)) (m : Module) : Module :=
  if !(dieHasLoan m (dieOfGran g)) then led 0x0405 sevWarn (atStripe m (stripeOf g)) [g * 256, w] m
  else
    let m := readSummary g m
    if 256 ≤ wholeBytes items then
      let m := setValid g { m with bad := NatSet.del m.bad g, dramErr := Sparse.drop m.dramErr g }
      { m with mem := pokes items m.mem }
    else if m.sumLost g then m
    else if NatSet.has m.valid g then
      let m := readGran g 0 m
      if NatSet.has m.bad g then m else { m with mem := pokes items m.mem }
    else
      let m := setValid g { m with mem := wipe (fun k => k / 256 == g) m.mem }
      { m with mem := pokes items m.mem }

/-- Write bytes of one SRAM word, marked or not (08 R253, R277). -/
def writeWord (k : Nat) (items : List (Nat × WByte)) (mark : Bool) (m : Module) : Module :=
  if 8 ≤ wholeBytes items then
    { m with mem := pokes items m.mem, sramErr := Sparse.drop m.sramErr k,
             bad := NatSet.put m.bad (2 ^ 40 + k) mark }
  else
    let m := readWord (8 * k) m
    { m with mem := pokes items m.mem, bad := if mark then NatSet.add m.bad (2 ^ 40 + k) else m.bad }

/-- Write bytes by physical key. A marked byte marks its SRAM word; marked bytes never enter main memory: the callers check
that first (08 R268, R278). -/
def writeBytes (w : Writer) (items : List (Nat × WByte)) (m : Module) : Module :=
  let mains := items.filter fun e => isMain e.1
  let srams := items.filter fun e => !isMain e.1
  let m := ((mains.map fun e => e.1 / 256).dedup).foldl
    (fun m g => writeGran w g (mains.filter fun e => e.1 / 256 == g) m) m
  ((srams.map fun e => e.1 / 8).dedup).foldl
    (fun m k => let here := srams.filter fun e => e.1 / 8 == k; writeWord k here (here.any (·.2.bad)) m) m

/-- Write whole bytes by physical key, all with one mark. -/
def writePas (w : Writer) (items : List (Nat × Byte)) (mark : Bool) (m : Module) : Module :=
  writeBytes w (items.map fun e => (e.1, wb e.2 mark)) m

/-! Clearing and zeroing -/

/-- The Librarian clears the valid bits of one frame (08 R272, R280); a region whose summary word was lost is whole again once
each of its frames has been cleared (R275). -/
def clearFrame (fr : Nat) (m : Module) : Module :=
  let hit := fun g => g / 256 == fr
  { m with mem := wipe (fun k => isMain k && k / 65536 == fr) m.mem,
           valid := m.valid.filter fun g => !hit g,
           bad := m.bad.filter fun u => !hit u,
           dramErr := Sparse.keep (fun g => !hit g) m.dramErr,
           sumBad := (upTo 4).foldl (fun s i =>
             Sparse.upd 0 s ((4 * dieOfFrame fr + i) * 2 ^ 20 + fr % 2 ^ 25 / 32)
               fun x => x &&& (2 ^ 32 - 1 - 2 ^ (fr % 32))) m.sumBad,
           summary := m.summary.map fun e =>
             if e.1 % 2 ^ 20 == fr % 2 ^ 25 / 32 && e.1 / 2 ^ 20 / 4 == dieOfFrame fr then (e.1, 1) else e }

/-- The Librarian clears every software frame of a die: every region becomes ZERO (08 R272, R273, R275). -/
def clearDie (d : Nat) (m : Module) : Module :=
  let hit := fun g => dieOfGran g == d
  { m with mem := wipe (fun k => isMain k && k / 2 ^ 41 == d) m.mem,
           valid := m.valid.filter fun g => !hit g,
           bad := m.bad.filter fun u => !hit u,
           dramErr := Sparse.keep (fun g => !hit g) m.dramErr,
           summary := Sparse.keep (fun k => k / 2 ^ 20 / 4 != d) m.summary,
           sumBad := Sparse.keep (fun k => k / 2 ^ 20 / 4 != d) m.sumBad }

/-- Zero the SRAM bytes lo to hi − 1, clearing marks and errors (08 R256). -/
def zeroRange (lo hi : Nat) (m : Module) : Module :=
  { m with mem := wipe (fun k => decide (lo ≤ k) && decide (k < hi)) m.mem,
           bad := m.bad.filter fun u => !(decide (2 ^ 40 + lo / 8 ≤ u) && decide (u < 2 ^ 40 + hi / 8)),
           sramErr := Sparse.keep (fun w => !(decide (lo / 8 ≤ w) && decide (w < hi / 8))) m.sramErr }

/-- Zero the carrel and the tile registers of a core. -/
def zeroCore (c : Nat) (m : Module) : Module :=
  zeroRange (paTile c 0) (paTile (c + 1) 0) (zeroRange (paCarrel c 0) (paCarrel (c + 1) 0) m)

/-- The area of a cluster store that holds valid-bit summaries: the top 64 KiB of clusters 0, 2, 4 and 6 of
each die (08 R255). -/
def reservedCluster (cl : Nat) : Bool := cl % 8 % 2 == 0

/-- Zero a cluster store but its reserved area. -/
def zeroStore (cl : Nat) (m : Module) : Module :=
  zeroRange (paStore cl 0) (paStore cl (if reservedCluster cl then 0xFF0000 else 0x1000000)) m

end Sys2Proof.Machine
end

