-- ==== Sys2Proof/Machine/Wire.lean ====
section
/-! DEFINITION. What a fabric port does with one frame (10 R322 to R329): lengths and layouts, credits, sequence numbers,
the replay buffer, the slots of the timetable (09 R300 to R307) and control frames. -/

namespace Sys2Proof.Machine

/-- The axis of a port: 0 T, 1 S, 2 E, 3 P, 4 D (10 Table 10.1). -/
def axisOf (n : Nat) : Nat := n / 2
/-- The port die of a port. -/
def pdOf (n : Nat) : Nat := if n < 4 then 0 else 1
/-- Lanes of a port. -/
def lanesOf (n : Nat) : Nat := if n < 2 then 16 else if n < 6 then 8 else 4
/-- Transactions of a reserved slot (09 Table 9.2). -/
def slotCap (n : Nat) : Nat := if n < 2 then 12 else if n < 6 then 6 else 3
/-- Bytes per nanosecond of a port (10 Table 10.1). -/
def portRate (n : Nat) : Nat := if n < 2 then 400 else if n < 6 then 200 else 100

/-- Axis k of coordinates or lengths. -/
def axisGet (c : Coord) (k : Nat) : Nat :=
  match k with
  | 0 => c.t
  | 1 => c.s
  | 2 => c.e
  | 3 => c.p
  | _ => c.d

/-- Replace axis k. -/
def axisSet (c : Coord) (k v : Nat) : Coord :=
  match k with
  | 0 => { c with t := v }
  | 1 => { c with s := v }
  | 2 => { c with e := v }
  | 3 => { c with p := v }
  | _ => { c with d := v }

/-- Receive buffer of a virtual channel in credits of 64 B (10 Table 10.6). -/
def vcCredits (n vc : Nat) : Nat :=
  let full :=
    match vc with
    | 0 => 2048
    | 1 => 2048
    | 2 => 2048
    | 3 => 2048
    | 4 => 3072
    | 5 => 3072
    | 6 => 256
    | 7 => 1024
    | 8 => 768
    | _ => 0
  if n < 6 then full else full / 2

/-! Layouts -/

/-- The bytes of numbers, each of a width in bytes, little-endian (R322). -/
def layBytes (l : List (Nat × Nat)) : List Byte :=
  l.flatMap fun e => (upTo e.1).map fun i => BitVec.ofNat 8 (e.2 / 2 ^ (8 * i))

/-- Fields of a word from its most significant: widths in bits and values. -/
def fieldsNat (l : List (Nat × Nat)) : Nat := l.foldl (fun a e => a * 2 ^ e.1 + e.2 % 2 ^ e.1) 0

/-- KIND of a transaction (Table 10.4). -/
def kindCode : TxKind → Nat
  | .write => 0
  | .read => 1
  | .atomic => 2
  | .coll => 3
  | .ack => 8
  | .nack => 9
  | .readdata => 10

/-- The cause of a NACK (Table 10.4). -/
def causeCode : NackCause → Nat
  | .noTarget => 1
  | .remoteDenied => 2

/-- Word 2 of a transaction header, which its kind gives a meaning. -/
def addrWord (x : Txn) : Nat :=
  match x.kind with
  | .coll => fieldsNat [(32, x.coll.n1.toNat), (32, x.coll.first.toNat)]
  | .atomic => fieldsNat [(48, x.addr.toNat), (8, x.fn.toNat), (8, 0)]
  | .write => fieldsNat [(48, x.addr.toNat), (15, 0), (1, x.half.toNat)]
  | .read => fieldsNat [(48, x.addr.toNat), (16, 0)]
  | .nack => fieldsNat [(52, 0), (4, causeCode x.cause), (8, 0)]
  | _ => 0

/-- An event record follows (R323). -/
def hasEvents (x : Txn) : Bool := !(x.ev.all (· == 0))

/-- The header of a transaction (Table 10.4). -/
def txHeader (x : Txn) : List Byte :=
  let c := x.coll
  let coll := x.kind == .coll
  layBytes
    [(8, fieldsNat [(4, kindCode x.kind), (4, x.vc.toNat), (16, x.job.toNat), (8, x.ttid.toNat), (16, x.dst.toNat),
        (16, x.src.toNat)]),
     (8, fieldsNat [(16, x.tag.toNat), (6, x.inc.toNat), (10, x.srcgen.toNat), (6, x.srcslot.toNat), (1, x.tce.toNat),
        (9, x.tctr.toNat), (1, x.det.toNat), (1, (!x.bad.isEmpty).toNat), (1, (hasEvents x).toNat), (13, x.len)]),
     (8, addrWord x),
     (8, if coll then fieldsNat [(12, c.group.toNat), (8, c.cser.toNat), (4, c.ckind.toNat), (4, c.cop.toNat), (4, c.fmt.toNat),
        (16, c.shidx.toNat), (16, c.contrib.toNat)] else 0),
     (8, if coll then fieldsNat [(32, c.shfirst.toNat), (32, c.shcount.toNat)] else 0),
     (8, x.nonce), (8, x.keystamp)]

/-- PSTATE of a STATUS body. -/
def pstateCode : PState → Nat
  | .training => 1
  | .run => 2
  | .miswire => 3

/-- TYPE of a FAULT body. -/
def faultTypeCode : FaultType → Nat
  | .linkDown => 1
  | .peerFenced => 2
  | .job => 3

/-- The 40 B body of a control frame (Table 10.12). -/
def ctlBody (f : Frame) : List Byte :=
  match f with
  | .tx _ => []
  | .idle => layBytes [(40, 0)]
  | .replay q => layBytes [(1, 1), (1, 0), (2, q), (36, 0)]
  | .status b =>
    layBytes [(1, 2), (1, pstateCode b.pstate), (1, b.port.val), (1, 0), (2, b.modnum.toNat), (1, b.coord.t), (1, b.coord.s),
      (1, b.coord.e), (1, b.coord.p), (1, b.coord.d), (1, 0), (4, b.inc.toNat), (8, b.stamp), (16, 0)]
  | .sync i _ => layBytes [(1, 3), (1, 0), (2, i), (36, 0)]
  | .followup r i t => layBytes [(1, 4), (1, r.toNat), (2, i), (4, 0), (8, t / 8), (1, t % 8), (23, 0)]
  | .delayreq i => layBytes [(1, 5), (1, 0), (2, i), (36, 0)]
  | .delayresp i t => layBytes [(1, 6), (1, 0), (2, i), (4, 0), (8, t / 8), (1, t % 8), (23, 0)]
  | .fault b =>
    layBytes [(1, 8), (1, faultTypeCode b.type), (2, b.reporter.toNat), (2, b.subject.toNat), (2, 0), (4, b.serial.toNat), (4, 0),
      (8, b.dstamp), (16, 0)]
  | .fenced b => layBytes [(1, 9), (1, 0), (2, b.modnum.toNat), (4, b.inc.toNat), (8, b.fstamp), (24, 0)]

/-- A control frame. -/
def Frame.ctl : Frame → Bool
  | .tx _ => false
  | _ => true

/-- Bytes of a transaction frame (10 R322, R323). -/
def txBytes (x : Txn) : Nat :=
  8 + 56 + x.payload.length + (if x.bad.isEmpty then 0 else 64) + (if hasEvents x then 16 else 0) + 16 + 4
/-- Bytes of a frame: a control frame is 68 B. -/
def frameBytes : Frame → Nat
  | .tx x => txBytes x
  | _ => 68
/-- Credits a frame takes. -/
def creditsOf (f : Frame) : Nat := (frameBytes f + 63) / 64

/-! Putting a frame on the link -/

/-- Where the next frame of a port can begin, in bytes since stamp 0. -/
def wireStart (m : Module) (n : Nat) : Nat := Nat.max (m.now * portRate n) (m.port n).wireB

/-- A frame boundary of a port falls within the present nanosecond. -/
def wireFree (m : Module) (n : Nat) : Bool := decide ((m.port n).wireB < (m.now + 1) * portRate n)

/-- The channel whose credits a frame returns: the next one in turn that has some to return (log 148). -/
def crvcOf (p : Port) : Nat :=
  (((upTo 9).map fun i => (p.crTurn + 1 + i) % 9).find? fun v => Sparse.get 0 p.owed v != 0).getD p.crTurn

/-- The credits it returns, in 12 bits. -/
def crcntOf (p : Port) : Nat := Nat.min 4095 (Sparse.get 0 p.owed (crvcOf p))

/-- Put a frame with a sequence number on the link: its envelope acknowledges what has come and returns credits (R322). -/
def putFrame (n q : Nat) (f : Frame) (m : Module) : Module :=
  let p := m.port n
  let v := crvcOf p
  let k := crcntOf p
  let ack := (p.rxSeq + 65535) % 65536
  let env := fieldsNat [(16, q), (16, ack), (4, v), (12, k), (1, f.ctl.toNat), (15, 0)]
  let head := layBytes [(8, env)] ++ (match f with
    | .tx x => txHeader x
    | g => ctlBody g)
  let m := m.updPort n fun p =>
    { p with lastTx := m.now, wireB := wireStart m n + frameBytes f, crTurn := v, owed := Sparse.upd 0 p.owed v (· - k) }
  { m with out := { m.out with sent := m.out.sent ++
      [{ port := n, seq := q, ackseq := ack, crvc := v, crcnt := k, ctl := f.ctl, frame := f, bytes := head }] } }

/-- The stamp at which a frame that leaves now crosses the port, in eighths of a nanosecond (09 R292). -/
def crossAt (m : Module) (n : Nat) (f : Frame) : Nat :=
  8 * m.now + (match f with
    | .sync _ e => e
    | _ => Config.stampFrac n m.now).toNat

/-- What follows an exchange frame that has left at a stamp: the follow-up with it, or the child keeps it (09 R292, R360). -/
def afterSend (t : Nat) (f : Frame) (p : Port) : Port :=
  match f with
  | .sync i _ => { p with cq := p.cq ++ [.followup false i t] }
  | .delayresp i _ => { p with cq := p.cq ++ [.followup true i t] }
  | .delayreq i => { p with reqSent := some (i, t) }
  | _ => p

/-- Put a new frame on the link: it takes the next sequence number and stays in the replay buffer (R325). -/
def emit (n : Nat) (f : Frame) (m : Module) : Module :=
  let q := (m.port n).txSeq
  let t := crossAt m n f
  (putFrame n q f m).updPort n fun p =>
    afterSend t f { p with txSeq := (q + 1) % 65536, replay := p.replay ++ [(q, f)] }

/-- Spend credits of a channel and send. -/
def emitVc (n vc : Nat) (f : Frame) (m : Module) : Module :=
  emit n f (m.updPort n fun p => { p with credit := Sparse.upd 0 p.credit vc (· - creditsOf f) })

/-- The receiver's credits cover the frame (R328). -/
def hasCredit (m : Module) (n vc : Nat) (f : Frame) : Bool :=
  decide (creditsOf f ≤ Sparse.get 0 (m.port n).credit vc)

/-- The receive buffer that a transaction from a link held is free: its credits go back (R328). -/
def freeBuf (i : Inp) (x : Txn) (m : Module) : Module :=
  match i with
  | .port n vc era =>
    if (m.port n).era = era then
      m.updPort n fun p => { p with owed := Sparse.upd 0 p.owed vc (· + creditsOf (.tx x)) }
    else m
  | _ => m

/-! Slots of the timetable (09 R300 to R307) -/

/-- The live bank at the present stamp: a pending switch takes effect with the start of its frame (R311). -/
def liveBank (m : Module) : Bool :=
  match m.tt.pend with
  | some (b, fr) => if fr * Config.frameNs ≤ m.now then b else m.tt.live
  | none => m.tt.live

/-- The slot-map entry of a port in the live bank. -/
def liveEntry (m : Module) (n k : Nat) : Bool × BitVec 16 × BitVec 8 :=
  Sparse.get (false, 0, 0) m.tt.maps (256 * n + (if liveBank m then 128 else 0) + k)

/-- Slot number at a stamp, and its start. -/
def slotAt (t : Nat) : Nat := t % Config.frameNs / Config.slotNs
def slotStart (t : Nat) : Nat := t - t % Config.frameNs % Config.slotNs

/-- The port holds some slot of the owner in its live bank. -/
def ownsSome (m : Module) (n : Nat) (job : BitVec 16) (ttid : BitVec 8) : Bool :=
  (upTo 125).any fun k => liveEntry m n k == (true, job, ttid)

/-- Transactions already sent in the present slot. -/
def usedIn (m : Module) (n : Nat) : Nat :=
  if (m.port n).slotUse.1 = slotStart m.now then (m.port n).slotUse.2 else 0

/-- A frame of so many bytes that begins now ends within the present slot. -/
def fitsSlot (m : Module) (n bytes : Nat) : Bool :=
  decide (wireStart m n + bytes ≤ (slotStart m.now + Config.slotNs) * portRate n)

/-- A transaction travels in reserved slots at this port: it carries a TTID that has some here, is on no detour, and is no read
of another module (R302, R306). -/
def reservedTx (m : Module) (n : Nat) (x : Txn) : Bool :=
  x.ttid != 0 && !x.det && x.kind != .read && ownsSome m n x.job x.ttid

/-- The present slot belongs to the transaction's owner, began after it was ready, and has room for it (R302, R305). -/
def slotOpenTo (m : Module) (n ready : Nat) (x : Txn) : Bool :=
  liveEntry m n (slotAt m.now) == (true, x.job, x.ttid) && decide (ready < slotStart m.now) &&
    decide (usedIn m n < slotCap n) && fitsSlot m n (txBytes x)

/-- A waiting transaction may leave in the present slot, which no earlier-ready one of its owner takes (R305). -/
def ownSlotOk (m : Module) (n : Nat) (o : OutTx) : Bool :=
  slotOpenTo m n o.ready o.x &&
    !((m.port n).oq.any fun p => p.x.job == o.x.job && p.x.ttid == o.x.ttid && decide (p.ready < o.ready) &&
        reservedTx m n p.x && hasCredit m n p.x.vc.toNat (.tx p.x))

/-- A best-effort frame may start: the present slot is not reserved, or its owner leaves it unused, and the
frame ends before a reserved next slot begins (R304). -/
def bestOk (m : Module) (n : Nat) (bytes : Nat) : Bool :=
  let k := slotAt m.now
  let here := liveEntry m n k
  let nextRes := k + 1 < 125 && (liveEntry m n (k + 1)).1
  (!here.1 || !((m.port n).oq.any fun o =>
      o.x.job == here.2.1 && o.x.ttid == here.2.2 && reservedTx m n o.x && ownSlotOk m n o &&
        hasCredit m n o.x.vc.toNat (.tx o.x))) &&
    (!nextRes || fitsSlot m n bytes)

/-! Control frames -/

/-- The frames of an alignment exchange, which travel only in slot 0 (09 R292, R301). -/
def isExchange : Frame → Bool
  | .sync .. => true
  | .followup .. => true
  | .delayreq _ => true
  | .delayresp .. => true
  | _ => false

/-- What a port sends in its state (10 Table 10.5, R318); a port in TRAINING may also ask for a frame again (R325, log 149). -/
def sendsCtl (p : Port) (f : Frame) : Bool :=
  match p.st, f with
  | .up, _ => true
  | .miswire, .status _ => true
  | .training, .status _ => true
  | .training, .replay _ => true
  | _, _ => false

/-- A control frame other than FAULT may start in the present slot (09 R301, R304). -/
def ctlSlotOk (m : Module) (n : Nat) (f : Frame) : Bool :=
  bestOk m n 68 && (!(isExchange f) || (slotAt m.now == 0 && fitsSlot m n 68))

/-- A control frame may start now; frames to be sent again go before it (R325, R328). -/
def ctlOk (m : Module) (n : Nat) (f : Frame) : Bool :=
  sendsCtl (m.port n) f && (m.port n).resend.isEmpty && hasCredit m n 6 f && wireFree m n && ctlSlotOk m n f

/-- Send the control frames that credits and slots now allow; one that waits for slot 0 holds up no other kind. -/
def flushCtl (n : Nat) (m : Module) : Module :=
  let go := fun (m : Module) (f : Frame) =>
    if ctlOk m n f then emitVc n 6 f (m.updPort n fun p => { p with cq := p.cq.erase f }) else m
  (m.port n).cq.foldl go m

/-- Send the FAULT frames that wait for credits or a frame boundary: no slot holds them up (R355, 09 R304). -/
def flushFault (n : Nat) (m : Module) : Module :=
  let go := fun (m : Module) (b : FaultB) =>
    if hasCredit m n 6 (.fault b) && wireFree m n && (m.port n).st == .up then
      emitVc n 6 (.fault b) (m.updPort n fun p => { p with fq := p.fq.erase b })
    else m
  (m.port n).fq.foldl go m

/-- A frame may be sent again now: under R305 with a TTID that has slots here, else best-effort (R325). -/
def againOk (m : Module) (n : Nat) (f : Frame) : Bool :=
  wireFree m n && (match f with
    | .tx x => if reservedTx m n x then slotOpenTo m n (m.port n).resendAt x else bestOk m n (txBytes x)
    | .fault _ => true
    | g => ctlSlotOk m n g)

/-- Send again, in order, what the rules allow now. -/
def flushAgain (n : Nat) (m : Module) : Module :=
  let go := fun (m : Module) (e : Nat × Frame) =>
    if againOk m n e.2 && (m.port n).resend.head? == some e then
      putFrame n e.1 e.2 (m.updPort n fun p =>
        { p with resend := p.resend.drop 1,
                 slotUse := match e.2 with
                   | .tx x => if reservedTx m n x then (slotStart m.now, usedIn m n + 1) else p.slotUse
                   | _ => p.slotUse })
    else m
  (m.port n).resend.foldl go m

/-- Send what waits at a port beside new transactions: FAULT frames, frames again, control frames (R329). -/
def flushPort (n : Nat) (m : Module) : Module := flushCtl n (flushAgain n (flushFault n m))

/-- Send a control frame on channel 6 behind those that wait (R324, R328). -/
def emitCtl (n : Nat) (f : Frame) (m : Module) : Module :=
  flushPort n (m.updPort n fun p => { p with cq := p.cq ++ [f] })

/-- A FAULT frame goes ahead of every queued frame (R355). -/
def emitFault (n : Nat) (b : FaultB) (m : Module) : Module :=
  flushFault n (m.updPort n fun p => { p with fq := p.fq ++ [b] })

/-- The ports that are UP. -/
def upPorts (m : Module) : List Nat := (upTo 10).filter fun n => (m.port n).st == .up

end Sys2Proof.Machine
end

