-- ==== Sys2Proof/Machine/CtxOps.lean ====
section
/-! DEFINITION. Context faults, FAULT frames, completion of engine commands, and the IDLE state (03 R85 to
R87, R114 to R117; 10 R354 to R356; 13 R435 to R437). -/

namespace Sys2Proof.Machine

/-- Cause code (03 Table 3.8). -/
def Cause.code : Cause → Nat
  | .none => 0
  | .pageFault => 1
  | .poisonConsumed => 2
  | .reserveFull => 3
  | .reserveTag => 4
  | .overdue => 8
  | .jobAbort => 9
  | .escalated => 10

/-- Sub-cause code. -/
def PageSub.code : PageSub → Nat
  | .none => 0
  | .notValid => 1
  | .notWritable => 2
  | .notOwned => 3
  | .badSpace => 4
  | .remoteDenied => 5
  | .noTarget => 6
  | .badModule => 7

/-- What a fault records (03 R115): cause, sub-cause, call number, thread, and for poison from the cart the
tag of its tile (13 Table 13.8). -/
structure FaultInfo where
  cause : Cause
  sub : PageSub
  addr : Word
  src : BitVec 17
  tag : Nat
  deriving DecidableEq, Repr

/-- A page-fault. -/
def pageFault (sub : PageSub) (addr : Word) (src : BitVec 17) : FaultInfo :=
  { cause := .pageFault, sub := sub, addr := addr, src := src, tag := 0 }
/-- Poison consumed. -/
def poisonFault (addr : Word) (src : BitVec 17) : FaultInfo :=
  { cause := .poisonConsumed, sub := .none, addr := addr, src := src, tag := 0 }
/-- A fault from outside the context's own checks, with its call number. -/
def outerFault (c : Cause) (addr : Word) (src : BitVec 17) : FaultInfo :=
  { cause := c, sub := .none, addr := addr, src := src, tag := 0 }

/-- Latch a fault (03 R115, R117): the first one records and stops the context; a later one counts. A
context in TEARDOWN takes only ESCALATED, and goes on with its teardown (13 R425, R426). -/
def latch (slot : Nat) (f : FaultInfo) (m : Module) : Module :=
  let x := m.ctx slot
  if x.state = .free ∨ (x.state = .teardown ∧ f.cause ≠ .escalated) then m
  else if x.fault.cause ≠ .none then
    m.updCtx slot fun x => { x with fault := { x.fault with count := satAdd 8 x.fault.count 1 } }
  else
    let m := m.updCtx slot fun x =>
      { x with state := if x.state = .teardown then .teardown else .faulted,
               fault := { cause := f.cause, sub := f.sub, count := 0, addr := f.addr, src := f.src } }
    let m := led (0x0100 + f.cause.code) (if f.cause = .poisonConsumed then sevError else sevWarn) (atCtx m slot)
      [f.addr.toNat, f.src.toNat, f.sub.code, f.tag] m
    match boundFn m x.part with
    | some g => irq g 0 m
    | none => m

/-- A module is a member of a group bound for the context's job (10 R356, 13 R441). -/
def groupHas (m : Module) (slot : Nat) (subject : BitVec 16) : Bool :=
  m.fab.groups.any fun g => g.slot == slot && g.members.contains subject

/-- A FAULT concerns a context. -/
def concerns (m : Module) (b : FaultB) (slot : Nat) : Bool :=
  match b.type with
  | .job => (m.ctx slot).r.job == b.subject
  | _ => groupHas m slot b.subject

/-- The Librarian applies a FAULT to the contexts of the module (10 R356). DESIGN CHOICE (log 155): CTXFAULTADDR and CTXFAULTSRC
of a JOB_ABORT are 0; no thread's work caused it. -/
def applyFault (b : FaultB) (m : Module) : Module :=
  let hit := (slotsWhere m Ctx.live).filter (concerns m b)
  let m := each (hit.filter fun i => (m.ctx i).r.abort) (fun i => latch i (outerFault .jobAbort 0 0)) m
  if hit.any fun i => !(m.ctx i).r.abort then
    let ty := match b.type with
      | .linkDown => 1
      | .peerFenced => 2
      | .job => 3
    led 0x050C sevInfo atModule [b.reporter.toNat, b.subject.toNat, ty, b.serial.toNat] m
  else m

/-- The module sends a FAULT of its own on every UP port, remembers it and applies it (10 R354 to R356). -/
def sendFault (ty : FaultType) (subject : BitVec 16) (m : Module) : Module :=
  let b : FaultB := { type := ty, reporter := BitVec.ofNat 16 m.num, subject := subject,
                      serial := BitVec.ofNat 32 m.fab.serial, dstamp := m.now }
  let m := { m with fab := { m.fab with serial := (m.fab.serial + 1) % 2 ^ 32,
                                        seen := m.fab.seen ++ [(m.num, m.fab.serial, m.now)] } }
  applyFault b (each (upPorts m) (fun n => emitFault n b) m)

/-- A context fault: latched, and in abort mode told to the job unless it is itself a JOB_ABORT
(13 R436). -/
def ctxFault (slot : Nat) (f : FaultInfo) (m : Module) : Module :=
  let x := m.ctx slot
  let first := x.fault.cause == .none && x.state != .free && (x.state != .teardown || f.cause == .escalated)
  let m := latch slot f m
  if first && x.r.abort && f.cause != .jobAbort then
    let m := led 0x0304 sevWarn (atCtx m slot) [x.r.job.toNat, m.fab.serial] m
    sendFault .job x.r.job m
  else m

/-- A refused access faults its context (03 R89 to R103, 08 R279). -/
def denyFault (slot : Nat) (sub : Option PageSub) (addr : Word) (src : BitVec 17) (m : Module) : Module :=
  match sub with
  | some s => ctxFault slot (pageFault s addr src) m
  | none => ctxFault slot (poisonFault addr src) m

/-! Running and idle (03 R85) -/

/-- A thread of the context runs. -/
def anyRunning (m : Module) (slot : Nat) : Bool :=
  m.threads.any fun e => e.2.running && (m.ctx slot).r.cores.getLsbD (e.1 / 256)

/-- An engine command or descriptor of a core is outstanding. -/
def coreWork (c : CoreSt) : Bool :=
  !c.meQ.isEmpty || c.meRun.isSome || !c.veQ.isEmpty || !c.chains.isEmpty || !c.teQ.isEmpty ||
    !c.teRun.isEmpty || !c.tePark.isEmpty

/-- A remote transaction of the context is outstanding. -/
def anyFlight (m : Module) (slot : Nat) : Bool :=
  m.fab.flights.any (fun f => f.slot == slot) || m.fab.waiting.any fun f => f.slot == slot

/-- Accesses of a context are outstanding; the writes of its deposits are none. -/
def anyAccess (m : Module) (slot : Nat) : Bool :=
  m.fab.flights.any (fun f => f.slot == slot && !f.who.quiet) || m.fab.waiting.any fun f => f.slot == slot && !f.who.quiet

/-- RUNNING becomes IDLE once every thread has halted and nothing is outstanding. -/
def settle (slot : Nat) (m : Module) : Module :=
  let x := m.ctx slot
  if x.state = .running && !(anyRunning m slot) && !(anyAccess m slot) &&
     (m.cores.all fun e => !(x.r.cores.getLsbD e.1 && coreWork e.2)) then
    m.updCtx slot fun x => { x with state := .idle }
  else m

/-- A command completes (04 R140, 03 R110): its counter increments, it is no longer outstanding, and it
counts as progress unless it completed with a timeout (07 R246, R249). -/
def complete (i : Iss) (prog : Bool) (m : Module) : Module :=
  if (m.ctx i.slot).gen.toNat = i.gen ∧ (m.ctx i.slot).state ≠ .teardown then
    let m := bumpCtr i.slot i.fin.ce i.fin.ctr m
    let m := m.updThread i.t fun t => { t with outCmds := t.outCmds - 1 }
    let m := match i.due with
      | some d => dueDone i.slot { d := d, at_ := i.at_, t := i.t } m
      | none => m
    settle i.slot (if prog then progress i.slot m else m)
  else m

end Sys2Proof.Machine
end

