-- ==== Sys2Proof/Machine/Float.lean ====
section
/-! DEFINITION. Number formats, exact values, rounding and FP32 arithmetic (02 R31 to R65, R560). A value is
a NaN, an infinity or an exact dyadic number; every operation forms the exact result (division and square
root with enough bits and a sticky bit) and rounds once. -/

namespace Sys2Proof.Machine

/-- An exact value: a NaN, an infinity, or (−1)^neg × m × 2^e. The sign of a zero is kept. -/
inductive FVal where
  | nan
  | inf (neg : Bool)
  | fin (neg : Bool) (m : Nat) (e : Int)
  deriving DecidableEq, Repr

/-- An element format of 02 Table 2.1. -/
structure Fmt where
  bits : Nat
  ebits : Nat
  mbits : Nat
  bias : Nat
  /-- Largest finite encoding, sign clear. -/
  maxFin : Nat
  hasInf : Bool
  /-- The canonical NaN (02 Table 2.4). -/
  canon : Nat
  deriving DecidableEq, Repr

def fmtF4 : Fmt := { bits := 4, ebits := 2, mbits := 1, bias := 1, maxFin := 7, hasInf := false, canon := 8 }
def fmtF8a : Fmt :=
  { bits := 8, ebits := 4, mbits := 3, bias := 7, maxFin := 0x7E, hasInf := false, canon := 0x7F }
def fmtF8b : Fmt :=
  { bits := 8, ebits := 5, mbits := 2, bias := 15, maxFin := 0x7B, hasInf := true, canon := 0x7E }
def fmtBF16 : Fmt :=
  { bits := 16, ebits := 8, mbits := 7, bias := 127, maxFin := 0x7F7F, hasInf := true, canon := 0x7FC0 }
def fmtFP16 : Fmt :=
  { bits := 16, ebits := 5, mbits := 10, bias := 15, maxFin := 0x7BFF, hasInf := true, canon := 0x7E00 }
def fmtFP32 : Fmt :=
  { bits := 32, ebits := 8, mbits := 23, bias := 127, maxFin := 0x7F7FFFFF, hasInf := true,
    canon := 0x7FC00000 }

/-- The value of an encoding (02 R32, R34, R36, R37). -/
def decodeF (f : Fmt) (x : Nat) : FVal :=
  let s := x / 2 ^ (f.bits - 1) % 2 == 1
  let mag := x % 2 ^ (f.bits - 1)
  let e := mag / 2 ^ f.mbits
  let m := mag % 2 ^ f.mbits
  if f.bits = 4 ∧ x % 16 = 8 then .nan
  else if mag > f.maxFin then (if f.hasInf ∧ mag = f.maxFin + 1 then .inf s else .nan)
  else if e = 0 then .fin s m (1 - (f.bias : Int) - f.mbits)
  else .fin s (m + 2 ^ f.mbits) ((e : Int) - f.bias - f.mbits)

/-- Rounding modes of a single rounding: truncation, nearest-even, or stochastic with 16 random bits. -/
inductive RMode where
  | trunc
  | rne
  | sr (r : Nat)
  deriving DecidableEq, Repr

/-- Round m × 2^e to a multiple of 2^q: the multiple's count. -/
def roundAt (mode : RMode) (m : Nat) (e q : Int) : Nat :=
  if q ≤ e then m * 2 ^ (e - q).toNat
  else
    let k := (q - e).toNat
    let hi := m / 2 ^ k
    let lo := m % 2 ^ k
    match mode with
    | .trunc => hi
    | .rne => if 2 * lo > 2 ^ k ∨ (2 * lo = 2 ^ k ∧ hi % 2 = 1) then hi + 1 else hi
    | .sr r => if r < lo * 65536 / 2 ^ k then hi + 1 else hi

/-- Exponent of the leading bit of m × 2^e. -/
def leadExp (m : Nat) (e : Int) : Int := (Nat.log2 m : Int) + e

/-- The weight of the last kept bit of a non-zero magnitude in a format. -/
def ulpExp (f : Fmt) (m : Nat) (e : Int) : Int :=
  let emin : Int := 1 - (f.bias : Int)
  (if leadExp m e < emin then emin else leadExp m e) - f.mbits

/-- The magnitude encoding of c × 2^q, c with at most mbits + 1 bits (a carry to the next binade allowed). -/
def packMag (f : Fmt) (c : Nat) (q : Int) : Nat :=
  let emin : Int := 1 - (f.bias : Int) - f.mbits
  if c < 2 ^ f.mbits then c
  else if c = 2 ^ (f.mbits + 1) then (q - emin + 2).toNat * 2 ^ f.mbits
  else (q - emin + 1).toNat * 2 ^ f.mbits + (c - 2 ^ f.mbits)

/-- The encoding of a signed magnitude; F4 has no −0 (02 R34, R35). -/
def signMag (f : Fmt) (neg : Bool) (mag : Nat) : Nat :=
  if neg ∧ ¬ (f.bits = 4 ∧ mag = 0) then mag + 2 ^ (f.bits - 1) else mag

/-- The errata events of 02 Table 2.8, numbered as ERRSUM numbers them (18 Table 18.7). -/
inductive Ev where
  | overflow | nanCreate | infCreate | saturate | underflow | late
  deriving DecidableEq, Repr

namespace Ev

/-- Event number. -/
def num : Ev → Nat
  | .overflow => 0
  | .nanCreate => 1
  | .infCreate => 2
  | .saturate => 3
  | .underflow => 4
  | .late => 5

end Ev

/-- Narrowing of an exact value to a format (02 R50, Table 2.5): the encoding and the events. -/
def narrow (f : Fmt) (mode : RMode) (x : FVal) : Nat × List Ev :=
  match x with
  | .nan => (f.canon, [])
  | .inf neg => if f.hasInf then (signMag f neg (f.maxFin + 1), []) else (signMag f neg f.maxFin, [.saturate])
  | .fin neg m e =>
    if m = 0 then (signMag f neg 0, [])
    else
      let q := ulpExp f m e
      -- the largest finite value is c₀ × 2^q₀ with c₀ of mbits + 1 bits
      let c0 := f.maxFin % 2 ^ f.mbits + 2 ^ f.mbits
      let q0 : Int := (f.maxFin / 2 ^ f.mbits : Nat) - (f.bias : Int) - f.mbits
      if roundAt .trunc m e q0 > c0 ∨ (roundAt .trunc m e q0 = c0 ∧ q0 > e ∧ m % 2 ^ (q0 - e).toNat ≠ 0) then
        (signMag f neg f.maxFin, [.saturate])
      else
        let c := roundAt mode m e q
        if c = 0 then (signMag f neg 0, [.underflow]) else (signMag f neg (packMag f c q), [])

/-- An arithmetic result in FP32 (02 R53, R560): overflow gives ±∞ under nearest-even and the largest
finite value under truncation; a non-zero value that becomes zero counts UNDERFLOW. -/
def arith (mode : RMode) (x : FVal) : W32 × List Ev :=
  match x with
  | .nan => (0x7FC00000#32, [])
  | .inf neg => (BitVec.ofNat 32 (signMag fmtFP32 neg 0x7F800000), [])
  | .fin neg m e =>
    if m = 0 then (BitVec.ofNat 32 (signMag fmtFP32 neg 0), [])
    else
      let q := ulpExp fmtFP32 m e
      let c := roundAt mode m e q
      if c = 0 then (BitVec.ofNat 32 (signMag fmtFP32 neg 0), [.underflow])
      else
        let mag := packMag fmtFP32 c q
        if mag > 0x7F7FFFFF then
          match mode with
          | .trunc => (BitVec.ofNat 32 (signMag fmtFP32 neg 0x7F7FFFFF), [.overflow])
          | _ => (BitVec.ofNat 32 (signMag fmtFP32 neg 0x7F800000), [.overflow, .infCreate])
        else (BitVec.ofNat 32 (signMag fmtFP32 neg mag), [])

/-- The value of an FP32 encoding. -/
def f32 (x : W32) : FVal := decodeF fmtFP32 x.toNat

namespace FVal

def isNan : FVal → Bool
  | .nan => true
  | _ => false

/-- Sign bit of a value (a NaN counts as positive: its sign is not kept, 02 R39). -/
def sign : FVal → Bool
  | .nan => false
  | .inf n => n
  | .fin n _ _ => n

def isZero : FVal → Bool
  | .fin _ m _ => m == 0
  | _ => false

def isInf : FVal → Bool
  | .inf _ => true
  | _ => false

def neg : FVal → FVal
  | .nan => .nan
  | .inf n => .inf (!n)
  | .fin n m e => .fin (!n) m e

def abs : FVal → FVal
  | .nan => .nan
  | .inf _ => .inf false
  | .fin _ m e => .fin false m e

/-- Signed integer count of a finite value at weight 2^q, q at most its exponent. -/
def count (q : Int) : FVal → Int
  | .fin n m e => let c : Int := (m : Int) * 2 ^ (e - q).toNat; if n then -c else c
  | _ => 0

/-- Exponent of a finite value's last bit. -/
def exp : FVal → Int
  | .fin _ _ e => e
  | _ => 0

/-- A signed integer count at weight 2^q as a value; `zneg` is the sign of an exact zero. -/
def ofCount (c q : Int) (zneg : Bool) : FVal :=
  if c = 0 then .fin zneg 0 q else .fin (decide (c < 0)) c.natAbs q

/-- Exact sum under nearest-even or truncation (02 R44): x + (−x) is +0, (−0) + (−0) is −0. -/
def add (a b : FVal) : FVal :=
  match a, b with
  | .nan, _ => .nan
  | _, .nan => .nan
  | .inf n, .inf n' => if n = n' then .inf n else .nan
  | .inf n, _ => .inf n
  | _, .inf n => .inf n
  | .fin n m e, .fin n' m' e' =>
    let q := Min.min e e'
    ofCount (count q (.fin n m e) + count q (.fin n' m' e')) q (n && n' && m == 0 && m' == 0)

/-- Exact product; 0 × ∞ is NaN. -/
def mul (a b : FVal) : FVal :=
  match a, b with
  | .nan, _ => .nan
  | _, .nan => .nan
  | .inf n, y => if y.isZero then .nan else .inf (n != y.sign)
  | x, .inf n => if x.isZero then .nan else .inf (n != x.sign)
  | .fin n m e, .fin n' m' e' => .fin (n != n') (m * m') (e + e')

/-- Quotient with at least 64 significant bits and a sticky last bit. -/
def div (a b : FVal) : FVal :=
  match a, b with
  | .nan, _ => .nan
  | _, .nan => .nan
  | .inf _, .inf _ => .nan
  | .inf n, y => .inf (n != y.sign)
  | x, .inf n => .fin (n != x.sign) 0 0
  | .fin n m e, .fin n' m' e' =>
    if m' = 0 then (if m = 0 then .nan else .inf (n != n'))
    else
      let k := 64 + Nat.log2 m'
      let w := m * 2 ^ k
      .fin (n != n') (2 * (w / m') + (if w % m' = 0 then 0 else 1)) (e - e' - k - 1)

/-- Integer square root by bits: the largest r ≤ bound with r² ≤ x. -/
def isqrt (x : Nat) : Nat → Nat → Nat
  | 0, r => r
  | k + 1, r => let r' := r + 2 ^ k; isqrt x k (if r' * r' ≤ x then r' else r)

/-- Square root with a sticky last bit; of a negative number NaN; of ±0 that zero. -/
def sqrt (a : FVal) : FVal :=
  match a with
  | .nan => .nan
  | .inf true => .nan
  | .inf false => .inf false
  | .fin n m e =>
    if m = 0 then .fin n 0 e
    else if n then .nan
    else
      let k := 64 + (e + 64) % 2
      let w := m * 2 ^ k.toNat
      let r := isqrt w (Nat.log2 w / 2 + 1) 0
      .fin false (2 * r + (if r * r = w then 0 else 1)) ((e - k) / 2 - 1)

/-- Strict order of two values that are not NaN, −0 equal to +0. -/
def lt (a b : FVal) : Bool :=
  match a, b with
  | .nan, _ => false
  | _, .nan => false
  | .inf n, .inf n' => n && !n'
  | .inf n, _ => n
  | _, .inf n => !n
  | .fin n m e, .fin n' m' e' =>
    let q := Min.min e e'
    decide (count q (.fin n m e) < count q (.fin n' m' e'))

/-- Equality as a compare predicate. -/
def eqv (a b : FVal) : Bool := !a.isNan && !b.isNan && !(lt a b) && !(lt b a)

end FVal

/-- Events of an operation whose operands are a and b and whose exact value is x: NAN_CREATE when the NaN
comes from operands none of which is NaN, INF_CREATE when the infinity comes from finite operands (02
Table 2.8). -/
def createEvents (ops : List FVal) (x : FVal) : List Ev :=
  (if x.isNan ∧ ops.all (fun a => !a.isNan) then [Ev.nanCreate] else []) ++
  (if x.isInf ∧ ops.all (fun a => !a.isInf && !a.isNan) then [Ev.infCreate] else [])

/-- One FP32 operation: exact value, rounded to nearest-even, with its events (02 R58, R132). -/
def op32 (ops : List FVal) (x : FVal) : W32 × List Ev :=
  let r := arith .rne x
  (r.1, createEvents ops x ++ r.2)

def fadd32 (a b : W32) : W32 × List Ev := op32 [f32 a, f32 b] (FVal.add (f32 a) (f32 b))
def fsub32 (a b : W32) : W32 × List Ev := op32 [f32 a, f32 b] (FVal.add (f32 a) (f32 b).neg)
def fmul32 (a b : W32) : W32 × List Ev := op32 [f32 a, f32 b] (FVal.mul (f32 a) (f32 b))
def fdiv32 (a b : W32) : W32 × List Ev := op32 [f32 a, f32 b] (FVal.div (f32 a) (f32 b))
def fsqrt32 (a : W32) : W32 × List Ev := op32 [f32 a] (FVal.sqrt (f32 a))
/-- a × b + c with one rounding. -/
def fma32 (a b c : W32) : W32 × List Ev :=
  op32 [f32 a, f32 b, f32 c] (FVal.add (FVal.mul (f32 a) (f32 b)) (f32 c))

/-- The canonical FP32 NaN. -/
def nan32 : W32 := 0x7FC00000#32
def inf32 : W32 := 0x7F800000#32
def ninf32 : W32 := 0xFF800000#32
def one32 : W32 := 0x3F800000#32

/-- IEEE minimum (02 R46): a NaN operand gives NaN, −0 orders below +0. -/
def fmin32 (a b : W32) : W32 :=
  if (f32 a).isNan || (f32 b).isNan then nan32
  else if (f32 a).lt (f32 b) then a
  else if (f32 b).lt (f32 a) then b
  else if (f32 a).sign then a else b

/-- IEEE maximum (02 R46). -/
def fmax32 (a b : W32) : W32 :=
  if (f32 a).isNan || (f32 b).isNan then nan32
  else if (f32 a).lt (f32 b) then b
  else if (f32 b).lt (f32 a) then a
  else if (f32 a).sign then b else a

/-- Signed integer to FP32, nearest-even. -/
def ofInt32 (v : Int) : W32 := (arith .rne (FVal.ofCount v 0 false)).1

/-- FP32 to a signed 64-bit integer toward zero, NaN to 0, saturating (04 R132). -/
def toInt64 (x : W32) : Int :=
  match f32 x with
  | .nan => 0
  | .inf n => if n then -(2 ^ 63) else 2 ^ 63 - 1
  | .fin n m e =>
    let c : Int := roundAt .trunc m e 0
    let v := if n then -c else c
    Max.max (-(2 ^ 63)) (Min.min (2 ^ 63 - 1) v)

/-! Format codes (04 Table 4.9) -/

/-- The element format of a code: 0x0 to 0x5, or the elements of a quire 0x8 to 0xA. -/
def elemFmt (code : BitVec 4) : Fmt :=
  match code.toNat with
  | 0 => fmtF4
  | 1 => fmtF8a
  | 2 => fmtF8b
  | 3 => fmtBF16
  | 4 => fmtFP16
  | 8 => fmtF4
  | 9 => fmtF8a
  | 10 => fmtF8b
  | _ => fmtFP32

/-- The code names an element format or a quire. -/
def fmtListed (code : BitVec 4) : Bool := code.toNat ≤ 5 || (8 ≤ code.toNat && code.toNat ≤ 10)

/-- The code names a quire. -/
def isQuire (code : BitVec 4) : Bool := 8 ≤ code.toNat && code.toNat ≤ 10

/-- The value of an element scaled by a quire's scale code (02 R40). -/
def scaled (code : BitVec 4) (scale elem : Nat) : FVal :=
  if isQuire code then
    if scale = 255 then .nan
    else
      match decodeF (elemFmt code) elem with
      | .fin n m e => .fin n m (e + scale - 127)
      | v => v
  else decodeF (elemFmt code) elem

/-- Conversion to FP32 (02 R48): exact, except a quire element beyond the finite range, which saturates. -/
def toF32 (code : BitVec 4) (scale elem : Nat) : W32 × List Ev :=
  let r := narrow fmtFP32 .rne (scaled code scale elem)
  (BitVec.ofNat 32 r.1, r.2.filter (· == Ev.saturate))

/-- The least k with m × 2^e ≤ n × 2^k × 2^e', for the quire scale: ⌈log2 (m 2^e / (n 2^e'))⌉. -/
def ceilLog2 (m : Nat) (e : Int) (n : Nat) (e' : Int) : Int :=
  let k := leadExp m e - leadExp n e'
  -- candidates k and k + 1
  let q := Min.min e (e' + k)
  if (m : Int) * 2 ^ (e - q).toNat ≤ (n : Int) * 2 ^ (e' + k - q).toNat then k else k + 1

/-- Largest magnitude among finite values. -/
def amax : List FVal → FVal
  | [] => .fin false 0 0
  | v :: vs =>
    let b := amax vs
    match v with
    | .fin _ m e => if FVal.lt b (.fin false m e) then .fin false m e else b
    | _ => b

/-- The scale code of a block (02 R43). -/
def quireScale (f : Fmt) (vs : List FVal) : Nat :=
  if vs.any FVal.isNan then 255
  else
    match amax vs with
    | .fin _ m e =>
      if m = 0 then 127
      else
        match decodeF f f.maxFin with
        | .fin _ n e' => (Max.max 0 (Min.min 254 (127 + ceilLog2 m e n e'))).toNat
        | _ => 127
    | _ => 127

/-- x × 2^(127 − c). -/
def unscale (c : Nat) : FVal → FVal
  | .fin n m e => .fin n m (e + 127 - c)
  | v => v

end Sys2Proof.Machine
end

