-- ==== Sys2Proof/Machine/Flags.lean ====
section
/-! DEFINITION. The errata counters and sticky bits (02 R64 to R71): the machine's flags. -/

namespace Sys2Proof.Machine

/-- Place of a counter: engine, set, event (18 Table 18.11). -/
def errKey (e : Engine) (set ev : Nat) : Nat := 24 * e.num + 6 * set + ev

/-- The sets that count an event of work with a tag: set 0, and every bound set with that tag (R66). -/
def errSets (x : Ctx) (tag : Option W32) : List Nat :=
  0 :: (match tag with
    | some g => [1, 2, 3].filter fun s =>
        let b := Sparse.get (false, (0 : W32)) x.errtag s
        b.1 && b.2 == g
    | none => [])

/-- Count n occurrences of one event: the counters stop at 2^32 − 1 (R67), ERRSUM sets (R68). -/
def countEv (slot core : Nat) (e : Engine) (tag : Option W32) (n : Nat) (ev : Ev) (m : Module) : Module :=
  let sets := errSets (m.ctx slot) tag
  let m := m.updCore core fun c =>
    { c with err := sets.foldl (fun r s => Sparse.upd 0 r (errKey e s ev.num) fun v => satAdd 32 v n) c.err }
  m.updCtx slot fun x =>
    { x with
      errsum := sets.foldl (fun b s => b ||| ((1 : BitVec 32) <<< (8 * s + ev.num))) x.errsum }

/-- Count a list of events, once each. -/
def countEvs (slot core : Nat) (e : Engine) (tag : Option W32) (evs : List Ev) (m : Module) : Module :=
  evs.foldl (fun m ev => countEv slot core e tag 1 ev m) m

/-- Clear sets in every engine of a context, with their ERRSUM bits (18 Table 18.7, ERRCLR). -/
def clearErr (slot : Nat) (sets : BitVec 4) (m : Module) : Module :=
  let hit := fun (s : Nat) => sets.getLsbD s
  let x := m.ctx slot
  let m : Module := { m with
    cores := m.cores.map fun e =>
      if x.r.cores.getLsbD e.1 then
        (e.1, { e.2 with err := Sparse.keep (fun k => !hit (k % 24 / 6)) e.2.err })
      else e }
  m.updCtx slot fun x =>
    { x with
      errsum := (upTo 4).foldl
        (fun b s => if hit s then b &&& ~~~((0x3F : BitVec 32) <<< (8 * s)) else b) x.errsum }

/-- LATE counts once per late launch (R65, 04 R158). -/
def countLate (slot core : Nat) (e : Engine) (tag : Option W32) (late : Bool) (m : Module) : Module :=
  if late then countEv slot core e tag 1 .late m else m

end Sys2Proof.Machine
end

