-- ==== Sys2Proof/Machine/Access.lean ====
section
/-! DEFINITION. Call numbers, page tables, KV tables and the checks of an access (03 R88 to R103, 08 R257,
15 R498, 18 R554). -/

namespace Sys2Proof.Machine

/-- MODULE, SPACE and OFFSET of a call number (03 Table 3.2). -/
def callMod (c : Word) : Nat := field c 48 16
def callSpace (c : Word) : Nat := field c 44 4
def callOff (c : Word) : Nat := field c 0 44

/-- The call number names this module (R89). -/
def isLocal (m : Module) (c : Word) : Bool := callMod c == 0xFFFF || callMod c == m.num

/-- What an access does at its target. -/
inductive Acc where
  | read | write | atomic | fetch
  deriving DecidableEq, Repr

/-- The access changes memory. -/
def Acc.writes : Acc → Bool
  | .write => true
  | .atomic => true
  | _ => false

/-- The answer of the checks: a byte of memory, a control-space offset, another module, a page-fault, or a
poisoned table entry met on the way. -/
inductive Ans where
  | pa (k : Nat)
  | ctl (off : Nat)
  | remote
  | deny (sub : PageSub)
  | poison
  deriving DecidableEq, Repr

/-- A frame of a deposit region of the partition: no context may map it (14 R460). -/
def inDeposit (m : Module) (p fr : Nat) : Bool :=
  let q := m.part p
  decide (q.depFirst ≤ fr) && decide (fr < q.depFirst + q.depCount)

/-- A frame that a context of partition p may name (03 R97, 08 R257). -/
def frameOk (m : Module) (p fr : Nat) : Bool :=
  softFrame fr && partOfDie m (dieOfFrame fr) == p && !inDeposit m p fr

/-- Read a table entry of n bytes with its mark. -/
def readEntry (pa n : Nat) (m : Module) : Module × Nat × Bool :=
  let r := readPas ((upTo n).map (pa + ·)) m
  (r.1, bytesNat r.2, anyBad r.2)

/-- Page-table entry fields (03 Table 3.4). -/
def pteValid (e : Nat) : Bool := e / 2 ^ 63 % 2 == 1
def pteWrite (e : Nat) : Bool := e / 2 ^ 62 % 2 == 1
def pteRemrd (e : Nat) : Bool := e / 2 ^ 61 % 2 == 1
def pteRemwr (e : Nat) : Bool := e / 2 ^ 60 % 2 == 1
def pteCow (e : Nat) : Bool := e / 2 ^ 59 % 2 == 1
def pteFrame (e : Nat) : Nat := e % 2 ^ 28

/-- Where the leaf entry of a virtual page lies, or why there is none (03 R95 to R97). -/
inductive Leaf where
  | at_ (pa : Nat)
  | none (sub : PageSub)
  | poison
  deriving DecidableEq, Repr

/-- The first level of the walk. -/
def leafAddr (part ptbase vpn : Nat) (m : Module) : Module × Leaf :=
  if !(frameOk m part (ptbase + vpn / 8192 / 8192)) then (m, .none .notOwned)
  else
    let r := readEntry (paMain ptbase 0 + 8 * (vpn / 8192)) 8 m
    if r.2.2 then (r.1, .poison)
    else if !(pteValid r.2.1) then (r.1, .none .notValid)
    else if !(frameOk r.1 part (pteFrame r.2.1)) then (r.1, .none .notOwned)
    else (r.1, .at_ (paMain (pteFrame r.2.1) (8 * (vpn % 8192))))

/-- Key of a cached translation. -/
def tlbKey (slot vpn : Nat) : Nat := slot * 2 ^ 28 + vpn

/-- The leaf entry of a virtual page as the context's cores see it: cached, else walked and, when valid,
cached (03 R99, R100). -/
def pteOf (slot vpn : Nat) (m : Module) : Module × Except Ans Nat :=
  let c := Sparse.get (0 : Word) m.tlb (tlbKey slot vpn)
  if c ≠ 0 then (m, .ok c.toNat)
  else
    let x := m.ctx slot
    let r := leafAddr x.part x.r.ptbase.toNat vpn m
    match r.2 with
    | .poison => (r.1, .error .poison)
    | .none sub => (r.1, .error (.deny sub))
    | .at_ pa =>
      let e := readEntry pa 8 r.1
      if e.2.2 then (e.1, .error .poison)
      else if !(pteValid e.2.1) then (e.1, .error (.deny .notValid))
      else
        ({ e.1 with tlb := Sparse.set 0 e.1.tlb (tlbKey slot vpn) (BitVec.ofNat 64 e.2.1) }, .ok e.2.1)

/-- The main-memory byte of a virtual offset through the page tables (03 R95 to R98, Table 3.4); of several failing checks of
an entry NOT_OWNED is named first (log 138). -/
def trPage (slot : Nat) (k : Acc) (remote : Bool) (off : Nat) (m : Module) : Module × Ans :=
  let r := pteOf slot (off / 65536) m
  match r.2 with
  | .error a => (r.1, a)
  | .ok e =>
    if !(frameOk r.1 (r.1.ctx slot).part (pteFrame e)) then (r.1, .deny .notOwned)
    else if k.writes && !(pteWrite e) then (r.1, .deny .notWritable)
    else if remote && !(match k with
        | .read => pteRemrd e
        | .write => pteRemwr e
        | .atomic => pteRemrd e && pteRemwr e
        | .fetch => false) then (r.1, .deny .remoteDenied)
    else (r.1, .pa (paMain (pteFrame e) (off % 65536)))

/-- The KV window of a context that a virtual offset lies in, in a SERVING loan (15 R498). -/
def kvWindow (m : Module) (slot off : Nat) : Option Kv :=
  if (m.part (m.ctx slot).part).role = 1 then
    ((m.ctx slot).kv.find? fun e => decide (e.2.base ≤ off) && decide (off < e.2.base + e.2.len)).map (·.2)
  else none

/-- The context owns a core of the cluster. -/
def ownsCluster (x : Ctx) (cl : Nat) : Bool := (upTo 8).any fun j => x.r.cores.getLsbD (8 * cl + j)

/-- Checks of the spaces other than main memory and control (03 R91, R92). `eng` is the core of the issuing
engine, which alone may name its own tiles (04 R142). -/
def trSpace (m : Module) (slot : Nat) (k : Acc) (remote : Bool) (eng : Option Nat) (sp off : Nat) : Ans :=
  let x := m.ctx slot
  match sp with
  | 1 =>
    let c := off / 2 ^ 22
    if off / 2 ^ 31 ≠ 0 then .deny .badSpace
    else if !(x.r.cores.getLsbD c) then .deny .notOwned
    else .pa (paCarrel c (off % 2 ^ 22))
  | 2 =>
    let cl := off / 2 ^ 24
    if off / 2 ^ 30 ≠ 0 then .deny .badSpace
    else if k = .fetch then .deny .badSpace
    else if !(ownsCluster x cl) then .deny .notOwned
    else if decide (off % 2 ^ 24 / 65536 < x.r.csBase.toNat) ||
            decide (x.r.csBase.toNat + x.r.csSize.toNat ≤ off % 2 ^ 24 / 65536) then .deny .badSpace
    else .pa (paStore cl (off % 2 ^ 24))
  | 3 =>
    let c := off / 2 ^ 19
    if remote || off / 2 ^ 28 ≠ 0 || k = .fetch || k = .atomic then .deny .badSpace
    else if eng.isSome && eng ≠ some c then .deny .badSpace
    else if !(x.r.cores.getLsbD c) then .deny .notOwned
    else .pa (paTile c (off % 2 ^ 19))
  | _ => .deny .badSpace

/-- A control-space offset names the context's own block or the block of an owned core (18 R554). -/
def trCtl (m : Module) (slot off : Nat) : Ans :=
  if off / 2 ^ 22 ≠ 0 then .deny .badSpace
  else if off / 2 ^ 21 % 2 = 0 then (if off / 2 ^ 16 ≠ 0 then .deny .badSpace else .ctl off)
  else if (m.ctx slot).r.cores.getLsbD (off / 4096 % 512) then .ctl off
  else .deny .notOwned

/-- One byte of a KV table or of a page, with the table's own call number checked without KV windows. -/
def trLocal (slot : Nat) (k : Acc) (remote : Bool) (eng : Option Nat) (c : Word) (m : Module) : Module × Ans :=
  if callSpace c = 0 then trPage slot k remote (callOff c) m
  else (m, trSpace m slot k remote eng (callSpace c) (callOff c))

/-- Translation through a KV window (15 R498, Table 15.4). A remote access is refused once its entry has been read: a
poisoned one gives event 0x0406 (03 R103). -/
def trKv (slot : Nat) (k : Acc) (remote : Bool) (w : Kv) (off : Nat) (m : Module) : Module × Ans :=
  let x := m.ctx slot
  let key := tlbKey slot (off / 65536) + 2 ^ 40
  let cached := Sparse.get (0 : Word) m.tlb key
  let look : Module × Except Ans Nat :=
    if cached ≠ 0 then (m, .ok cached.toNat)
    else
      let e := w.table + BitVec.ofNat 64 (4 * ((off - w.base) / 65536))
      let r := trLocal slot .read false none e m
      match r.2 with
      | .pa pa =>
        let v := readEntry pa 4 r.1
        if v.2.2 then (v.1, .error .poison)
        else if v.2.1 / 2 ^ 31 % 2 = 0 then (v.1, .error (.deny .notValid))
        else ({ v.1 with tlb := Sparse.set 0 v.1.tlb key (BitVec.ofNat 64 v.2.1) }, .ok v.2.1)
      | .deny s => (r.1, .error (.deny s))
      | .poison => (r.1, .error .poison)
      | _ => (r.1, .error (.deny .badSpace))
  match look.2 with
  | .error .poison => (look.1, .poison)
  | .error a => (look.1, if remote then .deny .remoteDenied else a)
  | .ok v =>
    if remote then (look.1, .deny .remoteDenied)
    else if !(frameOk look.1 x.part (v % 2 ^ 28)) then (look.1, .deny .notOwned)
    else if k.writes && v / 2 ^ 30 % 2 = 0 then (look.1, .deny .notWritable)
    else (look.1, .pa (paMain (v % 2 ^ 28) (off % 65536)))

/-- The checks of a local access to one byte by context `slot` (03 R91 to R98, R103). -/
def resolveLocal (slot : Nat) (k : Acc) (remote : Bool) (eng : Option Nat) (c : Word) (m : Module) :
    Module × Ans :=
  match callSpace c with
  | 0 =>
    match kvWindow m slot (callOff c) with
    | some w => trKv slot k remote w (callOff c) m
    | none => trPage slot k remote (callOff c) m
  | 4 =>
    if remote || eng.isSome || k = .atomic || k = .fetch then (m, .deny .badSpace)
    else (m, trCtl m slot (callOff c))
  | sp => (m, trSpace m slot k remote eng sp (callOff c))

/-- The checks that need the call number alone, made where a remote access starts (03 R89, R91, R94); BAD_MODULE is named
before BAD_SPACE (log 138). -/
def resolveRemote (m : Module) (c : Word) : Ans :=
  if callMod c ≥ topoCount m.topo then .deny .badModule
  else
    match callSpace c with
    | 0 => .remote
    | 1 => if callOff c / 2 ^ 31 ≠ 0 then .deny .badSpace else .remote
    | 2 => if callOff c / 2 ^ 30 ≠ 0 then .deny .badSpace else .remote
    | _ => .deny .badSpace

/-- The checks of an access to one byte by a thread or an engine of context `slot`. -/
def resolve (slot : Nat) (k : Acc) (eng : Option Nat) (c : Word) (m : Module) : Module × Ans :=
  if isLocal m c then resolveLocal slot k false eng c m
  else if k = .fetch then (m, .deny .badSpace)
  else (m, resolveRemote m c)

/-- The checks of n consecutive bytes: all their keys, or the first answer that is not a byte of memory. -/
def resolveBytes (slot : Nat) (k : Acc) (eng : Option Nat) : Nat → Word → Module → Module × Except Ans (List Nat)
  | 0, _, m => (m, .ok [])
  | n + 1, c, m =>
    let r := resolve slot k eng c m
    match r.2 with
    | .pa pa =>
      let rest := resolveBytes slot k eng n (c + 1) r.1
      match rest.2 with
      | .ok l => (rest.1, .ok (pa :: l))
      | .error a => (rest.1, .error a)
    | a => (r.1, .error a)

/-- The leaf entry of a page as it stands in the context's tables, with its place; for the Librarian's own
work on bookmarks (14 R452). -/
def leafOf (slot vpn : Nat) (m : Module) : Option (Nat × Nat) :=
  let x := m.ctx slot
  match (leafAddr x.part x.r.ptbase.toNat vpn m).2 with
  | .at_ pa => some (pa, leNat ((upTo 8).map fun i => m.byte (pa + i)))
  | _ => none

/-- A main-memory page of a context is marked copy-on-write (14 R455). -/
def isCow (slot vpn : Nat) (m : Module) : Bool :=
  match leafOf slot vpn m with
  | some e => pteValid e.2 && pteCow e.2
  | none => false

/-- The pages with COW set that a write of n bytes at a local call number meets. -/
def cowPages (slot : Nat) (c : Word) (n : Nat) (m : Module) : List Nat :=
  if isLocal m c && callSpace c = 0 && 0 < n then
    let lo := callOff c / 65536
    let hi := (callOff c + n - 1) / 65536
    ((upTo (hi + 1 - lo)).map (lo + ·)).filter fun v => isCow slot v m && (kvWindow m slot (v * 65536)).isNone
  else []

/-- Discard the cached translations of a context (03 R100). -/
def dropTlb (slot : Nat) (m : Module) : Module :=
  { m with tlb := Sparse.keep (fun k => k % 2 ^ 40 / 2 ^ 28 != slot) m.tlb }

end Sys2Proof.Machine
end

