-- ==== Sys2Proof/Machine/Operands.lean ====
section
/-! DEFINITION. Operand forms: general registers with their poison marks (04 R126, 08 R277), immediates and
offsets (04 R129), and bytes of memory as register values (04 Table 4.2). -/

namespace Sys2Proof.Machine

/-- The value of a general register; g0 reads as zero. -/
def Thread.reg (x : Thread) (r : Reg) : Word := if r = 0 then 0 else Sparse.get 0 x.regs r.toNat

/-- The poison mark of a general register; g0 has none. -/
def Thread.mark (x : Thread) (r : Reg) : Bool := r != 0 && NatSet.has x.marks r.toNat

/-- Write a general register with its mark; a write to g0 is discarded. -/
def Thread.setReg (x : Thread) (r : Reg) (v : Word) (bad : Bool) : Thread :=
  if r = 0 then x
  else { x with regs := Sparse.set 0 x.regs r.toNat v, marks := NatSet.put x.marks r.toNat bad }

/-- A register of a thread of the module. -/
def Module.reg (m : Module) (t : ThreadNo) (r : Reg) : Word := (m.thread t).reg r
def Module.mark (m : Module) (t : ThreadNo) (r : Reg) : Bool := (m.thread t).mark r
def Module.setReg (m : Module) (t : ThreadNo) (r : Reg) (v : Word) (bad : Bool) : Module :=
  m.setThread t ((m.thread t).setReg r v bad)

/-- The low 32 bits of a register. -/
def lo32 (w : Word) : W32 := w.truncate 32
/-- A 32-bit value in a register, upper half cleared. -/
def zext32 (v : W32) : Word := v.zeroExtend 64
/-- A 14-bit immediate, sign-extended. -/
def imm14 (i : BitVec 14) : Word := i.signExtend 64
/-- A word offset of a branch in bytes. -/
def off14 (i : BitVec 14) : Word := i.signExtend 64 <<< 2
def off20 (i : BitVec 20) : Word := i.signExtend 64 <<< 2
/-- A target with its two low bits cleared (04 R125). -/
def target (w : Word) : Word := w &&& ~~~3

/-- An n-byte value, sign- or zero-extended to a register. -/
def extendN (n : Nat) (signed : Bool) (v : Nat) : Word :=
  if signed ∧ v / 2 ^ (8 * n - 1) % 2 = 1 then BitVec.ofNat 64 (v + (2 ^ 64 - 2 ^ (8 * n))) else BitVec.ofNat 64 v

/-- The CTXFAULTSRC of a thread: core, SP and slot, which its number packs. -/
def srcOf (t : ThreadNo) : BitVec 17 := t

/-- The instruction of thread t retires: the pc moves, the prefix is spent, the context progresses. -/
def retireTo (slot : Nat) (t : ThreadNo) (pc : Word) (m : Module) : Module :=
  progress slot (m.updThread t fun x => { x with pc := pc, pfx := none, stall := .none })

/-- The same for an instruction of one word that falls through. -/
def retireI (slot : Nat) (t : ThreadNo) (m : Module) : Module := retireTo slot t ((m.thread t).pc + 4) m

/-- A thread that waits: the command is presented again later. -/
def stallOn (t : ThreadNo) (w : Stall) (m : Module) : Module := m.updThread t fun x => { x with stall := w }

/-- A marked register in control use faults with the call number of its instruction (08 R279). -/
def useFault (slot : Nat) (t : ThreadNo) (m : Module) : Module :=
  ctxFault slot (poisonFault (m.thread t).pc (srcOf t)) m

/-- Halt a thread (03 R77). -/
def haltThread (slot : Nat) (t : ThreadNo) (m : Module) : Module :=
  settle slot (m.updThread t fun x => { x with running := false })

/-- g1 of a thread of a context: 256 × rank of its core + 4 × SP + slot (03 R75). -/
def threadIndex (x : Ctx) (t : ThreadNo) : Nat :=
  256 * ((coresOf x.r.cores).filter fun c => decide (c < t.core)).length + t.toNat % 256

/-- A thread begins at an entry with g1 and g2 as R75 gives and, from TSTART, g3 (R76). DESIGN CHOICE (log 154): the two low bits
of an entry are cleared as those of a jump target are (04 R125); the spec says nothing of them. Commands from an earlier run
stay outstanding (04 R135). -/
def startThread (slot : Nat) (t : ThreadNo) (entry arg : Word) (m : Module) : Module :=
  let x := m.ctx slot
  let th : Thread := { Thread.idle with running := true, pc := target entry, outCmds := (m.thread t).outCmds }
  let th := th.setReg 1 (BitVec.ofNat 64 (threadIndex x t)) false
  let th := th.setReg 2 (BitVec.ofNat 64 m.num) false
  m.setThread t (th.setReg 3 arg false)

end Sys2Proof.Machine
end

