-- ==== Sys2Proof/Machine/Issue.lean ====
section
/-! DEFINITION. Issue of an instruction by a thread: who may issue, the fetch check, the due prefix (03 R74,
R78; 04 R122, R125, R154 to R158). -/

namespace Sys2Proof.Machine

/-- What an instruction does once it issues, for the context in a slot. -/
abbrev Body := Nat → Module → Module

/-- The fetch of one word (03 R78, 04 R122, 08 R278): the fault it raises, if any, with the call number of the word. -/
def fetchWord (slot : Nat) (t : ThreadNo) (pc : Word) (m : Module) : Module × Option FaultInfo :=
  let r := resolveBytes slot .fetch none 4 pc m
  match r.2 with
  | .error (.deny s) => (r.1, some (pageFault s pc (srcOf t)))
  | .error .poison => (r.1, some (poisonFault pc (srcOf t)))
  | .error _ => (r.1, some (pageFault .badSpace pc (srcOf t)))
  | .ok pas =>
    let b := readPas pas r.1
    if anyBad b.2 then (b.1, some (poisonFault pc (srcOf t))) else (b.1, none)

/-- The fetch of n bytes at the pc, word by word. A pc that is not aligned to 4 cannot arise: targets and entries have
their low bits cleared. -/
def fetchCheck (slot n : Nat) (t : ThreadNo) (m : Module) : Module × Option FaultInfo :=
  let pc := (m.thread t).pc
  let r := fetchWord slot t pc m
  if r.2.isNone && n == 8 then fetchWord slot t (pc + 4) r.1 else r

/-- A remote store of the thread still waits for a tag (07 R242). -/
def waitsForTag (m : Module) (t : ThreadNo) : Bool := m.fab.waiting.any fun f => f.who == .store t

/-- A page-table fence of the thread has not completed (03 R108). -/
def inFence (m : Module) (slot : Nat) (t : ThreadNo) : Bool :=
  (m.ctx slot).fences.any fun f => f.thread == some t

/-- The thread may issue its next instruction: it runs in a RUNNING context, awaits no value, holds no
prefixed instruction, and stands in no page-table fence (R74, R133). -/
def canIssue (m : Module) (slot : Nat) (t : ThreadNo) : Bool :=
  (m.ctx slot).state == .running && (m.thread t).running && (m.thread t).load.isNone &&
    (m.thread t).held.isNone && !(inFence m slot t)

/-- Issue with the fetch of n bytes and no regard to a prefix. A thread that may not issue leaves the
module as it is. -/
def issueRaw (n : Nat) (t : ThreadNo) (body : Body) (m : Module) : Module :=
  match ownerOf m t.core with
  | none => m
  | some slot =>
    if !(canIssue m slot t) then m
    else if waitsForTag m t then stallOn t .tag m
    else
      let r := fetchCheck slot n t m
      match r.2 with
      | some f => ctxFault slot f r.1
      | none => body slot r.1

/-- Issue of a scalar instruction: a prefix whose stamp is not reached holds it (04 R156); it launches late, once, when the
thread reached the prefix only after its stamp (04 R158, 09 R298). -/
def issue (c : Instr) (t : ThreadNo) (body : Body) (m : Module) : Module :=
  issueRaw 4 t (fun slot m =>
    match (m.thread t).pfx with
    | none => body slot m
    | some d =>
      if m.islandStamp t.core < d.d then
        dueAdd slot { d := d.d, at_ := (m.thread t).pc, t := t }
          (m.updThread t fun x => { x with held := some (c, d.d), stall := .due })
      else
        body slot (countLate slot t.core .ve none (decide (d.d < d.s)) (m.updThread t fun x => { x with pfx := none }))) m

/-- A command of a thread that issues a scalar instruction. -/
def scalar (c : Instr) (t : ThreadNo) (body : Body) (s : State) : Host.Outcome State Fault Refusal :=
  lift (issue c t body) s

/-- The stamp D of a prefix when it is fixed (04 R155): for DUE.I the value congruent to F modulo 2^26 with
S − 2^25 ≤ D < S + 2^25. -/
def dueImm (s f : Nat) : Nat :=
  let d := s + (f + 2 ^ 26 - s % 2 ^ 26) % 2 ^ 26
  if d < s + 2 ^ 25 then d else d - 2 ^ 26

/-- D of a prefix, at the stamp S of the island. -/
def dueStamp (d : Due) (s : Nat) : Nat := if d.imm then dueImm s d.f.toNat else d.reg.toNat

end Sys2Proof.Machine
end

