-- ==== Sys2Proof/Machine/Alu.lean ====
section
/-! DEFINITION. The integer instructions (04 R129 to R131, Tables 4.2 and 4.3). -/

namespace Sys2Proof.Machine

/-! Operations on words -/

/-- Signed quotient with the corners of R131. -/
def divS (a b : Word) : Word :=
  if b = 0 then BitVec.allOnes 64 else BitVec.ofInt 64 (Int.tdiv a.toInt b.toInt)
/-- Signed remainder: of a division by zero, the dividend. -/
def remS (a b : Word) : Word := if b = 0 then a else BitVec.ofInt 64 (Int.tmod a.toInt b.toInt)
/-- Unsigned quotient. -/
def divU (a b : Word) : Word := if b = 0 then BitVec.allOnes 64 else BitVec.ofNat 64 (a.toNat / b.toNat)
/-- Unsigned remainder. -/
def remU (a b : Word) : Word := if b = 0 then a else BitVec.ofNat 64 (a.toNat % b.toNat)
/-- High half of the signed product. -/
def mulHS (a b : Word) : Word := BitVec.ofInt 64 (a.toInt * b.toInt / 2 ^ 64)
/-- High half of the unsigned product. -/
def mulHU (a b : Word) : Word := BitVec.ofNat 64 (a.toNat * b.toNat / 2 ^ 64)
/-- The amount of a register shift. -/
def amt (b : Word) : Nat := b.toNat % 64
/-- 1 or 0. -/
def flag (b : Bool) : Word := if b then 1 else 0
/-- One 16-bit lane of a word replaced (MOVK). -/
def putLane (w : Word) (lane : BitVec 2) (v : BitVec 16) : Word :=
  (w &&& ~~~((0xFFFF : Word) <<< (16 * lane.toNat))) ||| (v.zeroExtend 64 <<< (16 * lane.toNat))

/-! Shapes -/

/-- rd ← f ra rb; the result is marked when an operand is (08 R278). -/
def alu3 (t : ThreadNo) (rd ra rb : Reg) (f : Word → Word → Word) : Body := fun slot m =>
  retireI slot t (m.setReg t rd (f (m.reg t ra) (m.reg t rb)) (m.mark t ra || m.mark t rb))

/-- rd ← f ra. -/
def alu2 (t : ThreadNo) (rd ra : Reg) (f : Word → Word) : Body := fun slot m =>
  retireI slot t (m.setReg t rd (f (m.reg t ra)) (m.mark t ra))

/-! Meanings -/

def bodyAdd (t : ThreadNo) (rd ra rb : Reg) : Body := alu3 t rd ra rb (· + ·)
def bodySub (t : ThreadNo) (rd ra rb : Reg) : Body := alu3 t rd ra rb (· - ·)
def bodyAnd (t : ThreadNo) (rd ra rb : Reg) : Body := alu3 t rd ra rb (· &&& ·)
def bodyOr (t : ThreadNo) (rd ra rb : Reg) : Body := alu3 t rd ra rb (· ||| ·)
def bodyXor (t : ThreadNo) (rd ra rb : Reg) : Body := alu3 t rd ra rb (· ^^^ ·)
def bodySll (t : ThreadNo) (rd ra rb : Reg) : Body := alu3 t rd ra rb fun a b => a <<< amt b
def bodySrl (t : ThreadNo) (rd ra rb : Reg) : Body := alu3 t rd ra rb fun a b => a >>> amt b
def bodySra (t : ThreadNo) (rd ra rb : Reg) : Body := alu3 t rd ra rb fun a b => a.sshiftRight (amt b)
def bodySlt (t : ThreadNo) (rd ra rb : Reg) : Body := alu3 t rd ra rb fun a b => flag (a.slt b)
def bodySltu (t : ThreadNo) (rd ra rb : Reg) : Body := alu3 t rd ra rb fun a b => flag (a.ult b)
def bodyMin (t : ThreadNo) (rd ra rb : Reg) : Body := alu3 t rd ra rb fun a b => if a.slt b then a else b
def bodyMax (t : ThreadNo) (rd ra rb : Reg) : Body := alu3 t rd ra rb fun a b => if a.slt b then b else a
def bodyMinu (t : ThreadNo) (rd ra rb : Reg) : Body := alu3 t rd ra rb fun a b => if a.ult b then a else b
def bodyMaxu (t : ThreadNo) (rd ra rb : Reg) : Body := alu3 t rd ra rb fun a b => if a.ult b then b else a
def bodyMul (t : ThreadNo) (rd ra rb : Reg) : Body := alu3 t rd ra rb (· * ·)
def bodyMulh (t : ThreadNo) (rd ra rb : Reg) : Body := alu3 t rd ra rb mulHS
def bodyMulhu (t : ThreadNo) (rd ra rb : Reg) : Body := alu3 t rd ra rb mulHU
def bodyDiv (t : ThreadNo) (rd ra rb : Reg) : Body := alu3 t rd ra rb divS
def bodyDivu (t : ThreadNo) (rd ra rb : Reg) : Body := alu3 t rd ra rb divU
def bodyRem (t : ThreadNo) (rd ra rb : Reg) : Body := alu3 t rd ra rb remS
def bodyRemu (t : ThreadNo) (rd ra rb : Reg) : Body := alu3 t rd ra rb remU
def bodyAddi (t : ThreadNo) (rd ra : Reg) (i : BitVec 14) : Body := alu2 t rd ra (· + imm14 i)
def bodyAndi (t : ThreadNo) (rd ra : Reg) (i : BitVec 14) : Body := alu2 t rd ra (· &&& imm14 i)
def bodyOri (t : ThreadNo) (rd ra : Reg) (i : BitVec 14) : Body := alu2 t rd ra (· ||| imm14 i)
def bodyXori (t : ThreadNo) (rd ra : Reg) (i : BitVec 14) : Body := alu2 t rd ra (· ^^^ imm14 i)
def bodySlti (t : ThreadNo) (rd ra : Reg) (i : BitVec 14) : Body :=
  alu2 t rd ra fun a => flag (a.slt (imm14 i))
def bodyShiSll (t : ThreadNo) (rd ra : Reg) (n : BitVec 6) : Body := alu2 t rd ra fun a => a <<< n.toNat
def bodyShiSrl (t : ThreadNo) (rd ra : Reg) (n : BitVec 6) : Body := alu2 t rd ra fun a => a >>> n.toNat
def bodyShiSra (t : ThreadNo) (rd ra : Reg) (n : BitVec 6) : Body :=
  alu2 t rd ra fun a => a.sshiftRight n.toNat
def bodyShiRor (t : ThreadNo) (rd ra : Reg) (n : BitVec 6) : Body :=
  alu2 t rd ra fun a => a.rotateRight n.toNat
/-- rd ← imm16 shifted to its lane. -/
def bodyMovi (t : ThreadNo) (rd : Reg) (lane : BitVec 2) (i : BitVec 16) : Body := fun slot m =>
  retireI slot t (m.setReg t rd (i.zeroExtend 64 <<< (16 * lane.toNat)) false)
/-- One lane of rd ← imm16; the other bits, and rd's mark, are kept. -/
def bodyMovk (t : ThreadNo) (rd : Reg) (lane : BitVec 2) (i : BitVec 16) : Body := fun slot m =>
  retireI slot t (m.setReg t rd (putLane (m.reg t rd) lane i) (m.mark t rd))

/-! Commands -/

/-- ADD: rd ← ra + rb. -/
def execAdd (t : ThreadNo) (rd ra rb : Reg) (s : State) : Host.Outcome State Fault Refusal :=
  scalar (.add t rd ra rb) t (bodyAdd t rd ra rb) s
/-- SUB: rd ← ra − rb. -/
def execSub (t : ThreadNo) (rd ra rb : Reg) (s : State) : Host.Outcome State Fault Refusal :=
  scalar (.sub t rd ra rb) t (bodySub t rd ra rb) s
/-- AND: rd ← ra AND rb. -/
def execAnd (t : ThreadNo) (rd ra rb : Reg) (s : State) : Host.Outcome State Fault Refusal :=
  scalar (.and t rd ra rb) t (bodyAnd t rd ra rb) s
/-- OR: rd ← ra OR rb. -/
def execOr (t : ThreadNo) (rd ra rb : Reg) (s : State) : Host.Outcome State Fault Refusal :=
  scalar (.or t rd ra rb) t (bodyOr t rd ra rb) s
/-- XOR: rd ← ra XOR rb. -/
def execXor (t : ThreadNo) (rd ra rb : Reg) (s : State) : Host.Outcome State Fault Refusal :=
  scalar (.xor t rd ra rb) t (bodyXor t rd ra rb) s
/-- SLL: rd ← ra shifted left by rb[5:0]. -/
def execSll (t : ThreadNo) (rd ra rb : Reg) (s : State) : Host.Outcome State Fault Refusal :=
  scalar (.sll t rd ra rb) t (bodySll t rd ra rb) s
/-- SRL: rd ← ra shifted right by rb[5:0]. -/
def execSrl (t : ThreadNo) (rd ra rb : Reg) (s : State) : Host.Outcome State Fault Refusal :=
  scalar (.srl t rd ra rb) t (bodySrl t rd ra rb) s
/-- SRA: rd ← ra shifted right by rb[5:0], sign kept. -/
def execSra (t : ThreadNo) (rd ra rb : Reg) (s : State) : Host.Outcome State Fault Refusal :=
  scalar (.sra t rd ra rb) t (bodySra t rd ra rb) s
/-- SLT: rd ← 1 if ra < rb signed, else 0. -/
def execSlt (t : ThreadNo) (rd ra rb : Reg) (s : State) : Host.Outcome State Fault Refusal :=
  scalar (.slt t rd ra rb) t (bodySlt t rd ra rb) s
/-- SLTU: rd ← 1 if ra < rb unsigned, else 0. -/
def execSltu (t : ThreadNo) (rd ra rb : Reg) (s : State) : Host.Outcome State Fault Refusal :=
  scalar (.sltu t rd ra rb) t (bodySltu t rd ra rb) s
/-- MIN: rd ← the signed minimum. -/
def execMin (t : ThreadNo) (rd ra rb : Reg) (s : State) : Host.Outcome State Fault Refusal :=
  scalar (.min t rd ra rb) t (bodyMin t rd ra rb) s
/-- MAX: rd ← the signed maximum. -/
def execMax (t : ThreadNo) (rd ra rb : Reg) (s : State) : Host.Outcome State Fault Refusal :=
  scalar (.max t rd ra rb) t (bodyMax t rd ra rb) s
/-- MINU: rd ← the unsigned minimum. -/
def execMinu (t : ThreadNo) (rd ra rb : Reg) (s : State) : Host.Outcome State Fault Refusal :=
  scalar (.minu t rd ra rb) t (bodyMinu t rd ra rb) s
/-- MAXU: rd ← the unsigned maximum. -/
def execMaxu (t : ThreadNo) (rd ra rb : Reg) (s : State) : Host.Outcome State Fault Refusal :=
  scalar (.maxu t rd ra rb) t (bodyMaxu t rd ra rb) s
/-- MUL: rd ← the low half of the product. -/
def execMul (t : ThreadNo) (rd ra rb : Reg) (s : State) : Host.Outcome State Fault Refusal :=
  scalar (.mul t rd ra rb) t (bodyMul t rd ra rb) s
/-- MULH: rd ← the high half of the signed product. -/
def execMulh (t : ThreadNo) (rd ra rb : Reg) (s : State) : Host.Outcome State Fault Refusal :=
  scalar (.mulh t rd ra rb) t (bodyMulh t rd ra rb) s
/-- MULHU: rd ← the high half of the unsigned product. -/
def execMulhu (t : ThreadNo) (rd ra rb : Reg) (s : State) : Host.Outcome State Fault Refusal :=
  scalar (.mulhu t rd ra rb) t (bodyMulhu t rd ra rb) s
/-- DIV: rd ← the signed quotient (R131). -/
def execDiv (t : ThreadNo) (rd ra rb : Reg) (s : State) : Host.Outcome State Fault Refusal :=
  scalar (.div t rd ra rb) t (bodyDiv t rd ra rb) s
/-- DIVU: rd ← the unsigned quotient (R131). -/
def execDivu (t : ThreadNo) (rd ra rb : Reg) (s : State) : Host.Outcome State Fault Refusal :=
  scalar (.divu t rd ra rb) t (bodyDivu t rd ra rb) s
/-- REM: rd ← the signed remainder (R131). -/
def execRem (t : ThreadNo) (rd ra rb : Reg) (s : State) : Host.Outcome State Fault Refusal :=
  scalar (.rem t rd ra rb) t (bodyRem t rd ra rb) s
/-- REMU: rd ← the unsigned remainder (R131). -/
def execRemu (t : ThreadNo) (rd ra rb : Reg) (s : State) : Host.Outcome State Fault Refusal :=
  scalar (.remu t rd ra rb) t (bodyRemu t rd ra rb) s
/-- ADDI: rd ← ra + imm14. -/
def execAddi (t : ThreadNo) (rd ra : Reg) (i : BitVec 14) (s : State) : Host.Outcome State Fault Refusal :=
  scalar (.addi t rd ra i) t (bodyAddi t rd ra i) s
/-- ANDI: rd ← ra AND imm14. -/
def execAndi (t : ThreadNo) (rd ra : Reg) (i : BitVec 14) (s : State) : Host.Outcome State Fault Refusal :=
  scalar (.andi t rd ra i) t (bodyAndi t rd ra i) s
/-- ORI: rd ← ra OR imm14. -/
def execOri (t : ThreadNo) (rd ra : Reg) (i : BitVec 14) (s : State) : Host.Outcome State Fault Refusal :=
  scalar (.ori t rd ra i) t (bodyOri t rd ra i) s
/-- XORI: rd ← ra XOR imm14. -/
def execXori (t : ThreadNo) (rd ra : Reg) (i : BitVec 14) (s : State) : Host.Outcome State Fault Refusal :=
  scalar (.xori t rd ra i) t (bodyXori t rd ra i) s
/-- SLTI: rd ← 1 if ra < imm14 signed, else 0. -/
def execSlti (t : ThreadNo) (rd ra : Reg) (i : BitVec 14) (s : State) : Host.Outcome State Fault Refusal :=
  scalar (.slti t rd ra i) t (bodySlti t rd ra i) s
/-- SHI: rd ← ra shifted left by the amount. -/
def execShiSll (t : ThreadNo) (rd ra : Reg) (n : BitVec 6) (s : State) : Host.Outcome State Fault Refusal :=
  scalar (.shiSll t rd ra n) t (bodyShiSll t rd ra n) s
/-- SHI: rd ← ra shifted right by the amount. -/
def execShiSrl (t : ThreadNo) (rd ra : Reg) (n : BitVec 6) (s : State) : Host.Outcome State Fault Refusal :=
  scalar (.shiSrl t rd ra n) t (bodyShiSrl t rd ra n) s
/-- SHI: rd ← ra shifted right, sign kept by the amount. -/
def execShiSra (t : ThreadNo) (rd ra : Reg) (n : BitVec 6) (s : State) : Host.Outcome State Fault Refusal :=
  scalar (.shiSra t rd ra n) t (bodyShiSra t rd ra n) s
/-- SHI: rd ← ra rotated right by the amount. -/
def execShiRor (t : ThreadNo) (rd ra : Reg) (n : BitVec 6) (s : State) : Host.Outcome State Fault Refusal :=
  scalar (.shiRor t rd ra n) t (bodyShiRor t rd ra n) s
/-- MOVI: rd ← imm16 at its lane. -/
def execMovi (t : ThreadNo) (rd : Reg) (lane : BitVec 2) (i : BitVec 16) (s : State) :
    Host.Outcome State Fault Refusal := scalar (.movi t rd lane i) t (bodyMovi t rd lane i) s
/-- MOVK: one lane of rd ← imm16. -/
def execMovk (t : ThreadNo) (rd : Reg) (lane : BitVec 2) (i : BitVec 16) (s : State) :
    Host.Outcome State Fault Refusal := scalar (.movk t rd lane i) t (bodyMovk t rd lane i) s

end Sys2Proof.Machine
end

