-- ==== Sys2Proof/Machine/FabOps.lean ====
section
/-! DEFINITION. Transactions on the fabric: requests and tags (07 R241 to R243), routing, datelines and detours
(10 R330 to R338), slots of the timetable (09 R300 to R307) and the choice of the next frame (10 R329). -/

namespace Sys2Proof.Machine

/-- The empty collective header. -/
def CollH.none : CollH :=
  { n1 := 0, first := 0, group := 0, cser := 0, ckind := 0, cop := 0, fmt := 0, shidx := 0, contrib := 0,
    shfirst := 0, shcount := 0 }

/-- No events. -/
def noEvents : Events := [0, 0, 0, 0, 0, 0]

/-- A transaction of a context with the fields every kind needs (10 Table 10.4). -/
def baseTx (m : Module) (slot : Nat) (kind : TxKind) (dst : BitVec 16) (addr : BitVec 48) : Txn :=
  { kind := kind, vc := 0, job := (m.ctx slot).r.job, ttid := 0, dst := dst, src := BitVec.ofNat 16 m.num,
    tag := 0, inc := 0, srcgen := (m.ctx slot).gen, srcslot := BitVec.ofNat 6 slot, tce := false, tctr := 0,
    det := false, addr := addr, fn := 0, cause := .noTarget, half := false, len := 0, payload := [], bad := [],
    ev := noEvents, coll := CollH.none, keyOk := true, nonce := 0, keystamp := 0, lib := .none,
    move := { no := 0, count := 0 }, tagless := none }

/-- Module and address fields of a remote call number. -/
def callDst (c : Word) : BitVec 16 := c.extractLsb' 48 16
def callAddr (c : Word) : BitVec 48 := c.extractLsb' 0 48
/-- The call number a transaction names, for its issuer (03 R115). -/
def txCall (x : Txn) : Word := x.dst ++ x.addr

/-! Routing (10 R330 to R332) -/

/-- Direction on an axis of length l: + (true) or −. -/
def dirPlus (l cur dst : Nat) : Bool :=
  let d := (dst + l - cur) % l
  if 2 * d < l then true else if 2 * d > l then false else cur % 2 == 0

/-- The order in which axes are travelled. -/
def axisOrder : List Nat := [4, 3, 2, 1, 0]

/-- The first axis on which two places differ. -/
def firstAxis (a b : Coord) : Option Nat := axisOrder.find? fun k => axisGet a k != axisGet b k

/-- The outgoing port of a transaction that came in on `inp`, or none when it is for this module. -/
def route (m : Module) (dst : BitVec 16) (inp : Option Nat) : Option Nat :=
  let me := m.topo.coord
  let to_ := coordOf m.topo.lens dst.toNat
  match firstAxis me to_ with
  | none => none
  | some k =>
    match inp with
    | some p =>
      if axisOf p = k then some (if p % 2 = 0 then p + 1 else p - 1)
      else some (2 * k + (if dirPlus (axisGet m.topo.lens k) (axisGet me k) (axisGet to_ k) then 1 else 0))
    | none => some (2 * k + (if dirPlus (axisGet m.topo.lens k) (axisGet me k) (axisGet to_ k) then 1 else 0))

/-- The far end of a port (R317). -/
def farEnd (m : Module) (n : Nat) : Coord :=
  let k := axisOf n
  let l := axisGet m.topo.lens k
  let c := axisGet m.topo.coord k
  axisSet m.topo.coord k (if n % 2 = 1 then (c + 1) % l else (c + l - 1) % l)

/-- The detour of Table 10.7 for a transaction whose next hop is the failed port n. -/
def detourPort (m : Module) (dst : BitVec 16) (n : Nat) : Nat :=
  let k := axisOf n
  let far := farEnd m n
  let to_ := coordOf m.topo.lens dst.toNat
  let back := if n % 2 = 0 then n + 1 else n - 1
  let later := (axisOrder.dropWhile (· != k)).drop 1
  if axisGet to_ k ≠ axisGet far k then back
  else if later.any fun j => axisGet to_ j != axisGet far j then
    match later.find? fun j => axisGet m.topo.lens j > 1 with
    | some j => 2 * j + 1
    | none => back
  else back

/-- The virtual channel on port n (R332, R336): the class's first channel, its second once the dateline is
crossed on this axis, DQ or DS on a detour. -/
def vcOf (m : Module) (x : Txn) (inp : Option Nat) (n : Nat) : Nat :=
  let rs := x.kind == .ack || x.kind == .nack || x.kind == .readdata
  if x.det then (if rs then 8 else 7)
  else
    let base := if rs then 2 else if x.ttid ≠ 0 then 4 else 0
    let k := axisOf n
    let c := axisGet m.topo.coord k
    let cross := if n % 2 = 1 then c + 1 == axisGet m.topo.lens k else c == 0
    let stays := match inp with
      | some p => axisOf p == k && x.vc.toNat % 2 == 1 && decide (x.vc.toNat < 6)
      | none => false
    if cross || stays then base + 1 else base

/-! Output queues -/

/-- The incoming port of a transaction. -/
def Inp.from? : Inp → Option Nat
  | .port n _ _ => some n
  | _ => none

/-- Inputs in the order of their turns: the ports, the compute dies, the port dies themselves (log 150). -/
def Inp.num : Inp → Nat
  | .port n _ _ => n
  | .die d => 10 + d
  | .unit => 18

/-- Put a transaction into the queue of an output port. -/
def enq (n : Nat) (x : Txn) (inp : Inp) (since : Nat) (own : OutOwn) (m : Module) : Module :=
  m.updPort n fun p =>
    { p with oq := p.oq ++ [{ x := { x with vc := BitVec.ofNat 4 (vcOf m x inp.from? n) }, since := since,
                              ready := m.now, inp := inp, own := own }] }

/-- A transaction is gone from its module, sent or discarded: its issuer's 2 ms run from now (07 R243, 10 R348). -/
def markGone (x : Txn) (own : OutOwn) (m : Module) : Module :=
  match own with
  | .flight =>
    { m with fab := { m.fab with flights := m.fab.flights.map fun f =>
        if f.x.tag == x.tag && f.sent.isNone then { f with sent := some m.now } else f } }
  | .comb id =>
    each [0, 1] (fun d m => m.updPd d fun q => { q with combs := q.combs.map fun k =>
      if k.id == id && k.sent.isNone then { k with sent := some m.now } else k }) m
  | _ => m

/-- A transaction is discarded at the switch. -/
def dropTx (x : Txn) (inp : Inp) (own : OutOwn) (m : Module) : Module := freeBuf inp x (markGone x own m)

/-- A detoured transaction meets failed port n and is discarded, which its port die counts (R336). -/
def detDrop (n : Nat) (x : Txn) (inp : Inp) (own : OutOwn) (m : Module) : Module :=
  dropTx x inp own (m.updPd (pdOf n) fun d => { d with detdrop := satAdd 32 d.detdrop 1 })

/-- Put a transaction on the detour of port n, or discard it where that fails too (R335, R336). -/
def detourTx (n : Nat) (x : Txn) (inp : Inp) (since : Nat) (own : OutOwn) (m : Module) : Module :=
  let n' := detourPort m x.dst n
  if (m.port n').st = .up then enq n' { x with det := true } inp since own m else detDrop n' x inp own m

/-- Send a transaction towards its module: queued at its port and held there while the port is not UP, moved to a detour
while one is loaded, or discarded (R334 to R337). -/
def switchTx (x : Txn) (inp : Inp) (since : Nat) (own : OutOwn) (m : Module) : Module :=
  match route m x.dst inp.from? with
  | none => dropTx x inp own m
  | some n =>
    if x.det then (if (m.port n).st = .up then enq n x inp since own m else detDrop n x inp own m)
    else if (m.port n).detour then detourTx n x inp since own m
    else enq n x inp since own m

/-! Tags (07 R241 to R243) -/

/-- A core's TE asks to send a transaction. -/
def request (f : Flight) (m : Module) : Module :=
  { m with fab := { m.fab with waiting := m.fab.waiting ++ [f] } }

/-- A fresh identifier for a started command. -/
def newUid (m : Module) : Nat × Module := (m.fab.uid, { m with fab := { m.fab with uid := m.fab.uid + 1 } })

/-- Tags held by a core's TE. -/
def tagsOf (m : Module) (c : Nat) : Nat := (m.fab.flights.filter fun f => f.core == c).length

/-- A tag is free. -/
def tagFree (m : Module) (tag : BitVec 16) : Bool := m.fab.flights.all fun f => f.x.tag != tag

/-- What stands for the Librarian among the cores that wait for tags (log 42). -/
def libCore : Nat := 512

/-- The first transaction of a core that waits for a tag. -/
def firstWaiting (m : Module) (c : Nat) : Option Flight := m.fab.waiting.find? fun f => f.core == c

/-- The next core in turn that holds fewer than 512 tags and whose first waiting transaction can go (R242): that transaction. -/
def nextWaiting (m : Module) (can : Flight → Bool) : Option Flight :=
  ((upTo 513).map (fun i => (m.fab.turn + 1 + i) % 513)).findSome? fun c =>
    if c = libCore ∨ tagsOf m c < 512 then (firstWaiting m c).filter can else none

/-- A transaction that fences wait for has its tag (03 R100). -/
def fenceTag (f : Flight) (tag : BitVec 16) (inc : BitVec 6) (m : Module) : Module :=
  let has := fun (g : Fence) => if g.waits.contains f then
      { g with waits := g.waits.erase f, tags := g.tags ++ [(tag.toNat, inc.toNat)] } else g
  m.updCtx f.slot fun x => { x with fences := x.fences.map has }

/-- A transaction no longer waits, and its core has had its turn. -/
def takeTurn (f : Flight) (m : Module) : Module :=
  { m with fab := { m.fab with waiting := m.fab.waiting.erase f, turn := f.core } }

/-- The incarnation of a tag changes with each grant (R243). -/
def nextInc (m : Module) (tag : BitVec 16) : BitVec 6 := Sparse.get 0 m.fab.tagInc tag.toNat + 1

/-- A waiting transaction takes a free tag, with a new incarnation. -/
def takeTag (tag : BitVec 16) (f : Flight) (m : Module) : Module :=
  let inc := nextInc m tag
  let m := takeTurn f m
  fenceTag f tag inc { m with fab := { m.fab with tagInc := Sparse.set 0 m.fab.tagInc tag.toNat inc } }

/-- Grant a free tag to a waiting transaction: it goes to its port. -/
def grantTag (tag : BitVec 16) (f : Flight) (m : Module) : Module :=
  let x : Txn := { f.x with tag := tag, inc := nextInc m tag }
  let m := takeTag tag f m
  switchTx x (if f.core = libCore then .unit else .die (dieOfCore f.core)) m.now .flight
    { m with fab := { m.fab with flights := m.fab.flights ++ [{ f with x := x, sent := none }] } }

/-- The outstanding transaction a reply answers: its tag and incarnation match (R243). -/
def flightOf (m : Module) (x : Txn) : Option Flight :=
  m.fab.flights.find? fun f => f.x.tag == x.tag && f.x.inc == x.inc

/-- Release the tag of a transaction. -/
def dropFlight (f : Flight) (m : Module) : Module :=
  { m with fab := { m.fab with flights := m.fab.flights.filter fun g => g.x.tag != f.x.tag } }

/-- An answer to a transaction, sent by this module (10 R323; kinds ACK, NACK, READDATA). -/
def answer (x : Txn) (kind : TxKind) (cause : NackCause) (payload : List Byte) (bad : List Nat) (m : Module) :
    Module :=
  let r : Txn := { x with kind := kind, dst := x.src, src := BitVec.ofNat 16 m.num, ttid := 0, tce := false,
                          det := false, addr := 0, fn := 0, cause := cause, half := false,
                          len := payload.length, payload := payload, bad := bad, ev := noEvents,
                          coll := CollH.none, lib := .none, move := { no := 0, count := 0 } }
  switchTx r .unit m.now .reply m

/-! The choice of the next frame (R329) -/

/-- The transaction may leave now: a frame boundary, channel credits and slot (09 R304 to R306, R325, R328). -/
def maySend (m : Module) (n : Nat) (o : OutTx) : Bool :=
  (m.port n).resend.isEmpty && wireFree m n && hasCredit m n o.x.vc.toNat (.tx o.x) &&
    (if reservedTx m n o.x then ownSlotOk m n o else bestOk m n (txBytes o.x))

/-- Rank of R329: reserved transactions, then RS and DS, then the rest. -/
def sendRank (m : Module) (n : Nat) (o : OutTx) : Nat :=
  if reservedTx m n o.x then 0
  else if o.x.kind = .ack ∨ o.x.kind = .nack ∨ o.x.kind = .readdata then 1 else 2

/-- The channels of a rank that take turns (R329; of RS and DS log 150): detoured ones, the best-effort TT, the others. -/
def txClass (x : Txn) : Nat :=
  if x.vc = 7 ∨ x.vc = 8 then 1 else if x.vc = 4 ∨ x.vc = 5 then 2 else 0

/-- How long number i of k waits for its turn after `last`. -/
def turnWait (k last i : Nat) : Nat := (i + k - last % k - 1) % k

/-- Transaction o, the i-th at port n, is the one R329 sends now: of the first rank that may send, the class in turn, and within
its channel the input in turn with its oldest. A reserved slot goes by readiness alone (R305). -/
def eligible (m : Module) (n i : Nat) (o : OutTx) : Bool :=
  let p := m.port n
  let k := sendRank m n o
  let cls := fun (q : OutTx) => turnWait 3 (Sparse.get 2 p.clsTurn k) (txClass q.x)
  let inq := fun (q : OutTx) => turnWait 19 (Sparse.get 18 p.inTurn o.x.vc.toNat) q.inp.num
  let rivals := p.oq.zipIdx.filter fun q => maySend m n q.1 && sendRank m n q.1 == k
  p.st == .up && maySend m n o && !(p.oq.any fun q => maySend m n q && decide (sendRank m n q < k)) &&
    (k == 0 ||
      rivals.all fun q => decide (cls o ≤ cls q.1) &&
        (q.1.x.vc != o.x.vc || decide (inq o < inq q.1) || (inq o == inq q.1 && decide (i ≤ q.2))))

/-- The ledger entry for the transactions that a port sent best-effort in one frame though they carry a TTID (09 R306, 10
R563). -/
def missEntry (n : Nat) (m : Module) : Module :=
  let p := m.port n
  led 0x0605 sevWarn (atPort n) [n, p.missFrame, p.missCount] (m.updPort n fun p => { p with missCount := 0 })

/-- Count such a transaction; the entry of an earlier frame is written first. -/
def ttMiss (n : Nat) (m : Module) : Module :=
  let fr := m.now / Config.frameNs
  let m := if (m.port n).missCount ≠ 0 ∧ (m.port n).missFrame ≠ fr then missEntry n m else m
  m.updPort n fun p => { p with ttmiss := satAdd 32 p.ttmiss 1, missFrame := fr, missCount := p.missCount + 1 }

/-- The KEYSTAMP of a job's installed key. -/
def keystampOf (m : Module) (job : BitVec 16) : Nat :=
  match m.fab.jobKeys.find? fun k => k.1 == job with
  | some k => k.2.2
  | none => 0

/-- A transaction that this module's port die encrypts: what it forwards or copies keeps its NONCE (R333, R339, R352). -/
def OutOwn.seals : OutOwn → Bool
  | .fwd => false
  | .copy => false
  | _ => true

/-- A transaction leaves port n: NONCE and KEYSTAMP, the turns, the slot, TTMISS, the buffer it held (R329, R339; 09 R305). -/
def leave (n i : Nat) (o : OutTx) (m : Module) : Module :=
  let d := pdOf n
  let job := o.x.job.toNat
  let nonce := Sparse.get 0 (m.pd d).nonces job
  let x : Txn := if o.own.seals then { o.x with nonce := nonce, keystamp := keystampOf m o.x.job } else o.x
  let res := reservedTx m n o.x
  let miss := o.x.ttid != 0 && (o.x.det || !(ownsSome m n o.x.job o.x.ttid))
  let used := usedIn m n + 1
  let k := sendRank m n o
  let m := m.updPort n fun p =>
    { p with oq := p.oq.eraseIdx i, slotUse := if res then (slotStart m.now, used) else p.slotUse,
             clsTurn := Sparse.set 2 p.clsTurn k (txClass o.x),
             inTurn := Sparse.set 18 p.inTurn o.x.vc.toNat o.inp.num }
  let m := if o.own.seals then m.updPd d fun q => { q with nonces := Sparse.set 0 q.nonces job (nonce + 1) } else m
  let m := freeBuf o.inp o.x (markGone o.x o.own m)
  emitVc n o.x.vc.toNat (.tx x) (if miss then ttMiss n m else m)

/-- Send the i-th waiting transaction of a port, if it is the one to go now (10 R329; 09 R305). -/
def sendTx (n i : Nat) (m : Module) : Module :=
  match (m.port n).oq[i]? with
  | none => m
  | some o => if eligible m n i o then leave n i o m else m

end Sys2Proof.Machine
end

