-- ==== Sys2Proof/Machine/Tensors.lean ====
section
/-! DEFINITION. Where the operands of engine commands lie: runs of bytes, tensors in linear and blocked layout (05 R162, R166,
R167; 06 R197 to R202), the operands of chains, and the rows of moves (07 R226). -/

namespace Sys2Proof.Machine

/-! Runs of bytes -/

/-- A run of n bytes cut at 64 KiB pages; the checks of an access are the same throughout a page. -/
def pageRuns : Nat → Word → Nat → List (Word × Nat)
  | 0, _, _ => []
  | fuel + 1, c, n =>
    if n = 0 then []
    else
      let k := Nat.min n (65536 - c.toNat % 65536)
      (c, k) :: pageRuns fuel (c + BitVec.ofNat 64 k) (n - k)

/-- A run cut into pieces of at most 4,096 B. -/
def pieces : Nat → Word → Nat → List (Word × Nat)
  | 0, _, _ => []
  | fuel + 1, c, n =>
    if n = 0 then []
    else
      let k := Nat.min n 4096
      (c, k) :: pieces fuel (c + BitVec.ofNat 64 k) (n - k)

/-- The page runs of n bytes. -/
def runsOf (c : Word) (n : Nat) : List (Word × Nat) := pageRuns (n / 65536 + 2) c n

/-- The pieces of n bytes that transactions carry: at most 4,096 B each, none across a page (07 R227). -/
def txPieces (c : Word) (n : Nat) : List (Word × Nat) :=
  (runsOf c n).flatMap fun r => pieces (r.2 / 4096 + 1) r.1 r.2

/-- Group bytes by offset into runs of consecutive offsets; a run ends after a byte of which only the low nibble is written
(07 R227). -/
def groupRuns (bs : List (Nat × WByte)) : List (Nat × List WByte) :=
  let srt := bs.insertionSort fun a b => a.1 ≤ b.1
  srt.foldr (fun b acc =>
    match acc with
    | (o, d) :: rest => if b.1 + 1 = o ∧ b.2.mask ≠ 0x0F#8 then (b.1, b.2 :: d) :: rest else (b.1, [b.2]) :: acc
    | [] => [(b.1, [b.2])]) []

/-- Join neighbouring (offset, length) runs of a rising list. -/
def joinRuns (rs : List (Nat × Nat)) : List (Nat × Nat) :=
  rs.foldr (fun a acc =>
    match acc with
    | b :: rest => if a.1 + a.2 = b.1 then (a.1, a.2 + b.2) :: rest else a :: acc
    | [] => [a]) []

/-! Tensors -/

/-- Element bits of a format code; raw counts as a byte. -/
def codeBits (f : BitVec 4) : Nat :=
  match f.toNat with
  | 0 => 4
  | 1 => 8
  | 2 => 8
  | 3 => 16
  | 4 => 16
  | 8 => 4
  | 9 => 8
  | 10 => 8
  | 15 => 8
  | _ => 32

/-- Tile size in bytes (04 Table 4.12). -/
def tileBytes (f : BitVec 4) : Nat := 2048 * codeBits f

/-- Element index of a logical position in the blocked layout (05 R162). -/
def blockIdx (i j : Nat) : Nat := 64 * (16 * (i / 8) + (i / 8 + j / 8) % 16) + 8 * (i % 8) + j % 8

/-- A tensor operand: call number, format, layout and number of elements (which places the scale plane). -/
structure Operand where
  call : Word
  fmt : BitVec 4
  blocked : Bool
  n : Nat
  deriving DecidableEq, Repr

/-- Space 0x3 is blocked whatever the layout bit holds (06 R197). -/
def operand (c : Word) (f : BitVec 4) (lay : Bool) (n : Nat) : Operand :=
  { call := c, fmt := f, blocked := lay || callSpace c == 3, n := n }

/-- A linear operand. -/
def linearOp (c : Word) (f : BitVec 4) (n : Nat) : Operand := { call := c, fmt := f, blocked := false, n := n }

/-- Bit offset of element e from the operand's call number. -/
def Operand.bitAt (o : Operand) (e : Nat) : Nat :=
  if o.blocked then 8 * tileBytes o.fmt * (e / 16384) + codeBits o.fmt * blockIdx (e % 16384 / 128) (e % 128)
  else codeBits o.fmt * e

/-- Byte offset of the scale code of block b of 32 elements (05 R166, R167; 06 R201). -/
def Operand.scaleAt (o : Operand) (b : Nat) : Nat :=
  if o.blocked then (o.n + 16383) / 16384 * tileBytes o.fmt + b
  else (o.n + 31) / 32 * (4 * codeBits o.fmt) + b

/-- Alignment an engine requires of a tensor operand (06 R202). -/
def Operand.align (o : Operand) : Nat :=
  if o.blocked then tileBytes o.fmt
  else if isQuire o.fmt then 4 * codeBits o.fmt
  else Nat.max 1 (codeBits o.fmt / 8)

/-- The operand is aligned. -/
def Operand.aligned (o : Operand) : Bool := o.call.toNat % o.align == 0

/-- Bytes of the element plane up to the last that n elements from the first may occupy. -/
def Operand.span (o : Operand) (n : Nat) : Nat :=
  if o.blocked then (n + 16383) / 16384 * tileBytes o.fmt else (n * codeBits o.fmt + 7) / 8

/-- The runs of 8 elements of one row of a sub-block that hold some of the first k elements of a tile. -/
def tileRuns (bits k : Nat) : List (Nat × Nat) :=
  joinRuns (((List.range ((k + 7) / 8)).map fun g =>
    (bits * blockIdx (8 * g / 128) (8 * g % 128) / 8, (Nat.min 8 (k - 8 * g) * bits + 7) / 8)).insertionSort
      fun a b => a.1 ≤ b.1)

/-- The (offset, length) runs of the element plane that hold the first n elements (06 R199). -/
def Operand.runs (o : Operand) (n : Nat) : List (Nat × Nat) :=
  if o.blocked then
    let full := n / 16384 * tileBytes o.fmt
    (if full = 0 then [] else [(0, full)]) ++
      (tileRuns (codeBits o.fmt) (n % 16384)).map fun r => (full + r.1, r.2)
  else if n = 0 then [] else [(0, (n * codeBits o.fmt + 7) / 8)]

/-- The code of an element within the bytes of its plane. -/
def codeIn (bytes : Array (Byte × Bool)) (bitAt bits : Nat) : Nat × Bool :=
  let lo := bitAt / 8
  let bs := (upTo ((bits + 7) / 8)).map fun i => bytes.getD (lo + i) (0, false)
  (leNat (bs.map (·.1)) / 2 ^ (bitAt % 8) % 2 ^ bits, bs.any (·.2))

/-- A run of bytes named by call number. -/
abbrev Span := Word × Nat

/-- Bytes of a write: where, and what. -/
abbrev Chunk := Word × List WByte

/-- The runs of a tensor's first n elements with their scale codes. -/
def Operand.spans (o : Operand) (n : Nat) : List Span :=
  ((o.runs n).map fun r => (o.call + BitVec.ofNat 64 r.1, r.2)) ++
    (if isQuire o.fmt ∧ n ≠ 0 then [(o.call + BitVec.ofNat 64 (o.scaleAt 0), (n + 31) / 32)] else [])

/-- An element reads as poisoned. -/
def Elem.marked (e : Elem) : Bool := e.bad || e.sbad

/-- A pad (07 R234): an element that stands for no data, with a code. -/
def Elem.pad (code : Nat) : Elem := { code := code, scale := 127, bad := false, sbad := false }

/-! Operands of chains (06 R197 to R205) -/

/-- The stage's operation reads operand b; reads operand c. -/
def Stg.usesB (s : Stg) : Bool := [1, 2, 3, 4, 5, 6, 7, 8, 0x21, 0x42, 0x45, 0x51].contains s.op
def Stg.usesC (s : Stg) : Bool := [6, 0x45].contains s.op
/-- The stage reads select code k. -/
def Stg.reads (s : Stg) (k : Nat) : Bool := (s.usesB && s.b == k) || (s.usesC && s.c == k)
/-- A reduction stage. -/
def Stg.reduces (s : Stg) : Bool := decide (0x30 ≤ s.op) && decide (s.op ≤ 0x33)

/-- Elements present: at most a tile from the cart (R198, R199). -/
def presentOf (k : ChainCmd) : Nat := if k.f.src = 0 then Nat.min k.n 16384 else k.n

/-- Call number of tile register i of a core (03 Table 3.3). -/
def tileCall (core i : Nat) : Word := BitVec.ofNat 64 (0xFFFF300000000000 + core * 2 ^ 19 + i * 2 ^ 16)

/-- The source operand of a chain that does not read the cart. -/
def sourceOf (core : Nat) (k : ChainCmd) (d : ChainDesc) : Operand :=
  if k.f.src = 1 then { call := tileCall core k.f.ts.toNat, fmt := 5, blocked := true, n := k.n }
  else operand k.src k.f.fmti d.ilay k.n

/-- The output of a chain. -/
def outOf (k : ChainCmd) (d : ChainDesc) : Operand := operand k.out k.f.fmto d.olay k.n

/-- Side tensor i as an operand. -/
def sideOf (d : ChainDesc) (i n : Nat) : Operand :=
  operand (d.side.getD i 0) (d.fmts.getD i 5) (d.slay.getD i false) n

/-- Rows and columns that hold some of n elements. -/
def ChainDesc.rows (d : ChainDesc) (n : Nat) : Nat := (n + d.width - 1) / d.width
def ChainDesc.cols (d : ChainDesc) (n : Nat) : Nat := Nat.min d.width n

/-- The chain updates moments. -/
def ChainDesc.adam (d : ChainDesc) : Bool := d.stages.any fun s => s.op == 0x50

/-- Side tensor i is read. -/
def sideUsed (d : ChainDesc) (i : Nat) : Bool :=
  d.stages.any fun s => s.reads (3 + i) || (s.op == 0x50 && decide (i < 2))

/-- How many VEC0 elements the stages read. -/
def vecNeed (d : ChainDesc) (n : Nat) : Nat :=
  d.stages.foldl (fun a s =>
    let k := if s.op = 0x50 then 4
      else if s.reads 6 then (if s.col then d.cols n else d.rows n)
      else if s.reads 11 then 1 else 0
    Nat.max a k) 0

/-- Row records are read: OBACC, OBSM and OBFIN without FIRST, and PRECOMP (R211, R216); written: SOFTMAX with SREC, OBSM and
OBFIN. -/
def recsRead (d : ChainDesc) : Bool :=
  d.stages.any fun s => s.op == 0x44 || (!d.first && (s.op == 0x41 || s.op == 0x42 || s.op == 0x43))
def recsWritten (d : ChainDesc) : Bool :=
  d.stages.any fun s => s.op == 0x41 || s.op == 0x43 || (s.op == 0x40 && d.srec)

/-- Values of a reduction along an axis (R203). -/
def slipLen (d : ChainDesc) (s : Stg) (n : Nat) : Nat := Nat.min 16384 (if s.col then d.cols n else d.rows n)

/-- The slips written to ROUT: number and values (R205). -/
def slipsOut (d : ChainDesc) (n : Nat) : List (Nat × Nat) :=
  (upTo 4).filterMap fun i =>
    if d.routm.getLsbD i then ((d.stages.filter fun s => s.reduces && s.slip == i).getLast?).map fun s => (i, slipLen d s n)
    else none

/-- Every operand of a chain is aligned, those that no stage reads included (R192, R202). -/
def chainAligned (k : ChainCmd) (d : ChainDesc) : Bool :=
  (outOf k d).aligned && (k.f.src != 2 || (sourceOf 0 k d).aligned) &&
    ((upTo 3).all fun i => (sideOf d i k.n).aligned) &&
    d.vec0.toNat % 4 == 0 && d.rout.toNat % 4 == 0 && d.state.toNat % 16 == 0

/-- The row records of n elements. -/
def recSpan (d : ChainDesc) (n : Nat) : Span := (d.state, 16 * d.rows n)

/-- What must stay as it is until a chain completes: its descriptor and its operands (04 R139). -/
def chainReads (core : Nat) (k : ChainCmd) (d : ChainDesc) : List Span :=
  let n := presentOf k
  (k.desc, 64 + 16 * d.stages.length) :: (if k.f.src = 0 then [] else (sourceOf core k d).spans n) ++
    ((upTo 3).flatMap fun i => if sideUsed d i then (sideOf d i k.n).spans n else []) ++
    [(d.vec0, 4 * vecNeed d n)] ++ (if recsRead d then [recSpan d n] else [])

/-- What it writes besides its output: moments, slips, row records (R223). -/
def chainExtras (k : ChainCmd) (d : ChainDesc) : List Span :=
  let n := presentOf k
  (if d.adam then (sideOf d 0 k.n).spans n ++ (sideOf d 1 k.n).spans n else []) ++
    ((slipsOut d n).map fun s => (d.rout + BitVec.ofNat 64 (65536 * s.1), 4 * s.2)) ++
    (if recsWritten d then [recSpan d n] else [])

/-- Everything a chain writes. -/
def chainWrites (k : ChainCmd) (d : ChainDesc) : List Span := (outOf k d).spans (presentOf k) ++ chainExtras k d

/-! Moves (07 R226) -/

/-- A row of a move: source, destination, elements, and the index of its first element (R226, 02 R61). -/
structure Row where
  src : Word
  dst : Word
  n : Nat
  base : Nat
  deriving DecidableEq, Repr

/-- What a COPY or a MOVE does to its elements. -/
structure Mover where
  fmts : BitVec 4
  fmtd : BitVec 4
  rnd : BitVec 2
  tag : W32
  ttid : BitVec 8
  tce : Bool
  tctr : CtrNo
  rows : List Row
  deriving DecidableEq, Repr

/-- The mover of a started command that is a COPY or a MOVE. -/
def moverOf (w : TeWork) (d : Option Desc) : Option Mover :=
  match w, d with
  | .copy f s t n tag, _ =>
    some { fmts := f.fmts, fmtd := f.fmtd, rnd := f.rnd, tag := tag, ttid := 0, tce := false, tctr := 0,
           rows := if n = 0 then [] else [{ src := s, dst := t, n := n, base := 0 }] }
  | .desc _, some d =>
    if d.kind.toNat = 0 then
      some { fmts := d.fmts, fmtd := d.fmtd, rnd := d.rnd, tag := d.tag, ttid := d.ttid, tce := d.tce,
             tctr := d.tctr,
             rows := (upTo d.nrow).map fun r =>
               { src := d.src + BitVec.ofNat 64 (r * d.sstride), dst := d.dst + BitVec.ofNat 64 (r * d.dstride),
                 n := d.nelem, base := r * d.nelem } }
    else none
  | _, _ => none

/-- Elements of SRC that a COLL reads at a member (Table 7.2); those that its DST receives. -/
def collSrc (d : Desc) (rank : Nat) (shard : Nat × Nat) : Nat :=
  match d.ckind.toNat with
  | 2 => shard.2
  | 3 => if rank = 0 then d.nelem else 0
  | _ => d.nelem
def collDst (d : Desc) (rank : Nat) (shard : Nat × Nat) : Nat :=
  match d.ckind.toNat with
  | 1 => shard.2
  | 4 => if rank = 0 then d.nelem else 0
  | _ => d.nelem

/-- What must stay as it is until a started TE command completes (04 R139): `rsv` is where its Reserve entry lies. -/
def teReads (r : TeRun) (rsv : Word × Nat) : List Span :=
  match r.cmd.work with
  | .push _ c _ _ n => [(c, n)]
  | .pop _ _ _ _ n => [(rsv.1, Nat.min n rsv.2)]
  | .free .. => []
  | w =>
    (match w with
     | .desc c => [(c, 64)]
     | _ => []) ++
    match moverOf w r.d, r.d with
    | some v, _ => v.rows.flatMap fun x => (linearOp x.src v.fmts x.n).spans x.n
    | none, some d =>
      (linearOp d.src d.fmts (collSrc d r.rank r.shard)).spans (collSrc d r.rank r.shard) ++
        [(d.shtab, if d.shtab = 0 then 0 else 8 * r.shards.length)]
    | none, none => []

/-- What it writes. -/
def teWrites (r : TeRun) (rsv : Word × Nat) : List Span :=
  match r.cmd.work with
  | .push _ _ _ _ n => [(rsv.1, n)]
  | .pop _ c _ _ n => [(c, Nat.min n rsv.2), (c + BitVec.ofNat 64 ((n + 63) / 64 * 64), 64)]
  | .free .. => []
  | w =>
    match moverOf w r.d, r.d with
    | some v, _ => v.rows.flatMap fun x => (linearOp x.dst v.fmtd x.n).spans x.n
    | none, some d => (linearOp d.dst d.fmtd (collDst d r.rank r.shard)).spans (collDst d r.rank r.shard)
    | none, none => []

/-- The STATUS word of a descriptor (R240). -/
def statusSpan (w : TeWork) : List Span :=
  match w with
  | .desc c => [(c + 56, 8)]
  | _ => []

end Sys2Proof.Machine
end

