-- ==== Sys2Proof/Machine/Tables.lean ====
section
/-! DEFINITION. The page and KV tables of a context as they stand in memory (03 R95 to R97; 15 R498), and what a write into
them does: a changed valid entry keeps acting until a page-table fence completes (03 R99, R100). -/

namespace Sys2Proof.Machine

/-- A call number of this module. -/
def localCall (space off : Nat) : Word := BitVec.ofNat 64 (0xFFFF * 2 ^ 48 + space * 2 ^ 44 + off)

/-- The numbers of the VALID 8 B entries of a table of n bytes. -/
def validEntries (m : Module) (base n : Nat) : List Nat :=
  (m.mem.filter fun e =>
    decide (base ≤ e.1) && decide (e.1 < base + n) && e.1 % 8 == 7 && decide (128 ≤ e.2.toNat) &&
      m.byte e.1 == e.2 && !(m.isBad e.1)).map fun e => (e.1 - base) / 8

/-- An entry as it stands. -/
def entryAt (m : Module) (pa : Nat) : Nat := leNat ((upTo 8).map fun i => m.byte (pa + i))

/-- The leaf tables of a context: root index and frame, for valid root entries in its partition. -/
def leafTables (m : Module) (slot : Nat) : List (Nat × Nat) :=
  let x := m.ctx slot
  let root := paMain x.r.ptbase.toNat 0
  ((validEntries m root 262144).map fun i => (i, pteFrame (entryAt m (root + 8 * i)))).filter fun e =>
    frameOk m x.part e.2

/-- The leaf entries of a context: (virtual page, frame). -/
def leafMap (m : Module) (slot : Nat) : List (Nat × Nat) :=
  (leafTables m slot).flatMap fun e =>
    (validEntries m (paMain e.2 0) 65536).map fun j => (8192 * e.1 + j, pteFrame (entryAt m (paMain e.2 0 + 8 * j)))

/-- The frames of a context's page tables. -/
def tableFrames (m : Module) (slot : Nat) : List Nat :=
  let x := m.ctx slot
  let base := x.r.ptbase.toNat
  let root := paMain base 0
  [base, base + 1, base + 2, base + 3] ++
    (validEntries m root 262144).map fun i => pteFrame (entryAt m (root + 8 * i))

/-! Changed entries (R99, R100; R498) -/

/-- Keep a translation that is not cached yet. -/
def holdPage (key v : Nat) (m : Module) : Module :=
  if Sparse.get (0 : Word) m.tlb key = 0 then { m with tlb := Sparse.set 0 m.tlb key (BitVec.ofNat 64 v) } else m

/-- The leaf entry at a key acts on for its page, if it is valid. -/
def holdLeaf (slot vpn pa : Nat) (m : Module) : Module :=
  let e := entryAt m pa
  if pteValid e && !(m.isBad pa) then holdPage (tlbKey slot vpn) e m else m

/-- The leaf entries that a write at given keys changes, through the leaf table or the root table. -/
def heldLeaves (m : Module) (slot : Nat) (pas : List Nat) : List (Nat × Nat) :=
  let root := paMain (m.ctx slot).r.ptbase.toNat 0
  (leafTables m slot).flatMap fun e =>
    let base := paMain e.2 0
    let whole := pas.any fun pa => pa / 8 == root / 8 + e.1
    let js := if whole then validEntries m base 65536
      else ((pas.filter fun pa => decide (base ≤ pa) && decide (pa < base + 65536)).map fun pa => (pa - base) / 8).dedup
    js.map fun j => (8192 * e.1 + j, base + 8 * j)

/-- The entries of a context's KV tables that a write at given keys changes: key of the translation and of the entry. -/
def heldKv (m : Module) (slot : Nat) (pas : List Nat) : List (Nat × Nat) :=
  if (m.part (m.ctx slot).part).role = 1 then
    (m.ctx slot).kv.flatMap fun w =>
      (runsOf w.2.table (4 * (w.2.len / 65536))).flatMap fun r =>
        match (trLocal slot .read false none r.1 m).2 with
        | .pa pa0 =>
          ((pas.filter fun pa => decide (pa0 ≤ pa) && decide (pa < pa0 + r.2)).map fun pa => (pa - pa0) / 4).dedup.map fun j =>
            (tlbKey slot ((w.2.base + 65536 * (((r.1 - w.2.table).toNat) / 4 + j)) / 65536) + 2 ^ 40, pa0 + 4 * j)
        | _ => []
  else []

/-- What a write at given keys leaves of the translations of a context: those of the entries it changes act on. A context
that has not started translates nothing yet. -/
def holdCtx (slot : Nat) (pas : List Nat) (m : Module) : Module :=
  let kvs := heldKv m slot pas
  let m := (heldLeaves m slot pas).foldl (fun m e => holdLeaf slot e.1 e.2 m) m
  kvs.foldl (fun m e =>
    let v := leNat ((upTo 4).map fun i => m.byte (e.2 + i))
    if v / 2 ^ 31 % 2 = 1 ∧ m.isBad e.2 = false then holdPage e.1 v m else m) m

/-- A context whose changed entries wait for a fence (R100). -/
def Ctx.fenced (x : Ctx) : Bool :=
  match x.state with
  | .running => true
  | .idle => true
  | .faulted => true
  | _ => false

/-- Before a write at given keys: translations that it changes act on in contexts that wait for a fence, and go at once in one
that has not started. -/
def holdOld (pas : List Nat) (m : Module) : Module :=
  let pas := pas.filter isMain
  if pas.isEmpty then m
  else
    let m := each (slotsWhere m Ctx.fenced) (fun i => holdCtx i pas) m
    each (slotsWhere m fun x => x.state == .created) dropTlb m

/-- Write bytes where tables may lie. -/
def putBytes (w : Writer) (items : List (Nat × WByte)) (m : Module) : Module :=
  writeBytes w items (holdOld (items.map (·.1)) m)

/-- The same of whole bytes with one mark. -/
def putPas (w : Writer) (items : List (Nat × Byte)) (mark : Bool) (m : Module) : Module :=
  writePas w items mark (holdOld (items.map (·.1)) m)

/-- A write sets bit 59 of an entry of a leaf table of a live context (03 R96). -/
def cowBitSet (m : Module) (items : List (Nat × Byte)) : Bool :=
  let hits := items.filter fun e => isMain e.1 && e.1 % 8 == 7 && e.2.getLsbD 3
  !hits.isEmpty &&
    (slotsWhere m Ctx.live).any fun i =>
      (leafTables m i).any fun l => hits.any fun e => l.2 == e.1 / 65536

end Sys2Proof.Machine
end

