-- ==== Sys2Proof/Machine/Spans.lean ====
section
/-! DEFINITION. What the engine commands that have launched still read and write, as bytes of the module's memories, and the
acts of 03 Table 3.10 that a read or a write beside them is (05 R180; log 16). -/

namespace Sys2Proof.Machine

/-- The bytes a run of a context's engine operand lies in, as (first key, length). -/
def physOf (m : Module) (slot core : Nat) (k : Acc) (a : Span) : List (Nat × Nat) :=
  (runsOf a.1 a.2).filterMap fun r =>
    if isLocal m r.1 then
      match (resolveLocal slot k false (some core) r.1 m).2 with
      | .pa pa => some (pa, r.2)
      | _ => none
    else none

/-- Where the Reserve entry of a run lies, and its length. -/
def rsvOfRun (m : Module) (r : TeRun) : Word × Nat :=
  let at_ := fun (stage : Nat) =>
    match ((Sparse.get Rsv.init (m.ctx r.cmd.iss.slot).rsv stage).dir.find? fun e => some e.id == r.entry) with
    | some e => (localCall 0 e.off, e.len)
    | none => (0, 0)
  match r.cmd.work with
  | .push stage .. => at_ stage
  | .pop stage .. => at_ stage
  | _ => (0, 0)

/-- Operands of an ME command. -/
def meReads (c : MeCmd) : List Span :=
  let n := c.f.kt.toNat + 1
  let op := fun (a : Word) (f : BitVec 4) =>
    (a, n * tileBytes f) :: (if isQuire f then [(a + BitVec.ofNat 64 (n * tileBytes f), 512 * n)] else [])
  op c.a c.f.fmta ++ op c.b c.f.fmtb

/-- What the commands of a core that have launched read until they complete, the one with identifier `self` aside. -/
def coreReads (m : Module) (core : Nat) (self : Option Nat) (c : CoreSt) : List (Nat × Nat) :=
  let mes := c.meRun.toList.flatMap fun r => (meReads r.cmd).flatMap (physOf m r.cmd.iss.slot core .read)
  let chs := (c.chains.filter fun r => some r.uid != self).flatMap fun r =>
    (chainReads core r.cmd r.d).flatMap (physOf m r.cmd.iss.slot core .read)
  let tes := (c.teRun.filter fun r => some r.uid != self && !r.done && !r.bad).flatMap fun r =>
    (teReads r (rsvOfRun m r)).flatMap (physOf m r.cmd.iss.slot core .read)
  mes ++ chs ++ tes

/-- What they write. -/
def coreWrites (m : Module) (core : Nat) (self : Option Nat) (c : CoreSt) : List (Nat × Nat) :=
  let chs := (c.chains.filter fun r => some r.uid != self).flatMap fun r =>
    (chainWrites r.cmd r.d).flatMap (physOf m r.cmd.iss.slot core .write)
  let tes := (c.teRun.filter fun r => some r.uid != self && !r.bad).flatMap fun r =>
    (teWrites r (rsvOfRun m r)).flatMap (physOf m r.cmd.iss.slot core .write)
  chs ++ tes

/-- A byte lies in a range. -/
def inRange (pa : Nat) (r : Nat × Nat) : Bool := decide (r.1 ≤ pa) && decide (pa < r.1 + r.2)

/-- A launched engine command still reads one of these bytes. -/
def engineReads (m : Module) (self : Option Nat) (pas : List Nat) : Bool :=
  m.cores.any fun e => (coreReads m e.1 self e.2).any fun r => pas.any fun pa => inRange pa r

/-- A launched engine command writes one of these bytes of tile registers. -/
def tileWritten (m : Module) (self : Option Nat) (pas : List Nat) : Bool :=
  let ps := pas.filter fun pa => decide (2 ^ 47 ≤ pa)
  !ps.isEmpty && m.cores.any fun e => (coreWrites m e.1 self e.2).any fun r => ps.any fun pa => inRange pa r

/-- The granules of main memory among some bytes. -/
def gransOf (pas : List Nat) : List Nat := ((pas.filter isMain).map (· / 256)).dedup

/-- Another thread's store that waits, or another launched engine command, writes to one of the same granules: nothing
orders the two. -/
def granuleRace (m : Module) (t : Option ThreadNo) (self : Option Nat) (pas : List Nat) : Bool :=
  let gs := gransOf pas
  !gs.isEmpty &&
    ((m.writes.any fun o => some o.t != t && (gransOf (o.items.map (·.1))).any fun g => gs.contains g) ||
     m.cores.any fun e => (coreWrites m e.1 self e.2).any fun r =>
       gs.any fun g => isMain r.1 && r.2 != 0 && decide (r.1 / 256 ≤ g) && decide (g ≤ (r.1 + r.2 - 1) / 256))

/-- The act of Table 3.10 that a write of these bytes would be: by a thread, by the engine command `self`, or from elsewhere. -/
def writeAct (m : Module) (t : Option ThreadNo) (self : Option Nat) (items : List (Nat × Byte)) : Option Act :=
  let pas := items.map (·.1)
  if engineReads m self pas then some .writtenWhileEngineReads
  else if granuleRace m t self pas then some .granuleRace
  else if cowBitSet m items then some .cowBitWritten
  else none

end Sys2Proof.Machine
end

