-- ==== Sys2Proof/Machine/Wild.lean ====
section
/-! DEFINITION. Undefined behaviour (03 R119, Table 3.9): an act of Table 3.10 puts free values into any of the state within
its scope; no check catches it and no fault reports it. A thread whose free state waits for a value that never comes is the
stall of R119. -/

namespace Sys2Proof.Machine

/-- A map in its canonical form. -/
def canon {β : Type} [DecidableEq β] (d : β) (m : List (Nat × β)) : Sparse β :=
  m.foldl (fun s e => Sparse.set d s e.1 e.2) []

/-- The frames that the KV tables of a context map. -/
def kvFrames (m : Module) (slot : Nat) : List Nat :=
  (m.ctx slot).kv.flatMap fun w =>
    (runsOf w.2.table (4 * (w.2.len / 65536))).flatMap fun r =>
      match (trLocal slot .read false none r.1 m).2 with
      | .pa pa0 =>
        (m.mem.filter fun e => decide (pa0 ≤ e.1) && decide (e.1 < pa0 + r.2) && e.1 % 4 == 3 && decide (128 ≤ e.2.toNat)).map
          fun e => leNat ((upTo 4).map fun i => m.byte (e.1 - 3 + i)) % 2 ^ 28
      | _ => []

/-- A byte of a context's own memories: its pages, carrels, tile registers and cluster-store window (Table 3.9). -/
def ownByte (m : Module) (slot : Nat) (frames : List Nat) (pa : Nat) : Bool :=
  let x := m.ctx slot
  if isMain pa then frames.contains (pa / 65536) && frameOk m x.part (pa / 65536)
  else if pa < 2 ^ 46 then x.r.cores.getLsbD ((pa - 2 ^ 45) / 2 ^ 22)
  else if pa < 2 ^ 47 then
    ownsCluster x ((pa - 2 ^ 46) / 2 ^ 24) &&
      decide (x.r.csBase.toNat ≤ (pa - 2 ^ 46) % 2 ^ 24 / 65536) &&
      decide ((pa - 2 ^ 46) % 2 ^ 24 / 65536 < x.r.csBase.toNat + x.r.csSize.toNat)
  else x.r.cores.getLsbD ((pa - 2 ^ 47) / 2 ^ 19)

/-- A free thread: what it waits for lies within the scope. -/
def tameThread (own : Nat → Bool) (x : Thread) : Thread :=
  { x with
    held := none, regs := canon 0 x.regs, marks := x.marks.foldl NatSet.add [],
    load := x.load.bind fun l =>
      match l.loc with
      | .mem pas => if pas.all own then some l else none
      | _ => some l }

/-- A free core: its commands are the context's, and its clock and the resets of its engines go on. -/
def tameCore (slot gen core : Nat) (old x : CoreSt) : CoreSt :=
  let is := fun (i : Iss) => ({ i with slot := slot, gen := gen } : Iss)
  let mine := fun (i : Iss) => i.t.core == core
  { old with
    err := canon 0 x.err, acc := canon 0 x.acc, accBad := x.accBad, accErr := x.accErr, cart := x.cart, cartBusy := x.cartBusy,
    meQ := (x.meQ.filter fun k => mine k.iss).map fun k => { k with iss := is k.iss },
    meRun := (x.meRun.filter fun r => mine r.cmd.iss).map fun r => { r with cmd := { r.cmd with iss := is r.cmd.iss } },
    veQ := (x.veQ.filter fun k => mine k.iss).map fun k => { k with iss := is k.iss },
    chains := (x.chains.filter fun r => mine r.cmd.iss).map fun r => { r with cmd := { r.cmd with iss := is r.cmd.iss } },
    teQ := (x.teQ.filter fun k => mine k.iss).map fun k => { k with iss := is k.iss },
    teRun := (x.teRun.filter fun r => mine r.cmd.iss).map fun r => { r with cmd := { r.cmd with iss := is r.cmd.iss } },
    tePark := (x.tePark.filter fun k => mine k.iss).map fun k => { k with iss := is k.iss },
    rbuf := x.rbuf, teTmo := x.teTmo }

/-- A free draw. -/
def nextDraw (m : Module) : Nat × Module := (m.draw, { m with draw := m.draw + 1 })

/-- Free bytes within a scope. -/
def wildMem (d : Nat) (own : Nat → Bool) (m : Module) : Module :=
  putBytes byContext (((Config.wildBytes d).filter fun e => own e.1).map fun e => (e.1, wb e.2.1 (e.2.2 && !isMain e.1))) m

/-- Free threads and engines of the cores of a context. -/
def wildWork (d slot : Nat) (own : Nat → Bool) (m : Module) : Module :=
  let x := m.ctx slot
  let m := (Config.wildThreads d).foldl (fun m e =>
    if x.r.cores.getLsbD e.1.core then m.setThread e.1 (tameThread own e.2) else m) m
  (Config.wildCores d).foldl (fun m e =>
    if x.r.cores.getLsbD e.1 then m.updCore e.1 fun c => tameCore slot x.gen.toNat e.1 c e.2 else m) m

/-- Free WRITEs to the contexts of the job on other modules. -/
def wildSends (d slot : Nat) (m : Module) : Module :=
  (Config.wildSends d).foldl (fun m x =>
    if x.dst = BitVec.ofNat 16 m.num ∨ 4096 < x.payload.length then m
    else
      request { core := libCore, slot := slot, gen := (m.ctx slot).gen.toNat, who := .lib, sent := none,
                x := { baseTx m slot .write x.dst x.addr with payload := x.payload, len := x.payload.length } } m) m

/-- An act of a context (Table 3.9): its own memories, threads, engines, counters, Reserves and editions, and the same of its
job's contexts on other modules. -/
def undefCtx (slot : Nat) (m : Module) : Module :=
  if !(m.ctx slot).live then m
  else
    let d := nextDraw m
    let own := ownByte m slot ((leafMap m slot).map (·.2) ++ kvFrames m slot)
    let m := wildSends d.1 slot (wildWork d.1 slot own (wildMem d.1 own d.2))
    settle slot (m.updCtx slot fun x =>
      { x with ctrs := canon 0 ((Config.wildCtrs d.1).map fun e => (e.1 % 512, e.2)), rsv := canon Rsv.init (Config.wildRsv d.1),
               tensors := canon Tensor.unbound (Config.wildTensors d.1) })

/-- A byte of a partition's memories. -/
def partByte (m : Module) (p pa : Nat) : Bool :=
  let d := if isMain pa then dieOfGran (pa / 256)
    else if pa < 2 ^ 46 then (pa - 2 ^ 45) / 2 ^ 28
    else if pa < 2 ^ 47 then (pa - 2 ^ 46) / 2 ^ 27
    else (pa - 2 ^ 47) / 2 ^ 25
  partOfDie m d == p && (!isMain pa || softFrame (pa / 65536))

/-- An act of the function bound to a partition: the partition and its contexts. What they are, their cores and their loan stay
as they are. -/
def undefPart (p : Nat) (m : Module) : Module :=
  let d := nextDraw m
  let slots := slotsWhere m fun x => x.part == p
  let own := partByte m p
  let m := each slots (fun i m =>
    (wildWork (m.draw) i own m).updCtx i fun x =>
      { Config.wildCtx (m.draw) with
        state := x.state, gen := x.gen, part := x.part, r := x.r, keystamp := x.keystamp, tdAt := x.tdAt, tdCmd := x.tdCmd,
        tdKeep := x.tdKeep, tdTmo := x.tdTmo }) (wildMem d.1 own d.2)
  (nextDraw m).2.updPart p fun q =>
    let w := Config.wildPart d.1
    { w with bind := q.bind, st := q.st, loanrec := q.loanrec, openRec := q.openRec, closeRec := q.closeRec, keyNo := q.keyNo,
             loanid := q.loanid, tenant := q.tenant, openedAt := q.openedAt }

/-- An act whose scope is the whole module; its pins are inputs and not of it. -/
def undefModule (m : Module) : Module :=
  let w := Config.wildModule m.draw
  { w with
    mem := canon 0 w.mem, draw := m.draw + 1,
    boot := { w.boot with rails := m.boot.rails, pwrEn := m.boot.pwrEn, pwrGood := m.boot.pwrGood, rstN := m.boot.rstN,
                          perstN := m.boot.perstN, trip := m.boot.trip, refclk := m.boot.refclk, store := canon 0 w.boot.store,
                          powerUps := m.boot.powerUps } }

/-- An act of a function: virtual functions act within their partition. -/
def undefFn (f : Nat) (m : Module) : Module :=
  if f = 0 then undefModule m
  else
    match partOfFn m f with
    | some p => undefPart p m
    | none => m

end Sys2Proof.Machine
end

