-- ==== Sys2Proof/Machine/EngOps.lean ====
section
/-! DEFINITION. What engines do with their operands: reading and writing runs of bytes anywhere an operand may
lie (03 R105, 04 R142), tensors in linear and blocked layout (05 R162, 06 R197 to R202), conversion and
narrowing (02 R48 to R50, R43, R59 to R61). -/

namespace Sys2Proof.Machine

/-- Why an engine command cannot go on now: a refused or poisoned access, remote bytes that have not arrived (to be asked for
under a TTID), pages whose copy-on-write copy must be made first, or an act of 03 Table 3.10. -/
inductive Stop where
  | deny (sub : Option PageSub) (addr : Word)
  | wait (blocks : List (Word × Nat)) (ttid : BitVec 8)
  | cow (slot : Nat) (pages : List Nat)
  | ub (a : Act)
  deriving DecidableEq, Repr

/-- Work of an engine: it changes the module, and may stop; the errors it met in memory stay met. -/
abbrev EngM := ExceptT Stop (StateM Module)

/-- Stop a piece of engine work. -/
def stop {α : Type} (s : Stop) : EngM α := throw s

/-- A piece of engine work that cannot stop. -/
def act {α : Type} (f : Module → Module × α) : EngM α := do
  let r := f (← get)
  set r.1
  return r.2

/-- Physical bytes of a page run, checked. -/
def resolveRun (slot : Nat) (k : Acc) (eng : Option Nat) (c : Word) (n : Nat) : EngM (List Nat) := do
  match ← act (resolve slot k eng c) with
  | .pa pa => return (upTo n).map (pa + ·)
  | .deny s => stop (.deny (some s) c)
  | .poison => stop (.deny none c)
  | _ => stop (.deny (some .badSpace) c)

/-- Read n local bytes for the command `self`; reading a tile register that another command writes is an act of Table 3.10. -/
def readLocal (slot core : Nat) (self : Option Nat) (c : Word) (n : Nat) : EngM (List (Byte × Bool)) := do
  let parts ← (runsOf c n).mapM fun r => do
    let pas ← resolveRun slot .read (some core) r.1 r.2
    if tileWritten (← get) self pas then stop (.ub .tileReadWhileWritten)
    act (readPas pas)
  return parts.flatten

/-- Read n bytes of another module: those that have arrived, else they must be asked for. -/
def readRemote (core : Nat) (e : Engine) (ttid : BitVec 8) (c : Word) (n : Nat) : EngM (List (Byte × Bool)) := do
  let m ← get
  match resolveRemote m c with
  | .remote =>
    let ps := txPieces c n
    let have_ := fun (p : Word × Nat) => (m.core core).rbuf.find? fun b =>
      b.e == e && b.call == p.1 && b.data.length == p.2
    let absent := ps.filter fun p => (have_ p).isNone
    if absent.isEmpty then return (ps.filterMap have_).flatMap (·.data) else stop (.wait absent ttid)
  | .deny s => stop (.deny (some s) c)
  | _ => stop (.deny (some .badSpace) c)

/-- Bytes as read, to be written with their marks. -/
def asRead (bs : List (Byte × Bool)) : List WByte := bs.map fun b => wb b.1 b.2

/-- Who reads: the context, the core, its engine, the command's identifier once it has one, and its TTID. -/
structure Reader where
  slot : Nat
  core : Nat
  e : Engine
  self : Option Nat
  ttid : BitVec 8
  deriving DecidableEq, Repr

/-- Read n bytes of an engine operand. -/
def readOp (w : Reader) (c : Word) (n : Nat) : EngM (List (Byte × Bool)) := do
  if n = 0 then return []
  else if isLocal (← get) c then readLocal w.slot w.core w.self c n else readRemote w.core w.e w.ttid c n

/-- Some byte would enter main memory. -/
def toMain (pas : List Nat) : Bool := pas.any isMain

/-- Write local bytes for the command `self`: refused, poisoned into main memory, waiting for a copy-on-write copy, or an act
of Table 3.10. -/
def writeLocal (slot core : Nat) (self : Option Nat) (c : Word) (data : List WByte) : EngM Unit := do
  match cowPages slot c data.length (← get) with
  | [] =>
    let pas ← (runsOf c data.length).mapM fun r => resolveRun slot .write (some core) r.1 r.2
    let items := pas.flatten.zip data
    if items.any (fun e => isMain e.1 && e.2.bad) then stop (.deny none c)
    else
      match writeAct (← get) none self (items.map fun e => (e.1, e.2.v)) with
      | some a => stop (.ub a)
      | none => modify (putBytes byContext items)
  | ps => stop (.cow slot ps)

/-- Words of a payload that carry a mark (10 R323). -/
def badWords (data : List Bool) : List Nat :=
  (upTo ((data.length + 7) / 8)).filter fun w => ((data.drop (8 * w)).take 8).any id

/-- A request of a core's TE. -/
def flightFor (m : Module) (slot core : Nat) (who : Who) (x : Txn) : Flight :=
  { core := core, slot := slot, gen := (m.ctx slot).gen.toNat, who := who, sent := none, x := x }

/-- The copies of a transaction that becomes visible in a context for the context that shadows it (14 R481, log 104). -/
def copies (slot : Nat) (x : Txn) (m : Module) : List Flight :=
  (Config.shadowOf (BitVec.ofNat 16 m.num) x.job m.now).toList.map fun t =>
    flightFor m slot libCore .copy
      { x with dst := t, src := BitVec.ofNat 16 m.num, srcgen := (m.ctx slot).gen, srcslot := BitVec.ofNat 6 slot,
               ttid := 0, tag := 0, inc := 0, det := false, lib := .none }

/-- Send them, best-effort. -/
def copyToShadow (slot : Nat) (x : Txn) (m : Module) : Module :=
  { m with fab := { m.fab with waiting := m.fab.waiting ++ copies slot x m } }

/-- The WRITE transactions of a run of bytes on another module (07 R227): HALF where the last byte keeps its high nibble;
poisoned data never leaves for main memory (08 Table 8.8). -/
def writeTxs (slot : Nat) (ttid : BitVec 8) (c : Word) (data : List WByte) : EngM (List Txn) := do
  let m ← get
  match resolveRemote m c with
  | .remote =>
    if callSpace c = 0 && data.any (·.bad) then stop (.deny none c)
    else
      return (txPieces c data.length).map fun p =>
        let d := (data.drop (p.1 - c).toNat).take p.2
        let x := baseTx m slot .write (callDst p.1) (callAddr p.1)
        { x with ttid := ttid, len := d.length, payload := d.map (·.v), bad := badWords (d.map (·.bad)),
                 half := (d.getLast?.map (·.mask)) == some 0x0F }
  | .deny s => stop (.deny (some s) c)
  | _ => stop (.deny (some .badSpace) c)

/-- Ask for transactions. -/
def askTxs (slot core : Nat) (who : Who) (xs : List Txn) : EngM Unit :=
  modify fun m => xs.foldl (fun m x => request (flightFor m slot core who x) m) m

/-- Ask for the WRITE transactions of a run of bytes on another module; the number asked for. -/
def sendWrites (slot core : Nat) (who : Who) (ttid : BitVec 8) (c : Word) (data : List WByte) : EngM Nat := do
  let xs ← writeTxs slot ttid c data
  askTxs slot core who xs
  return xs.length

/-- Write a chunk here or ask for its remote writes; the number of transactions asked for. -/
def putChunk (slot core uid : Nat) (who : Who) (ttid : BitVec 8) (c : Chunk) : EngM Nat := do
  if c.2.isEmpty then return 0
  else if isLocal (← get) c.1 then
    writeLocal slot core (some uid) c.1 c.2
    return 0
  else sendWrites slot core who ttid c.1 c.2

/-! Stopped in the middle (06 R224, 07 R251) -/

/-- The units of memory in which two modules differ: 256 B granules of main memory and 8 B words. -/
def changedUnits (m m' : Module) : List Nat :=
  let has := fun (a b : List Host.Cell) => (a.filter fun e => Sparse.get 0 b e.1 != e.2).map fun e => unitOf e.1
  (has m.mem m'.mem ++ has m'.mem m.mem ++ (m.bad.filter fun u => !(NatSet.has m'.bad u)) ++
    (m'.bad.filter fun u => !(NatSet.has m.bad u)) ++ m'.valid.filter fun g => !(NatSet.has m.valid g)).dedup

/-- Of the writes that lead from one module to another, those that free values choose have been accepted; nothing else has
happened. -/
def partly (m m' : Module) : Module :=
  let us := changedUnits m m'
  let pick := fun (u : Nat) => us.contains u && (Config.freeWord (m.draw + us.findIdx (· == u))).getLsbD 0
  let keep := fun (a b : List Nat) => (b.filter pick).foldl NatSet.add (a.filter fun u => !pick u)
  { m with
    mem := (m'.mem.filter fun e => pick (unitOf e.1)).foldl (fun s e => Sparse.set (0 : Byte) s e.1 e.2)
      (wipe (fun k => pick (unitOf k)) m.mem),
    valid := keep m.valid m'.valid, bad := keep m.bad m'.bad,
    summary := if (m'.valid.filter pick).isEmpty then m.summary else m'.summary, draw := m.draw + us.length }

/-- What engine work that a context reset or teardown stops has done: some of its local writes. -/
def cutShort {α : Type} (w : EngM α) (m : Module) : Module :=
  match w.run m with
  | (.ok _, m') => partly m m'
  | (.error (.deny _ _), m') => partly m m'
  | _ => m

/-! Running a piece of work -/

/-- Ask for the remote bytes an engine lacks. -/
def askFor (slot core : Nat) (e : Engine) (ttid : BitVec 8) (blocks : List (Word × Nat)) (m : Module) : Module :=
  blocks.foldl (fun m b =>
    let who := Who.eng core e b.1
    if m.fab.waiting.any (fun f => f.who == who) || m.fab.flights.any (fun f => f.who == who) then m
    else
      let x := baseTx m slot .read (callDst b.1) (callAddr b.1)
      request (flightFor m slot core who { x with len := b.2, ttid := ttid }) m) m

/-- Forget the remote operands of an engine once used. -/
def dropBlocks (core : Nat) (e : Engine) (m : Module) : Module :=
  m.updCore core fun c => { c with rbuf := c.rbuf.filter fun b => b.e != e }

/-- A page waits for its copy-on-write copy (14 R455). -/
def waitCow (slot : Nat) (pages : List Nat) (m : Module) : Module :=
  pages.foldl (fun m v =>
    let w : CowWait := { slot := slot, vpn := v }
    if m.cows.contains w then m else { m with cows := m.cows ++ [w] }) m

/-- Run a piece of engine work of a context: on success `k`; on a refusal the command is dropped with no completion and its
context faults, some of its writes having been accepted (03 R116); on a wait the module with its requests; on an act of Table
3.10 what R119 allows. -/
def runEng {α : Type} (slot core : Nat) (e : Engine) (t : ThreadNo) (drop : Module → Module) (w : EngM α)
    (k : α → Module → Module) (m : Module) : Module :=
  match w.run m with
  | (.ok a, m') => k a m'
  | (.error (.deny sub c), m') => denyFault slot sub c (srcOf t) (drop m')
  | (.error (.wait bs ttid), _) => askFor slot core e ttid bs m
  | (.error (.cow sl ps), _) => waitCow sl ps m
  | (.error (.ub _), m') => undefCtx slot m'

/-! Tensors -/

/-- The elements that the bytes of an element plane and of a scale plane hold. -/
def elemsOf (o : Operand) (n : Nat) (plane scales : List (Byte × Bool)) : Array Elem :=
  let pa := plane.toArray
  let sa := scales.toArray
  ((upTo n).map fun i =>
    let c := codeIn pa (o.bitAt i) (codeBits o.fmt)
    let s := sa.getD (i / 32) (0, false)
    ({ code := c.1, scale := s.1.toNat, bad := c.2, sbad := isQuire o.fmt && s.2 } : Elem)).toArray

/-- The bytes of an element plane up to its last run, those between runs unread. -/
def planeOf (parts : List (Nat × List (Byte × Bool))) : List (Byte × Bool) :=
  (parts.foldl (fun (a : List (Byte × Bool) × Nat) p =>
    (a.1 ++ List.replicate (p.1 - a.2) (0, false) ++ p.2, p.1 + p.2.length)) ([], 0)).1

/-- Read the first n elements of a tensor, and no other byte of it (06 R199). -/
def readElems (w : Reader) (o : Operand) (n : Nat) : EngM (Array Elem) := do
  if n = 0 then return #[]
  let parts ← (o.runs n).mapM fun r => do
    let b ← readOp w (o.call + BitVec.ofNat 64 r.1) r.2
    return (r.1, b)
  let scales ←
    if isQuire o.fmt then readOp w (o.call + BitVec.ofNat 64 (o.scaleAt 0)) ((n + 31) / 32)
    else pure []
  return elemsOf o n (planeOf parts) scales

/-! Narrowing -/

/-- Rounding of a write-back: mode code of 04 Table 4.10 and what stochastic bits are drawn from. -/
structure Rnd where
  code : BitVec 2
  seed : Word
  step : W32
  tag : W32
  rne : Bool
  deriving DecidableEq, Repr

/-- The rounding of a command of a context. -/
def rndOf (x : Ctx) (code : BitVec 2) (tag : W32) : Rnd :=
  { code := code, seed := x.srseed, step := x.stepnum, tag := tag, rne := x.r.rnd }

/-- The mode for the element with a logical index. -/
def Rnd.mode (r : Rnd) (idx : Nat) : RMode :=
  match r.code.toNat with
  | 0 => if r.rne then .rne else .trunc
  | 1 => .trunc
  | 2 => .rne
  | _ => .sr (srBits r.seed r.step r.tag idx)

/-- An output element: code and events. -/
structure OutElem where
  idx : Nat
  code : Nat
  bad : Bool
  deriving DecidableEq, Repr

/-- Narrow FP32-or-wider values to a format (02 R50), or to quire blocks with their scales (R43). `vals`
lists (element, exact value, mark) of the present elements in order. -/
def narrowAll (fmt : BitVec 4) (r : Rnd) (logical : Nat → Nat) (vals : List (Nat × FVal × Bool)) :
    List OutElem × List (Nat × Nat × Bool) × List Ev :=
  if isQuire fmt then
    let blocks := (vals.map fun v => v.1 / 32).dedup
    blocks.foldl (fun acc b =>
      let vs := vals.filter fun v => v.1 / 32 == b
      let c := quireScale (elemFmt fmt) (vs.map (·.2.1))
      let bad := vs.any (·.2.2)
      let outs := (upTo 32).map fun k =>
        match vs.find? fun v => v.1 % 32 == k with
        | some v =>
          if c = 255 then (({ idx := 32 * b + k, code := 0, bad := v.2.2 } : OutElem), [])
          else
            let q := narrow (elemFmt fmt) (r.mode (logical v.1)) (unscale c v.2.1)
            ({ idx := 32 * b + k, code := q.1, bad := v.2.2 }, q.2)
        | none => ({ idx := 32 * b + k, code := 0, bad := false }, [])
      (acc.1 ++ outs.map (·.1), acc.2.1 ++ [(b, c, bad)], acc.2.2 ++ outs.flatMap (·.2))) ([], [], [])
  else
    let outs := vals.map fun v =>
      let q := narrow (elemFmt fmt) (r.mode (logical v.1)) v.2.1
      (({ idx := v.1, code := q.1, bad := v.2.2 } : OutElem), q.2)
    (outs.map (·.1), [], outs.flatMap (·.2))

/-- Bytes of output elements by offset; an F4 nibble without its neighbour writes only itself. -/
def elemBytes (o : Operand) (els : List OutElem) : List (Nat × WByte) :=
  if codeBits o.fmt = 4 then
    let offs := (els.map fun e => o.bitAt e.idx / 8).dedup
    offs.map fun b =>
      (b, (els.filter fun e => o.bitAt e.idx / 8 == b).foldl (fun (a : WByte) e =>
        let lo := o.bitAt e.idx % 8
        { v := a.v ||| BitVec.ofNat 8 (e.code % 16 * 2 ^ lo), mask := a.mask ||| (0x0F#8 <<< lo), bad := a.bad || e.bad })
        { v := 0, mask := 0, bad := false })
  else
    els.flatMap fun e =>
      (leBytes (codeBits o.fmt / 8) e.code).zipIdx.map fun p => (o.bitAt e.idx / 8 + p.2, wb p.1 e.bad)

/-- The chunks of a tensor's output elements and scale codes. -/
def outChunks (o : Operand) (els : List OutElem) (scales : List (Nat × Nat × Bool)) : List Chunk :=
  (groupRuns (elemBytes o els) ++ groupRuns (scales.map fun s => (o.scaleAt s.1, wb (BitVec.ofNat 8 s.2.1) s.2.2))).map fun g =>
    (o.call + BitVec.ofNat 64 g.1, g.2)

end Sys2Proof.Machine
end

