-- ==== Sys2Proof/Machine/Regs.lean ====
section
/-! DEFINITION. Register addresses (18 Tables 18.1 to 18.7) and what happens to a write that its register refuses
(18 R549, R550; 17 R547). -/

namespace Sys2Proof.Machine

/-- Who writes a register: a function, or a thread of the context through the control space (none). -/
abbrev By := Option Fn

/-- BAR0 offset of a context register, of a partition register. -/
def ctxOff (slot off : Nat) : Nat := 0x400000 + 0x10000 * slot + off
def partOff (p off : Nat) : Nat := 0x20000 + 0x1000 * p + off

/-- Offsets of context registers (Table 18.7) that commands of their own write. -/
def offCtxcmd : Nat := 0x0000
def offCtxctl : Nat := 0x0010
def offPtinv : Nat := 0x00B8
def offErrclr : Nat := 0x00E0
def offOvdwin : Nat := 0x0100
def offGrpbind : Nat := 0x0208
def offGngo : Nat := 0x0338
def offBmtake : Nat := 0x04A0
def offBmrestore : Nat := 0x04A8
def offShadowcfg : Nat := 0x0548
def offKvwin : Nat := 0x0600
def offKvfree : Nat := 0x0680
def offSchedmode : Nat := 0x0800
def offUnitdone : Nat := 0x0808
def offVarcur : Nat := 0x0850
def offRsv : Nat := 0x1000
def offEdbind : Nat := 0x2008
def offEdclaim : Nat := 0x2010
def offEdpub : Nat := 0x2018

/-- The writer as event 0x0903 names it. -/
def writerNo (w : By) : Nat :=
  match w with
  | some f => f.val
  | none => 0xFF

/-- A refused or ignored write is told to the ledger (R549, event 0x0903). -/
def refused (w : By) (pl : Place) (off v : Nat) (m : Module) : Module := led 0x0903 sevWarn pl [off, writerNo w, v] m

/-- The same for a context register, named by BAR0 offset or by control-space call number. -/
def ctxRefused (w : By) (slot off v : Nat) (m : Module) : Module :=
  let at_ := match w with
    | some _ => ctxOff slot off
    | none => 0xFFFF400000000000 + off
  refused w (atCtx m slot) at_ v m

/-- A function sees the blocks of a partition (Table 18.1): the physical function all of them. -/
def seesPart (m : Module) (f p : Nat) : Bool := f == 0 || isBound m f p

/-- A function sees its own block; a virtual one while it is bound (17 R530). -/
def seesFn (m : Module) (f : Fn) : Bool := f == 0 || (partOfFn m f.val).isSome

/-- A writer sees a context block. -/
def seesCtx (m : Module) (w : By) (slot : Nat) : Bool :=
  match w with
  | some f => f.val == 0 || ownsSlot m f.val slot
  | none => true

/-- A write of a context register: unseen blocks ignore it, a slot without a context or a context in a state
the register refuses gives a ledger entry (R549, R550). -/
def onCtx (w : By) (slot off v : Nat) (ok : Ctx → Bool) (f : Module → Module) (m : Module) : Module :=
  if !(seesCtx m w slot) then m
  else if (m.ctx slot).state == .free || !(ok (m.ctx slot)) then ctxRefused w slot off v m
  else f m

/-- A write that only the physical function may make; through a virtual one the block is not seen (R550). -/
def physOnly (f : Fn) (g : Module → Module) (m : Module) : Module := if f = 0 then g m else m

/-- A write of a partition register that only the physical function may make: refused through the virtual function that
sees the block (R549, R550). -/
def physPart (f : Fn) (p off v : Nat) (g : Module → Module) (m : Module) : Module :=
  if !(isPart m p) then m
  else if f = 0 then g m
  else if isBound m f.val p then refused (some f) (atPart p) (partOff p off) v m
  else m

/-- A write of a register gated by a catalogue bit (17 R547): with the bit clear it is ignored, event
0x0901. -/
def gated (bit off : Nat) (f : Fn) (g : Module → Module) (m : Module) : Module :=
  if catOn m bit then g m else led 0x0901 sevWarn atModule [off, bit, f.val] m

/-- A write of a gated context register. -/
def onGated (bit : Nat) (w : By) (slot off v : Nat) (ok : Ctx → Bool) (f : Module → Module) (m : Module) : Module :=
  if !(seesCtx m w slot) || catOn m bit then onCtx w slot off v ok f m
  else led 0x0901 sevWarn atModule [ctxOff slot off, bit, writerNo w] m

/-! Requests over the host link -/

/-- The function answers requests: the link is up, the function exists, and it is neither in D3hot nor in
a Function Level Reset (13 R434; 17 R522, R523, R530). -/
def hostUp (m : Module) (f : Nat) : Bool :=
  m.boot.perstN && (f == 0 || decide (f ≤ m.boot.numvfs)) && !(m.func f).d3hot && (m.func f).flr.isNone

/-- A writer reaches the registers. -/
def reaches (m : Module) (w : By) : Bool :=
  match w with
  | some f => hostUp m f.val
  | none => true

/-- A register write that reaches the running Librarian; others are lost (17 R543). -/
def liftW (w : By) (k : Module → Module) (s : State) : Host.Outcome State Fault Refusal :=
  liftL (fun m => if reaches m w then k m else m) s

/-- What an act of a writer makes undefined. -/
def undefBy (w : By) (slot : Nat) (m : Module) : Module :=
  match w with
  | some f => undefFn f.val m
  | none => undefCtx slot m

/-- A write of v to a register whose fields are `mask`: a non-zero RSV field is an act of Table 3.10 (R549). -/
def rsvOk (w : By) (slot : Nat) (mask v : Word) (k : Module → Module) (m : Module) : Module :=
  if v &&& ~~~mask ≠ 0 then undefBy w slot m else k m

/-- A read by a function: Unsupported Request where nothing answers (17 R522, R543). -/
def liftRd (f : Fn) (k : Module → Module) (s : State) : Host.Outcome State Fault Refusal :=
  lift (fun m =>
    if !m.boot.perstN then m
    else if m.boot.lib && hostUp m f.val then k m
    else hostOut (.unsupported f.val) m) s

/-- A message of the tray controller, taken only inside the SPDM session (17 R540). -/
def liftT (k : Module → Module) (s : State) : Host.Outcome State Fault Refusal :=
  liftL (fun m => if m.boot.spdm then k m else m) s

/-- The context is CREATED or IDLE. -/
def Ctx.quiet (x : Ctx) : Bool := x.state == .created || x.state == .idle

end Sys2Proof.Machine
end

