-- ==== Sys2Proof/Machine/Records.lean ====
section
/-! DEFINITION. Loan records as bytes, their signatures, and the attestation log (15 Table 15.2, R500, R501). -/

namespace Sys2Proof.Machine

/-- Bytes 0 to 167 of a loan record (Table 15.2). -/
def lrBytes (r : LoanRec) : List Byte :=
  leBytes 8 ((if r.isOpen then 1 else 2) * 2 ^ 56 + r.cause.toNat * 2 ^ 48 + r.part.toNat * 2 ^ 45 +
      r.dies.toNat * 2 ^ 37 + r.role.toNat * 2 ^ 35 + (if r.secure then 2 ^ 34 else 0)) ++
    leBytes 8 r.loanid.toNat ++ leBytes 8 r.tenant.toNat ++ leBytes 8 r.stamp ++
    leBytes 8 (r.modnum.toNat * 2 ^ 48 + r.feedid.toNat * 2 ^ 32 + r.inc.toNat) ++
    leBytes 32 r.idpub.toNat ++ leBytes 32 r.xpub.toNat ++ leBytes 64 r.attdig.toNat

/-- What LIBSIG signs. -/
def lrDigest (r : LoanRec) : BitVec 512 := Config.sha512 (lrBytes r)

/-- The identity key signs (R500); its key is not state. -/
def libSign (d : BitVec 512) : BitVec 512 := Config.sign 0 d

/-- FEEDID of this module (18 Table 18.2). -/
def feedOf (m : Module) : BitVec 16 := ((m.topo.feeds.find? fun e => e.1 == m.num).map (·.2)).getD 0

/-- The dies of a partition as a mask. -/
def diesMask (m : Module) (p : Nat) : BitVec 8 := BitVec.ofNat 8 ((diesOf m p).foldl (fun a d => a + 2 ^ d) 0)

/-- Form and sign a loan record of a partition (R489, R490). XPUB of an open is that of the key pair which the
open will generate. -/
def formRec (m : Module) (p : Nat) (isOpen : Bool) (cause : Nat) (loanid tenant : Word) : LoanRec :=
  let q := m.part p
  let r : LoanRec :=
    { isOpen := isOpen, cause := BitVec.ofNat 8 cause, part := BitVec.ofNat 3 p, dies := diesMask m p,
      role := q.role, secure := q.secure, loanid := loanid, tenant := tenant, stamp := m.now,
      modnum := BitVec.ofNat 16 m.num, feedid := feedOf m, inc := m.lease.inc, idpub := Config.idPub,
      xpub := if isOpen then Config.xPub m.att.transport else 0, attdig := m.att.running, libsig := 0 }
  { r with libsig := libSign (lrDigest r) }

/-- Append an entry to the attestation log (R501); beyond 4,096 entries none is kept. -/
def attest (e : BitVec 512) (m : Module) : Module :=
  if Config.attMax ≤ m.att.log.length then m
  else
    { m with att := { m.att with log := m.att.log ++ [e],
                                 running := Config.sha512 (leBytes 64 m.att.running.toNat ++ leBytes 64 e.toNat) } }

/-- Bytes of a co-signed record (16 Table 16.3): the record as the Librarian formed it, LIBSIG, then what the
meter adds. -/
def coBytes (c : Cosigned) : List Byte :=
  lrBytes c.lr ++ leBytes 64 c.lr.libsig.toNat ++ leBytes 8 c.mtime ++ leBytes 8 c.mseq ++
    leBytes 8 Config.meterId.toNat ++ leBytes 8 c.energy ++ leBytes 8 c.duration ++
    leBytes 8 (Config.lrVer.toNat * 2 ^ 56 + (if c.rep then 16 else 0) + (if c.tampered then 8 else 0) +
      (if c.unsynced then 4 else 0) + (if c.suspended then 2 else 0) + (if c.notopen then 1 else 0))

/-- The attestation entry of a co-signed record. -/
def coDigest (c : Cosigned) : BitVec 512 := Config.sha512 (coBytes c ++ leBytes 64 c.msig.toNat)

end Sys2Proof.Machine
end

