-- ==== Sys2Proof/Machine/Pages.lean ====
section
/-! DEFINITION. Pages of a context as the Librarian handles them: its leaf entries, clearing, copy-on-write bits, and the
bookmarks of the module with their pool of frames (08 R273; 14 R450 to R457, R463). -/

namespace Sys2Proof.Machine

/-! Releasing pages (08 R273) -/

/-- Clear every frame the context's leaf entries map, and its tables. -/
def clearPages (slot : Nat) (m : Module) : Module :=
  let p := (m.ctx slot).part
  let frs := ((leafMap m slot).map (·.2) ++ tableFrames m slot).dedup
  (frs.filter (frameOk m p)).foldl (fun m fr => clearFrame fr m) m

/-! Copy-on-write bits -/

/-- Rewrite the leaf entry of a page, and drop what is cached of it. -/
def setPte (slot vpn : Nat) (f : Nat → Nat) (m : Module) : Module :=
  match leafOf slot vpn m with
  | some e =>
    let m := writePas byContext (((upTo 8).map (e.1 + ·)).zip (leBytes 8 (f e.2))) false m
    { m with tlb := Sparse.drop m.tlb (tlbKey slot vpn) }
  | none => m

/-- The COW bit of an entry set or clear. -/
def withCow (on : Bool) (e : Nat) : Nat :=
  let clear := e - (if pteCow e then 2 ^ 59 else 0)
  if on then clear + 2 ^ 59 else clear

/-- The frame of an entry replaced. -/
def withFrame (fr e : Nat) : Nat := e / 2 ^ 28 * 2 ^ 28 + fr

/-- A page lies in one of a list of regions (R451). -/
def inRegions (rg : Sparse (Nat × Nat × Nat)) (vpn : Nat) : Bool :=
  rg.any fun r => decide (r.2.2.1 ≤ vpn * 65536) && decide (vpn * 65536 < r.2.2.1 + r.2.2.2)

/-- The mapped pages of a context in regions: (virtual page, frame). -/
def regionPages (m : Module) (slot : Nat) (rg : Sparse (Nat × Nat × Nat)) : List (Nat × Nat) :=
  (leafMap m slot).filter fun e => inRegions rg e.1

/-- Set or clear COW in every leaf entry of regions. -/
def cowAll (slot : Nat) (on : Bool) (rg : Sparse (Nat × Nat × Nat)) (m : Module) : Module :=
  (regionPages m slot rg).foldl (fun m e => setPte slot e.1 (withCow on) m) m

/-- A page no longer waits: its COW bit is clear and the writes that waited for it may go on (R455). -/
def uncow (slot vpn : Nat) (m : Module) : Module :=
  let m := setPte slot vpn (withCow false) m
  { m with cows := m.cows.filter fun w => !(w.slot == slot && w.vpn == vpn) }

/-! The pool (R456): the last of its COUNT entries is the next one taken. -/

/-- The bytes of entry i of the list. -/
def poolAt (slot i : Nat) (k : Acc) (m : Module) : Option (List Nat) :=
  match (resolveLocal slot k false none ((m.ctx slot).bm.poolList + BitVec.ofNat 64 (4 * i)) m).2 with
  | .pa pa => some ((upTo 4).map (pa + ·))
  | _ => none

/-- Take a free frame of the context's partition from the pool. -/
def popPool (slot : Nat) (m : Module) : Module × Option Nat :=
  let x := m.ctx slot
  if x.bm.poolCount = 0 then (m, none)
  else
    match poolAt slot (x.bm.poolCount - 1) .read m with
    | none => (m, none)
    | some pas =>
      let d := readPas pas m
      let fr := bytesNat d.2 % 2 ^ 28
      if anyBad d.2 || !(frameOk m x.part fr) then (d.1, none)
      else (d.1.updCtx slot fun x => { x with bm := { x.bm with poolCount := x.bm.poolCount - 1 } }, some fr)

/-- Return a frame to the pool. -/
def pushPool (slot fr : Nat) (m : Module) : Module :=
  let n := (m.ctx slot).bm.poolCount
  match poolAt slot n .write m with
  | none => m
  | some pas =>
    (writePas byContext (pas.zip (leBytes 4 fr)) false m).updCtx slot fun x =>
      { x with bm := { x.bm with poolCount := n + 1 } }

/-! Bookmarks of the module -/

/-- The bookmark of a job. -/
def bmOf (m : Module) (job : BitVec 16) : Option Bookmark := m.bms.find? fun b => b.job == job

/-- Change the bookmark of a job. -/
def updBm (job : BitVec 16) (f : Bookmark → Bookmark) (m : Module) : Module :=
  { m with bms := m.bms.map fun b => if b.job == job then f b else b }

/-- Discard the bookmarks that satisfy a test: the valid bits of their copies are cleared (R457). -/
def dropBms (p : Bookmark → Bool) (m : Module) : Module :=
  let gone := m.bms.filter p
  let m := (gone.flatMap fun b => b.copies.map (·.2)).foldl (fun m fr => clearFrame fr m) m
  { m with bms := m.bms.filter fun b => !p b }

/-- A deposit in progress is abandoned: its slot stays invalid (R463; 13 R445). -/
def abandonDep (slot : Nat) (job : BitVec 16) (m : Module) : Module :=
  match bmOf m job with
  | none => m
  | some b =>
    match b.dep with
    | none => m
    | some r =>
      let m := updBm job (fun b => { b with dep := none }) m
      let m := { m with fab := { m.fab with waiting := m.fab.waiting.filter fun f => f.who != Who.dep job r.uid } }
      let m := m.updCtx slot fun x =>
        { x with dep := if r.b then { x.dep with slotB := 0, abandoned := true }
                 else { x.dep with slotA := 0, abandoned := true } }
      led 0x0709 sevWarn (atCtx m slot) [b.step, if r.b then 1 else 0] m

/-- A write of a deposit is acknowledged: once the old header is invalid the body follows (13 R445). -/
def depAcked (job : BitVec 16) (uid : Nat) (m : Module) : Module :=
  match (bmOf m job).bind (·.dep) with
  | none => m
  | some r =>
    if r.uid ≠ uid then m
    else
      let go := decide (r.left = 1)
      let r' := { r with left := if go then r.body.length else r.left - 1, body := if go then [] else r.body }
      (if go then r.body else []).foldl (fun m f => request f m) (updBm job (fun b => { b with dep := some r' }) m)

/-- A write of a fill is settled. -/
def fillSettled (p uid : Nat) (m : Module) : Module :=
  m.updPart p fun q => if q.fillUid = uid then { q with fillLeft := q.fillLeft - 1 } else q

end Sys2Proof.Machine
end

