-- ==== Sys2Proof/Machine/Groups.lean ====
section
/-! DEFINITION. Collective groups (07 R232 to R236, 10 R343 to R353): trees over the routes, shards, packets. -/

namespace Sys2Proof.Machine

/-! Trees -/

/-- One hop on axis k in a direction. -/
def hop (l c : Coord) (k : Nat) (plus : Bool) : Coord :=
  let n := axisGet l k
  axisSet c k (if plus then (axisGet c k + 1) % n else (axisGet c k + n - 1) % n)

/-- The places a route passes on one axis, the direction fixed where the axis is entered (10 R330, R331). -/
def axisPath (l to_ : Coord) (k : Nat) (plus : Bool) : Nat → Coord → List Coord
  | 0, _ => []
  | fuel + 1, c =>
    if axisGet c k = axisGet to_ k then []
    else
      let c' := hop l c k plus
      c' :: axisPath l to_ k plus fuel c'

/-- The route from one place to another: the places after the first, in order. -/
def pathOf (l from_ to_ : Coord) : List Coord :=
  (axisOrder.foldl (fun (st : Coord × List Coord) k =>
    let c := st.1
    let plus := dirPlus (axisGet l k) (axisGet c k) (axisGet to_ k)
    let p := axisPath l to_ k plus (axisGet l k) c
    (p.getLast?.getD c, st.2 ++ p)) (from_, [])).2

/-- The module numbers on the route from module a to module b, after a. -/
def routeOf (m : Module) (a b : BitVec 16) : List (BitVec 16) :=
  let l := m.topo.lens
  (pathOf l (coordOf l a.toNat) (coordOf l b.toNat)).map fun c => BitVec.ofNat 16 (numAt l c)

/-- The first member the route from a to b reaches (R345). -/
def nextMember (m : Module) (g : Group) (a b : BitVec 16) : BitVec 16 :=
  ((routeOf m a b).find? fun x => g.members.contains x).getD b

/-- E(M, i): the members whose contributions for the owner module o are summed at member M (R345). -/
def expectAt (m : Module) (g : Group) (at_ o : BitVec 16) : Nat :=
  (g.members.filter fun j => j == at_ || (routeOf m j o).contains at_).length

/-- What follows module `at_` on the routes from owner o to the members that pass through it. -/
def pathsBeyond (m : Module) (members : List (BitVec 16)) (o at_ : BitVec 16) : List (List (BitVec 16)) :=
  (members.filter fun j => j != o && j != at_).filterMap fun j =>
    let p := o :: routeOf m o j
    if p.contains at_ then some (p.drop (p.idxOf at_ + 1)) else none

/-- Where the common start of several paths, one of them `p`, ends: at a member or where they part. -/
def legEnd (paths : List (List (BitVec 16))) (p : List (BitVec 16)) : Option (BitVec 16) :=
  (p.zipIdx.find? fun e => paths.any fun q => q.length == e.2 + 1 || q[e.2 + 1]? != p[e.2 + 1]?).map (·.1)

/-- The modules to which `at_` sends a broadcast of owner o on: along each way the routes to the members take from it, the
first one that is a member or where they part (R352). -/
def legsOf (m : Module) (members : List (BitVec 16)) (o at_ : BitVec 16) : List (BitVec 16) :=
  let ps := pathsBeyond m members o at_
  ((ps.filterMap (·.head?)).dedup).filterMap fun h =>
    let qs := ps.filter fun p => p.head? == some h
    (qs.head?).bind (legEnd qs)

/-- The modules to which a member sends or passes on a broadcast of owner o. -/
def childrenOf (m : Module) (g : Group) (o at_ : BitVec 16) : List (BitVec 16) := legsOf m g.members o at_

/-- The group a context's command names. -/
def groupOf (m : Module) (slot : Nat) (id : BitVec 12) : Option Group :=
  m.fab.groups.find? fun g => g.slot == slot && g.id == id

/-- The module's own number as a module field, and its place in a group. -/
def ownNum (m : Module) : BitVec 16 := BitVec.ofNat 16 m.num
def rankIn (m : Module) (g : Group) : Option Nat := g.members.findIdx? (· == ownNum m)

/-- The place of a context in a group: a shadow runs on the inputs of the context it shadows (14 R480), in its place. -/
def posIn (m : Module) (slot : Nat) (g : Group) : Option Nat :=
  if (m.ctx slot).shadow.role = 0 then rankIn m g else g.members.findIdx? (· == (m.ctx slot).shadow.modnum)

/-! Shards (07 R233, R234) -/

/-- Even shards of N elements over G members. -/
def evenShard (n g i : Nat) : Nat × Nat :=
  let s := (n + g - 1) / g
  (Nat.min (i * s) n, Nat.min s (n - i * s))

/-- A shard table is well formed: first element 0, each shard after the one before it, counts sum to N. -/
def shardsOk (n : Nat) (sh : List (Nat × Nat)) : Bool :=
  let r := sh.foldl (fun (st : Bool × Nat) e => (st.1 && e.1 == st.2, st.2 + e.2)) (true, 0)
  r.1 && r.2 == n

/-- The count of the largest shard. -/
def smaxOf (sh : List (Nat × Nat)) : Nat := sh.foldl (fun a e => Nat.max a e.2) 0

/-! Packets (10 R351) -/

/-- Elements of one packet of at most 4,096 B; quire elements travel in whole blocks with their scales. -/
def packetElems (fmt : BitVec 4) : Nat :=
  if isQuire fmt then 4096 / (4 * codeBits fmt + 1) * 32 else 4096 * 8 / codeBits fmt

/-- The packets of a shard of Smax elements: first element and count of each. -/
def packetsOf (fmt : BitVec 4) (smax : Nat) : List (Nat × Nat) :=
  let p := packetElems fmt
  (upTo ((smax + p - 1) / p)).map fun k => (k * p, Nat.min p (smax - k * p))

/-- The identity of a reduction (02 R47) in a format: SUM, MAX, MIN. -/
def identityCode (cop : Nat) (fmt : BitVec 4) : Nat :=
  match cop with
  | 0 => 0
  | 1 => (narrow (elemFmt fmt) .rne (.inf true)).1
  | _ => (narrow (elemFmt fmt) .rne (.inf false)).1

/-- Pack element codes: low nibble first for F4. -/
def packCodes (fmt : BitVec 4) (codes : List Nat) : List Byte :=
  if codeBits fmt = 4 then
    (upTo ((codes.length + 1) / 2)).map fun i =>
      BitVec.ofNat 8 (codes.getD (2 * i) 0 % 16 + 16 * (codes.getD (2 * i + 1) 0 % 16))
  else codes.flatMap (leBytes (codeBits fmt / 8))

/-- The payload of a packet of elements, with its poisoned words. Pads are the elements from `real` on. -/
def packetBody (cop : Nat) (fmt : BitVec 4) (els : Array Elem) (first count real : Nat) : List Byte × List Nat :=
  let at_ := fun (i : Nat) =>
    if first + i < real then els.getD (first + i) (.pad 0)
    else .pad (identityCode cop fmt)
  let es := (upTo count).map at_
  let body := packCodes fmt (es.map (·.code)) ++
    (if isQuire fmt then
       (upTo ((count + 31) / 32)).map fun b => BitVec.ofNat 8 (es.getD (32 * b) (.pad 0)).scale
     else [])
  let words := ((upTo count).filter fun i => (at_ i).bad).map fun i => i * codeBits fmt / 64
  let scales := ((upTo count).filter fun i => (at_ i).sbad).map fun i => ((count * codeBits fmt + 7) / 8 + i / 32) / 8
  (body, (words ++ scales).dedup)

/-- The elements that a packet's payload holds. -/
def packetElemsOf (fmt : BitVec 4) (count : Nat) (payload : List Byte) (bad : List Nat) : List Elem :=
  let bytes := payload.zipIdx.map fun b => (b.1, bad.contains (b.2 / 8))
  let arr := bytes.toArray
  let scales := (bytes.drop ((count * codeBits fmt + 7) / 8)).toArray
  (upTo count).map fun i =>
    let c := codeIn arr (i * codeBits fmt) (codeBits fmt)
    let s := scales.getD (i / 32) (0, false)
    { code := c.1, scale := s.1.toNat, bad := c.2, sbad := isQuire fmt && s.2 }

end Sys2Proof.Machine
end

