-- ==== Sys2Proof/Machine/Reserve.lean ====
section
/-! DEFINITION. The Reserves (11 R361 to R371): allocation, matching, freeing and records; pins of editions
(R373, R374). -/

namespace Sys2Proof.Machine

/-- Places of a Reserve's directory (R363). -/
def dirLimit : Nat := 2048

/-- The Reserve of a stage, and its change. -/
def Ctx.rsvAt (x : Ctx) (stage : Nat) : Rsv := Sparse.get Rsv.init x.rsv stage
def updRsv (slot stage : Nat) (f : Rsv → Rsv) (m : Module) : Module :=
  m.updCtx slot fun x => { x with rsv := Sparse.upd Rsv.init x.rsv stage f }

/-- Size of an entry of n bytes (R363). -/
def entrySize (n : Nat) : Nat := (n + 255) / 256 * 256

/-- A PUSH of n bytes finds the Reserve full (R361, R364). -/
def rsvFull (r : Rsv) (n : Nat) : Bool :=
  decide (r.lim ≤ r.base) || decide (r.lim < r.top + entrySize n) || decide (dirLimit ≤ r.dir.length)

/-- The tensors bound to a stage and layer: index, current slot, edition (R374). -/
def boundTo (x : Ctx) (stage layer : Nat) : List (Nat × Bool × Nat) :=
  (x.tensors.filter fun e => e.2.bound && e.2.stage == stage && e.2.layer == layer).map fun e =>
    (e.1, e.2.cur, e.2.edition.toNat)

/-- Change the pins of one slot of a tensor. -/
def pin (i : Nat) (slot1 : Bool) (f : Nat → Nat) (x : Ctx) : Ctx :=
  { x with
    tensors := Sparse.upd Tensor.unbound x.tensors i fun t =>
      if slot1 then { t with pin1 := f t.pin1 } else { t with pin0 := f t.pin0 } }

/-- Allocate an entry at the top: record, pins, set-aside bytes (R363, R365, R374, R388). -/
def rsvPush (slot stage mb layer n id : Nat) (m : Module) : Module :=
  m.updCtx slot fun x =>
    let r := x.rsvAt stage
    let eds := boundTo x stage layer
    let e : REntry := { id := id, off := r.top, size := entrySize n, len := n, mb := mb, layer := layer, eds := eds,
                        live := true, matchable := false, taken := false }
    let top := r.top + entrySize n
    let r' := { r with top := top, hwm := Nat.max r.hwm (top - r.base), dir := r.dir ++ [e],
                       aside := r.aside - entrySize n }
    eds.foldl (fun x e => pin e.1 e.2.1 (· + 1) x) { x with rsv := Sparse.set Rsv.init x.rsv stage r' }

/-- The highest live entry with the tags whose PUSH has completed (R366). -/
def rsvMatch (r : Rsv) (mb layer : Nat) : Option REntry :=
  r.dir.reverse.find? fun e => e.live && e.matchable && e.mb == mb && e.layer == layer

/-- Change an entry of a Reserve. -/
def updEntry (id : Nat) (f : REntry → REntry) (r : Rsv) : Rsv :=
  { r with dir := r.dir.map fun e => if e.id == id then f e else e }

/-- Drop freed entries from the top; the top falls to the end of the highest live entry (R368). -/
def rsvReclaim (r : Rsv) : Rsv :=
  let dir := (r.dir.reverse.dropWhile fun e => !e.live).reverse
  { r with dir := dir, top := match dir.getLast? with
      | some e => e.off + e.size
      | none => r.base }

/-- Free an entry: its pins are released, and the space above the highest live entry is reclaimed. -/
def rsvFree (slot stage id : Nat) (m : Module) : Module :=
  let x := m.ctx slot
  match (x.rsvAt stage).dir.find? fun e => e.id == id with
  | none => m
  | some e =>
    let m := m.updCtx slot fun x => e.eds.foldl (fun x d => pin d.1 d.2.1 (· - 1) x) x
    updRsv slot stage (fun r => rsvReclaim (updEntry id (fun e => { e with live := false }) r)) m

/-- Bytes held in holes (R368). -/
def rsvHole (r : Rsv) : Nat := ((r.dir.filter fun e => !e.live).map (·.size)).foldl (· + ·) 0

/-- An edition word of a record: tensor index, slot, edition (Table 11.1). -/
def edWord (e : Nat × Bool × Nat) : Nat := e.1 * 2 ^ 22 + (if e.2.1 then 2 ^ 21 else 0) + e.2.2

/-- The 64 B record of an entry (Table 11.1). -/
def recordBytes (stage : Nat) (e : REntry) : List Byte :=
  leBytes 8 (e.mb * 2 ^ 48 + e.layer * 2 ^ 32 + e.len) ++
    leBytes 8 (e.eds.length * 2 ^ 60 + stage * 2 ^ 56) ++
    ((upTo 8).flatMap fun i =>
      match e.eds[i]? with
      | some d => leBytes 4 (edWord d)
      | none => leBytes 4 0) ++
    leBytes 16 0

end Sys2Proof.Machine
end

