-- ==== Sys2Proof/Machine/Control.lean ====
section
/-! DEFINITION. Branches, jumps, fences, HALT, STAMP, counters, TSTART, the due prefixes and unallocated
encodings (03 R76, R77, R100, R108, R112; 04 R124, R125, R129, R135 to R137, R154, R155). -/

namespace Sys2Proof.Machine

/-! Branches and jumps -/

/-- Branch by off14 words when the test holds; a marked operand is consumed (08 R278). -/
def branch (t : ThreadNo) (ra rb : Reg) (o : BitVec 14) (f : Word → Word → Bool) : Body := fun slot m =>
  if m.mark t ra || m.mark t rb then useFault slot t m
  else
    let pc := (m.thread t).pc
    retireTo slot t (if f (m.reg t ra) (m.reg t rb) then target (pc + off14 o) else pc + 4) m

def bodyBeq (t : ThreadNo) (ra rb : Reg) (o : BitVec 14) : Body := branch t ra rb o fun a b => a == b
def bodyBne (t : ThreadNo) (ra rb : Reg) (o : BitVec 14) : Body := branch t ra rb o fun a b => a != b
def bodyBlt (t : ThreadNo) (ra rb : Reg) (o : BitVec 14) : Body := branch t ra rb o fun a b => a.slt b
def bodyBge (t : ThreadNo) (ra rb : Reg) (o : BitVec 14) : Body := branch t ra rb o fun a b => !a.slt b
def bodyBltu (t : ThreadNo) (ra rb : Reg) (o : BitVec 14) : Body := branch t ra rb o fun a b => a.ult b
def bodyBgeu (t : ThreadNo) (ra rb : Reg) (o : BitVec 14) : Body := branch t ra rb o fun a b => !a.ult b

/-- JAL: rd ← the next word's address; jump by off20 words. -/
def bodyJal (t : ThreadNo) (rd : Reg) (o : BitVec 20) : Body := fun slot m =>
  let pc := (m.thread t).pc
  retireTo slot t (target (pc + off20 o)) (m.setReg t rd (pc + 4) false)

/-- JALR: rd ← the next word's address; jump to ra + imm14, read before rd is written. -/
def bodyJalr (t : ThreadNo) (rd ra : Reg) (i : BitVec 14) : Body := fun slot m =>
  if m.mark t ra then useFault slot t m
  else
    let pc := (m.thread t).pc
    retireTo slot t (target (m.reg t ra + imm14 i)) (m.setReg t rd (pc + 4) false)

/-! Fences -/

/-- A local store of the thread waits for a memory path. -/
def ownStores (m : Module) (t : ThreadNo) : Bool := m.writes.any fun w => w.t == t
/-- A remote store of the thread is neither acknowledged nor timed out. -/
def ownRemote (m : Module) (t : ThreadNo) : Bool :=
  m.fab.flights.any (fun f => f.who == .store t) || m.fab.waiting.any fun f => f.who == .store t

/-- FENCE.L (03 Table 3.6). -/
def bodyFenceL (t : ThreadNo) : Body := fun slot m =>
  if ownStores m t then (stallOn t .fence m) else retireI slot t m

/-- FENCE.G. -/
def bodyFenceG (t : ThreadNo) : Body := fun slot m =>
  if ownStores m t || ownRemote m t then (stallOn t .fence m) else retireI slot t m

/-- Start a page-table fence of a context (03 R100): what has begun with old translations is waited for. -/
def startFence (slot : Nat) (thread : Option ThreadNo) (ctr : Option CtrNo) (m : Module) : Module :=
  let ws := (m.writes.filter fun w => w.slot == slot).map (·.uid)
  let ls := (m.threads.filter fun e => e.2.load.isSome && (m.ctx slot).r.cores.getLsbD (e.1 / 256)).map
    fun e => BitVec.ofNat 17 e.1
  let mine := fun (f : Flight) => f.slot == slot && !f.who.quiet
  let tags := (m.fab.flights.filter mine).map fun f => (f.x.tag.toNat, f.x.inc.toNat)
  m.updCtx slot fun x =>
    { x with fences := x.fences ++ [{ thread := thread, ctr := ctr, writes := ws, loads := ls, tags := tags,
                                      waits := m.fab.waiting.filter mine }] }

/-- FENCE.PT: the thread goes on when the fence completes. -/
def bodyFencePt (t : ThreadNo) : Body := fun slot m => stallOn t .fence (startFence slot (some t) none m)

/-- The bytes of an access are no longer those that the tables as they stand give it: it used an old translation. -/
def stale (m : Module) (slot : Nat) (k : Acc) (call : Word) (pas : List Nat) : Bool :=
  match (resolveBytes slot k none pas.length call (dropTlb slot m)).2 with
  | .ok qs => qs != pas
  | .error _ => true

/-- A local access of the context that used an old translation has not been accepted. -/
def staleAccess (m : Module) (slot : Nat) : Bool :=
  (m.writes.any fun w => w.slot == slot && stale m slot .write w.call (w.items.map (·.1))) ||
    m.threads.any fun e => (m.ctx slot).r.cores.getLsbD (e.1 / 256) &&
      match e.2.load with
      | some l =>
        match l.loc, l.op with
        | .mem pas, .ld .. => stale m slot .read l.call pas
        | .mem pas, .atom .. => stale m slot .atomic l.call pas
        | _, _ => false
      | none => false

/-- Everything a fence waits for has been accepted or settled. -/
def fenceDone (m : Module) (slot : Nat) (f : Fence) : Bool :=
  !(m.writes.any fun w => f.writes.contains w.uid) && f.loads.isEmpty && f.waits.isEmpty &&
    !(m.fab.flights.any fun g => f.tags.contains (g.x.tag.toNat, g.x.inc.toNat)) && !(staleAccess m slot)

/-- The fences of a context that can complete do: changed entries act from now on, the thread goes on, the counter of PTINV
increments. -/
def endFences (slot : Nat) (m : Module) : Module :=
  let done := (m.ctx slot).fences.filter (fenceDone m slot)
  if done.isEmpty then m
  else
    let m := (dropTlb slot m).updCtx slot fun x => { x with fences := x.fences.filter fun f => !fenceDone m slot f }
    done.foldl (fun m f =>
      let m := match f.ctr with
        | some c => addCtr slot c 1 m
        | none => m
      match f.thread with
      | some t => if (m.thread t).running then retireI slot t m else m
      | none => m) m

/-- A thread's load or atomic operation is over: no fence waits for it. -/
def loadOver (slot : Nat) (t : ThreadNo) (m : Module) : Module :=
  m.updCtx slot fun x => { x with fences := x.fences.map fun f => { f with loads := f.loads.erase t } }

/-! HALT, STAMP, counters, TSTART -/

def bodyHalt (t : ThreadNo) : Body := fun slot m => haltThread slot t (retireI slot t m)

/-- STAMP: rd ← the stamp of the core's island. -/
def bodyStamp (t : ThreadNo) (rd : Reg) : Body := fun slot m =>
  retireI slot t (m.setReg t rd (BitVec.ofNat 64 (m.islandStamp t.core)) false)

/-- WAIT (03 R112). A counter exactly 2^31 away lies outside the range of R113, which is an act of Table 3.10. -/
def bodyWait (t : ThreadNo) (r : Reg) (c : CtrNo) : Body := fun slot m =>
  if m.mark t r then useFault slot t m
  else
    let v := lo32 (m.reg t r)
    let ctr := (m.ctx slot).ctr c
    if ctr - v = 0x80000000#32 then undefCtx slot m
    else if reached ctr v then retireI slot t m
    else stallOn t (.counter c v) m

/-- CINC: completes as FENCE.L, then adds (04 R136). -/
def bodyCinc (t : ThreadNo) (r : Reg) (c : CtrNo) : Body := fun slot m =>
  if m.mark t r then useFault slot t m
  else if ownStores m t then stallOn t .fence m
  else retireI slot t (addCtr slot c (lo32 (m.reg t r)) m)

/-- CRD: reg ← the counter, zero-extended. -/
def bodyCrd (t : ThreadNo) (r : Reg) (c : CtrNo) : Body := fun slot m =>
  retireI slot t (m.setReg t r (zext32 ((m.ctx slot).ctr c)) false)

/-- TSTART (03 R76, 04 R137). A number beyond 17 bits names no core that is owned (log 137). -/
def bodyTstart (t : ThreadNo) (rd ra rb : Reg) : Body := fun slot m =>
  if m.mark t rd || m.mark t ra || m.mark t rb then useFault slot t m
  else
    let n := (m.reg t ra).toNat
    if 2 ^ 17 ≤ n ∨ !((m.ctx slot).r.cores.getLsbD (n / 256)) then
      ctxFault slot (pageFault .notOwned (m.thread t).pc (srcOf t)) m
    else
      let u : ThreadNo := BitVec.ofNat 17 n
      if (m.thread u).running then retireI slot t (m.setReg t rd 1 false)
      else retireI slot t ((startThread slot u (m.reg t rb) (m.reg t rd) m).setReg t rd 0 false)

/-! Prefixes -/

/-- A prefix word: the later prefix governs (04 R154); D of a scalar instruction is fixed here (R155). It is no instruction
that retires, so no progress (07 R249). -/
def duePrefix (t : ThreadNo) (imm : Bool) (f : BitVec 26) (w : Word) : Body := fun _ m =>
  let s := m.islandStamp t.core
  let d : Due := { imm := imm, f := f, reg := w, s := s, d := 0, at_ := (m.thread t).pc }
  m.updThread t fun x => { x with pc := x.pc + 4, pfx := some { d with d := dueStamp d s }, stall := .none }

/-- DUE.I. -/
def execDueI (t : ThreadNo) (f : BitVec 26) (s : State) : Host.Outcome State Fault Refusal :=
  lift (issueRaw 4 t (duePrefix t true f 0)) s

/-- DUE.R: a marked register is consumed, with the prefix word's call number. -/
def execDueR (t : ThreadNo) (ra : Reg) (s : State) : Host.Outcome State Fault Refusal :=
  lift (issueRaw 4 t fun slot m =>
    if m.mark t ra then (useFault slot t m) else duePrefix t false 0 (m.reg t ra) slot m) s

/-- An encoding no table allocates halts the thread, with a ledger entry (04 R124). -/
def bodyUnallocated (t : ThreadNo) : Body := fun slot m =>
  haltThread slot t (led 0x0208 sevWarn (atCore m t.core) [(m.thread t).pc.toNat, t.toNat] m)

/-- UNALLOCATED_ENCODING: no other part of the word takes effect. -/
def execUnallocatedEncoding (t : ThreadNo) (s : State) : Host.Outcome State Fault Refusal :=
  scalar (.unallocatedEncoding t) t (bodyUnallocated t) s

/-! Commands -/

/-- BEQ. -/
def execBeq (t : ThreadNo) (ra rb : Reg) (o : BitVec 14) (s : State) : Host.Outcome State Fault Refusal :=
  scalar (.beq t ra rb o) t (bodyBeq t ra rb o) s
/-- BNE. -/
def execBne (t : ThreadNo) (ra rb : Reg) (o : BitVec 14) (s : State) : Host.Outcome State Fault Refusal :=
  scalar (.bne t ra rb o) t (bodyBne t ra rb o) s
/-- BLT. -/
def execBlt (t : ThreadNo) (ra rb : Reg) (o : BitVec 14) (s : State) : Host.Outcome State Fault Refusal :=
  scalar (.blt t ra rb o) t (bodyBlt t ra rb o) s
/-- BGE. -/
def execBge (t : ThreadNo) (ra rb : Reg) (o : BitVec 14) (s : State) : Host.Outcome State Fault Refusal :=
  scalar (.bge t ra rb o) t (bodyBge t ra rb o) s
/-- BLTU. -/
def execBltu (t : ThreadNo) (ra rb : Reg) (o : BitVec 14) (s : State) : Host.Outcome State Fault Refusal :=
  scalar (.bltu t ra rb o) t (bodyBltu t ra rb o) s
/-- BGEU. -/
def execBgeu (t : ThreadNo) (ra rb : Reg) (o : BitVec 14) (s : State) : Host.Outcome State Fault Refusal :=
  scalar (.bgeu t ra rb o) t (bodyBgeu t ra rb o) s
/-- JAL. -/
def execJal (t : ThreadNo) (rd : Reg) (o : BitVec 20) (s : State) : Host.Outcome State Fault Refusal :=
  scalar (.jal t rd o) t (bodyJal t rd o) s
/-- JALR. -/
def execJalr (t : ThreadNo) (rd ra : Reg) (i : BitVec 14) (s : State) : Host.Outcome State Fault Refusal :=
  scalar (.jalr t rd ra i) t (bodyJalr t rd ra i) s
/-- fenceL. -/
def execFenceL (t : ThreadNo) (s : State) : Host.Outcome State Fault Refusal := scalar (.fenceL t) t (bodyFenceL t) s
/-- fenceG. -/
def execFenceG (t : ThreadNo) (s : State) : Host.Outcome State Fault Refusal := scalar (.fenceG t) t (bodyFenceG t) s
/-- fencePt. -/
def execFencePt (t : ThreadNo) (s : State) : Host.Outcome State Fault Refusal := scalar (.fencePt t) t (bodyFencePt t) s
/-- halt. -/
def execHalt (t : ThreadNo) (s : State) : Host.Outcome State Fault Refusal := scalar (.halt t) t (bodyHalt t) s
/-- STAMP. -/
def execStamp (t : ThreadNo) (rd : Reg) (s : State) : Host.Outcome State Fault Refusal :=
  scalar (.stamp t rd) t (bodyStamp t rd) s
/-- WAIT. -/
def execWait (t : ThreadNo) (r : Reg) (c : CtrNo) (s : State) : Host.Outcome State Fault Refusal :=
  scalar (.wait t r c) t (bodyWait t r c) s
/-- CINC. -/
def execCinc (t : ThreadNo) (r : Reg) (c : CtrNo) (s : State) : Host.Outcome State Fault Refusal :=
  scalar (.cinc t r c) t (bodyCinc t r c) s
/-- CRD. -/
def execCrd (t : ThreadNo) (r : Reg) (c : CtrNo) (s : State) : Host.Outcome State Fault Refusal :=
  scalar (.crd t r c) t (bodyCrd t r c) s
/-- TSTART. -/
def execTstart (t : ThreadNo) (rd ra rb : Reg) (s : State) : Host.Outcome State Fault Refusal :=
  scalar (.tstart t rd ra rb) t (bodyTstart t rd ra rb) s
/-- FENCE_PT_COMPLETE: a page-table fence of the context completes. -/
def execFencePtComplete (slot : BitVec 6) (s : State) : Host.Outcome State Fault Refusal :=
  lift (endFences slot.toNat) s

end Sys2Proof.Machine
end

