-- ==== Sys2Proof/Machine/EngineIssue.lean ====
section
/-! DEFINITION. Issue of engine commands (04 R138 to R159): the values of the named registers are taken, the
command enters the queue of its engine with its due stamp, or the thread stalls at a limit of Table 4.16. -/

namespace Sys2Proof.Machine

/-- Engine commands a thread may have outstanding, ME queue places, TE descriptor slots (Table 4.16). -/
def cmdLimit : Nat := 16
def meQueueLimit : Nat := 32
def teSlotLimit : Nat := 64

/-- TE and RES commands that hold a descriptor slot of a core: queued, started and not complete, or parked. -/
def teHeld (c : CoreSt) : Nat := c.teQ.length + (c.teRun.filter fun r => !r.done).length + c.tePark.length

/-! Engine heads -/

/-- The due stamp of a command, if any, has been reached (04 R157). -/
def dueReached (m : Module) (core : Nat) (i : Iss) : Bool :=
  match i.due with
  | some d => decide (d ≤ m.islandStamp core)
  | none => true

/-- It launches late: it could not have launched at its stamp, having issued, or its queue having let it
lead, only later (04 R158, 09 R298). `lead` is when the queue's head last became free to launch. -/
def launchLate (i : Iss) (lead : Nat) : Bool :=
  match i.due with
  | some d => decide (d < Nat.max i.since lead)
  | none => false

/-- An engine of a core has been told to stop or is in reset (13 R430, R434). -/
def engHeld (c : CoreSt) (e : Engine) : Bool := c.engStop.any (fun x => x.1 == e) || c.engRst.any fun x => x.1 == e

/-- A chain has come to the head of the VE queue: it launches there, at its stamp or, that being past, at once and late (04
R157, R158); when it starts is another matter (06 R209). -/
def veHead (core : Nat) (m : Module) : Module :=
  match (m.core core).veQ with
  | k :: _ => countLate k.iss.slot core .ve (some k.tag) (launchLate k.iss (m.islandStamp core)) m
  | [] => m

/-- What is recorded of the issuer (04 R140, R155; 09 R298). -/
def issOf (slot : Nat) (t : ThreadNo) (fin : Done) (m : Module) : Iss :=
  { t := t, slot := slot, gen := (m.ctx slot).gen.toNat, at_ := (m.thread t).pc,
    due := (m.thread t).pfx.map fun d => dueStamp d (m.islandStamp t.core),
    since := m.islandStamp t.core, fin := fin }

/-- A command has entered its queue: it is outstanding, its due stamp is watched, the thread goes on. -/
def issued (slot : Nat) (t : ThreadNo) (i : Iss) (m : Module) : Module :=
  let m := m.updThread t fun x => { x with outCmds := x.outCmds + 1 }
  let m := match i.due with
    | some d => dueAdd slot { d := d, at_ := i.at_, t := t } m
    | none => m
  retireTo slot t ((m.thread t).pc + 8) m

/-- Issue of an engine command that names registers `rs` (08 R278: a marked one is consumed). `full` says
whether the engine's queue is full. -/
def engIssue (t : ThreadNo) (fin : Done) (rs : List Reg) (full : CoreSt → Bool)
    (put : Module → Iss → CoreSt → CoreSt) (m : Module) : Module :=
  issueRaw 8 t (fun slot m =>
    if rs.any (m.mark t) then useFault slot t m
    else if cmdLimit ≤ (m.thread t).outCmds then stallOn t .commands m
    else if full (m.core t.core) then stallOn t .queue m
    else
      let i := issOf slot t fin m
      issued slot t i (m.updCore t.core (put m i))) m

/-- A command whose format or source codes are not allocated halts the thread (R124). -/
def allocated (ok : Bool) (t : ThreadNo) (k : Module → Module) (m : Module) : Module :=
  if ok then k m else issueRaw 8 t (bodyUnallocated t) m

/-- ME_MMA. -/
def execMeMma (t : ThreadNo) (f : MmaF) (s : State) : Host.Outcome State Fault Refusal :=
  lift (allocated f.wf t
    (engIssue t f.fin [f.ra, f.rb, f.rt] (fun c => decide (meQueueLimit ≤ c.meQ.length)) fun m i c =>
      { c with meQ := c.meQ ++ [{ iss := i, f := f, a := m.reg t f.ra, b := m.reg t f.rb,
                                  tag := lo32 (m.reg t f.rt) }] })) s

/-- Issue of a chain: one that finds the queue empty leads it at once. -/
def veIssue (t : ThreadNo) (f : ChainF) (m : Module) : Module :=
  let m' := engIssue t f.fin ((if f.src = 2 then [f.rs] else []) ++ [f.ro, f.rc, f.rt]) (fun _ => false)
    (fun m i c =>
      { c with veQ := c.veQ ++ [{ iss := i, f := f, src := m.reg t f.rs, out := m.reg t f.ro, desc := m.reg t f.rc,
                                  tag := lo32 (m.reg t f.rt), n := field (m.reg t f.rt) 32 16 + 1 }] }) m
  if (m.core t.core).veQ.isEmpty then veHead t.core m' else m'

/-- VE_CHAIN: RS is an operand only with SRC 0b10; the element count is RT[47:32] plus one (R143). -/
def execVeChain (t : ThreadNo) (f : ChainF) (s : State) : Host.Outcome State Fault Refusal :=
  lift (allocated f.wf t (veIssue t f)) s

/-- A TE or RES command enters the TE queue. -/
def teIssue (t : ThreadNo) (fin : Done) (rs : List Reg) (work : Module → TeWork) (m : Module) : Module :=
  engIssue t fin rs (fun c => decide (teSlotLimit ≤ teHeld c))
    (fun m i c => { c with teQ := c.teQ ++ [{ iss := i, work := work m }] }) m

/-- TE_COPY. -/
def execTeCopy (t : ThreadNo) (f : CopyF) (s : State) : Host.Outcome State Fault Refusal :=
  lift (allocated f.wf t
    (teIssue t f.fin [f.rs, f.rd, f.rl, f.rt] fun m =>
      .copy f (m.reg t f.rs) (m.reg t f.rd) (lo32 (m.reg t f.rl)).toNat (lo32 (m.reg t f.rt)))) s

/-- TE_DESC. -/
def execTeDesc (t : ThreadNo) (f : DescF) (s : State) : Host.Outcome State Fault Refusal :=
  lift (teIssue t f.fin [f.ra] fun m => .desc (m.reg t f.ra)) s

/-- Micro-batch and layer tags of RM. -/
def mbOf (w : Word) : Nat := field w 16 16
def layerOf (w : Word) : Nat := field w 0 16

/-- RES_PUSH. -/
def execResPush (t : ThreadNo) (f : ResF) (s : State) : Host.Outcome State Fault Refusal :=
  lift (teIssue t f.fin [f.ra, f.rm, f.rl] fun m =>
    .push f.stage.toNat (m.reg t f.ra) (mbOf (m.reg t f.rm)) (layerOf (m.reg t f.rm))
      (lo32 (m.reg t f.rl)).toNat) s

/-- RES_POP. -/
def execResPop (t : ThreadNo) (f : ResF) (s : State) : Host.Outcome State Fault Refusal :=
  lift (teIssue t f.fin [f.ra, f.rm, f.rl] fun m =>
    .pop f.stage.toNat (m.reg t f.ra) (mbOf (m.reg t f.rm)) (layerOf (m.reg t f.rm))
      (lo32 (m.reg t f.rl)).toNat) s

/-- RES_FREE. -/
def execResFree (t : ThreadNo) (f : ResF) (s : State) : Host.Outcome State Fault Refusal :=
  lift (teIssue t f.fin [f.rm] fun m =>
    .free f.stage.toNat (mbOf (m.reg t f.rm)) (layerOf (m.reg t f.rm))) s

end Sys2Proof.Machine
end

