-- ==== Sys2Proof/Machine/MatrixEngine.lean ====
section
/-! DEFINITION. The matrix engine (05; 02 R51 to R57): start, steps, emits. -/

namespace Sys2Proof.Machine

/-- ME_COMMAND_START (05 R177): the head of the queue launches once the previous command has completed. -/
def meStart (core : Nat) (m : Module) : Module :=
  let c := m.core core
  match c.meQ with
  | [] => m
  | k :: q =>
    if c.meRun.isSome || engHeld c .me || !(dueReached m core k.iss) then m
    else
      let late := launchLate k.iss c.meAt
      let m := m.updCore core fun c =>
        { c with meQ := q, meRun := some { cmd := k, rne := (m.ctx k.iss.slot).r.rnd, k := 0, emitting := false } }
      countLate k.iss.slot core .me (some k.tag) late m

/-! Groups (02 R51 to R54; 05 R169 to R172) -/

/-- A product and whether it created a NaN. -/
def mulC (x y : FVal) : FVal × Bool :=
  let p := FVal.mul x y
  (p, p.isNan && !x.isNan && !y.isNan)

/-- The exact sum of products; it starts from the first, so that only products all −0 give −0. -/
def sumOf : List FVal → FVal
  | [] => .fin false 0 0
  | p :: ps => ps.foldl FVal.add p

/-- A group created a NaN: a product did, or infinite products of both signs met. -/
def groupCreates (ps : List (FVal × Bool)) : Bool :=
  ps.any (·.2) || (ps.any (fun p => p.1 == .inf true) && ps.any fun p => p.1 == .inf false)

/-- Exponent of the leading bit of the largest finite non-zero product. -/
def topExp (ps : List FVal) : Option Int :=
  ps.foldl (fun a p =>
    match p with
    | .fin _ m e =>
      if m = 0 then a
      else
        match a with
        | none => some (leadExp m e)
        | some b => some (Max.max b (leadExp m e))
    | _ => a) none

/-- The group sum on the alignment path: the exact sum rounded at weight 2^(E − 36) (R52). -/
def alignSum (mode : RMode) (ps : List FVal) : FVal :=
  match sumOf ps, topExp ps with
  | .fin n m e, some top => if m = 0 then .fin n m e else .fin n (roundAt mode m e (top - 36)) (top - 36)
  | v, _ => v

/-- An operand element: its value, mark, and whether its format is FP32. -/
structure MElem where
  v : FVal
  bad : Bool
  deriving DecidableEq, Repr

/-- High and low parts of an element (R172). -/
def hiPart (fp32 : Bool) (x : FVal) : FVal :=
  match x with
  | .fin n m e =>
    if fp32 && decide (4096 ≤ m) then
      let d := Nat.log2 m - 11
      .fin n (m / 2 ^ d) (e + d)
    else x
  | _ => x
def loPart (fp32 : Bool) (x : FVal) : FVal :=
  match x with
  | .fin n m e => if fp32 && decide (4096 ≤ m) then .fin n (m % 2 ^ (Nat.log2 m - 11)) e else .fin n 0 0
  | _ => .fin false 0 0

/-- The value is an infinity or a NaN. -/
def special (x : FVal) : Bool := x.isNan || x.isInf

/-- The path of a pair of formats: 0 exact, 1 alignment, 2 the four passes of FP32 (05 Table 5.1). -/
def mePath (fa fb : BitVec 4) : Nat :=
  let w := fun (f : BitVec 4) => f.toNat == 3 || f.toNat == 4
  if fa.toNat = 5 ∨ fb.toNat = 5 then 2 else if w fa || w fb then 1 else 0

/-- The accumulator add: a + g rounded once, with its events (R53); ∞ − ∞ creates a NaN. -/
def accAdd (mode : RMode) (a : FVal) (g : FVal) : W32 × List Ev × Bool :=
  let s := FVal.add a g
  let r := arith mode s
  (r.1, r.2, s.isNan && !a.isNan && !g.isNan)

/-- One step of one output element: from the accumulator's encoding and the 128 pairs of operands to the new
encoding and the events (R174: NAN_CREATE once). -/
def cellStep (path : Nat) (a32 b32 rne : Bool) (acc : W32) (xs : List (FVal × FVal)) : W32 × List Ev :=
  let mode : RMode := if rne then .rne else .trunc
  if path = 2 then
    let pass := fun (f g : FVal → FVal) (last : Bool) =>
      xs.map fun p =>
        if !last && (special p.1 || special p.2) then ((.fin false 0 0 : FVal), false) else mulC (f p.1) (g p.2)
    let passes := [pass (loPart a32) (loPart b32) false, pass (loPart a32) (hiPart b32) false,
                   pass (hiPart a32) (loPart b32) false, pass (hiPart a32) (hiPart b32) true]
    let r := passes.foldl (fun (st : W32 × List Ev × Bool) ps =>
      let g := alignSum mode (ps.map (·.1))
      let q := accAdd mode (f32 st.1) g
      (q.1, st.2.1 ++ q.2.1, st.2.2 || groupCreates ps || q.2.2)) (acc, [], false)
    (r.1, r.2.1 ++ (if r.2.2 then [.nanCreate] else []))
  else
    let ps := xs.map fun p => mulC p.1 p.2
    let g := if path = 1 then alignSum mode (ps.map (·.1)) else sumOf (ps.map (·.1))
    let q := accAdd mode (f32 acc) g
    (q.1, q.2.1 ++ (if groupCreates ps || q.2.2 then [.nanCreate] else []))

/-! Operand tiles -/

/-- Tile k of a walk of n tiles, in logical order 128 × i + j (05 R162, R164, R166, R167; 02 R55). -/
def meTile (slot core : Nat) (call : Word) (fmt : BitVec 4) (n k : Nat) : EngM (Array MElem) := do
  let s := tileBytes fmt
  let w : Reader := { slot := slot, core := core, e := .me, self := none, ttid := 0 }
  if call.toNat % s ≠ 0 then stop (.ub .misalignedEngineOperand)
  else
    let plane ← readOp w (call + BitVec.ofNat 64 (k * s)) s
    let scales ← if isQuire fmt then readOp w (call + BitVec.ofNat 64 (n * s + 512 * k)) 512 else pure []
    let pa := plane.toArray
    let sa := scales.toArray
    let els := (upTo 16384).map fun x =>
      let c := codeIn pa (codeBits fmt * blockIdx (x / 128) (x % 128)) (codeBits fmt)
      let sc := sa.getD (x / 32) (0, false)
      let bad := c.2 || (isQuire fmt && sc.2)
      let nan := (codeBits fmt == 4 && c.1 == 8) || (isQuire fmt && sc.1 == 0xFF#8)
      (({ v := scaled fmt sc.1.toNat c.1, bad := bad } : MElem), nan && !bad)
    if els.any (·.2) then stop (.ub .f4NanOperand) else return (els.map (·.1)).toArray

/-- Element (i, j) of op(X). -/
def opAt (x : Array MElem) (tr : Bool) (i j : Nat) : MElem :=
  x.getD (if tr then 128 * j + i else 128 * i + j) { v := .fin false 0 0, bad := false }

/-- The element is in an 8 B word whose parity is wrong, or is marked (08 R252). -/
def markedIn (bad err : NatSet) (x : Nat) : Bool := NatSet.has bad x || NatSet.has err (x / 2)

/-- One step of the running command (R144, R160, R173 to R175). -/
def meStep (core : Nat) (r : MeRun) : EngM Unit := do
  let f := r.cmd.f
  let n := f.kt.toNat + 1
  let slot := r.cmd.iss.slot
  let a ← meTile slot core r.cmd.a f.fmta n r.k
  let b ← meTile slot core r.cmd.b f.fmtb n r.k
  let base := 16384 * f.acc.toNat
  let fresh := f.za && r.k == 0
  modify fun m =>
    let c := m.core core
    let cell := fun (x : Nat) =>
      let i := x / 128
      let j := x % 128
      let es := (upTo 128).map fun k => (opAt a f.ta i k, opAt b f.tb k j)
      let old := if fresh then 0 else Sparse.get 0 c.acc (base + x)
      let q := cellStep (mePath f.fmta f.fmtb) (f.fmta.toNat == 5) (f.fmtb.toNat == 5) r.rne old
        (es.map fun e => (e.1.v, e.2.v))
      let bad := es.any (fun e => e.1.bad || e.2.bad) || (!fresh && markedIn c.accBad c.accErr (base + x))
      (base + x, q, bad)
    let cells := (upTo 16384).map cell
    let inA := fun (k : Nat) => decide (base ≤ k) && decide (k < base + 16384)
    let below := fun (k : Nat) => decide (k < base)
    let acc := Sparse.keep below c.acc ++
      (cells.map fun e => (e.1, e.2.1.1)).filter (fun e => e.2 != 0) ++
      Sparse.keep (fun k => !inA k && !below k) c.acc
    let bads := c.accBad.filter below ++ ((cells.filter fun e => e.2.2).map (·.1)) ++
      c.accBad.filter fun k => !inA k && !below k
    let m := m.updCore core fun c =>
      { c with acc := acc, accBad := bads, accErr := c.accErr.filter fun w => !inA (2 * w) }
    countEvs slot core .me (some r.cmd.tag) (cells.flatMap fun e => e.2.1.2) m

/-- The ME is idle: its next head may launch from now on. -/
def meIdle (core : Nat) (m : Module) : Module :=
  m.updCore core fun c => { c with meRun := none, meAt := m.islandStamp core }

/-- ME_STEP_END: the step's adds are made; the command completes after its last add, unless it emits. An
engine told to stop ends here and its command is discarded (R182). -/
def meStepEnd (core : Nat) (m : Module) : Module :=
  let c := m.core core
  match c.meRun with
  | none => m
  | some r =>
    if c.engStop.any fun x => x.1 == .me then
      meIdle core (m.updCore core fun c => { c with engStop := c.engStop.filter fun x => x.1 != .me })
    else if r.emitting || r.cmd.f.kt.toNat < r.k then m
    else
      runEng r.cmd.iss.slot core .me r.cmd.iss.t (meIdle core) (meStep core r) (fun _ m =>
        let m := dropBlocks core .me m
        if r.k = r.cmd.f.kt.toNat ∧ ¬ r.cmd.f.emit then complete r.cmd.iss true (meIdle core m)
        else m.updCore core fun c => { c with meRun := some { r with k := r.k + 1 } }) m

/-- Tiles the cart holds, those a chain still copies out among them. -/
def cartHeld (c : CoreSt) : Nat := c.cart.length + c.cartBusy

/-- ME_EMIT: the copy begins once the cart has a free slot (R146, R176). -/
def meEmit (core : Nat) (m : Module) : Module :=
  let c := m.core core
  match c.meRun with
  | none => m
  | some r =>
    if r.cmd.f.emit && decide (r.k = r.cmd.f.kt.toNat + 1) && !r.emitting && decide (cartHeld c < 16) &&
       !(engHeld c .me) then
      m.updCore core fun c => { c with meRun := some { r with emitting := true } }
    else m

/-- The accumulator as a cart tile, elements by logical index; those of its words whose parity is wrong are marked. -/
def accTile (c : CoreSt) (a : Nat) (tag : W32) : CartTile :=
  let mine := fun (k : Nat) => k / 16384 == a
  let bads := (c.accErr.flatMap fun w => [2 * w, 2 * w + 1]).foldl NatSet.add c.accBad
  { tag := tag, data := (Sparse.keep mine c.acc).map fun e => (e.1 % 16384, e.2),
    bad := (bads.filter mine).map (· % 16384), err := [] }

/-- ME_EMIT_DONE: the tile is at the tail of the cart and the command completes; the accumulator keeps its
value. -/
def meEmitDone (core : Nat) (m : Module) : Module :=
  match (m.core core).meRun with
  | none => m
  | some r =>
    if !r.emitting then m
    else if (m.core core).engStop.any fun x => x.1 == .me then
      meIdle core (m.updCore core fun c => { c with engStop := c.engStop.filter fun x => x.1 != .me })
    else
      complete r.cmd.iss true (meIdle core (m.updCore core fun c =>
        { c with cart := c.cart ++ [accTile c r.cmd.f.acc.toNat r.cmd.tag] }))

/-- ME_COMMAND_START. -/
def execMeCommandStart (core : BitVec 9) (s : State) : Host.Outcome State Fault Refusal :=
  lift (meStart core.toNat) s
/-- ME_STEP_END. -/
def execMeStepEnd (core : BitVec 9) (s : State) : Host.Outcome State Fault Refusal :=
  lift (meStepEnd core.toNat) s
/-- ME_EMIT. -/
def execMeEmit (core : BitVec 9) (s : State) : Host.Outcome State Fault Refusal := lift (meEmit core.toNat) s
/-- ME_EMIT_DONE. -/
def execMeEmitDone (core : BitVec 9) (s : State) : Host.Outcome State Fault Refusal :=
  lift (meEmitDone core.toNat) s

end Sys2Proof.Machine
end

