-- ==== Sys2Proof/Machine/Functions.lean ====
section
/-! DEFINITION. The functions of the chain unit (06 R196). Exponential and logarithm are evaluated with 320 fractional bits,
far beyond the bound of R196; the stage result is a free choice among the FP32 values that R196 allows around that. -/

namespace Sys2Proof.Machine

/-- 2^320, and ⌊2^320 × ln 2⌋. -/
def fixOne : Nat := 2 ^ 320
def fixLn2 : Nat :=
  0xb17217f7d1cf79abc9e3b39803f2f6af40f343267298b62d8a0d175b8baafa2be7b876206debac98

/-- An exact value in units of 2^−320, toward zero; the values put to it are below 2^8 in magnitude. -/
def fixOf (x : FVal) : Int :=
  match x with
  | .fin n m e =>
    let c : Int := roundAt .trunc m e (-320)
    if n then -c else c
  | _ => 0

/-- c × 2^q of a function; what was cut off keeps it from being an exact zero or one. -/
def ofFix (c : Int) (q : Int) : FVal := .fin (decide (c < 0)) (2 * c.natAbs + 1) (q - 1)

/-- Σ r^i / i! from its i-th term on, for r below 1. -/
def expSeries (r : Nat) : Nat → Nat → Nat → Nat
  | 0, _, _ => 0
  | fuel + 1, i, term => term + expSeries r fuel (i + 1) (term * r / fixOne / (i + 1))

/-- e^x. Beyond ±256 it is any value that no FP32 value comes near. -/
def expV (x : FVal) : FVal :=
  match x with
  | .nan => .nan
  | .inf n => if n then .fin false 0 0 else .inf false
  | .fin n m _ =>
    if m = 0 then .fin false 1 0
    else if !(FVal.lt x.abs (.fin false 256 0)) then .fin false 1 (if n then -1000 else 1000)
    else
      let c := fixOf x
      ofFix (expSeries (c % fixLn2).toNat 80 0 fixOne) (c / fixLn2 - 320)

/-- Σ y^(2i+1) / (2i+1) from its i-th term on, for y below 1/3 with square y2. -/
def lnSeries (y2 : Nat) : Nat → Nat → Nat → Nat
  | 0, _, _ => 0
  | fuel + 1, i, pow => pow / (2 * i + 1) + lnSeries y2 fuel (i + 1) (pow * y2 / fixOne)

/-- ln x. -/
def lnV (x : FVal) : FVal :=
  match x with
  | .nan => .nan
  | .inf n => if n then .nan else .inf false
  | .fin n m e =>
    if m = 0 then .inf true
    else if n then .nan
    else
      let b := Nat.log2 m
      let t := m * fixOne / 2 ^ b
      let k : Int := leadExp m e
      if k = 0 ∧ m = 2 ^ b then .fin false 0 0
      else
        let y := (t - fixOne) * fixOne / (t + fixOne)
        ofFix (k * fixLn2 + 2 * lnSeries (y * y / fixOne) 110 0 y) (-320)

/-- √x to 64 bits and more. -/
def sqrtV (x : FVal) : FVal :=
  match x with
  | .fin n m e => FVal.sqrt (.fin n (m * 2 ^ 128) (e - 128))
  | v => FVal.sqrt v

/-- 1 and its exact sum with x. -/
def oneV : FVal := .fin false 1 0
def addOne (x : FVal) : FVal := FVal.add oneV x

/-- 1 / (1 + e^−x). -/
def sigV (x : FVal) : FVal :=
  if x.sign then let t := expV x; FVal.div t (addOne t) else FVal.div oneV (addOne (expV x.neg))

/-- tanh x. -/
def tanhV (x : FVal) : FVal :=
  match x with
  | .nan => .nan
  | .inf n => .fin n 1 0
  | .fin n m e =>
    if m = 0 then x
    else
      let t := expV (.fin true m (e + 1))
      let q := FVal.div (addOne t.neg) (addOne t)
      if n then q.neg else q

/-- 0.5 v (1 + tanh u) with u = 0.7978846 (v + 0.044715 v³), which is v / (1 + e^−2u). -/
def geluV (v : FVal) : FVal :=
  match v with
  | .nan => .nan
  | .inf n => if n then .fin true 0 0 else .inf false
  | _ =>
    let cube := FVal.mul (.fin false 44715 0) (FVal.mul v (FVal.mul v v))
    let u := FVal.mul (.fin false (2 * 7978846) 0) (FVal.add (FVal.mul (.fin false 1000000 0) v) cube)
    FVal.mul v (sigV (FVal.div u (.fin false 10000000000000 0)))

/-- v × sigmoid(v). -/
def siluV (v : FVal) : FVal :=
  match v with
  | .nan => .nan
  | .inf n => if n then .fin true 0 0 else .inf false
  | _ => FVal.mul v (sigV v)

/-- A stage result whose value before rounding lies within k × 2^−24 of the exact value x, relative to it (R196): one of the
FP32 values this allows, a free choice by draw d; with its events. Zeros, infinities and NaNs are exact. -/
def nearBy (k d : Nat) (ops : List FVal) (x : FVal) : W32 × List Ev :=
  match x with
  | .fin neg m e =>
    if m = 0 then op32 ops x
    else
      let at_ := fun (f : Nat) => (arith .rne (.fin false (m * f) (e - 40))).1.toNat
      let lo := at_ (2 ^ 40 - (k * 2 ^ 16 + 1))
      let hi := at_ (2 ^ 40 + (k * 2 ^ 16 + 1))
      let mag := lo + (Config.freeWord d).toNat % (hi - lo + 1)
      (BitVec.ofNat 32 (signMag fmtFP32 neg mag),
       if mag = 0 then [.underflow] else if 0x7F7FFFFF < mag then [.overflow, .infCreate] else [])
  | _ => op32 ops x

/-- The bound of R196. -/
def near (d : Nat) (ops : List FVal) (x : FVal) : W32 × List Ev := nearBy 1 d ops x

/-- EXP, LOG, SQRT, RSQRT, RCP, TANH, SIGMOID, GELU, SILU (Table 6.4); at an infinity each has its limit exactly (R196). -/
def fnOp (op d : Nat) (w : W32) : W32 × List Ev :=
  let v := f32 w
  let f := fun (y : FVal) => if v.isInf then op32 [v] y else near d [v] y
  match op with
  | 0x10 => f (expV v)
  | 0x11 => f (lnV v)
  | 0x12 => fsqrt32 w
  | 0x13 => f (FVal.div oneV (sqrtV v))
  | 0x14 => fdiv32 one32 w
  | 0x15 => f (tanhV v)
  | 0x16 => f (sigV v)
  | 0x17 => f (geluV v)
  | _ => f (siluV v)

/-- e^(s − m) of the softmax stages. -/
def expD (d : Nat) (s m : W32) : W32 × List Ev :=
  let x := FVal.add (f32 s) (f32 m).neg
  if x.isInf then op32 [f32 s, f32 m] (expV x) else near d [f32 s, f32 m] (expV x)

end Sys2Proof.Machine
end

