-- ==== Sys2Proof/Machine/Stages.lean ====
section
/-! DEFINITION. The stages of a chain over its elements (06 R193 to R219): operand selection, element
operations, reductions into slips, softmax, attention and optimizer stages. -/

namespace Sys2Proof.Machine

/-- An element in FP32 with its mark. -/
structure VElem where
  v : W32
  bad : Bool
  deriving DecidableEq, Repr

/-- Reads as +0. -/
def VElem.zero : VElem := { v := 0, bad := false }

/-- A row record (Table 6.6). -/
structure Rec where
  max : W32
  sum : W32
  alpha : W32
  status : W32
  bad : Bool
  deriving DecidableEq, Repr

/-- The initial record (R211). -/
def Rec.init : Rec := { max := ninf32, sum := 0, alpha := one32, status := 0, bad := false }

/-- STATUS bits. -/
def Rec.empty (r : Rec) : Bool := r.status.getLsbD 0
def Rec.inf (r : Rec) : Bool := r.status.getLsbD 1
def Rec.nan (r : Rec) : Bool := r.status.getLsbD 2
def stEmpty : W32 := 1
def stInf : W32 := 2
def stNan : W32 := 4
def stFinal : W32 := 8

/-- What the stages of one chain may look at: elements present, row width, sides, VEC0, the flags, and
the words of slips whose parity is wrong (08 R252). -/
structure Env where
  n : Nat
  width : Nat
  side : List (Array VElem)
  vec0 : Array VElem
  first : Bool
  srec : Bool
  slipErr : NatSet
  deriving Repr

/-- The state of a chain between its stages. `slips` holds (slip, column axis, values). -/
structure Ch where
  src : Array VElem
  els : Array VElem
  slips : List (Nat × Bool × Array VElem)
  recs : Array Rec
  dirty : Bool
  side0 : Array VElem
  side1 : Array VElem
  evs : List Ev
  draw : Nat
  deriving Repr

/-- Rows and columns that hold a present element. -/
def Env.rows (v : Env) : Nat := (v.n + v.width - 1) / v.width
def Env.cols (v : Env) : Nat := Nat.min v.width v.n
/-- The elements of a row; of a column. -/
def Env.row (v : Env) (r : Nat) : List Nat :=
  (List.range (Nat.min v.width (v.n - r * v.width))).map (r * v.width + ·)
def Env.colOf (v : Env) (j : Nat) : List Nat :=
  (List.range v.rows).filterMap fun r => if r * v.width + j < v.n then some (r * v.width + j) else none

/-- The operand a select code names for element e (Table 6.3). A stage after ADAM that selects a moment sees it as it was read
(log 143). -/
def operandOf (v : Env) (c : Ch) (s : Stg) (code e : Nat) : VElem :=
  let clean := fun (x : W32) => ({ v := x, bad := false } : VElem)
  match code with
  | 1 => clean s.imm0
  | 2 => clean s.imm1
  | 3 => (v.side.getD 0 #[]).getD e .zero
  | 4 => (v.side.getD 1 #[]).getD e .zero
  | 5 => (v.side.getD 2 #[]).getD e .zero
  | 6 => v.vec0.getD (if s.col then e % v.width else e / v.width) .zero
  | 7 =>
    match c.slips.find? fun x => x.1 == s.slip with
    | some x =>
      let i := if x.2.1 then e % v.width else e / v.width
      if i ≥ 16384 then clean nan32 else x.2.2.getD i .zero
    | none => .zero
  | 8 => clean (ofInt32 (e / v.width))
  | 9 => clean (ofInt32 (e % v.width))
  | 10 => c.src.getD e .zero
  | 11 => v.vec0.getD 0 .zero
  | _ => .zero

/-- FP32 bits with the sign cleared; with the sign flipped. A NaN gives the canonical NaN. -/
def fabs32 (x : W32) : W32 := if (f32 x).isNan then nan32 else x &&& 0x7FFFFFFF#32
def fneg32 (x : W32) : W32 := if (f32 x).isNan then nan32 else x ^^^ 0x80000000#32

/-- The element operations of Table 6.4 on v with operands b and c, at a row and column index; `d` draws what R196 leaves free.
DSOFT and WUPD are bound by its second sentence, whichever of their steps the module rounds (log 141). -/
def elemOp (s : Stg) (d row col : Nat) (v b c : W32) : W32 × List Ev :=
  match s.op with
  | 0x01 => fadd32 v b
  | 0x02 => fsub32 v b
  | 0x03 => fsub32 b v
  | 0x04 => fmul32 v b
  | 0x05 => fdiv32 v b
  | 0x06 => fma32 v b c
  | 0x07 => (fmin32 v b, [])
  | 0x08 => (fmax32 v b, [])
  | 0x09 => (fabs32 v, [])
  | 0x0A => (fneg32 v, [])
  | 0x20 => (if (col : Int) + s.imm0.toInt > (row : Int) + s.imm1.toInt then ninf32 else v, [])
  | 0x21 => (if (f32 b).isZero then v else ninf32, [])
  | 0x45 => near d [f32 v, f32 b, f32 c] (FVal.mul (f32 b) (FVal.add (f32 v) (f32 c).neg))
  | 0x51 =>
    near d [f32 v, f32 b, f32 s.imm0, f32 s.imm1]
      (FVal.add (f32 b)
        (FVal.mul (f32 s.imm0) (FVal.add (f32 v) (FVal.mul (f32 s.imm1) (f32 b)))).neg)
  | op => if decide (0x10 ≤ op) && decide (op ≤ 0x18) then fnOp op d v else (v, [])

/-- A stage of element operations. -/
def elemStage (v : Env) (s : Stg) (c : Ch) : Ch :=
  let r := (List.range v.n).map fun e =>
    let x := c.els.getD e .zero
    let b := if s.usesB then operandOf v c s s.b e else .zero
    let d := if s.usesC then operandOf v c s s.c e else .zero
    let q := elemOp s (c.draw + e) (e / v.width) (e % v.width) x.v b.v d.v
    (({ v := q.1, bad := x.bad || b.bad || d.bad } : VElem), q.2)
  { c with els := (r.map (·.1)).toArray, evs := c.evs ++ r.flatMap (·.2), draw := c.draw + v.n }

/-! Reductions -/

/-- A sum whose order of additions the module does not state (R204, 02 R63): free words pick the pairs. -/
def sumFree : Nat → Nat → List W32 → W32 × List Ev
  | 0, _, xs => (xs.headD 0, [])
  | fuel + 1, draw, xs =>
    match xs with
    | [] => (0, [])
    | [x] => (x, [])
    | _ =>
      let i := (Config.freeWord draw).toNat % xs.length
      let rest := xs.eraseIdx i
      let j := (Config.freeWord (draw + 1)).toNat % rest.length
      let q := fadd32 (xs.getD i 0) (rest.getD j 0)
      let r := sumFree fuel (draw + 2) (q.1 :: rest.eraseIdx j)
      (r.1, q.2 ++ r.2)

/-- A running sum of squares, each added with one rounding, in an order the module does not state. -/
def sqFree : Nat → Nat → W32 → List W32 → W32 × List Ev
  | 0, _, a, _ => (a, [])
  | fuel + 1, draw, a, xs =>
    match xs with
    | [] => (a, [])
    | _ =>
      let i := (Config.freeWord draw).toNat % xs.length
      let x := xs.getD i 0
      let q := fma32 x x a
      let r := sqFree fuel (draw + 2) q.1 (xs.eraseIdx i)
      (r.1, q.2 ++ r.2)

/-- One reduced value of an operation 0x30 to 0x33, with its events, each once. -/
def reduceVals (op draw : Nat) (xs : List W32) : W32 × List Ev :=
  let r := match op with
    | 0x30 => sumFree xs.length draw xs
    | 0x31 => (xs.tail.foldl fmax32 (xs.headD 0), [])
    | 0x32 => (xs.tail.foldl fmin32 (xs.headD 0), [])
    | _ => sqFree xs.length draw 0 xs
  (r.1, r.2.dedup)

/-- A reduction stage: v is unchanged, the slip takes at most 16,384 values (R203). -/
def reduceStage (v : Env) (s : Stg) (c : Ch) : Ch :=
  let count := Nat.min 16384 (if s.col then v.cols else v.rows)
  let r := (List.range count).map fun i =>
    let es := (if s.col then v.colOf i else v.row i).map fun e => c.els.getD e .zero
    let q := reduceVals s.op (c.draw + 2 * v.n * i) (es.map (·.v))
    (({ v := q.1, bad := es.any (·.bad) || NatSet.has v.slipErr (8192 * s.slip + i / 2) } : VElem), q.2)
  { c with slips := (s.slip, s.col, (r.map (·.1)).toArray) :: c.slips.filter fun x => x.1 != s.slip,
           evs := c.evs ++ r.flatMap (·.2), draw := c.draw + 2 * v.n * count }

/-! Softmax and attention -/

/-- Maximum of the values of a row. -/
def rowMax (xs : List W32) : W32 := xs.tail.foldl fmax32 (xs.headD ninf32)
/-- Entries equal to +∞. -/
def infCount (xs : List W32) : Nat := (xs.filter fun x => f32 x == .inf false).length
/-- Some entry is NaN. -/
def anyNan (xs : List W32) : Bool := xs.any fun x => (f32 x).isNan
/-- The value is −∞. -/
def isNegInf (x : W32) : Bool := f32 x == .inf true

/-- Σ e^(s − m) over the entries of a row, m finite. -/
def expSum (xs : List W32) (m : W32) : FVal :=
  xs.foldl (fun a x => FVal.add a (expV (FVal.add (f32 x) (f32 m).neg))) (.fin false 0 0)

/-- SOFTMAX of one row: entries with events, and the record with its own (Table 6.7). -/
def softmaxRow (d : Nat) (xs : List W32) : List (W32 × List Ev) × Rec × List Ev :=
  let k := infCount xs
  let rec_ := fun (m l st : W32) => ({ max := m, sum := l, alpha := one32, status := st ||| stFinal, bad := false } : Rec)
  if anyNan xs then (xs.map fun _ => (nan32, []), rec_ nan32 nan32 stNan, [])
  else if 1 ≤ k then
    (xs.map fun x => (if f32 x == .inf false then (fdiv32 one32 (ofInt32 k)).1 else 0, []), rec_ inf32 (ofInt32 k) stInf, [])
  else if xs.all isNegInf then (xs.map fun _ => (0, []), rec_ ninf32 0 stEmpty, [])
  else
    let m := rowMax xs
    let l := expSum xs m
    let sum := near d [l] l
    let lse := near (d + 1) [f32 m, l] (FVal.add (f32 m) (lnV l))
    (xs.zipIdx.map fun x => near (d + 2 + x.2) [f32 x.1] (FVal.div (expV (FVal.add (f32 x.1) (f32 m).neg)) l),
     rec_ lse.1 sum.1 0, sum.2 ++ lse.2)

/-- OBSM of one row (Table 6.8). The bound on SUM takes in sums of P and ALPHA before and after their own rounding (log 142). -/
def obsmRow (r : Rec) (d : Nat) (xs : List W32) : List (W32 × List Ev) × Rec × List Ev :=
  let k := infCount xs
  let ones := xs.map fun x => (if f32 x == .inf false then one32 else 0, ([] : List Ev))
  let zeros := xs.map fun _ => ((0 : W32), ([] : List Ev))
  if r.nan || anyNan xs then
    (xs.map fun _ => (nan32, []),
     { r with max := nan32, sum := nan32, alpha := nan32, status := r.status ||| stNan }, [])
  else if 1 ≤ k ∧ r.inf then
    let q := fadd32 r.sum (ofInt32 k)
    (ones, { r with sum := q.1, alpha := one32 }, q.2)
  else if 1 ≤ k then (ones, { r with max := inf32, sum := ofInt32 k, alpha := 0, status := r.status ||| stInf }, [])
  else if r.inf then (zeros, { r with alpha := one32 }, [])
  else if isNegInf (fmax32 r.max (rowMax xs)) then (zeros, { r with alpha := one32 }, [])
  else
    let m' := fmax32 r.max (rowMax xs)
    let ps := xs.zipIdx.map fun x => expD (d + 2 + x.2) x.1 m'
    let a := expD d r.max m'
    let vs := ps.map fun p => f32 p.1
    let q := nearBy 4 (d + 1) (f32 r.sum :: f32 a.1 :: vs) (vs.foldl FVal.add (FVal.mul (f32 r.sum) (f32 a.1)))
    (ps, { r with max := m', sum := q.1, alpha := a.1 }, a.2 ++ q.2)

/-- OBFIN of one row (Table 6.9). -/
def obfinRow (r : Rec) (d : Nat) (xs : List W32) : List (W32 × List Ev) × Rec × List Ev :=
  let fin := fun (q : Rec) => { q with status := q.status ||| stFinal }
  if r.nan then (xs.map fun _ => (nan32, []), fin { r with max := nan32 }, [])
  else if r.inf then (xs.map fun x => fdiv32 x r.sum, fin { r with max := inf32 }, [])
  else if (f32 r.sum).isZero && !(f32 r.sum).sign then
    (xs.map fun _ => (0, []), fin { r with max := ninf32, status := r.status ||| stEmpty }, [])
  else
    let q := near d [f32 r.max, f32 r.sum] (FVal.add (f32 r.max) (lnV (f32 r.sum)))
    (xs.zipIdx.map fun x => near (d + 2 + x.2) [f32 x.1, f32 r.sum] (FVal.div (f32 x.1) (f32 r.sum)),
     fin { r with max := q.1 }, q.2)

/-- PRECOMP of one entry (R216). -/
def precompAt (r : Rec) (d : Nat) (x : W32) : W32 × List Ev :=
  if r.nan then (nan32, [])
  else if r.inf then (if f32 x == .inf false then fdiv32 one32 r.sum else (0, []))
  else if r.empty then (0, [])
  else expD d x r.max

/-- The record an online stage uses: initial with FIRST, else the STATE record (R211), which is the one that an earlier stage of
the chain has left, if it has (log 140). -/
def Env.recOf (v : Env) (c : Ch) (row : Nat) : Rec := if v.first then .init else c.recs.getD row .init

/-- A stage that works row by row: SOFTMAX, OBSM, OBFIN. Poison of an entry marks its row (R222). -/
def rowStage (v : Env) (c : Ch) (f : Nat → Nat → List W32 → List (W32 × List Ev) × Rec × List Ev) (old : Nat → Bool)
    (spread write : Bool) : Ch :=
  let r := (List.range v.rows).map fun i =>
    let es := (v.row i).map fun e => c.els.getD e .zero
    let q := f i (c.draw + (v.width + 2) * i) (es.map (·.v))
    let bad := old i || es.any (·.bad)
    (q.1.zip es |>.map fun p => (({ v := p.1.1, bad := old i || (if spread then bad else p.2.bad) } : VElem), p.1.2),
     { q.2.1 with bad := if spread then bad else old i }, if write then q.2.2 else [])
  let els := r.flatMap (·.1)
  { c with els := (els.map (·.1)).toArray, evs := c.evs ++ els.flatMap (·.2) ++ r.flatMap (·.2.2),
           recs := if write then (r.map (·.2.1)).toArray else c.recs, dirty := c.dirty || write,
           draw := c.draw + (v.width + 2) * v.rows }

/-- ADAM on one element: m', s' and v from them (R218). The bound on v takes in m' and s' before and after their own rounding
(log 142). -/
def adamOp (d : Nat) (b1 b2 kappa c1 c2 eps m t x : W32) : (W32 × List Ev) × (W32 × List Ev) × (W32 × List Ev) :=
  let g := FVal.mul (f32 x) (f32 kappa)
  let keep := fun (b : W32) => FVal.add oneV (f32 b).neg
  let m' := near d [f32 m, f32 x, f32 kappa, f32 b1] (FVal.add (FVal.mul (f32 b1) (f32 m)) (FVal.mul (keep b1) g))
  let s' := near (d + 1) [f32 t, f32 x, f32 kappa, f32 b2]
    (FVal.add (FVal.mul (f32 b2) (f32 t)) (FVal.mul (FVal.mul (keep b2) g) g))
  let y := nearBy 4 (d + 2) [f32 m'.1, f32 s'.1, f32 c1, f32 c2, f32 eps]
    (FVal.div (FVal.mul (f32 m'.1) (f32 c1)) (FVal.add (sqrtV (FVal.mul (f32 s'.1) (f32 c2))) (f32 eps)))
  (m', s', y)

/-- ADAM. The events of all three results count under the chain's own tag; those of the narrowed moments do not (log 144). -/
def adamStage (v : Env) (s : Stg) (c : Ch) : Ch :=
  let vec := fun (i : Nat) => v.vec0.getD i .zero
  let vbad := (List.range 4).any fun i => (vec i).bad
  let r := (List.range v.n).map fun e =>
    let x := c.els.getD e .zero
    let m := (v.side.getD 0 #[]).getD e .zero
    let t := (v.side.getD 1 #[]).getD e .zero
    let q := adamOp (c.draw + 3 * e) s.imm0 s.imm1 (vec 0).v (vec 1).v (vec 2).v (vec 3).v m.v t.v x.v
    let bm := x.bad || vbad || m.bad
    let bt := x.bad || vbad || t.bad
    (({ v := q.2.2.1, bad := bm || bt } : VElem), ({ v := q.1.1, bad := bm } : VElem),
     ({ v := q.2.1.1, bad := bt } : VElem), q.1.2 ++ q.2.1.2 ++ q.2.2.2)
  { c with els := (r.map (·.1)).toArray, side0 := (r.map (·.2.1)).toArray, side1 := (r.map (·.2.2.1)).toArray,
           evs := c.evs ++ r.flatMap (·.2.2.2), draw := c.draw + 3 * v.n }

/-- A stage that uses each element's row record: OBACC, PRECOMP. -/
def recStage (v : Env) (c : Ch) (f : Nat → Nat → VElem → VElem × List Ev) : Ch :=
  let r := (List.range v.n).map fun e => f e (c.draw + e) (c.els.getD e .zero)
  { c with els := (r.map (·.1)).toArray, evs := c.evs ++ r.flatMap (·.2), draw := c.draw + v.n }

/-- One stage (R195). An OP code the table does not list acts as PASS. -/
def runStage (v : Env) (c : Ch) (s : Stg) : Ch :=
  if s.reduces then reduceStage v s c
  else
    match s.op with
    | 0x40 => rowStage v c (fun _ d xs => softmaxRow d xs) (fun _ => false) true v.srec
    | 0x41 => rowStage v c (fun i d xs => obsmRow (v.recOf c i) d xs) (fun i => (v.recOf c i).bad) true true
    | 0x43 => rowStage v c (fun i d xs => obfinRow (v.recOf c i) d xs) (fun i => (v.recOf c i).bad) false true
    | 0x42 =>
      recStage v c fun e _ x =>
        let q := v.recOf c (e / v.width)
        let b := operandOf v c s s.b e
        let y := fma32 q.alpha b.v x.v
        ({ v := y.1, bad := x.bad || b.bad || q.bad }, y.2)
    | 0x44 =>
      recStage v c fun e d x =>
        let q := c.recs.getD (e / v.width) .init
        let y := precompAt q d x.v
        ({ v := y.1, bad := x.bad || q.bad }, y.2)
    | 0x50 => adamStage v s c
    | _ => elemStage v s c

end Sys2Proof.Machine
end

