-- ==== Sys2Proof/Machine/VectorEngine.lean ====
section
/-! DEFINITION. The chain unit (06): descriptors, start, passes, and the writes of the last pass. -/

namespace Sys2Proof.Machine

/-- The i-th 64-bit word of a list of bytes. -/
def wordAt (bs : List (Byte × Bool)) (i : Nat) : Word := BitVec.ofNat 64 (bytesNat ((bs.drop (8 * i)).take 8))

/-- Side formats: codes Table 4.9 lists for no element format or quire act as FP32 (R192). -/
def sideFmt (w : Word) (lo : Nat) : BitVec 4 :=
  let c : BitVec 4 := w.extractLsb' lo 4
  if fmtListed c then c else 5

/-- Stage i of a descriptor's bytes. -/
def stageAt (bs : List (Byte × Bool)) (i : Nat) : Stg :=
  let a := wordAt bs (8 + 2 * i)
  let b := wordAt bs (9 + 2 * i)
  { op := field a 56 8, b := field a 52 4, c := field a 48 4, col := bit a 47, slip := field a 45 2,
    imm0 := b.extractLsb' 0 32, imm1 := b.extractLsb' 32 32 }

/-- NSTG: values 9 to 15 act as 8 (R192). -/
def nstgOf (w : Word) : Nat := Nat.min 8 (field w 60 4)

/-- The descriptor its bytes give. -/
def chainDesc (bs : List (Byte × Bool)) : ChainDesc :=
  let h := wordAt bs 0
  { ilay := bit h 59, olay := bit h 58, first := bit h 57, srec := bit h 56,
    fmts := [sideFmt h 52, sideFmt h 48, sideFmt h 44], slay := [bit h 43, bit h 42, bit h 41],
    routm := h.extractLsb' 37 4, width := field (wordAt bs 1) 48 16 + 1,
    side := [wordAt bs 2, wordAt bs 3, wordAt bs 4], vec0 := wordAt bs 5, rout := wordAt bs 6,
    state := wordAt bs 7, stages := (upTo (nstgOf h)).map (stageAt bs) }

/-- The call number of the first poisoned word among bytes read from c. -/
def badWordAt (c : Word) (bs : List (Byte × Bool)) : Option Word :=
  ((badWords (bs.map (·.2))).head?).map fun w => c + BitVec.ofNat 64 (8 * w)

/-- Read a descriptor of 64 + 16 × NSTG bytes; it must be aligned to 64 B (R191), and a poisoned word is
consumed (08 Table 8.8). -/
def readChainDesc (slot core : Nat) (c : Word) : EngM ChainDesc := do
  let w : Reader := { slot := slot, core := core, e := .ve, self := none, ttid := 0 }
  if c.toNat % 64 ≠ 0 then stop (.ub .misalignedEngineOperand)
  else
    let h ← readOp w c 64
    match badWordAt c h with
    | some a => stop (.deny none a)
    | none =>
      let c' := c + 64
      let st ← readOp w c' (16 * nstgOf (wordAt h 0))
      match badWordAt c' st with
      | some a => stop (.deny none a)
      | none => return chainDesc (h ++ st)

/-- A later stage reads the slip that stage i leaves. -/
def slipUsed (s : Stg) (later : List Stg) : Bool :=
  match later with
  | [] => false
  | t :: ts =>
    if t.reads 7 && t.slip == s.slip then true
    else if t.reduces && t.slip == s.slip then false
    else slipUsed s ts

/-- Passes that a list of stages adds (R206). -/
def extraPasses (width : Nat) : List Stg → Nat
  | [] => 0
  | s :: ts =>
    (if s.reduces then (if (s.col || decide (128 < width)) && slipUsed s ts then 1 else 0)
     else if (s.op == 0x40 || s.op == 0x41) && decide (128 < width) then 1 else 0) + extraPasses width ts

/-! Overlap (R221) -/

/-- An operand of a chain for the overlap rule: the tensor it is, if it is one, whether it is the row records, and its runs. -/
structure Lies where
  o : Option Operand
  recs : Bool
  spans : List Span
  deriving DecidableEq, Repr

/-- A tensor of n elements as a place. -/
def tensorLies (o : Operand) (n : Nat) : Lies := { o := some o, recs := false, spans := o.spans n }
/-- The row records of a chain as a place. -/
def recLies (d : ChainDesc) (n : Nat) : Lies := { o := none, recs := true, spans := [recSpan d n] }
/-- A vector as a place. -/
def vecLies (c : Word) (n : Nat) : Lies := { o := none, recs := false, spans := [(c, 4 * n)] }

/-- What a chain reads and what it writes, as places. -/
def placesRead (core : Nat) (k : ChainCmd) (d : ChainDesc) : List Lies :=
  let n := presentOf k
  (if k.f.src = 0 then [] else [tensorLies (sourceOf core k d) n]) ++
    ((upTo 3).filter (sideUsed d)).map (fun i => tensorLies (sideOf d i k.n) n) ++ [vecLies d.vec0 (vecNeed d n)] ++
    (if recsRead d then [recLies d n] else [])
def placesWritten (k : ChainCmd) (d : ChainDesc) : List Lies :=
  let n := presentOf k
  tensorLies (outOf k d) n :: (if d.adam then [tensorLies (sideOf d 0 k.n) n, tensorLies (sideOf d 1 k.n) n] else []) ++
    (slipsOut d n).map (fun s => vecLies (d.rout + BitVec.ofNat 64 (65536 * s.1)) s.2) ++
    (if recsWritten d then [recLies d n] else [])

/-- Two runs of bytes meet. -/
def meets (a b : Nat × Nat) : Bool := decide (a.1 < b.1 + b.2) && decide (b.1 < a.1 + a.2)

/-- A place written lies over a place read other than as R221 allows: a tensor over itself in a chain of one pass, or the row
records, which are all read before any is written (R211). -/
def lapped (m : Module) (slot core passes : Nat) (r w : Lies) : Bool :=
  !(r.recs && w.recs) && !(r.o.isSome && r.o == w.o && passes == 1) &&
    (r.spans.flatMap (physOf m slot core .read)).any fun a =>
      (w.spans.flatMap (physOf m slot core .write)).any fun b => meets a b

/-- The chain writes over what it still reads. -/
def chainLaps (m : Module) (core : Nat) (k : ChainCmd) (d : ChainDesc) (passes : Nat) : Bool :=
  (placesRead core k d).any fun r => (placesWritten k d).any fun w => lapped m k.iss.slot core passes r w

/-! Operands -/

/-- Who reads for a chain. -/
def chainReader (core : Nat) (r : ChainRun) : Reader :=
  { slot := r.cmd.iss.slot, core := core, e := .ve, self := some r.uid, ttid := 0 }

/-- The source elements of a chain that does not read the cart. -/
def readSource (core : Nat) (r : ChainRun) : EngM (Array Elem) :=
  readElems (chainReader core r) (sourceOf core r.cmd r.d) (presentOf r.cmd)

/-- Elements in FP32 with the events of their conversion (R194, 02 R48). -/
def toVElems (fmt : BitVec 4) (es : Array Elem) : Array VElem × List Ev :=
  let r := es.toList.map fun e =>
    let q := toF32 fmt e.scale e.code
    (({ v := q.1, bad := e.marked } : VElem), q.2)
  ((r.map (·.1)).toArray, r.flatMap (·.2))

/-- n FP32 values from a call number (R202). -/
def readVec (w : Reader) (c : Word) (n : Nat) : EngM (Array VElem) := do
  let bs ← readOp w c (4 * n)
  return ((upTo n).map fun i =>
    let b := (bs.drop (4 * i)).take 4
    ({ v := BitVec.ofNat 32 (bytesNat b), bad := anyBad b } : VElem)).toArray

/-- The row records of a chain (Table 6.6). -/
def readRecs (w : Reader) (c : Word) (rows : Nat) : EngM (Array Rec) := do
  let bs ← readOp w c (16 * rows)
  return ((upTo rows).map fun i =>
    let b := (bs.drop (16 * i)).take 16
    let at4 := fun (j : Nat) => (BitVec.ofNat 32 (bytesNat ((b.drop (4 * j)).take 4)) : W32)
    ({ max := at4 0, sum := at4 1, alpha := at4 2, status := at4 3, bad := anyBad b } : Rec)).toArray

/-- What a pass of a chain reads: the source, the sides with their formats, VEC0 and the row records. -/
structure PassIn where
  src : Array VElem × List Ev
  sides : List (Array VElem × List Ev)
  vec : Array VElem
  recs : Array Rec
  deriving Repr

/-- Elements of a cart tile; a word whose parity is wrong poisons its elements (08 R252). -/
def tileElems (t : CartTile) (n : Nat) : Array VElem :=
  ((upTo n).map fun i => ({ v := Sparse.get 0 t.data i, bad := markedIn t.bad t.err i } : VElem)).toArray

/-- Read what a pass needs (R207); a source already read for the last pass is not read again (R209). -/
def readPass (core : Nat) (r : ChainRun) : EngM PassIn := do
  let d := r.d
  let n := presentOf r.cmd
  let w := chainReader core r
  let fmt := (sourceOf core r.cmd d).fmt
  let src ←
    match r.tile, r.src with
    | some t, _ => pure ((tileElems t n, []) : Array VElem × List Ev)
    | none, some es => pure (toVElems fmt es.toArray)
    | none, none => do
      let es ← readSource core r
      pure (toVElems fmt es)
  let sides ← [0, 1, 2].mapM fun i => do
    if sideUsed d i then
      let o := sideOf d i r.cmd.n
      let es ← readElems w o n
      return toVElems o.fmt es
    else return ((#[], []) : Array VElem × List Ev)
  let vec ← readVec w d.vec0 (vecNeed d n)
  let recs ← if recsRead d then readRecs w d.state (d.rows n) else pure #[]
  return { src := src, sides := sides, vec := vec, recs := recs }

/-- The same with no marks but those of the source. -/
def PassIn.sourceMarks (p : PassIn) : PassIn :=
  let clean := fun (a : Array VElem) => a.map fun x => { x with bad := false }
  { p with sides := p.sides.map fun s => (clean s.1, s.2), vec := clean p.vec, recs := p.recs.map fun x => { x with bad := false } }

/-! Start -/

/-- A chain leaves the chain unit. -/
def dropChain (core uid : Nat) (m : Module) : Module :=
  m.updCore core fun c => { c with chains := c.chains.filter fun r => r.uid != uid }

/-- Change the chain with a given identifier. -/
def updChain (core uid : Nat) (f : ChainRun → ChainRun) (m : Module) : Module :=
  m.updCore core fun c => { c with chains := c.chains.map fun r => if r.uid == uid then f r else r }

/-- The head of the VE queue leaves it; the next one comes to the head. -/
def popChain (core : Nat) (m : Module) : Module :=
  veHead core (m.updCore core fun c => { c with veQ := c.veQ.drop 1, veAt := m.islandStamp core })

/-- A chain in the unit lets another one start beside it: only its remote writes keep it, or its last pass is under way and its
tile copied out. -/
def letsStart (o : ChainRun) : Bool := o.ending || (decide (o.passes ≤ o.pass + 1) && !o.copying)

/-- A chain that lets another start has read its source for its last pass: a source not from the cart is read now. -/
def latchSource (core : Nat) (o : ChainRun) (k : Module → Module) (m : Module) : Module :=
  if o.ending || o.tile.isSome || o.src.isSome then k m
  else
    runEng o.cmd.iss.slot core .ve o.cmd.iss.t (dropChain core o.uid) (readSource core o)
      (fun es m => k (updChain core o.uid (fun r => { r with src := some es.toList }) m)) m

/-- The head of the VE queue starts: its descriptor is read, once, and its operands are checked (R191, R202, R221). -/
def chainBegin (core : Nat) (k : ChainCmd) (m : Module) : Module :=
  let work : EngM ChainDesc := do
    let d ← readChainDesc k.iss.slot core k.desc
    if !(chainAligned k d) then stop (.ub .misalignedEngineOperand)
    else if chainLaps (← get) core k d (1 + extraPasses d.width d.stages) then stop (.ub .chainOverlap)
    else return d
  runEng k.iss.slot core .ve k.iss.t (popChain core) work (fun d m =>
    let u := newUid (dropBlocks core .ve m)
    popChain core (u.2.updCore core fun c =>
      let tile := if k.f.src = 0 then c.cart.head? else none
      let r : ChainRun :=
        { cmd := k, d := d, src := none, slipErr := [], tile := tile, copying := tile.isSome, pass := 0,
          passes := 1 + extraPasses d.width d.stages, uid := u.1, unsettled := 0, ending := false }
      { c with chains := c.chains ++ [r],
               cart := if tile.isSome then c.cart.drop 1 else c.cart,
               cartBusy := c.cartBusy + (if tile.isSome then 1 else 0) })) m

/-- CHAIN_START (R209): the head of the queue leaves it when it has launched, its source is available and the
chain unit has room. -/
def chainStart (core : Nat) (m : Module) : Module :=
  let c := m.core core
  match c.veQ with
  | [] => m
  | k :: _ =>
    if engHeld c .ve || !(dueReached m core k.iss) || (k.f.src == 0 && c.cart.isEmpty) then m
    else
      match c.chains with
      | [] => chainBegin core k m
      | [o] => if letsStart o then latchSource core o (chainBegin core k) m else m
      | _ => m

/-- CART_SLOT_FREE: a tile has been copied out, and its cart slot is free (R188). -/
def cartSlotFree (core : Nat) (m : Module) : Module :=
  m.updCore core fun c =>
    { c with cartBusy := c.cartBusy - 1,
             chains := match c.chains.findIdx? (·.copying) with
               | some i => c.chains.modify i fun r => { r with copying := false }
               | none => c.chains }

/-! The last pass -/

/-- The writes of a tensor of narrowed elements, element bytes, then scales, with the events of narrowing. -/
def tensorChunks (o : Operand) (r : Rnd) (els : Array VElem) : List Chunk × List Ev :=
  let q := narrowAll o.fmt r (fun i => i) (els.toList.zipIdx.map fun e => (e.2, f32 e.1.v, e.1.bad))
  (outChunks o q.1 q.2.1, q.2.2)

/-- The little-endian bytes of an FP32 value with its mark. -/
def fpBytes (x : VElem) : List WByte := (leBytes 4 x.v.toNat).map fun b => wb b x.bad

/-- The bytes of a row record. -/
def recBytes (r : Rec) : List WByte := ([r.max, r.sum, r.alpha, r.status].flatMap fun w => leBytes 4 w.toNat).map fun b => wb b r.bad

/-- What a chain has computed: its writes, the events under its tag and under the tags of the two moments (R220), and how far
free values have been drawn. -/
structure ChainOut where
  chunks : List Chunk
  ev : List Ev
  ev0 : List Ev
  ev1 : List Ev
  draw : Nat
  deriving Repr

/-- Every stage over every present element, then the writes (R193 to R223). -/
def chainOut (m : Module) (r : ChainRun) (p : PassIn) : ChainOut :=
  let k := r.cmd
  let d := r.d
  let n := presentOf k
  let env : Env := { n := n, width := d.width, side := p.sides.map (·.1), vec0 := p.vec, first := d.first, srec := d.srec,
                     slipErr := r.slipErr }
  let c0 : Ch := { src := p.src.1, els := p.src.1, slips := [], recs := p.recs, dirty := false, side0 := #[], side1 := #[],
                   evs := p.src.2 ++ p.sides.flatMap (·.2), draw := m.draw }
  let c := d.stages.foldl (runStage env) c0
  let x := m.ctx k.iss.slot
  let out := tensorChunks (outOf k d) (rndOf x k.f.rnd k.tag) c.els
  let side := fun (i : Nat) (v : Array VElem) =>
    if d.adam then tensorChunks (sideOf d i k.n) (rndOf x k.f.rnd (k.tag + BitVec.ofNat 32 (i + 1))) v else ([], [])
  let s0 := side 0 c.side0
  let s1 := side 1 c.side1
  let routs := (upTo 4).filterMap fun i =>
    if d.routm.getLsbD i then
      (c.slips.find? fun s => s.1 == i).map fun s => (d.rout + BitVec.ofNat 64 (65536 * i), s.2.2.toList.flatMap fpBytes)
    else none
  let recs := if c.dirty then [(d.state, c.recs.toList.flatMap recBytes)] else []
  { chunks := out.1 ++ s0.1 ++ s1.1 ++ routs ++ recs, ev := c.evs ++ out.2, ev0 := s0.2, ev1 := s1.2, draw := c.draw }

/-- The first poisoned byte of some writes. -/
def badDest (cs : List Chunk) : Option Word :=
  cs.findSome? fun c => (c.2.findIdx? (·.bad)).map fun i => c.1 + BitVec.ofNat 64 i

/-- The byte at a call number is poisoned in some writes. -/
def badIn (cs : List Chunk) (w : Word) : Bool := cs.any fun c => (c.2[(w - c.1).toNat]?).any (·.bad)

/-- What the last pass comes to: transactions asked for, or the destination at which poison is consumed, with the tag of the
cart tile it came from (R189). -/
inductive PassEnd where
  | wrote (n : Nat)
  | poison (dest : Word) (tag : Nat)
  deriving DecidableEq, Repr

/-- The last pass of a chain. -/
def lastPass (core : Nat) (r : ChainRun) : EngM PassEnd := do
  let p ← readPass core r
  let k := r.cmd
  let slot := k.iss.slot
  let o := chainOut (← get) r p
  match badDest o.chunks with
  | some w =>
    let own := r.tile.isSome && badIn (chainOut (← get) r p.sourceMarks).chunks w
    return .poison w (if own then (r.tile.map (·.tag.toNat)).getD 0 else 0)
  | none =>
    let counts ← o.chunks.mapM (putChunk slot core r.uid (.chain core r.uid) 0)
    modify fun m =>
      countEvs slot core .ve (some (k.tag + 2)) o.ev1
        (countEvs slot core .ve (some (k.tag + 1)) o.ev0
          (countEvs slot core .ve (some k.tag) o.ev { m with draw := Nat.max m.draw o.draw }))
    return .wrote (counts.foldl (· + ·) 0)

/-- CHAIN_PASS_END of the i-th chain in the unit: every pass reads its operands again (R207); the last one writes. -/
def chainPassEnd (core i : Nat) (m : Module) : Module :=
  match (m.core core).chains[i]? with
  | none => m
  | some r =>
    let slot := r.cmd.iss.slot
    if r.ending || engHeld (m.core core) .ve then m
    else if r.pass + 1 < r.passes then
      runEng slot core .ve r.cmd.iss.t (dropChain core r.uid) (readPass core r) (fun _ m =>
        updChain core r.uid (fun r => { r with pass := r.pass + 1 }) (dropBlocks core .ve m)) m
    else
      runEng slot core .ve r.cmd.iss.t (dropChain core r.uid) (lastPass core r) (fun e m =>
        let m := dropBlocks core .ve m
        match e with
        | .poison w tag => ctxFault slot { poisonFault w (srcOf r.cmd.iss.t) with tag := tag } (dropChain core r.uid m)
        | .wrote 0 => complete r.cmd.iss true (dropChain core r.uid m)
        | .wrote n => updChain core r.uid (fun r => { r with pass := r.pass + 1, unsettled := n, ending := true }) m) m

/-- A remote write of a chain has been settled; the last one completes the chain (R110, R223). `ok`: it was
acknowledged, not timed out. -/
def chainSettled (core uid : Nat) (ok : Bool) (m : Module) : Module :=
  match (m.core core).chains.find? fun r => r.uid == uid with
  | none => m
  | some r =>
    if r.unsettled ≤ 1 then complete r.cmd.iss ok (dropChain core uid m)
    else updChain core uid (fun r => { r with unsettled := r.unsettled - 1 }) m

/-- What a chain stopped in its last pass has written (R224). -/
def stopChain (core : Nat) (r : ChainRun) (m : Module) : Module :=
  if r.ending || decide (r.pass + 1 < r.passes) then m else cutShort (lastPass core r) m

/-- CHAIN_START. -/
def execChainStart (core : BitVec 9) (s : State) : Host.Outcome State Fault Refusal := lift (chainStart core.toNat) s
/-- CART_SLOT_FREE. -/
def execCartSlotFree (core : BitVec 9) (s : State) : Host.Outcome State Fault Refusal := lift (cartSlotFree core.toNat) s
/-- CHAIN_PASS_END. -/
def execChainPassEnd (core : BitVec 9) (i : Nat) (s : State) : Host.Outcome State Fault Refusal :=
  lift (chainPassEnd core.toNat i) s

end Sys2Proof.Machine
end

