-- ==== Sys2Proof/Machine/TransferEngine.lean ====
section
/-! DEFINITION. The transfer engine (07): descriptors, COPY and MOVE, the sending side of COLL, Reserve commands,
completion with STATUS and counters. -/

namespace Sys2Proof.Machine

/-- TE commands of a core that may move data at once (R237). -/
def teMovers : Nat := 16

/-! Descriptors -/

/-- The descriptor its 56 bytes give (Table 7.1). -/
def descOf (bs : List (Byte × Bool)) : Desc :=
  let w := wordAt bs
  { kind := (w 0).extractLsb' 60 4, fmts := (w 0).extractLsb' 56 4, fmtd := (w 0).extractLsb' 52 4,
    rnd := (w 0).extractLsb' 50 2, we := bit (w 0) 49, wctr := (w 0).extractLsb' 40 9, tce := bit (w 0) 39,
    tctr := (w 0).extractLsb' 30 9, ttid := (w 0).extractLsb' 22 8, cop := (w 0).extractLsb' 18 4,
    ckind := (w 0).extractLsb' 14 4, group := (w 0).extractLsb' 2 12, wval := (w 1).extractLsb' 32 32,
    nrow := field (w 1) 0 32 + 1, src := w 2, dst := w 3, nelem := field (w 4) 32 32 + 1,
    sstride := field (w 4) 0 32, dstride := field (w 5) 32 32, tag := (w 5).extractLsb' 0 32, shtab := w 6 }

/-- Who reads for a TE command; `self` once it has an identifier. -/
def teReader (slot core : Nat) (self : Option Nat) (ttid : BitVec 8) : Reader :=
  { slot := slot, core := core, e := .te, self := self, ttid := ttid }

/-- Read a descriptor; it must be aligned to 64 B, and a poisoned word is consumed (R225). -/
def readDesc (slot core : Nat) (c : Word) : EngM Desc := do
  if c.toNat % 64 ≠ 0 then stop (.ub .misalignedEngineOperand)
  else
    let bs ← readOp (teReader slot core none 0) c 56
    match badWordAt c bs with
    | some w => stop (.deny none w)
    | none => return descOf bs

/-- A code Table 4.9 lists. -/
def codeListed (f : BitVec 4) : Bool := fmtListed f || f == 15
/-- BF16, FP16 or FP32. -/
def wideFmt (f : BitVec 4) : Bool := 3 ≤ f.toNat && f.toNat ≤ 5

/-- The formats a collective allows (Table 7.2). -/
def collFmtsOk (d : Desc) : Bool :=
  match d.ckind.toNat with
  | 2 => fmtListed d.fmts && d.fmts == d.fmtd
  | 3 => fmtListed d.fmts && d.fmts == d.fmtd
  | _ => wideFmt d.fmts && wideFmt d.fmtd

/-- Why a descriptor is malformed, shard table aside, with the causes of event 0x0510 (R231). -/
def malformed (m : Module) (slot : Nat) (d : Desc) : Option Nat :=
  let coll := d.kind.toNat == 1
  if 1 < d.kind.toNat || (coll && (4 < d.ckind.toNat || 2 < d.cop.toNat)) then some 1
  else if (d.fmts == 15) != (d.fmtd == 15) then some 2
  else if !coll && !(isLocal m d.src) && !(isLocal m d.dst) then some 3
  else if !coll && (isQuire d.fmts || isQuire d.fmtd) && decide (d.nrow ≠ 1) then some 4
  else if coll && !(collFmtsOk d) then some 5
  else if !(codeListed d.fmts && codeListed d.fmtd) then some 7
  else if coll && (groupOf m slot d.group).isNone then some 8
  else none

/-! Rows -/

/-- Source bytes of a row that have arrived or can be read: element plane and scale plane, each byte or none. -/
structure RowBytes where
  plane : Array (Option (Byte × Bool))
  scales : Array (Option (Byte × Bool))
  deriving Repr

/-- The bytes of a row of this module. -/
def localRow (slot core : Nat) (self : Option Nat) (f : BitVec 4) (r : Row) : EngM RowBytes := do
  let o := linearOp r.src f r.n
  let p ← readLocal slot core self r.src (o.span r.n)
  let s ←
    if isQuire f then readLocal slot core self (r.src + BitVec.ofNat 64 (o.scaleAt 0)) ((r.n + 31) / 32) else pure []
  return { plane := (p.map some).toArray, scales := (s.map some).toArray }

/-- A byte among the blocks that have arrived. -/
def gotByte (got : List RBlock) (c : Word) : Option (Byte × Bool) :=
  got.findSome? fun b => if (c - b.call).toNat < b.data.length then b.data[(c - b.call).toNat]? else none

/-- The bytes of a row of another module. -/
def gotRow (got : List RBlock) (f : BitVec 4) (r : Row) : RowBytes :=
  let o := linearOp r.src f r.n
  { plane := ((upTo (o.span r.n)).map fun i => gotByte got (r.src + BitVec.ofNat 64 i)).toArray,
    scales := if isQuire f then
        ((upTo ((r.n + 31) / 32)).map fun i => gotByte got (r.src + BitVec.ofNat 64 (o.scaleAt i))).toArray
      else #[] }

/-- An element of a row, when all its bytes are there: exact value and mark. -/
def rowElem (f : BitVec 4) (b : RowBytes) (i : Nat) : Option (FVal × Bool) :=
  let bits := codeBits f
  let bs := (upTo ((bits + 7) / 8)).map fun k => b.plane.getD (i * bits / 8 + k) none
  let s := if isQuire f then b.scales.getD (i / 32) none else some (127#8, false)
  match s with
  | none => none
  | some s =>
    if bs.all (·.isSome) then
      let v := bs.filterMap id
      some (scaled f s.1.toNat (leNat (v.map (·.1)) / 2 ^ (i * bits % 8) % 2 ^ bits), anyBad v || s.2)
    else none

/-- The bytes a row writes, with the events (R226, R151). From a quire to a quire the scale is chosen from the exact values, and
these are narrowed: none saturates to the range of FP32 in between (log 145). -/
def rowChunks (v : Mover) (rnd : Rnd) (r : Row) (b : RowBytes) : List Chunk × List Ev :=
  if v.fmts = 15 then
    let items := (upTo r.n).filterMap fun i => (b.plane.getD i none).map fun x => (i, wb x.1 x.2)
    ((groupRuns items).map fun g => (r.dst + BitVec.ofNat 64 g.1, g.2), [])
  else
    let vals := (upTo r.n).filterMap fun i => (rowElem v.fmts b i).map fun e => (i, e.1, e.2)
    let q := narrowAll v.fmtd rnd (fun i => r.base + i) vals
    (outChunks (linearOp r.dst v.fmtd r.n) q.1 q.2.1, q.2.2)

/-- All rows converted; a converting move consumes poison at its destination (08 Table 8.8). -/
def moveChunks (slot core : Nat) (v : Mover) (bytes : Row → EngM RowBytes) : EngM (List Chunk) := do
  let rnd := rndOf ((← get).ctx slot) v.rnd v.tag
  let rs ← v.rows.mapM fun r => do
    let b ← bytes r
    return rowChunks v rnd r b
  let chunks := rs.flatMap (·.1)
  match if v.fmts = 15 then none else badDest chunks with
  | some w => stop (.deny none w)
  | none =>
    modify (countEvs slot core .te (some v.tag) (rs.flatMap (·.2)))
    return chunks

/-! Reading from another module -/

/-- The source bytes that the bytes from `o` on of a row's destination, k of them, are made of (R227). -/
def sourceRun (bs bd : Nat) (r : Row) (o k : Nat) : Word × Nat :=
  let lo := o * 8 / bd * bs / 8
  let hi := (Nat.min r.n (((o + k) * 8 + bd - 1) / bd) * bs + 7) / 8
  (r.src + BitVec.ofNat 64 lo, hi - lo)

/-- The READ requests of a row, so cut that none carries more than 4,096 B and that what each brings is at most 4,096 B of the
destination within one page (R227). -/
def gatherPieces (bs bd : Nat) (r : Row) : List (Word × Nat) :=
  (runsOf r.dst ((r.n * bd + 7) / 8)).flatMap fun p =>
    let step := 4096 * bd / Nat.max bs bd
    (upTo ((p.2 + step - 1) / step)).map fun i =>
      sourceRun bs bd r ((p.1 - r.dst).toNat + i * step) (Nat.min step (p.2 - i * step))

/-- All READ requests of a move, scale planes included. -/
def gatherAll (v : Mover) : List (Word × Nat) :=
  v.rows.flatMap fun r =>
    gatherPieces (codeBits v.fmts) (codeBits v.fmtd) r ++
      (if isQuire v.fmts then
         txPieces (r.src + BitVec.ofNat 64 ((linearOp r.src v.fmts r.n).scaleAt 0)) ((r.n + 31) / 32)
       else [])

/-- Ask for READs of another module; the number asked for. -/
def sendReads (slot core uid : Nat) (ttid : BitVec 8) (ps : List (Word × Nat)) : EngM Nat := do
  let m ← get
  match ps.findSome? fun p =>
      match resolveRemote m p.1 with
      | .remote => none
      | .deny s => some (s, p.1)
      | _ => some (.badSpace, p.1) with
  | some e => stop (.deny (some e.1) e.2)
  | none =>
    askTxs slot core (.te core uid) (ps.map fun p =>
      { baseTx m slot .read (callDst p.1) (callAddr p.1) with ttid := ttid, len := p.2 })
    return ps.length

/-! Starting -/

/-- A run of a command with nothing on its way. -/
def TeRun.fresh (cmd : TeCmd) (uid : Nat) (d : Option Desc) : TeRun :=
  { cmd := cmd, uid := uid, d := d, bad := false, phase := .local_, unsettled := 0, tmo := 0, entry := none, expect := 0,
    cser := 0, rank := 0, shards := [], shard := (0, 0), statSent := false, done := false, got := [] }

/-- A TTID without a slot on any port is told to the ledger (R230). -/
def noteTtid (slot core : Nat) (ttid : BitVec 8) (call : Word) : EngM Unit :=
  modify fun m =>
    if ttid ≠ 0 ∧ !((upTo 10).any fun n => ownsSome m n (m.ctx slot).r.job ttid) then
      led 0x0606 sevWarn (atCore m core) [(m.ctx slot).r.job.toNat, ttid.toNat, call.toNat] m
    else m

/-- Start a COPY or MOVE: both ends here, a remote destination, or a remote source (R226, R227). -/
def startMove (slot core : Nat) (r : TeRun) (v : Mover) : EngM TeRun := do
  let m ← get
  let src := match v.rows with
    | x :: _ => isLocal m x.src
    | [] => true
  let dst := match v.rows with
    | x :: _ => isLocal m x.dst
    | [] => true
  if src && dst then return r
  noteTtid slot core v.ttid (match r.cmd.work with
    | .desc c => c
    | _ => r.cmd.iss.at_)
  if src then
    let chunks ← moveChunks slot core v (localRow slot core (some r.uid) v.fmts)
    let xs := (← (chunks.filter fun c => !c.2.isEmpty).mapM fun c => writeTxs slot v.ttid c.1 c.2).flatten
    let of_ : MoveOf := { no := r.uid, count := xs.length }
    askTxs slot core (.te core r.uid)
      (if v.tce then xs.map fun x => { x with tce := true, tctr := v.tctr, move := of_ } else xs)
    return { r with phase := .sending, unsettled := xs.length }
  else
    let n ← sendReads slot core r.uid v.ttid (gatherAll v)
    return { r with phase := .gathering, unsettled := n }

/-- The shards of a COLL: even, or as its table says; none when the table fails its check, its alignment among it (R231,
R233). -/
def readShards (w : Reader) (d : Desc) (g : Nat) : EngM (Option (List (Nat × Nat))) := do
  if d.shtab = 0 then return some ((upTo g).map (evenShard d.nelem g))
  else if d.shtab.toNat % 8 ≠ 0 then return none
  else
    let bs ← readOp w d.shtab (8 * g)
    match badWordAt d.shtab bs with
    | some a => stop (.deny none a)
    | none =>
      let sh := (upTo g).map fun i => (field (wordAt bs i) 32 32, field (wordAt bs i) 0 32)
      return if shardsOk d.nelem sh then some sh else none

/-- Write elements of one format into DST of a COLL; the number of transactions asked for. -/
def putElems (slot core uid : Nat) (d : Desc) (els : List OutElem) (scales : List (Nat × Nat × Bool)) : EngM Nat := do
  let ns ← (outChunks (linearOp d.dst d.fmtd d.nelem) els scales).mapM (putChunk slot core uid (.te core uid) d.ttid)
  return ns.foldl (· + ·) 0

/-- An element's code as an engine writes it where it does not convert: a NaN is canonical (02 R38). -/
def canonCode (fmt : BitVec 4) (e : Elem) : Nat :=
  if isQuire fmt ∧ e.scale = 255 then 0
  else if (decodeF (elemFmt fmt) e.code).isNan then (elemFmt fmt).canon
  else e.code

/-- Elements as they stand, for a copy without conversion. -/
def rawElems (els : List Elem) (at_ : Nat) (fmt : BitVec 4) : List OutElem × List (Nat × Nat × Bool) :=
  (els.zipIdx.map fun e => { idx := at_ + e.2, code := canonCode fmt e.1, bad := e.1.bad },
   if isQuire fmt then
     (upTo ((els.length + 31) / 32)).map fun b =>
       let e := els.getD (32 * b) (.pad 0)
       (at_ / 32 + b, e.scale, e.sbad)
   else [])

/-- A COLL transaction of a packet (10 Table 10.4). CONTRIB 0 marks a broadcast (log 41). -/
def collTx (m : Module) (slot : Nat) (d : Desc) (cser : Nat) (fmt : BitVec 4) (dst : BitVec 16) (shidx : Nat)
    (shard : Nat × Nat) (first contrib : Nat) (body : List Byte × List Nat) : Txn :=
  let x := baseTx m slot .coll dst 0
  { x with
    ttid := d.ttid, len := body.1.length, payload := body.1, bad := body.2,
    coll := { n1 := BitVec.ofNat 32 (d.nelem - 1), first := BitVec.ofNat 32 first, group := d.group,
              cser := BitVec.ofNat 8 cser, ckind := d.ckind, cop := d.cop, fmt := fmt,
              shidx := BitVec.ofNat 16 shidx, contrib := BitVec.ofNat 16 contrib,
              shfirst := BitVec.ofNat 32 shard.1, shcount := BitVec.ofNat 32 shard.2 } }

/-- The packets of shard i of a tensor whose elements from the shard's first are `els`. -/
def shardTxs (m : Module) (slot : Nat) (d : Desc) (cser smax : Nat) (dst : List (BitVec 16)) (i : Nat)
    (sh : Nat × Nat) (contrib : Nat) (els : Array Elem) : List Txn :=
  (packetsOf d.fmts smax).flatMap fun p =>
    let body := packetBody d.cop.toNat d.fmts els p.1 p.2 sh.2
    dst.map fun t => collTx m slot d cser d.fmts t i sh p.1 contrib body

/-- Elements of a tensor at its SRC from `first`, `n` of them. -/
def tensorPart (es : Array Elem) (first n : Nat) : Array Elem := (es.toList.drop first |>.take n).toArray

/-- Start a COLL at member `me` of group g with shards sh (R232 to R236, 10 R345, R350 to R352). -/
def startColl (slot core : Nat) (r : TeRun) (d : Desc) (g : Group) (me : Nat) (sh : List (Nat × Nat)) :
    EngM TeRun := do
  noteTtid slot core d.ttid (match r.cmd.work with
    | .desc c => c
    | _ => r.cmd.iss.at_)
  let m ← get
  let smax := smaxOf sh
  let mine := sh.getD me (0, 0)
  let who := Who.te core r.uid
  let own := ownNum m
  let kids := childrenOf m g own own
  let cser := g.cser
  modify fun m => { m with fab := { m.fab with groups := m.fab.groups.map fun h =>
      if h.slot == slot && h.id == d.group then { h with cser := (h.cser + 1) % 256 } else h } }
  let r := { r with phase := .sending, cser := cser, rank := me, shards := sh, shard := mine }
  let w := teReader slot core (some r.uid) d.ttid
  match d.ckind.toNat with
  | 2 => do
    let es ← readElems w (linearOp d.src d.fmts mine.2) mine.2
    let xs := shardTxs m slot d cser smax kids me mine 0 es
    askTxs slot core who xs
    let raw := rawElems es.toList mine.1 d.fmtd
    let n ← putElems slot core r.uid d raw.1 raw.2
    return { r with unsettled := xs.length + n, expect := d.nelem - mine.2 }
  | 3 => do
    if me ≠ 0 then return { r with expect := d.nelem }
    else
      let es ← readElems w (linearOp d.src d.fmts d.nelem) d.nelem
      let xs := sh.zipIdx.flatMap fun s =>
        shardTxs m slot d cser smax kids s.2 s.1 0 (tensorPart es s.1.1 s.1.2)
      askTxs slot core who xs
      let raw := rawElems es.toList 0 d.fmtd
      let n ← putElems slot core r.uid d raw.1 raw.2
      return { r with unsettled := xs.length + n }
  | k => do
    let es ← readElems w (linearOp d.src d.fmts d.nelem) d.nelem
    let xs := sh.zipIdx.flatMap fun s =>
      let owner := if k = 4 then 0 else s.2
      shardTxs m slot d cser smax [g.members.getD owner 0] s.2 s.1 1 (tensorPart es s.1.1 s.1.2)
    askTxs slot core who xs
    return { r with unsettled := xs.length,
                    expect := if k = 0 then d.nelem else if k = 1 then mine.2
                      else if me = 0 then d.nelem else 0 }

/-- The command's call number for its descriptor. -/
def descCall (r : TeRun) : Word :=
  match r.cmd.work with
  | .desc c => c
  | _ => r.cmd.iss.at_

/-- A malformed descriptor moves no data and completes with BADDESC (R231); its tag stays that of its work. -/
def badDesc (core : Nat) (r : TeRun) (cause : Nat) : EngM TeRun := do
  modify fun m => led 0x0510 sevWarn (atCore m core) [(descCall r).toNat, cause] m
  return { r with bad := true, phase := .sending }

/-- Start a DESC; none while its WE wait does not hold (R229). -/
def startDesc (slot core : Nat) (r : TeRun) (c : Word) : EngM (Option TeRun) := do
  let d ← readDesc slot core c
  let m ← get
  if d.we && (m.ctx slot).ctr d.wctr - d.wval == 0x80000000#32 then stop (.ub .waitOutOfRange)
  if d.we && !(reached ((m.ctx slot).ctr d.wctr) d.wval) then return none
  else
    let r := { r with d := some d }
    match malformed m slot d with
    | some k => return some (← badDesc core r k)
    | none =>
      if d.kind.toNat = 0 then
        match moverOf r.cmd.work (some d) with
        | some v => return some (← startMove slot core r v)
        | none => return some r
      else
        match groupOf m slot d.group with
        | none => return some (← badDesc core r 8)
        | some g =>
          match ← readShards (teReader slot core (some r.uid) d.ttid) d g.members.length with
          | none => return some (← badDesc core r 6)
          | some sh =>
            match posIn m slot g with
            | none => return some { r with phase := .sending }
            | some me => return some (← startColl slot core r d g me sh)

/-- How a RES command starts: with a run, parked, or with a context fault. -/
inductive ResStart where
  | run (r : TeRun)
  | park
  | fault (c : Cause)
  deriving DecidableEq, Repr

/-- The data end of a RES command must be aligned to 64 B (11 R363, R367). -/
def resAligned (c : Word) : EngM Unit := if c.toNat % 64 ≠ 0 then stop (.ub .misalignedEngineOperand) else pure ()

/-- Begin a PUSH for which there is room. -/
def beginPush (slot core stage : Nat) (c : Word) (mb layer n : Nat) (r : TeRun) : EngM TeRun := do
  resAligned c
  modify (rsvPush slot stage mb layer n r.uid)
  let r := { r with entry := some r.uid }
  if isLocal (← get) c || n = 0 then return r
  else
    let k ← sendReads slot core r.uid 0 (txPieces c n)
    return { r with phase := .gathering, unsettled := k }

/-- The chunks of a POP: data, then the record (11 R367). -/
def popChunks (slot core : Nat) (self : Option Nat) (stage : Nat) (e : REntry) (c : Word) (n : Nat) : EngM (List Chunk) := do
  let k := Nat.min n e.len
  let data ← if k = 0 then pure [] else readLocal slot core self (localCall 0 e.off) k
  return [(c, asRead data), (c + BitVec.ofNat 64 ((n + 63) / 64 * 64), (recordBytes stage e).map fun b => wb b false)]

/-- Start a RES command (11 R364 to R369). -/
def startRes (slot core : Nat) (r : TeRun) : EngM ResStart := do
  let m ← get
  let x := m.ctx slot
  match r.cmd.work with
  | .push stage c mb layer n =>
    if rsvFull (x.rsvAt stage) n then return if x.sched.mode = 2 then .park else .fault .reserveFull
    else return .run (← beginPush slot core stage c mb layer n r)
  | .pop stage c mb layer n =>
    match rsvMatch (x.rsvAt stage) mb layer with
    | none => return .fault .reserveTag
    | some e =>
      if e.taken then stop (.ub .reservePoppedTwice)
      resAligned c
      modify (updRsv slot stage (updEntry e.id fun e => { e with taken := true }))
      let r := { r with entry := some e.id }
      if isLocal m c then return .run r
      else
        let cs ← popChunks slot core (some r.uid) stage e c n
        let ns ← cs.mapM (putChunk slot core r.uid (.te core r.uid) 0)
        return .run { r with phase := .sending, unsettled := ns.foldl (· + ·) 0 }
  | .free stage mb layer =>
    match rsvMatch (x.rsvAt stage) mb layer with
    | none => return .fault .reserveTag
    | some e =>
      if e.taken then stop (.ub .reservePoppedTwice)
      modify (updRsv slot stage (updEntry e.id fun e => { e with taken := true }))
      return .run { r with entry := some e.id }
  | _ => return .run r

/-! Finishing -/

/-- Change the run with a given identifier; remove it. -/
def updTe (core uid : Nat) (f : TeRun → TeRun) (m : Module) : Module :=
  m.updCore core fun c => { c with teRun := c.teRun.map fun r => if r.uid == uid then f r else r }
def dropTe (core uid : Nat) (m : Module) : Module :=
  m.updCore core fun c => { c with teRun := c.teRun.filter fun r => r.uid != uid }
def findTe (m : Module) (core uid : Nat) : Option TeRun := (m.core core).teRun.find? fun r => r.uid == uid

/-- Data of a command whose source is all here: read, convert, write (R226; 11 R363, R367). -/
def teData (core : Nat) (r : TeRun) : EngM Unit := do
  let slot := r.cmd.iss.slot
  let self := some r.uid
  let dir := fun (m : Module) (stage : Nat) => ((m.ctx slot).rsvAt stage).dir.find? fun e => some e.id == r.entry
  let chunks ← match r.cmd.work with
    | .push stage c _ _ n =>
      match dir (← get) stage with
      | none => pure []
      | some e =>
        if n = 0 then pure []
        else if r.phase = .local_ then do
          let b ← readLocal slot core self c n
          pure [(localCall 0 e.off, asRead b)]
        else
          let runs := (upTo n).filterMap fun i => (gotByte r.got (c + BitVec.ofNat 64 i)).map fun b => (i, wb b.1 b.2)
          pure ((groupRuns runs).map fun g => (localCall 0 (e.off + g.1), g.2))
    | .pop stage c _ _ n =>
      match dir (← get) stage with
      | none => pure []
      | some e => popChunks slot core self stage e c n
    | w =>
      match moverOf w r.d with
      | none => pure []
      | some v =>
        moveChunks slot core v fun x =>
          if r.phase = .gathering then pure (gotRow r.got v.fmts x) else localRow slot core self v.fmts x
  for c in chunks do
    if !c.2.isEmpty then writeLocal slot core self c.1 c.2

/-- What a started command that is stopped has written (R251). -/
def stopTe (core : Nat) (r : TeRun) (m : Module) : Module :=
  if r.phase = .sending ∨ r.bad then m else cutShort (teData core r) m

/-- STATUS (Table 7.3). -/
def statusWord (r : TeRun) : Word :=
  BitVec.ofNat 64 (satAdd 32 r.tmo 0 * 2 ^ 32 + (if r.bad then 4 else 0) + (if r.tmo ≠ 0 then 2 else 0) + 1)

/-- What completion does beside the counter: a PUSH can be matched, a POP or FREE frees its entry, a local
MOVE increments TCTR (R228; 11 R366, R367). -/
def teEffects (r : TeRun) (m : Module) : Module :=
  let slot := r.cmd.iss.slot
  match r.cmd.work, r.entry with
  | .push stage .., some id => updRsv slot stage (updEntry id fun e => { e with matchable := true }) m
  | .pop stage .., some id => rsvFree slot stage id m
  | .free stage .., some id => rsvFree slot stage id m
  | .desc _, _ =>
    match r.d with
    | some d => if !r.bad ∧ d.kind.toNat = 0 ∧ d.tce ∧ isLocal m d.dst then addCtr slot d.tctr 1 m else m
    | none => m
  | _, _ => m

/-- The command completes; one that still receives elements stays to take them (R236). -/
def teDone (core : Nat) (r : TeRun) (m : Module) : Module :=
  let m := teEffects r m
  let m := if r.expect = 0 then dropTe core r.uid m else updTe core r.uid (fun r => { r with done := true }) m
  complete r.cmd.iss (r.tmo == 0) m

/-- Write STATUS, then complete (R240). -/
def teFinish (core : Nat) (r : TeRun) (m : Module) : Module :=
  match r.cmd.work with
  | .desc c =>
    if r.statSent then teDone core r m
    else
      let slot := r.cmd.iss.slot
      let data := (leBytes 8 (statusWord r).toNat).map fun b => wb b false
      let ttid := (r.d.map (·.ttid)).getD 0
      runEng slot core .te r.cmd.iss.t (dropTe core r.uid)
        (putChunk slot core r.uid (.te core r.uid) ttid (c + 56, data)) (fun n m =>
          if n = 0 then teDone core r m
          else updTe core r.uid (fun r => { r with statSent := true, unsettled := n, phase := .sending }) m) m
  | _ => teDone core r m

/-- A member whose DST receives nothing, in the words of R236. -/
def receivesNothing (r : TeRun) : Bool :=
  match r.d with
  | none => true
  | some d =>
    match d.ckind.toNat with
    | 1 => r.shard.2 == 0
    | 2 => r.shard.2 == 0
    | 3 => r.rank != 0
    | 4 => r.rank != 0
    | _ => false

/-- Whether a COLL may complete with elements still to come. -/
def collReady (r : TeRun) : Bool := r.expect == 0 || receivesNothing r

/-- Go on with a started command whose transactions are settled. -/
def teTry (core uid : Nat) (m : Module) : Module :=
  match findTe m core uid with
  | none => m
  | some r =>
    if r.done || decide (r.unsettled ≠ 0) || engHeld (m.core core) .te then m
    else
      match r.phase with
      | .local_ => m
      | .gathering =>
        runEng r.cmd.iss.slot core .te r.cmd.iss.t (dropTe core uid) (teData core r) (fun _ m =>
          let r' := { r with phase := .sending }
          teFinish core r' (updTe core uid (fun _ => r') m)) m
      | .sending => if collReady r then teFinish core r m else m

/-- A transaction of a started command is settled; `ok`: not by a timeout. -/
def teSettled (core uid : Nat) (ok : Bool) (m : Module) : Module :=
  teTry core uid (updTe core uid (fun r =>
    { r with unsettled := r.unsettled - 1, tmo := if ok then r.tmo else satAdd 32 r.tmo 1 }) m)

/-- Data of a READ of a started command has arrived. -/
def teGot (core uid : Nat) (call : Word) (data : List (Byte × Bool)) (m : Module) : Module :=
  teSettled core uid true (updTe core uid (fun r => { r with got := r.got ++ [{ e := .te, call := call, data := data }] }) m)

/-- The tag of a command's work: none for RES. -/
def teTag (r : TeRun) : Option W32 :=
  match r.cmd.work with
  | .copy _ _ _ _ t => some t
  | _ => r.d.map (·.tag)

/-- A started command enters the list of runs, with the READs it has lost to timeouts (R244). -/
def teLaunched (core : Nat) (r : TeRun) (m : Module) : Module :=
  (dropBlocks core .te m).updCore core fun c =>
    { c with teRun := c.teRun ++ [{ r with tmo := satAdd 32 r.tmo c.teTmo }], teTmo := 0 }

/-- The head of the TE queue has launched, and leaves it: late or not under its tag (04 R158). -/
def tePop (core : Nat) (k : TeCmd) (tag : Option W32) (m : Module) : Module :=
  let c := m.core core
  countLate k.iss.slot core .te tag (launchLate k.iss c.teAt)
    (m.updCore core fun c => { c with teQ := c.teQ.drop 1, teAt := m.islandStamp core })

/-- The head of the queue is dropped by a fault of its context. -/
def teFail (core : Nat) (k : TeCmd) (tag : Option W32) (m : Module) : Module :=
  (tePop core k tag m).updCore core fun c => { c with teTmo := 0 }

/-- TE_COMMAND_START (R237). -/
def teStart (core : Nat) (m : Module) : Module :=
  let c := m.core core
  match c.teQ with
  | [] => m
  | k :: _ =>
    if engHeld c .te || !(dueReached m core k.iss) ||
       decide (teMovers ≤ (c.teRun.filter fun r => !r.done).length) then m
    else
      let slot := k.iss.slot
      let u := newUid m
      let r := TeRun.fresh k u.1 none
      let go := fun (r : TeRun) (m : Module) => teTry core u.1 (teLaunched core r (tePop core k (teTag r) m))
      match k.work with
      | .copy _ src dst _ tag =>
        if !(isLocal m src) && !(isLocal m dst) then
          complete k.iss true
            (led 0x0511 sevWarn (atCore m core) [k.iss.at_.toNat, src.toNat, dst.toNat] (tePop core k (some tag) m))
        else
          let w : EngM TeRun := match moverOf k.work none with
            | some v => startMove slot core r v
            | none => pure r
          runEng slot core .te k.iss.t (teFail core k (some tag)) w go u.2
      | .desc call =>
        runEng slot core .te k.iss.t (teFail core k none) (startDesc slot core r call) (fun o m' =>
          match o with
          | none => m'
          | some r => go r m') u.2
      | w =>
        runEng slot core .te k.iss.t (teFail core k none) (startRes slot core r) (fun o m' =>
          let m' := match o with
            | .run _ => m'
            | _ => tePop core k none m'
          match o with
          | .run r => go r m'
          | .park =>
            let sl := match w with
              | .push stage _ _ _ n => (stage, n)
              | _ => (0, 0)
            (led 0x0706 sevWarn (atCtx m' slot) [sl.1, sl.2] m').updCore core fun c => { c with tePark := c.tePark ++ [k] }
          | .fault cause => ctxFault slot (outerFault cause k.iss.at_ (srcOf k.iss.t)) m') u.2

/-- PARKED_PUSH_RESTART of the i-th parked PUSH (11 R389); its launch has counted when it was parked. -/
def parkedRestart (core i : Nat) (m : Module) : Module :=
  let c := m.core core
  match c.tePark[i]? with
  | none => m
  | some k =>
    match k.work with
    | .push stage call mb layer n =>
      let slot := k.iss.slot
      if rsvFull ((m.ctx slot).rsvAt stage) n || engHeld c .te ||
         decide (teMovers ≤ (c.teRun.filter fun r => !r.done).length) then m
      else
        let u := newUid m
        let out := fun (m : Module) => m.updCore core fun c => { c with tePark := c.tePark.eraseIdx i }
        runEng slot core .te k.iss.t out (beginPush slot core stage call mb layer n (TeRun.fresh k u.1 none))
          (fun r m => teTry core u.1 ((out m).updCore core fun c => { c with teRun := c.teRun ++ [r] })) u.2
    | _ => m

/-- LOCAL_TRANSFER_COMPLETE of the i-th started command: its data move, STATUS is written and it completes. -/
def localDone (core i : Nat) (m : Module) : Module :=
  match (m.core core).teRun[i]? with
  | none => m
  | some r =>
    if r.done || engHeld (m.core core) .te then m
    else if r.phase = .local_ then
      runEng r.cmd.iss.slot core .te r.cmd.iss.t (dropTe core r.uid) (teData core r) (fun _ m =>
        let r' := { r with phase := .sending }
        teFinish core r' (updTe core r.uid (fun _ => r') m)) m
    else teTry core r.uid m

/-- TE_COMMAND_START. -/
def execTeCommandStart (core : BitVec 9) (s : State) : Host.Outcome State Fault Refusal :=
  lift (teStart core.toNat) s
/-- PARKED_PUSH_RESTART. -/
def execParkedPushRestart (core : BitVec 9) (i : Nat) (s : State) : Host.Outcome State Fault Refusal :=
  lift (parkedRestart core.toNat i) s
/-- LOCAL_TRANSFER_COMPLETE. -/
def execLocalTransferComplete (core : BitVec 9) (i : Nat) (s : State) : Host.Outcome State Fault Refusal :=
  lift (localDone core.toNat i) s

end Sys2Proof.Machine
end

