-- ==== Sys2Proof/Machine/Teardown.lean ====
section
/-! DEFINITION. Teardown of a context (13 R430; 08 R256, R273), what follows it (13 R434; 15 R490), and
the close of a loan. -/

namespace Sys2Proof.Machine

/-! Teardown (13 R430) -/

/-- Every thread of a context stops and forgets what it waited for. -/
def stopThreads (slot : Nat) (m : Module) : Module :=
  let x := m.ctx slot
  { m with threads := m.threads.map fun e =>
      if x.r.cores.getLsbD (e.1 / 256) then
        (e.1, { e.2 with running := false, held := none, pfx := none, load := none, outCmds := 0,
                         stall := .none })
      else e }

/-- A core drops queued commands and stops its engines: the ME at the end of its step, the chain unit and
the TE at once (05 R182, 06 R224, 07 R251). -/
def stopCore (now : Nat) (c : CoreSt) : CoreSt :=
  { c with meQ := [], veQ := [], teQ := [], tePark := [], chains := [], teRun := [], rbuf := [],
           engStop := if c.meRun.isSome && !(c.engStop.any fun e => e.1 == .me) then c.engStop ++ [(.me, now)]
                      else c.engStop }

/-- Transactions that have not been sent are dropped and their tags released (R426, R430 step 3). -/
def dropUnsent (p : Flight → Bool) (m : Module) : Module :=
  let gone := (m.fab.flights.filter fun f => p f && f.sent.isNone).map fun f => f.x.tag
  { m with
    fab := { m.fab with flights := m.fab.flights.filter fun f => !(p f && f.sent.isNone),
                        waiting := m.fab.waiting.filter fun f => !p f },
    ports := m.ports.map fun e =>
      (e.1, { e.2 with oq := e.2.oq.filter fun o => !(o.own == .flight && gone.contains o.x.tag) }) }

/-- Chains and TE commands of a core that are running stop at once: some of their writes have been accepted (06 R224, 07 R251). -/
def stopWork (core : Nat) (m : Module) : Module :=
  let c := m.core core
  c.teRun.foldl (fun m r => stopTe core r m) (c.chains.foldl (fun m r => stopChain core r m) m)

/-- Steps 1 to 4 of a teardown. `cmd` is what began it: 2 STOP, 3 DELETE, 4 RESET, 0 a larger scope. -/
def startTeardown (slot cmd : Nat) (m : Module) : Module :=
  let x := m.ctx slot
  if x.state = .free ∨ x.state = .teardown then m
  else
    let m := (coresOf x.r.cores).foldl (fun m c => stopWork c m) (stopThreads slot m)
    let m := { m with
               cores := m.cores.map fun e =>
                 if x.r.cores.getLsbD e.1 then (e.1, stopCore m.now e.2) else e,
               writes := m.writes.filter fun w => w.slot != slot,
               cows := m.cows.filter fun w => w.slot != slot }
    (dropUnsent (fun f => f.slot == slot) m).updCtx slot fun x =>
      { x with state := .teardown, tdAt := m.now, tdCmd := cmd, tdKeep := x.r.keep, tdTmo := 0,
               fences := [], ovd := { x.ovd with work := [] } }

/-- A larger scope takes a context down: ESCALATED, then teardown (13 R427, R440). -/
def escalate (slot : Nat) (m : Module) : Module :=
  startTeardown slot 0 (ctxFault slot (outerFault .escalated 0 0) m)

/-! The close of a loan (15 R490) -/

/-- A change of loan state raises vector 2 at the bound function and at the physical function, once when they are
the same (17 R529). -/
def setLoan (p : Nat) (st : LoanSt) (m : Module) : Module :=
  let m := m.updPart p fun q => { q with st := st }
  match boundFn m p with
  | some 0 => irq 0 2 m
  | some g => irq 0 2 (irq g 2 m)
  | none => irq 0 2 m

/-- A context lies in the partition. -/
def hasCtx (m : Module) (p : Nat) : Bool := !(slotsWhere m fun x => x.part == p).isEmpty

/-- Set the close record that the Librarian sends until it is co-signed; `closeSent` 0 means that it has not been
sent yet. -/
def setClose (p : Nat) (r : LoanRec) (m : Module) : Module :=
  m.updPart p fun q => { q with closeRec := some r, closeAt := m.now, closeSent := 0, closeLogged := 0 }

/-- Steps 2 to 5 of a close, once the partition's last context is FREE. -/
def closeAdvance (p : Nat) (m : Module) : Module :=
  let q := m.part p
  if q.st ≠ .closing ∨ q.closeRec.isSome ∨ hasCtx m p then m
  else
    let m := dropBms (fun b => b.part == p) m
    let m := m.updPart p fun q =>
      { q with keyNo := none, dep0 := 0, depmod := 0, depjob := 0, depFirst := 0, depCount := 0 }
    let m := (diesOf m p).foldl (fun m d => clearDie d m) m
    let id := (q.openRec.map (·.loanid)).getD q.loanid
    let ten := (q.openRec.map (·.tenant)).getD q.tenant
    setClose p (formRec m p false q.closecause id ten) m

/-- Begin a close with a cause of Table 15.2: creation stops, every context of the partition is torn down. -/
def closeBegin (p cause : Nat) (m : Module) : Module :=
  let id := ((m.part p).openRec.map (·.loanid)).getD (m.part p).loanid
  let m := setLoan p .closing (m.updPart p fun q => { q with closecause := cause, closeReq := false })
  let m := led 0x0803 sevInfo (atPart p) [id.toNat, cause] m
  closeAdvance p (each (slotsWhere m fun x => x.part == p) (fun i => startTeardown i 0) m)

/-- Send close records that have not been sent, over the meter link. -/
def sendCloses (s : State) : State :=
  (upTo 8).foldl (fun s p =>
    match (s.mod.part p).closeRec with
    | some r =>
      if (s.mod.part p).closeSent = 0 then
        { s with mod := s.mod.updPart p fun q => { q with closeSent := s.mod.now + 1 },
                 toMeter := s.toMeter ++ [.record r] }
      else s
    | none => s) s

/-- A command of the module after which close records may have to be sent. -/
def liftC (f : Module → Module) (s : State) : Host.Outcome State Fault Refusal :=
  .next (if s.mod.on then
      let s := { s with mod := f s.mod }
      if s.mod.boot.lib then sendCloses s else s
    else s)

/-- The same for one that the Librarian carries out. -/
def liftCL (f : Module → Module) (s : State) : Host.Outcome State Fault Refusal :=
  liftC (fun m => if m.boot.lib then f m else m) s

/-! Function Level Resets (13 R433, R434) -/

/-- Partitions that an FLR of a function drains: the bound one, or all of them. -/
def flrParts (m : Module) (f : Nat) : List Nat :=
  (upTo 8).filter fun p => isPart m p && (f == 0 || isBound m f p)

/-- A function's registers after an FLR: queues, window, MSI-X table, and its other registers at reset (17 R530,
Table 17.11); an IDE stream stays. -/
def Func.afterFlr (x : Func) : Func := { Func.init with ide := x.ide, quote := none }

/-- Complete a pending FLR of a function once its partitions hold no context. -/
def flrFinish (f : Nat) (backstop : Bool) (m : Module) : Module :=
  match (m.func f).flr with
  | none => m
  | some _ =>
    if (flrParts m f).any fun p => hasCtx m p then m
    else
      let pl := match partOfFn m f with
        | some p => if f = 0 then atModule else atPart p
        | none => atModule
      let m := m.updFunc f Func.afterFlr
      led (if backstop then 0x0206 else 0x0205) (if backstop then sevWarn else sevInfo) pl [f, m.now] m

/-- Try every function. -/
def flrAll (backstop : Bool) (m : Module) : Module := (upTo 9).foldl (fun m f => flrFinish f backstop m) m

/-! The slot becomes FREE -/

/-- What is left of a core when its context goes: its clock and what calls for it, but no count of its errata (01 R24; 02 R71). -/
def CoreSt.released (c : CoreSt) : CoreSt :=
  { CoreSt.init with clk := c.clk, clkNext := c.clkNext, capClk := c.capClk, tempClk := c.tempClk, sramce := c.sramce,
                     engRst := c.engRst }

/-- The cluster-store windows of a context zeroed (R256). -/
def zeroWindows (x : Ctx) (m : Module) : Module :=
  ((coresOf x.r.cores).map clusterOfCore).dedup.foldl (fun m cl =>
    zeroRange (paStore cl (65536 * x.r.csBase.toNat))
      (paStore cl (65536 * (x.r.csBase.toNat + x.r.csSize.toNat))) m) m

/-- Steps 6 and 7: zero, release the pages, free the slot; the generation stays (03 R81). The job key goes with the
last context of its job (10 R341). -/
def freeSlot (slot : Nat) (m : Module) : Module :=
  let x := m.ctx slot
  let cs := coresOf x.r.cores
  let m := cs.foldl (fun m c => (zeroCore c m).updCore c CoreSt.released) (zeroWindows x m)
  let mine := fun (b : Bookmark) => b.job == x.r.job && b.part == x.part
  let m := if x.tdKeep then { m with bms := m.bms.map fun b => if mine b then { b with dep := none } else b }
    else dropBms mine (clearPages slot m)
  let m := if x.tdCmd = 0 then m
    else led 0x0201 sevInfo (atCtx m slot) [x.tdAt, x.tdTmo, x.tdCmd] m
  let m := { dropTlb slot m with
             threads := m.threads.filter fun e => !(x.r.cores.getLsbD (e.1 / 256)),
             fab := { m.fab with groups := m.fab.groups.filter fun g => g.slot != slot,
                                 jobKeys := m.fab.jobKeys.filter fun k => k.1 != x.r.job } }
  m.setCtx slot { Ctx.init with gen := x.gen }

/-- The teardown of a context can end: its transactions are settled and its engines have stopped. -/
def teardownReady (m : Module) (slot : Nat) : Bool :=
  let x := m.ctx slot
  x.state == .teardown && !(anyFlight m slot) &&
    (coresOf x.r.cores).all fun c => (m.core c).engStop.isEmpty && (m.core c).engRst.isEmpty

/-- TEARDOWN_COMPLETE, and what waited for it: the close of a loan, an FLR. -/
def teardownComplete (slot : Nat) (m : Module) : Module :=
  if !(teardownReady m slot) then m
  else
    let p := (m.ctx slot).part
    flrAll false (closeAdvance p (freeSlot slot m))

/-- TEARDOWN_COMPLETE. -/
def execTeardownComplete (slot : BitVec 6) (s : State) : Host.Outcome State Fault Refusal :=
  liftCL (teardownComplete slot.toNat) s

end Sys2Proof.Machine
end

