-- ==== Sys2Proof/Machine/Digest.lean ====
section
/-! DEFINITION. Page images of a bookmark: normalisation, collation digests, comparison element by element (14 R455, R467,
R468, Table 14.2). -/

namespace Sys2Proof.Machine

/-- Normalisation of an element code (14 Table 14.2). -/
def normCode (fmt : BitVec 4) (c : Nat) : Nat :=
  let f := elemFmt fmt
  if (decodeF f c).isNan then f.canon
  else
    let c := if f.bits = 32 then c / 4096 * 4096 else c
    if (decodeF f c).isZero then 0 else c

/-- The element codes of bytes in a format, two to a byte for F4. -/
def codesOf (bits : Nat) (bs : List Byte) : List Nat :=
  let v := leNat bs
  (upTo (bs.length * 8 / bits)).map fun i => v / 2 ^ (bits * i) % 2 ^ bits

/-- Codes as bytes. -/
def codesBytes (bits : Nat) (cs : List Nat) : List Byte :=
  leBytes (cs.length * bits / 8) (cs.foldr (fun c v => c + 2 ^ bits * v) 0)

/-- The page is compared as raw bytes: format 0xF, or a code that Table 4.9 does not list. -/
def rawFmt (fmt : BitVec 4) : Bool := !(fmtListed fmt)

/-- A byte of a page of a region of quires that holds a scale code; where the scale planes lie in a region is not stated
(log 96). The region is (format, base, length). -/
def scaleByte (r : Nat × Nat × Nat) (vpn i : Nat) : Bool :=
  isQuire (BitVec.ofNat 4 r.1) && Config.isScale r.1 r.2.1 r.2.2 (vpn * 65536 - r.2.1 + i)

/-- The normalised image of a page: scale codes stay as they are. -/
def normPage (r : Nat × Nat × Nat) (vpn : Nat) (bs : List Byte) : List Byte :=
  let fmt := BitVec.ofNat 4 r.1
  if rawFmt fmt then bs
  else
    let ns := codesBytes (codeBits fmt) ((codesOf (codeBits fmt) bs).map (normCode fmt))
    (bs.zip ns).zipIdx.map fun e => if scaleByte r vpn e.2 then e.1.1 else e.1.2

/-- The collation digest of a page under COLKEY (R467). -/
def colDigest (key : BitVec 128) (vpn : Nat) (r : Nat × Nat × Nat) (bs : List Byte) : Word :=
  sipHash24 (key.extractLsb' 0 64) (key.extractLsb' 64 64) (leBytes 8 vpn ++ normPage r vpn bs)

/-- Two finite values within 4 ulp of a format, measured at the larger magnitude (R468). -/
def within4 (f : Fmt) (a b : FVal) : Bool :=
  let big := if a.abs.lt b.abs then b else a
  match big with
  | .fin _ m e =>
    if m = 0 then true
    else
      let u := ulpExp f m e
      let q := min (min a.exp b.exp) u
      decide (((a.count q - b.count q).natAbs : Int) ≤ 4 * 2 ^ (u - q).toNat)
  | _ => false

/-- Two elements agree (R468). -/
def elemAgrees (fmt : BitVec 4) (x y : Nat) : Bool :=
  let f := elemFmt fmt
  match decodeF f x, decodeF f y with
  | .nan, .nan => true
  | .inf s, .inf t => s == t
  | .fin s m e, .fin t n g => within4 f (.fin s m e) (.fin t n g)
  | _, _ => false

/-- Two images of a page with unequal digests agree element by element; raw pages do not. Whether quires of different
scales agree is open, since the place of the scales is (log 96). -/
def pageAgrees (r : Nat × Nat × Nat) (vpn : Nat) (a b : List Byte) : Bool :=
  let fmt := BitVec.ofNat 4 r.1
  if rawFmt fmt || a.length != b.length then false
  else if (a.zip b).zipIdx.any fun e => scaleByte r vpn e.2 && e.1.1 != e.1.2 then Config.quiresAgree a b
  else ((codesOf (codeBits fmt) a).zip (codesOf (codeBits fmt) b)).all fun e => elemAgrees fmt e.1 e.2

/-- The region of a page, if it lies in one: (format, base, length). -/
def pageRegion (rg : Sparse (Nat × Nat × Nat)) (vpn : Nat) : Option (Nat × Nat × Nat) :=
  (rg.find? fun r => decide (r.2.2.1 ≤ vpn * 65536) && decide (vpn * 65536 < r.2.2.1 + r.2.2.2)).map (·.2)

/-- The frame that holds a page as it stands in the bookmark: its copy, else the live page (R455). -/
def bmFrame (m : Module) (slot : Nat) (b : Bookmark) (vpn : Nat) : Option Nat :=
  match b.copies.find? fun e => e.1 == vpn with
  | some e => some e.2
  | none => (leafOf slot vpn m).map fun (e : Nat × Nat) => pteFrame e.2

/-- The bytes of a frame. -/
def imageBytes (m : Module) (fr : Nat) : List Byte := (upTo 65536).map fun i => m.byte (paMain fr i)

/-- A page as it stands in the bookmark. -/
def bmImage (m : Module) (slot : Nat) (b : Bookmark) (vpn : Nat) : Option (List Byte) :=
  (bmFrame m slot b vpn).map (imageBytes m)

end Sys2Proof.Machine
end

