-- ==== Sys2Proof/Machine/Bookmarks.lean ====
section
/-! DEFINITION. Bookmarks, deposits, partners, fills and shadows (14 R450 to R483). -/

namespace Sys2Proof.Machine

/-! Taking a bookmark (R450 to R454) -/

/-- The start stamp of step n (R453, 12 R418). -/
def stepStart (x : Ctx) (n : Nat) : Nat := x.sched.stept0 + n * x.sched.stepper

/-- A remote write was accepted after the start stamp of the step and before now (R454). A context without a step
clock has no start stamps. -/
def early (x : Ctx) (n : Nat) : Bool := decide (x.sched.stepper ≠ 0) && decide (stepStart x n < x.bm.lastRemote)

/-- The feed of a module (R464). -/
def feedAt (m : Module) (n : BitVec 16) : Option (BitVec 16) := (m.topo.feeds.find? fun e => e.1 == n).map (·.2)

/-- A module shares this module's feed. -/
def sameFeed (m : Module) (n : BitVec 16) : Bool := feedAt m n == some (feedOf m)

/-- DEPCFG lets deposits be made (R461, R465, R466). -/
def depositOn (x : Ctx) (n : Nat) : Bool :=
  decide (x.dep.k ≠ 0) && decide (n % x.dep.k = 0) && !x.dep.samefeed && !x.dep.noholder

/-- The slot a deposit goes to: the one that does not hold the newest committed deposit (R461). -/
def depTarget (d : Dep) : Bool :=
  if d.newestB then !(d.slotB == 2) else d.slotA == 2

/-- The Librarian's WRITE transactions of a job for a run of bytes, at most 4,096 B each; `nm` and `addr` name the byte at an
offset of the run. -/
def libWrites (m : Module) (slot : Nat) (job : BitVec 16) (ttid : BitVec 8) (dst : BitVec 16) (nm : Nat → LibWrite)
    (addr : Nat → BitVec 48) (data : List (Byte × Bool)) : List Txn :=
  (upTo ((data.length + 4095) / 4096)).map fun k =>
    let d := (data.drop (4096 * k)).take 4096
    { baseTx m slot .write dst (addr (4096 * k)) with
      job := job, ttid := ttid, len := d.length, payload := d.map (·.1), bad := badWords (d.map (·.2)), lib := nm (4096 * k) }

/-- The pages a bookmark holds, in order: virtual page and frame. -/
def bmPages (m : Module) (slot : Nat) (b : Bookmark) : List (Nat × Nat) :=
  (regionPages m slot b.regions).filterMap fun e => (bmFrame m slot b e.1).map fun fr => (e.1, fr)

/-- The bytes of a frame with their marks. -/
def frameMarked (m : Module) (fr : Nat) : List (Byte × Bool) :=
  (upTo 65536).map fun i => (m.byte (paMain fr i), m.isBad (paMain fr i))

/-- Bytes without marks. -/
def clean (bs : List Byte) : List (Byte × Bool) := bs.map fun b => (b, false)

/-- The schedule image of a bookmark, of at most 1 MiB (R462). -/
def imageOf (b : Bookmark) : List Byte := (Config.schedBytes b.img).take (2 ^ 20)

/-- The page index of a deposit: each page with its collation digest (Table 14.1). -/
def depIndex (m : Module) (slot : Nat) (b : Bookmark) : List Byte :=
  (bmPages m slot b).flatMap fun e =>
    let dig := match pageRegion b.regions e.1 with
      | some r => colDigest (m.ctx slot).col.key e.1 r (imageBytes m e.2)
      | none => 0
    leBytes 8 e.1 ++ leBytes 8 dig.toNat

/-- The header of a deposit slot with VALID set (Table 14.1). -/
def depHeader (m : Module) (slot : Nat) (b : Bookmark) (seq : Nat) : List Byte :=
  let pages := bmPages m slot b
  let dig := Config.sha512 (imageOf b ++ depIndex m slot b ++ pages.flatMap fun e => imageBytes m e.2)
  leBytes 8 (2 ^ 63 + seq % 2 ^ 31) ++
    leBytes 8 (m.num * 2 ^ 48 + b.job.toNat * 2 ^ 32 + m.lease.inc.toNat) ++ leBytes 8 b.step ++
    leBytes 8 (pages.length * 2 ^ 32 + (imageOf b).length) ++ leBytes 8 ((feedOf m).toNat * 2 ^ 48) ++
    leBytes 64 dig.toNat

/-- The sections of a deposit's body with their offsets in the slot (Table 14.1). -/
def depBody (m : Module) (slot : Nat) (b : Bookmark) : List (Nat × List (Byte × Bool)) :=
  let at64 := fun (n : Nat) => (n + 65535) / 65536 * 65536
  let o1 := 65536 + at64 (imageOf b).length
  let o2 := o1 + at64 (depIndex m slot b).length
  [(65536, clean (imageOf b)), (o1, clean (depIndex m slot b))] ++
    (bmPages m slot b).zipIdx.map fun e => (o2 + 65536 * e.2, frameMarked m e.1.2)

/-- The writes of one section of a deposit to each of its holders (R461, R466). -/
def depWrites (m : Module) (slot uid : Nat) (job : BitVec 16) (b : Bool) (s : Nat × List (Byte × Bool)) : List Flight :=
  let d := (m.ctx slot).dep
  (if d.correlated then [d.holder, d.holder2] else [d.holder]).flatMap fun h =>
    (libWrites m slot job d.ttid h (fun o => .deposit b (s.1 + o)) (fun _ => 0) s.2).map
      (flightFor m slot libCore (.dep job uid))

/-- Start a deposit of a new bookmark: the slot's header is made invalid; the body and the new header wait (R461, 13
R445). -/
def startDep (slot n : Nat) (m : Module) : Module :=
  let x := m.ctx slot
  match bmOf m x.r.job with
  | none => m
  | some k =>
    if !(depositOn x n) then m
    else
      let b := depTarget x.dep
      let u := newUid m
      let m := u.2
      let seq := (x.dep.seq + 1) % 2 ^ 31
      let w := depWrites m slot u.1 k.job b
      let first := w (0, clean (leBytes 8 seq))
      let r : DepRun :=
        { b := b, uid := u.1, left := first.length, body := (depBody m slot k).flatMap w,
          head := w (0, clean (depHeader m slot k seq)) }
      let m := first.foldl (fun m f => request f m) (updBm k.job (fun k => { k with dep := some r }) m)
      m.updCtx slot fun x =>
        { x with dep := if b then { x.dep with slotB := 1, seq := seq } else { x.dep with slotA := 1, seq := seq } }

/-- Take the bookmark of step n: the schedule state is saved, COW is set in every entry of a region, a page-table fence
completes (R452); the old bookmark goes, a deposit in progress is abandoned (R450, R463). Frames of the old copies
return to the pool. -/
def takeBookmark (slot n : Nat) (m : Module) : Module :=
  let x := m.ctx slot
  let job := x.r.job
  let m := abandonDep slot job m
  let back := ((bmOf m job).map fun b => b.copies.map (·.2)).getD []
  let m := dropBms (fun b => b.job == job) m
  let m := back.foldl (fun m fr => pushPool slot fr m) m
  let x := m.ctx slot
  let b : Bookmark :=
    { job := job, part := x.part, step := n, copies := [], lost := false, mixed := early x n, rsv := x.rsv,
      tensors := x.tensors, sched := x.sched, stepnum := x.stepnum, ctrs := x.ctrs, ptbase := x.r.ptbase,
      regions := x.bm.rgn, dep := none }
  let m := dropTlb slot (cowAll slot true x.bm.rgn { m with bms := m.bms ++ [b] })
  startDep slot n m

/-- An admission written before takes effect at a step boundary under HOLD: the shadow's traffic goes out from then on
(R483). -/
def shadowBoundary (slot : Nat) (m : Module) : Module :=
  m.updCtx slot fun x =>
    if x.shadow.admitted && x.bm.hold then { x with shadow := { x.shadow with role := 0, admitted := false } } else x

/-- BMTAKE, under SCHEDMODE OFF (R452). -/
def bmTake (w : By) (slot : Nat) (step : BitVec 32) (m : Module) : Module :=
  onGated 9 w slot offBmtake step.toNat (fun x => x.sched.mode == 0)
    (fun m => takeBookmark slot step.toNat (shadowBoundary slot m)) m

/-- BMTAKE. -/
def execBmtake (f : Option Fn) (slot : BitVec 6) (step : BitVec 32) (s : State) :
    Host.Outcome State Fault Refusal := liftW f (bmTake f slot.toNat step) s

/-! Copies (R455, R456) -/

/-- Copy a frame with its valid bits and marks. -/
def copyFrame (src dst : Nat) (m : Module) : Module :=
  let gs := m.valid.filter fun g => g / 256 == src
  let m := clearFrame dst (gs.foldl (fun m g => readGran g 0 m) m)
  let bads := gs.filter fun g => NatSet.has m.bad g
  let cells := (m.mem.filter fun e => isMain e.1 && e.1 / 65536 == src).map fun e => (dst * 65536 + e.1 % 65536, wb e.2 false)
  let m := gs.foldl (fun m g => setValid (dst * 256 + g % 256) m) { m with mem := pokes cells m.mem }
  { m with bad := bads.foldl (fun b g => NatSet.add b (dst * 256 + g % 256)) m.bad }

/-- The bookmark becomes LOST: COW is cleared in every entry, its copies return to the pool, its deposit is abandoned
(R456, R463). -/
def loseBm (slot : Nat) (b : Bookmark) (m : Module) : Module :=
  let m := abandonDep slot b.job m
  let m := led 0x0708 sevError (atCtx m slot) [b.step, b.copies.length] m
  let m := updBm b.job (fun b => { b with lost := true, copies := [] }) m
  let m := (regionPages m slot b.regions).foldl (fun m e => uncow slot e.1 m) m
  b.copies.foldl (fun m e => pushPool slot e.2 m) m

/-- Make the copy that a write waits for. -/
def copyPage (slot vpn : Nat) (m : Module) : Module :=
  match bmOf m (m.ctx slot).r.job, leafOf slot vpn m with
  | some b, some e =>
    if b.lost then uncow slot vpn m
    else
      let r := popPool slot m
      match r.2 with
      | none => uncow slot vpn (loseBm slot b r.1)
      | some fr =>
        uncow slot vpn
          (updBm b.job (fun b => { b with copies := b.copies ++ [(vpn, fr)] }) (copyFrame (pteFrame e.2) fr r.1))
  | _, _ => uncow slot vpn m

/-- COW_COPY_DONE: the copy of the i-th waiting page is made and what waits goes on. -/
def execCowCopyDone (i : Nat) (s : State) : Host.Outcome State Fault Refusal :=
  liftL (fun m =>
    match m.cows[i]? with
    | some w => copyPage w.slot w.vpn { m with cows := m.cows.eraseIdx i }
    | none => m) s

/-! Restoring (R458) -/

/-- Why a restore is refused: the CAUSE of BMSTAT. -/
def restoreCause (m : Module) (job : BitVec 16) (step : Nat) : Nat :=
  match bmOf m job with
  | none => 3
  | some b => if b.lost then 1 else if b.mixed then 2 else if b.step ≠ step then 4 else 0

/-- The schedule state of a bookmark in a context (11 R401); parked PUSHes and waiting claims are not part of it. -/
def withSchedule (b : Bookmark) (x : Ctx) : Ctx :=
  let stage := fun (s : Nat) =>
    let o := Sparse.get Stage.init b.sched.stages s
    let n := Sparse.get Stage.init x.sched.stages s
    { n with turn := o.turn, filled := o.filled, running := o.running, count := o.count, fdone := o.fdone,
             tbase := o.tbase }
  let rsv := fun (s : Nat) =>
    let o := Sparse.get Rsv.init b.rsv s
    let n := x.rsvAt s
    { n with top := o.top, dir := o.dir, aside := o.aside }
  { x with
    rsv := (upTo 16).foldl (fun l s => Sparse.set Rsv.init l s (rsv s)) x.rsv,
    tensors := b.tensors.map fun e => (e.1, { e.2 with waiting := [] }),
    sched := { x.sched with
      stages := (upTo 16).foldl (fun l s => Sparse.set Stage.init l s (stage s)) x.sched.stages,
      units := b.sched.units, keep := b.sched.keep, started := b.sched.started, gkept := b.sched.gkept,
      varcur := b.sched.varcur },
    stepnum := b.stepnum, ctrs := b.ctrs }

/-- Put the copies back: each copied page's entry takes the copy, and the frame that was live returns to the pool; COW
is set again on every region entry; the schedule state is loaded. -/
def restoreBm (slot : Nat) (b : Bookmark) (m : Module) : Module :=
  let m := b.copies.foldl (fun m e =>
    match leafOf slot e.1 m with
    | some p => pushPool slot (pteFrame p.2) (setPte slot e.1 (withFrame e.2) m)
    | none => m) m
  let m := updBm b.job (fun b => { b with copies := [] }) (dropTlb slot (cowAll slot true b.regions m))
  m.updCtx slot (withSchedule b)

/-- BMRESTORE. -/
def bmRestore (f : Fn) (slot : Nat) (step : BitVec 32) (m : Module) : Module :=
  let x := m.ctx slot
  let cause := restoreCause m x.r.job step.toNat
  onGated 9 (some f) slot offBmrestore step.toNat
    (fun x => x.state == .created && ((bmOf m x.r.job).all fun b => b.ptbase == x.r.ptbase))
    (fun m =>
      let m := m.updCtx slot fun x => { x with bm := { x.bm with cause := cause } }
      match bmOf m x.r.job with
      | some b => if cause = 0 then restoreBm slot b m else m
      | none => m) m

/-- BMRESTORE. -/
def execBmrestore (f : Fn) (slot : BitVec 6) (step : BitVec 32) (s : State) : Host.Outcome State Fault Refusal :=
  liftW (some f) (bmRestore f slot.toNat step) s

/-! Deposits -/

/-- DEPOSIT_COMMIT: every body write of the job's deposit is acknowledged and the new header is written (13 R445). -/
def depositCommit (job : BitVec 16) (m : Module) : Module :=
  match bmOf m job, jobCtx m job with
  | some b, some slot =>
    match b.dep with
    | none => m
    | some r =>
      if r.left ≠ 0 then m
      else
        let m := r.head.foldl (fun m f => request f m) (updBm job (fun b => { b with dep := none }) m)
        m.updCtx slot fun x =>
          { x with dep := { x.dep with slotA := if r.b then x.dep.slotA else 2, slotB := if r.b then 2 else x.dep.slotB,
                                       newestB := r.b, stepNew := b.step, abandoned := false } }
  | _, _ => m

/-- DEPOSIT_COMMIT. -/
def execDepositCommit (job : BitVec 16) (s : State) : Host.Outcome State Fault Refusal := liftL (depositCommit job) s

/-- A deposit region (R460): by the bound function, whole frames of the partition, an even count; 0 releases it. -/
def dephold (f : Fn) (p : Nat) (depmod job : BitVec 16) (first count : Nat) (m : Module) : Module :=
  if !(isPart m p) || !(seesPart m f.val p) then m
  else if !(isBound m f.val p) || count % 2 == 1 ||
      !((upTo count).all fun i => softFrame (first + i) && partOfDie m (dieOfFrame (first + i)) == p) then
    refused (some f) (atPart p) (partOff p 0x48) count m
  else
    gated 10 (partOff p 0x48) f (fun m => m.updPart p fun q =>
      if count = 0 then { q with depmod := 0, depjob := 0, depFirst := 0, depCount := 0 }
      else { q with depmod := depmod, depjob := job, depFirst := first, depCount := count }) m

/-- DEPHOLD_WRITE. -/
def execDepholdWrite (f : Fn) (part : BitVec 3) (depmod job : BitVec 16) (first count : BitVec 28) (s : State) :
    Host.Outcome State Fault Refusal :=
  liftW (some f) (dephold f part.toNat depmod job first.toNat count.toNat) s

/-- Entry i of RECPART; an entry that holds 0 names no module. -/
def partner (v : Word) (i : Nat) : BitVec 16 := v.extractLsb' (16 * i) 16

/-- The flags that RECPART and DEPCFG give (R465, R466), with event 0x070A when CORRELATED or NOHOLDER sets. -/
def depFlags (slot : Nat) (m : Module) : Module :=
  let d := (m.ctx slot).dep
  let use := fun (i : Nat) => decide (partner d.partners i ≠ 0) && !(sameFeed m (partner d.partners i))
  let corr := decide (d.partners ≠ 0) && !((upTo 4).any use)
  let second := decide (d.holder2 ≠ 0) && !(sameFeed m d.holder2) && feedAt m d.holder2 != feedAt m d.holder
  let same := decide (d.k ≠ 0) && sameFeed m d.holder
  let noh := corr && decide (d.k ≠ 0) && !second
  let m := m.updCtx slot fun x =>
    { x with dep := { x.dep with
        usable := BitVec.ofNat 4 ((upTo 4).foldl (fun a i => if use i then a + 2 ^ i else a) 0),
        correlated := corr, samefeed := same, noholder := noh } }
  if (corr && !d.correlated) || (noh && !d.noholder) then
    led 0x070A sevWarn (atCtx m slot) [Config.ledgerNo 0x070A ((if corr then 64 else 0) + (if noh then 128 else 0))] m
  else m

/-! Fills (R470 to R472) -/

/-- The header of a deposit slot at a frame names a committed deposit of a step (Table 14.1). -/
def slotHolds (m : Module) (p fr step : Nat) : Bool :=
  let w := fun (lo n : Nat) => leNat ((upTo n).map fun i => m.byte (paMain fr (lo + i)))
  let q := m.part p
  let pages := w 28 4
  let sched := w 24 4
  let at64 := fun (n : Nat) => (n + 65535) / 65536 * 65536
  let body := fun (lo n : Nat) => (upTo n).map fun i => m.byte (paMain fr (lo + i))
  let o1 := 65536 + at64 sched
  let o2 := o1 + at64 (16 * pages)
  decide (128 ≤ w 7 1) && w 14 2 == q.depmod.toNat && w 12 2 == q.depjob.toNat && w 16 8 == step &&
    decide (o2 + 65536 * pages ≤ q.depCount / 2 * 65536) &&
    w 40 64 == (Config.sha512 (body 65536 sched ++ body o1 (16 * pages) ++ body o2 (65536 * pages))).toNat

/-- The partition holds a committed deposit of a step of a job. -/
def holdsStep (m : Module) (p : Nat) (job : BitVec 16) (step : Nat) : Bool :=
  let q := m.part p
  decide (q.depCount ≠ 0) && q.depjob == job &&
    (slotHolds m p q.depFirst step || slotHolds m p (q.depFirst + q.depCount / 2) step)

/-- A partner that has been declared dead, and so is being replaced, shares this module's feed (R471). -/
def lostShares (m : Module) (job : BitVec 16) : Bool :=
  match jobCtx m job with
  | none => false
  | some slot =>
    (upTo 4).any fun i =>
      let n := partner (m.ctx slot).dep.partners i
      decide (n ≠ 0) && (m.lease.dead.any fun d => d.1 == n) && sameFeed m n

/-- Why a fill is refused: the CAUSE of FILLSTAT. -/
def fillCause (m : Module) (p : Nat) (job : BitVec 16) (kind step : Nat) : Nat :=
  match kind with
  | 0 =>
    if lostShares m job then 1
    else
      match bmOf m job with
      | some b => if b.lost || b.mixed || b.step != step then 2 else 0
      | none => 2
  | 1 => if holdsStep m p job step then 0 else 3
  | _ => 0

/-- What a fill sends (R470): pages with their virtual page numbers, and the schedule image. A replica sends its bookmark, a
holder the deposit slot of the step; a module that restores its own deposit sends nothing (log 103). -/
def fillData (m : Module) (p : Nat) (job : BitVec 16) (kind step : Nat) : List (Nat × List (Byte × Bool)) × List Byte :=
  match kind with
  | 0 =>
    match jobCtx m job, bmOf m job with
    | some slot, some b => ((bmPages m slot b).map fun e => (e.1, frameMarked m e.2), imageOf b)
    | _, _ => ([], [])
  | 1 =>
    let q := m.part p
    let fr := if slotHolds m p q.depFirst step then q.depFirst else q.depFirst + q.depCount / 2
    let bytes := fun (lo n : Nat) => (upTo n).map fun i => m.byte (paMain fr (lo + i))
    let at64 := fun (n : Nat) => (n + 65535) / 65536 * 65536
    let sched := leNat (bytes 24 4)
    let pages := leNat (bytes 28 4)
    let o1 := 65536 + at64 sched
    let o2 := o1 + at64 (16 * pages)
    ((upTo pages).map fun i =>
      (leNat (bytes (o1 + 16 * i) 8), (upTo 65536).map fun j =>
        (m.byte (paMain fr (o2 + 65536 * i + j)), m.isBad (paMain fr (o2 + 65536 * i + j)))), bytes 65536 sched)
  | _ => ([], [])

/-- The writes of a fill; no context issues them. -/
def fillFlights (m : Module) (p uid : Nat) (spare job : BitVec 16) (kind step : Nat) : List Flight :=
  let d := fillData m p job kind step
  let pages := d.1.flatMap fun e =>
    libWrites m 64 job 0 spare (fun _ => .page) (fun o => BitVec.ofNat 48 (e.1 * 65536 + o)) e.2
  let img := libWrites m 64 job 0 spare (fun o => .image step o d.2.length) (fun _ => 0) (clean d.2)
  let none_ : Txn := { baseTx m 64 .write spare 0 with job := job, lib := .image step 0 0 }
  let img := if img.isEmpty && kind != 2 then [none_] else img
  (pages ++ img).map (flightFor m 64 libCore (.fill p uid))

/-- FILLCMD: by the bound function; KIND 3 is no source kind. -/
def fillCmd (f : Fn) (p : Nat) (spare job : BitVec 16) (kind step : Nat) (m : Module) : Module :=
  if !(isPart m p) || !(seesPart m f.val p) then m
  else if !(isBound m f.val p) || kind == 3 then refused (some f) (atPart p) (partOff p 0x58) step m
  else
    let c := fillCause m p job kind step
    if c ≠ 0 then m.updPart p fun q => { q with fillCause := c, fillSt := 0 }
    else
      let u := newUid m
      let fs := fillFlights m p u.1 spare job kind step
      fs.foldl (fun m f => request f m) (u.2.updPart p fun q =>
        { q with fillSpare := spare, fillJob := job, fillKind := kind, fillStep := step, fillPages := 0,
                 fillCause := 0, fillSt := 1, fillUid := u.1, fillLeft := fs.length })

/-- FILLCMD. -/
def execFillcmd (f : Fn) (part : BitVec 3) (spare job : BitVec 16) (kind : BitVec 2) (step : BitVec 32) (s : State) :
    Host.Outcome State Fault Refusal :=
  liftW (some f) (fillCmd f part.toNat spare job kind.toNat step.toNat) s

/-- Vector 3 at the function bound to a partition (17 R529). -/
def irq3 (p : Nat) (m : Module) : Module :=
  match boundFn m p with
  | some g => irq g 3 m
  | none => m

/-- The pages a fill sends: those of the bookmark's regions, or those of a held slot. -/
def fillCount (m : Module) (p : Nat) : Nat :=
  let q := m.part p
  let w := fun (fr : Nat) => leNat ((upTo 4).map fun i => m.byte (paMain fr (28 + i)))
  if q.fillKind = 1 then
    (if slotHolds m p q.depFirst q.fillStep then w q.depFirst else w (q.depFirst + q.depCount / 2))
  else
    match jobCtx m q.fillJob, bmOf m q.fillJob with
    | some slot, some b => (regionPages m slot b.regions).length
    | _, _ => 0

/-- FILL_END: collation begins (R472). -/
def fillEnd (p : Nat) (m : Module) : Module :=
  if (m.part p).fillSt ≠ 1 ∨ (m.part p).fillLeft ≠ 0 then m
  else irq3 p (m.updPart p fun q => { q with fillPages := fillCount m p, fillSt := 2 })

/-- FILL_END. -/
def execFillEnd (part : BitVec 3) (s : State) : Host.Outcome State Fault Refusal := liftL (fillEnd part.toNat) s

/-! Shadows (R480 to R483) -/

/-- SHADOWCFG: MODULE and ROLE, or ADMIT, which counts only after eight clean steps. -/
def writeShadow (w : By) (slot : Nat) (v : Word) (m : Module) : Module :=
  if bit v 2 then
    onGated 11 w slot offShadowcfg v.toNat (fun x => decide (8 ≤ x.shadow.clean) && decide (x.shadow.role ≠ 0))
      (fun m => m.updCtx slot fun x => { x with shadow := { x.shadow with admitted := true } }) m
  else
    onGated 11 w slot offShadowcfg v.toNat (fun _ => decide (field v 0 2 ≠ 3))
      (fun m => m.updCtx slot fun x =>
        { x with shadow := { modnum := v.extractLsb' 48 16, role := field v 0 2, admitted := false, clean := 0,
                             failStep := x.shadow.failStep } }) m

/-- SHADOWCFG as it reads, with ADMIT set. -/
def admitWord (x : Ctx) : Word := BitVec.ofNat 64 (x.shadow.modnum.toNat * 2 ^ 48 + 4 + x.shadow.role)

/-- SHADOW_ADMIT. -/
def execShadowAdmit (f : Fn) (slot : BitVec 6) (s : State) : Host.Outcome State Fault Refusal :=
  liftW (some f) (fun m => writeShadow (some f) slot.toNat (admitWord (m.ctx slot.toNat)) m) s

end Sys2Proof.Machine
end

