-- ==== Sys2Proof/Machine/Loan.lean ====
section
/-! DEFINITION. Partitions and loans (15 R484 to R493). -/

namespace Sys2Proof.Machine

/-! Layout and binding -/

/-- The partition index a layout gives die d. -/
def layoutAt (v : BitVec 24) (d : Nat) : Nat := v.toNat / 2 ^ (3 * d) % 8

/-- The dies of index p form a group of 01 R29 whose lowest die is p. -/
def groupOk (v : BitVec 24) (p : Nat) : Bool :=
  let g := (upTo 8).filter fun d => layoutAt v d == p
  g == [] || g == [p] || (p % 2 == 0 && g == [p, p + 1]) || (p % 4 == 0 && g == [p, p + 1, p + 2, p + 3]) ||
    g == [0, 1, 2, 3, 4, 5, 6, 7] && p == 0

/-- A layout that R484 allows. -/
def layoutOk (v : BitVec 24) : Bool := (upTo 8).all (groupOk v)

/-- The partitions that a new layout changes (R485). -/
def changedParts (m : Module) (v : BitVec 24) : List Nat :=
  (((upTo 8).filter fun d => partOfDie m d != layoutAt v d).flatMap fun d => [partOfDie m d, layoutAt v d]).dedup

/-- PARTLAYOUT; a partition that the write dissolves leaves nothing behind. -/
def setLayout (f : Fn) (v : BitVec 24) (m : Module) : Module :=
  physOnly f (fun m =>
    let ch := changedParts m v
    if !(layoutOk v) || ch.any (fun p => (m.part p).st != .closed || hasCtx m p) then
      refused (some f) atModule 0x28 v.toNat m
    else
      ch.foldl (fun m p => if layoutAt v p == p then m else m.setPart p (Part.init 15)) { m with layout := v }) m

/-- PARTLAYOUT_WRITE. -/
def execPartlayoutWrite (f : Fn) (v : BitVec 24) (s : State) : Host.Outcome State Fault Refusal :=
  liftW (some f) (setLayout f v) s

/-- PARTBIND (R486; catalogue bit 1 for a virtual function). -/
def setBind (f : Fn) (p : Nat) (v : BitVec 4) (m : Module) : Module :=
  let n := v.toNat
  let put := fun (m : Module) =>
    let taken := 1 ≤ n && n ≤ 8 && (upTo 8).any fun q => q != p && isBound m n q
    if (m.part p).st ≠ .closed ∨ (8 < n ∧ n ≠ 15) ∨ taken = true then refused (some f) (atPart p) (partOff p 0) n m
    else m.updPart p fun q => { q with bind := v }
  physPart f p 0 n (if 1 ≤ n ∧ n ≤ 8 then gated 1 (partOff p 0) f put else put) m

/-- PARTBIND_WRITE. -/
def execPartbindWrite (f : Fn) (part : BitVec 3) (v : BitVec 4) (s : State) : Host.Outcome State Fault Refusal :=
  liftW (some f) (setBind f part.toNat v) s

/-! Opening -/

/-- An open fails with a code of LOANSTAT (Table 18.6). -/
def openFails (p refuse code : Nat) (id : Word) (m : Module) : Module :=
  led 0x0802 sevWarn (atPart p) [id.toNat, refuse, code]
    (m.updPart p fun q => { q with refuse := refuse, metercode := code })

/-- Register offset of LOANCMD. -/
def offLoancmd (p : Nat) : Nat := partOff p 0x30

/-- The word of a LOANCMD write. -/
def loanWord (cmd : Nat) (role : BitVec 2) (secure : Bool) : Nat := cmd + 4 * role.toNat + (if secure then 16 else 0)

/-- The LOANCMD write is let through by the catalogue (17 Table 17.10). -/
def loanGates (p : Nat) (role : BitVec 2) (secure : Bool) (k : Module → Module) (m : Module) : Module :=
  let k := if secure then gated 12 (offLoancmd p) 0 k else k
  (if role = 1 then gated 13 (offLoancmd p) 0 k else k) m

/-- LOANCMD OPEN, step 1 of R489: the record to be sent, if the open begins. -/
def loanOpen (p : Nat) (role : BitVec 2) (secure : Bool) (m : Module) : Module :=
  if !(isPart m p) then m
  else if 2 ≤ role.toNat ∨ !m.boot.ready then
    refused (some 0) (atPart p) (offLoancmd p) (loanWord 1 role secure) m
  else
    loanGates p role secure (fun m =>
      let q := m.part p
      if !m.boot.identity then openFails p 3 0 q.loanid m
      else if q.st ≠ .closed then openFails p 4 0 q.loanid m
      else
        let m := m.updPart p fun q => { q with role := role, secure := secure, openAt := m.now, closeReq := false }
        let r := formRec m p true 0 q.loanid q.tenant
        setLoan p .opening (m.updPart p fun q => { q with openRec := some r })) m

/-- LOANCMD OPEN, with the record sent over the meter link when the open begins. -/
def openLoan (f : Fn) (p : Nat) (role : BitVec 2) (secure : Bool) (s : State) : State :=
  if s.mod.lib && reaches s.mod (some f) then
    let m := physPart f p 0x30 (loanWord 1 role secure) (loanOpen p role secure) s.mod
    match (m.part p).openRec with
    | some r =>
      if (m.part p).st = .opening ∧ (s.mod.part p).st = .closed then
        { s with mod := m, toMeter := s.toMeter ++ [.record r] }
      else { s with mod := m }
    | none => { s with mod := m }
  else s

/-- LOAN_OPEN. -/
def execLoanOpen (f : Fn) (part : BitVec 3) (role : BitVec 2) (secure : Bool) (s : State) :
    Host.Outcome State Fault Refusal := .next (openLoan f part.toNat role secure s)

/-- The partition whose open record a meter answer answers. -/
def openingOf (m : Module) (r : LoanRec) : Option Nat :=
  (upTo 8).find? fun p => (m.part p).st == .opening && (m.part p).openRec == some r

/-- Steps 3 to 5 of an open: keys, cleared frames, OPEN; a CLOSE written meanwhile follows at once (R491). -/
def loanOpened (p : Nat) (c : Cosigned) (m : Module) : Module :=
  let m := m.updPart p fun q =>
    { q with keyNo := some m.att.transport, loanrec := some c, openedAt := m.now, refuse := 0, metercode := 0 }
  let m := { m with att := { m.att with transport := m.att.transport + 1 } }
  let m := attest (coDigest c) ((diesOf m p).foldl (fun m d => clearDie d m) m)
  let m := led 0x0801 sevInfo (atPart p) [c.lr.loanid.toNat, c.lr.tenant.toNat, c.mseq] (setLoan p .open_ m)
  if m.lease.st = .fenced then closeBegin p 2 m
  else if (m.part p).closeReq then closeBegin p 0 m else m

/-- METER_OPEN_ANSWER: the meter's answer to an open at the front of the link. -/
def meterOpenAnswer (s : State) : State :=
  match s.fromMeter with
  | .cosigned c :: q =>
    if !c.lr.isOpen then s
    else
      match openingOf s.mod c.lr with
      | some p => sendCloses { s with mod := loanOpened p c s.mod, fromMeter := q }
      | none =>
        { s with mod := led 0x0806 sevWarn (atPart c.lr.part.toNat) [c.lr.loanid.toNat, c.mseq] s.mod, fromMeter := q }
  | .refused r k :: q =>
    if !r.isOpen then s
    else
      match openingOf s.mod r with
      | some p =>
        let m := s.mod.updPart p fun x => { x with openRec := none, closeReq := false }
        { s with mod := setLoan p .closed (openFails p 2 k r.loanid m), fromMeter := q }
      | none => { s with fromMeter := q }
  | _ => s

/-- METER_OPEN_ANSWER. -/
def execMeterOpenAnswer (s : State) : Host.Outcome State Fault Refusal :=
  .next (if s.mod.lib then meterOpenAnswer s else s)

/-- METER_TIMEOUT: no answer within 100 ms (R489). -/
def meterTimeout (p : Nat) (m : Module) : Module :=
  let q := m.part p
  match q.openRec with
  | none => m
  | some r =>
    if q.st ≠ .opening ∨ m.now < q.openAt + Config.meterTimeoutNs then m
    else
      let m := openFails p 1 0 r.loanid (m.updPart p fun q => { q with closecause := 4, closeReq := false })
      setClose p (formRec m p false 4 r.loanid r.tenant) (setLoan p .closing m)

/-- METER_TIMEOUT. -/
def execMeterTimeout (part : BitVec 3) (s : State) : Host.Outcome State Fault Refusal :=
  liftCL (meterTimeout part.toNat) s

/-! Closing -/

/-- LOANCMD CLOSE (R490, R491): in OPEN at once, in OPENING when the open ends; ignored in CLOSING and CLOSED. -/
def loanClose (f : Fn) (p : Nat) (m : Module) : Module :=
  physPart f p 0x30 2 (fun m =>
    match (m.part p).st with
    | .open_ => closeBegin p 0 m
    | .opening => m.updPart p fun q => { q with closeReq := true }
    | _ => refused (some 0) (atPart p) (offLoancmd p) 2 m) m

/-- LOAN_CLOSE. -/
def execLoanClose (f : Fn) (part : BitVec 3) (s : State) : Host.Outcome State Fault Refusal :=
  liftCL (fun m => if reaches m (some f) then loanClose f part.toNat m else m) s

/-- The close of a loan is co-signed (R490 step 5, R501): LOANREC, the attestation log, CLOSED; the IDE stream of its
function ends (17 R531). -/
def closed (p : Nat) (c : Cosigned) (m : Module) : Module :=
  let was := (m.part p).st
  let m := attest (coDigest c) (m.updPart p fun q => { q with loanrec := some c, closeRec := none })
  let m := led 0x0804 sevInfo (atPart p)
    [c.lr.loanid.toNat, c.mseq, (if c.rep then 16 else 0) + (if c.notopen then 1 else 0)] m
  if was = .closing then
    let m := match boundFn m p with
      | some g => m.updFunc g fun x => { x with ide := false }
      | none => m
    setLoan p .closed (m.updPart p fun q => { q with openRec := none, secure := false, role := 0 })
  else m

/-- METER_CLOSE_COSIGN: the meter's answer to a close at the front of the link; one that answers a resent record, or
refuses, changes nothing. -/
def meterCloseCosign (s : State) : State :=
  match s.fromMeter with
  | .cosigned c :: q =>
    let p := c.lr.part.toNat
    if c.lr.isOpen then s
    else if ((s.mod.part p).closeRec.map (·.loanid)) = some c.lr.loanid then
      { s with mod := closed p c s.mod, fromMeter := q }
    else { s with fromMeter := q }
  | .refused r _ :: q => if r.isOpen then s else { s with fromMeter := q }
  | _ => s

/-- METER_CLOSE_COSIGN. -/
def execMeterCloseCosign (s : State) : Host.Outcome State Fault Refusal :=
  .next (if s.mod.lib then meterCloseCosign s else s)

/-- CLOSE_RESEND: every 100 ms (R490). -/
def execCloseResend (part : BitVec 3) (s : State) : Host.Outcome State Fault Refusal :=
  liftCL (fun m =>
    let q := m.part part.toNat
    if q.closeRec.isSome ∧ q.closeSent ≠ 0 ∧ q.closeSent + Config.meterTimeoutNs ≤ m.now + 1 then
      m.updPart part.toNat fun q => { q with closeSent := 0 }
    else m) s

/-- CLOSE_DELAY_LEDGER: one entry per second of delay (R490). -/
def execCloseDelayLedger (part : BitVec 3) (s : State) : Host.Outcome State Fault Refusal :=
  liftL (fun m =>
    let p := part.toNat
    let q := m.part p
    match q.closeRec with
    | some r =>
      if q.closeAt + (q.closeLogged + 1) * Config.closeLedgerNs ≤ m.now then
        led 0x0805 sevWarn (atPart p) [r.loanid.toNat, q.closeLogged + 1]
          (m.updPart p fun q => { q with closeLogged := q.closeLogged + 1 })
      else m
    | none => m) s

/-! Restart (R492) -/

/-- Send a close for a loan that the meter still holds, with the fields of its open record. -/
def restartClose (cause : Nat) (c : Cosigned) (m : Module) : Module :=
  let p := c.lr.part.toNat
  let r := formRec m p false cause c.lr.loanid c.lr.tenant
  let r : LoanRec := { r with dies := c.lr.dies, role := c.lr.role, secure := c.lr.secure }
  setClose p { r with libsig := libSign (lrDigest r) } m

/-- RESTART_LOAN_CLOSE: the Librarian asks for the list, then sends a close for each. -/
def restartLoans (s : State) : State :=
  if !s.mod.boot.restartClose then s
  else
    match s.fromMeter with
    | .list cs :: q =>
      let cause := if s.mod.boot.rstTrig = 6 then 3 else 1
      let m := cs.foldl (fun m c => restartClose cause c m) s.mod
      sendCloses { s with mod := { m with boot := { m.boot with restartClose := false } }, fromMeter := q }
    | _ => if s.toMeter.contains .list then s else { s with toMeter := s.toMeter ++ [.list] }

/-- RESTART_LOAN_CLOSE. -/
def execRestartLoanClose (s : State) : Host.Outcome State Fault Refusal :=
  .next (if s.mod.lib then restartLoans s else s)

end Sys2Proof.Machine
end

