-- ==== Sys2Proof/Machine/Clocks.lean ====
section
/-! DEFINITION. Core clocks (01 R24, R26, R28), the time they run below nominal, and what the cores did since the last
decision of the power manager (R25). -/

namespace Sys2Proof.Machine

/-- Lowest and nominal multiplier of CORECLK (R24). -/
def clkMin : Nat := 10
def clkMax : Nat := 40

/-- Time below nominal accrues to the partitions with a lowered core (R28, PARTTHROT). -/
def accrueThrot (m : Module) : Module :=
  let dt := m.now - m.pm.throtAt
  let low := ((m.cores.filter fun e => decide (e.2.clk < clkMax)).map fun e => partOfCore m e.1).dedup
  let m := low.foldl (fun m p => m.updPart p fun q => { q with throt := q.throt + dt }) m
  { m with pm := { m.pm with throtAt := m.now } }

/-- A thread that issues nothing now. -/
def Thread.stalled (x : Thread) : Bool := !x.running || x.load.isSome || x.held.isSome || x.stall != .none

/-- Note which cores run a context, and which have a thread that is not stalled. -/
def noteActivity (m : Module) : Module :=
  let ran := (m.ctxs.filter fun e => e.2.state == .running).flatMap fun e => coresOf e.2.r.cores
  let awake := (m.threads.filter fun e => !e.2.stalled).map fun e => e.1 / 256
  { m with pm := { m.pm with ran := ran.foldl NatSet.add m.pm.ran, awake := awake.foldl NatSet.add m.pm.awake } }

end Sys2Proof.Machine
end

