-- ==== Sys2Proof/Machine/Flights.lean ====
section
/-! DEFINITION. What the issuer sees when a fabric transaction is settled (07 R241 to R246), and atomic
operations at the place of their word (03 R94, 04 Table 4.5). -/

namespace Sys2Proof.Machine

/-- A ledger entry for which the spec states neither code nor severity nor data (03 Table 3.5): free values. -/
def ledOpen (pl : Place) (m : Module) : Module :=
  let w := fun (i : Nat) => (Config.freeWord (m.draw + i)).toNat
  led (w 0 % 65536) (w 0 / 65536 % 4) pl [w 1, w 2, w 3, w 4] { m with draw := m.draw + 5 }

/-! Atomic operations -/

/-- Bytes of the word of an atomic operation. -/
def atomSize (fn : Nat) : Nat := if fn % 2 = 1 then 8 else 4

/-- The value an atomic operation writes, if it writes one: add, swap, compare with d and swap. -/
def atomNew (fn old : Nat) (b d : Word) : Option Nat :=
  let md := 2 ^ (8 * atomSize fn)
  match fn / 2 with
  | 0 => some ((old + b.toNat) % md)
  | 1 => some (b.toNat % md)
  | _ => if old = d.toNat % md then some (b.toNat % md) else none

/-- Perform an atomic operation on the word at given keys: its old value with its mark. A poisoned word is
left as it is (R94); `mark`: the operands carry one, which the written word then has. -/
def atomAt (fn : Nat) (b d : Word) (mark : Bool) (pas : List Nat) (m : Module) : Module × Nat × Bool :=
  let r := readPas pas m
  let old := bytesNat r.2
  if anyBad r.2 then (r.1, old, true)
  else
    match atomNew fn old b d with
    | some v => (putPas byContext (pas.zip (leBytes (atomSize fn) v)) mark r.1, old, false)
    | none => (r.1, old, false)

/-- The bytes an atomic operation on the word at given keys would write. -/
def atomItems (fn : Nat) (b d : Word) (pas : List Nat) (m : Module) : List (Nat × Byte) :=
  match atomNew fn (leNat (pas.map m.byte)) b d with
  | some v => pas.zip (leBytes (atomSize fn) v)
  | none => []

/-! Settling -/

/-- An access of n bytes that is not aligned to its size is performed as separate byte accesses (03 R93). -/
def misaligned (n : Nat) (c : Word) : Bool := c.toNat % n != 0

/-- Byte accesses of a remote load: one, or one per byte when it is misaligned. -/
def loadParts (l : LoadWait) : Nat :=
  match l.op with
  | .ld n _ => if misaligned n l.call then n else 1
  | .atom .. => 1

/-- All ones, which a timeout supplies (Table 7.5). -/
def lostValue : Word × Bool := (BitVec.allOnes 64, false)

/-- One byte access of a misaligned remote load is settled; with the last one the value is there. -/
def partGot (l : LoadWait) (call : Word) (b : Byte) (bad lost : Bool) : LoadWait :=
  let got := l.got ++ [((call - l.call).toNat, b, bad)]
  let l := { l with got := got, timedOut := l.timedOut || lost }
  if got.length < loadParts l then l
  else
    let v := (got.map fun e => e.2.1.toNat * 2 ^ (8 * e.1)).sum
    { l with value := some (if l.timedOut then lostValue else (BitVec.ofNat 64 v, got.any fun e => e.2.2)) }

/-- Data of a remote load or atomic operation is there for its thread (R133). -/
def loadGot (t : ThreadNo) (call : Word) (data : List (Byte × Bool)) (m : Module) : Module :=
  let take := fun (l : LoadWait) =>
    if loadParts l = 1 then { l with value := some (BitVec.ofNat 64 (bytesNat data), anyBad data) }
    else partGot l call (BitVec.ofNat 8 (bytesNat data)) (anyBad data) false
  m.updThread t fun x => { x with load := x.load.map take }

/-- A timeout supplies the value of a remote load or atomic operation (Table 7.5). -/
def loadLost (t : ThreadNo) (call : Word) (m : Module) : Module :=
  let take := fun (l : LoadWait) =>
    if loadParts l = 1 then { l with value := some lostValue, timedOut := true } else partGot l call 0 false true
  m.updThread t fun x => { x with load := x.load.map take }

/-- The outstanding work of an issuer after one of its transactions is settled; `ok`: not by a timeout. -/
def whoSettled (slot : Nat) (w : Who) (ok : Bool) (m : Module) : Module :=
  match w with
  | .te core uid => teSettled core uid ok m
  | .chain core uid => chainSettled core uid ok m
  | .notice n =>
    settle slot (if ok then m.updCtx slot fun x =>
      { x with sched := { x.sched with notices := x.sched.notices.filter fun e => e.1 != n.toNat } } else m)
  | .dep job uid => if ok then depAcked job uid m else m
  | .fill p uid => fillSettled p uid m
  | .copy => m
  | _ => settle slot m

/-- The context that issued a transaction is still on the module and is not being torn down. -/
def issuerLive (m : Module) (f : Flight) : Bool :=
  (m.ctx f.slot).gen.toNat == f.gen && (m.ctx f.slot).live

/-- A write of a fill or a copy to a shadow, which no context issued. -/
def Who.fills (w : Who) : Bool :=
  match w with
  | .fill _ _ => true
  | .copy => true
  | _ => false

/-- What the issuer sees of an acknowledgement: the context progresses (R249), except by a deposit (14 R463). -/
def issuerAcked (f : Flight) (m : Module) : Module :=
  if f.who.fills then whoSettled f.slot f.who true m
  else if issuerLive m f then
    match f.who with
    | .dep _ _ => whoSettled f.slot f.who true m
    | _ => whoSettled f.slot f.who true (progress f.slot m)
  else m

/-- A transaction is acknowledged: its tag is released. -/
def flightAcked (f : Flight) (m : Module) : Module := issuerAcked f (dropFlight f m)

/-- Bytes of which nothing is known. -/
def freeBytes (n : Nat) (m : Module) : Module × List (Byte × Bool) :=
  ({ m with draw := m.draw + (n + 7) / 8 },
   (upTo n).map fun i => ((Config.freeWord (m.draw + i / 8)).extractLsb' (i % 8 * 8) 8, false))

/-- Bytes of an engine operand have arrived. -/
def operandGot (core : Nat) (e : Engine) (call : Word) (data : List (Byte × Bool)) (m : Module) : Module :=
  m.updCore core fun c => { c with rbuf := c.rbuf ++ [{ e := e, call := call, data := data }] }

/-- What the issuer sees of a timeout: REMTMO counts; a load reads all ones; an engine operand whose bytes never came
has open values, and the descriptor that the TE starts counts it (R244, Table 7.5). -/
def issuerTimedOut (f : Flight) (m : Module) : Module :=
  let mine := (m.ctx f.slot).gen.toNat == f.gen && (m.ctx f.slot).state != .free
  if f.who.fills then whoSettled f.slot f.who false m
  else if !mine then m
  else
    let m := m.updCtx f.slot fun x => { x with remtmo := BitVec.ofNat 32 (satAdd 32 x.remtmo.toNat 1) }
    if (m.ctx f.slot).state = .teardown then m.updCtx f.slot fun x => { x with tdTmo := x.tdTmo + 1 }
    else
      match f.who with
      | .load t => loadLost t (txCall f.x) m
      | .eng core e call =>
        let r := freeBytes f.x.len m
        (operandGot core e call r.2 r.1).updCore core fun c =>
          { c with teTmo := if e = .te then satAdd 32 c.teTmo 1 else c.teTmo }
      | w => whoSettled f.slot w false m

/-- A transaction times out. -/
def flightTimedOut (f : Flight) (m : Module) : Module := issuerTimedOut f (dropFlight f m)

/-- Bytes of a call number lie in a run. -/
def inSpan (c : Word) (s : Span) : Bool := decide ((c - s.1).toNat < s.2)

/-- The command of an engine that asked for the operand bytes at a call number, and what drops it: the running ME command; a
chain that reads there, else the chain that starts; the TE command that starts. -/
def engCmd (m : Module) (core : Nat) (e : Engine) (call : Word) : Option (Iss × (Module → Module)) :=
  let c := m.core core
  match e with
  | .me => c.meRun.map fun r => (r.cmd.iss, meIdle core)
  | .ve =>
    match c.veQ.head?.filter fun k => inSpan call (k.desc, 192) with
    | some k => some (k.iss, popChain core)
    | none =>
      match c.chains.find? fun r => (chainReads core r.cmd r.d).any (inSpan call) with
      | some r => some (r.cmd.iss, dropChain core r.uid)
      | none => none
  | .te => c.teQ.head?.map fun k => (k.iss, teFail core k none)

/-- The thread whose instruction, command or descriptor a transaction carries out (03 R115), and what becomes of that work when
the transaction is refused. -/
def issuerWork (m : Module) (f : Flight) : BitVec 17 × (Module → Module) :=
  match f.who with
  | .store t => (srcOf t, id)
  | .load t => (srcOf t, fun m => loadOver f.slot t (m.updThread t fun x => { x with load := none }))
  | .te core uid => (((findTe m core uid).map fun r => srcOf r.cmd.iss.t).getD 0, dropTe core uid)
  | .chain core uid =>
    ((((m.core core).chains.find? fun r => r.uid == uid).map fun r => srcOf r.cmd.iss.t).getD 0, dropChain core uid)
  | .eng core e call =>
    match engCmd m core e call with
    | some k => (srcOf k.1.t, k.2)
    | none => (0, id)
  | _ => (0, id)

/-- A transaction is refused: its issuer takes a page-fault, unless it is in teardown (03 R101, R103). The Librarian's own
traffic for notices, deposits and fills faults no context. -/
def flightRefused (f : Flight) (cause : NackCause) (m : Module) : Module :=
  let m := dropFlight f m
  if f.who.fills then whoSettled f.slot f.who false m
  else if !(issuerLive m f) || f.who.quiet then m
  else
    let sub := match cause with
      | .noTarget => PageSub.noTarget
      | .remoteDenied => PageSub.remoteDenied
    let w := issuerWork m f
    w.2 (ctxFault f.slot (pageFault sub (txCall f.x) w.1) m)

/-- Data answering a READ or an ATOMIC reaches its issuer (R133, R239). -/
def flightData (f : Flight) (data : List (Byte × Bool)) (m : Module) : Module :=
  let m := dropFlight f m
  if !(issuerLive m f) then m
  else
    let m := progress f.slot m
    match f.who with
    | .load t => loadGot t (txCall f.x) data m
    | .eng core e call => operandGot core e call data m
    | .te core uid => teGot core uid (txCall f.x) data m
    | w => whoSettled f.slot w true m

/-- TRANSACTION_TIMEOUT: 2 ms after the transaction left the port (R243). -/
def execTransactionTimeout (tag : BitVec 16) (s : State) : Host.Outcome State Fault Refusal :=
  lift (fun m =>
    match m.fab.flights.find? fun f => f.x.tag == tag with
    | none => m
    | some f =>
      match f.sent with
      | some t => if t + Config.txTimeout ≤ m.now then flightTimedOut f m else m
      | none => m) s

end Sys2Proof.Machine
end

