-- ==== Sys2Proof/Machine/GlobalNorm.lean ====
section
/-! DEFINITION. The global-norm reduction (12 R409 to R418): the partial, its launch, and what the sum does. -/

namespace Sys2Proof.Machine

/-- A core number that no context owns: the Librarian's own accesses name no tile registers. -/
def noCore : Nat := 512

/-- Form the partial of the present step: a sum in no stated order, times GNSCALE (R410). -/
def gnFormM (slot : Nat) : EngM Unit := do
  let m ← get
  let g := (m.ctx slot).gn
  let n := g.len + 1
  if !(isLocal m g.area) || 1 < callSpace g.area then stop (.deny (some .badSpace) g.area)
  let bs ← readLocal slot noCore none g.area (4 * n)
  let xs := (upTo n).map fun i => BitVec.ofNat 32 (bytesNat ((bs.drop (4 * i)).take 4))
  let s := sumFree n m.draw xs
  let p := fmul32 s.1 g.scale
  modify fun m =>
    { (m.updCtx slot fun x =>
        { x with gn := { x.gn with part := some (p.1, anyBad bs, x.stepnum.toNat), sent := false, done := false,
                                   late := false, nonfinite := false, skipped := false } }) with
      draw := m.draw + 2 * n }

/-- The Librarian does work on memory of a context: a refused access faults the context (R115) with no
thread; a page that waits for its copy is retried by the next attempt. -/
def runLib {α : Type} (slot : Nat) (w : EngM α) (k : α → Module → Module) (m : Module) : Module :=
  match w.run m with
  | (.ok a, m') => k a m'
  | (.error (.deny sub c), m') => denyFault slot sub c 0 m'
  | (.error (.cow sl ps), _) => waitCow sl ps m
  | (.error (.ub _), m') => undefCtx slot m'
  | (.error (.wait _ _), _) => m

/-- Form the partial, once per step and only with EN set (R409). -/
def gnForm (slot : Nat) (m : Module) : Module :=
  let x := m.ctx slot
  let have_ := match x.gn.part with
    | some p => p.2.2 == x.stepnum.toNat
    | none => x.gn.done && x.gn.step == x.stepnum.toNat
  if !x.gn.en || have_ then m else runLib slot (gnFormM slot) (fun _ m => m) m

/-- The due stamp of the contribution (R412). -/
def gnDue (x : Ctx) (n : Nat) : Nat := x.sched.stept0 + n * x.sched.stepper + x.gn.off

/-- Lowest core of a context. -/
def lowCore (x : Ctx) : Nat := (coresOf x.r.cores).headD 0

/-- The descriptor fields a global-norm contribution carries: a one-element FP32 SUM ALLREDUCE. -/
def gnDesc (x : Ctx) : Desc :=
  { kind := 1, fmts := 5, fmtd := 5, rnd := 0, we := false, wctr := 0, wval := 0, tce := false, tctr := 0,
    ttid := x.gn.ttid, cop := 0, ckind := 0, group := x.gn.group, nrow := 1, src := x.gn.area, dst := x.gn.out,
    nelem := 1, sstride := 0, dstride := 0, tag := 0, shtab := 0 }

/-- GN_LAUNCH: the contribution launches at its due stamp, or at once and LATE (R412). -/
def gnLaunch (slot : Nat) (m : Module) : Module :=
  let x := m.ctx slot
  match x.gn.part with
  | none => m
  | some p =>
    let core := lowCore x
    if x.gn.sent || !x.live || decide (m.islandStamp core < gnDue x p.2.2) then m
    else
      match groupOf m slot x.gn.group with
      | none => m
      | some g =>
        let late := decide (gnDue x p.2.2 < m.islandStamp core)
        let m := if late then
            countEv slot core .te none 1 .late (m.updCtx slot fun x => { x with gn := { x.gn with late := true } })
          else m
        let el : Elem := { code := p.1.toNat, scale := 127, bad := p.2.1, sbad := false }
        let tx := collTx m slot (gnDesc x) g.cser 5 (g.members.getD 0 0) 0 (0, 1) 0 1
          (packetBody 0 5 #[el] 0 1 1)
        let m := request (flightFor m slot core .gn tx) m
        { m.updCtx slot fun x => { x with gn := { x.gn with sent := true } } with
          fab := { m.fab with groups := m.fab.groups.map fun h =>
            if h.slot == slot && h.id == x.gn.group then { h with cser := (h.cser + 1) % 256 } else h } }

/-- κ and NONFINITE for a norm g (Table 12.3). -/
def clipFactor (g gmax : W32) : W32 × Bool :=
  match f32 g with
  | .nan => (0, true)
  | .inf false => (0, true)
  | _ => if gmax = 0 then (one32, false)
    else if !((f32 gmax).lt (f32 g)) then (one32, false)
    else ((fdiv32 gmax g).1, false)

/-- The sum arrives (R414, R416). -/
def gnArrive (slot : Nat) (sum : W32) (bad : Bool) (m : Module) : Module :=
  let x := m.ctx slot
  match x.gn.part with
  | none => m
  | some p =>
    let g := (fsqrt32 sum).1
    let k := clipFactor g x.gn.maxv
    if bad then denyFault slot none x.gn.out 0 m
    else
      let w : EngM Unit := do
        let m ← get
        if !(isLocal m x.gn.out) || 1 < callSpace x.gn.out then stop (.deny (some .badSpace) x.gn.out)
        else writeLocal slot noCore none x.gn.out ((leBytes 4 k.1.toNat).map fun b => wb b false)
      runLib slot w (fun _ m =>
        addCtr slot x.gn.ctr 1 (m.updCtx slot fun x =>
          { x with gn := { x.gn with res := sum ++ g, done := true, step := p.2.2, part := none, sent := false,
                                     nonfinite := k.2 } })) m

/-- GNGO: under OFF, the step number that starts the partial; only the present step has one (R410). -/
def gngo (w : By) (slot : Nat) (step : BitVec 32) (m : Module) : Module :=
  onCtx w slot offGngo step.toNat (fun x => x.sched.mode == 0 && x.stepnum == step) (gnForm slot) m

/-- GNGO. -/
def execGngo (f : Option Fn) (slot : BitVec 6) (step : BitVec 32) (s : State) : Host.Outcome State Fault Refusal :=
  liftW f (gngo f slot.toNat step) s
/-- GN_LAUNCH. -/
def execGnLaunch (slot : BitVec 6) (s : State) : Host.Outcome State Fault Refusal := lift (gnLaunch slot.toNat) s

end Sys2Proof.Machine
end

