-- ==== Sys2Proof/Machine/Editions.lean ====
section
/-! DEFINITION. Editions of weight tensors: the edition table, claims and publications (11 R372 to R379), and the bounds of
the Reserves (R362). -/

namespace Sys2Proof.Machine

/-- The tensor with an index. -/
def Ctx.tensor (x : Ctx) (i : Nat) : Tensor := Sparse.get Tensor.unbound x.tensors i
def updTensor (slot i : Nat) (f : Tensor → Tensor) (m : Module) : Module :=
  m.updCtx slot fun x => { x with tensors := Sparse.upd Tensor.unbound x.tensors i f }

/-- An edition table entry is valid (Table 11.2). -/
def edValid (bs : List (Byte × Bool)) : Bool := !(anyBad bs) && decide (2 ^ 63 ≤ bytesNat (bs.take 8))

/-- Give a tensor the places an entry names. -/
def Tensor.placed (t : Tensor) (bs : List (Byte × Bool)) : Tensor :=
  let w := bytesNat (bs.take 8)
  { t with bound := true, stage := w / 2 ^ 56 % 16, layer := w / 2 ^ 32 % 65536,
           slot0 := BitVec.ofNat 64 (bytesNat ((bs.drop 8).take 8)),
           slot1 := BitVec.ofNat 64 (bytesNat ((bs.drop 16).take 8)) }

/-- Tensors other than i bound to a stage and layer. -/
def bindingsOf (x : Ctx) (i stage layer : Nat) : Nat :=
  (x.tensors.filter fun e => e.1 != i && e.2.bound && e.2.stage == stage && e.2.layer == layer).length

/-- A refused binding: 1 a ninth entry, 2 a pin or claim (event 0x0702). -/
def bindRefused (slot i cause : Nat) (m : Module) : Module := led 0x0702 sevWarn (atCtx m slot) [i, cause] m

/-- Bind a tensor from its entry as read, with the state of R373 from `t`; an invalid entry unbinds it. -/
def bindFrom (slot i : Nat) (t : Tensor) (bs : List (Byte × Bool)) (m : Module) : Module :=
  if !(edValid bs) then updTensor slot i (fun _ => Tensor.unbound) m
  else
    let t' := t.placed bs
    if 8 ≤ bindingsOf (m.ctx slot) i t'.stage t'.layer then
      bindRefused slot i 1 (updTensor slot i (fun _ => Tensor.unbound) m)
    else updTensor slot i (fun _ => t') m

/-- A pin or a granted claim. -/
def Tensor.busy (t : Tensor) : Bool := decide (t.pin0 ≠ 0) || decide (t.pin1 ≠ 0) || t.claimed

/-- n bytes of a table of a context that the Librarian reads, unless an access is refused. -/
def libRead (slot : Nat) (c : Word) (n : Nat) (m : Module) : Module × Option (List (Byte × Bool)) :=
  match (readLocal slot noCore none c n).run m with
  | (.ok bs, m') => (m', some bs)
  | (.error _, m') => (m', none)

/-- The bytes of an edition table entry; an entry that cannot be read binds nothing. -/
def edEntry (slot i : Nat) (m : Module) : Module × List (Byte × Bool) :=
  let r := libRead slot ((m.ctx slot).edtbase + BitVec.ofNat 64 (32 * i)) 32 m
  (r.1, r.2.getD [])

/-- EDBIND (R372, R373). -/
def edBind (w : By) (slot i : Nat) (m : Module) : Module :=
  onCtx w slot offEdbind i (fun _ => true) (fun m =>
    if ((m.ctx slot).tensor i).busy then bindRefused slot i 2 m
    else
      let r := edEntry slot i m
      bindFrom slot i Tensor.unbound r.2 r.1) m

/-- EDBIND. -/
def execEdbind (f : Option Fn) (slot : BitVec 6) (tensor : BitVec 10) (s : State) :
    Host.Outcome State Fault Refusal := liftW f (edBind f slot.toNat tensor.toNat) s

/-- Entries 0 to n − 1 from their bytes. A tensor that is bound already keeps its state (log 80). -/
def bindAll (slot : Nat) : Nat → List (Byte × Bool) → Nat → Module → Module
  | 0, _, _, m => m
  | n + 1, bs, i, m =>
    let t := (m.ctx slot).tensor i
    let e := bs.take 32
    let m := if t.bound && t.busy && !(edValid e) then m
      else bindFrom slot i (if t.bound then t else Tensor.unbound) e m
    bindAll slot n (bs.drop 32) (i + 1) m

/-- The table is read when the context starts (R372). A table that cannot be read binds nothing. -/
def edTable (slot : Nat) (m : Module) : Module :=
  let r := libRead slot (m.ctx slot).edtbase 32768 m
  match r.2 with
  | some bs => bindAll slot 1024 bs 0 r.1
  | none => r.1

/-! Claims and publications -/

/-- A claim can be granted: the other slot has no pin and no claim is granted (R376). -/
def Tensor.claimable (t : Tensor) : Bool :=
  t.bound && !t.claimed && decide ((if t.cur then t.pin0 else t.pin1) = 0)

/-- Publication (R377). -/
def Tensor.publish (t : Tensor) : Tensor := { t with cur := !t.cur, edition := t.edition + 1, claimed := false }

/-- EDCLAIM, under OFF (R378): granted at once, or waiting. -/
def edClaim (w : By) (slot : Nat) (ctr : CtrNo) (i : Nat) (m : Module) : Module :=
  onCtx w slot offEdclaim (ctr.toNat * 65536 + i) (fun x => x.sched.mode == 0) (fun m =>
    let t := (m.ctx slot).tensor i
    if t.claimable && t.waiting.isEmpty then
      addCtr slot ctr 1 (updTensor slot i (fun t => { t with claimed := true }) m)
    else updTensor slot i (fun t => { t with waiting := t.waiting ++ [ctr] }) m) m

/-- EDCLAIM. -/
def execEdclaim (f : Option Fn) (slot : BitVec 6) (ctr : CtrNo) (tensor : BitVec 10) (s : State) :
    Host.Outcome State Fault Refusal := liftW f (edClaim f slot.toNat ctr tensor.toNat) s

/-- CLAIM_GRANT: the first waiting claim, once R376 holds. -/
def claimGrant (slot i : Nat) (m : Module) : Module :=
  let t := (m.ctx slot).tensor i
  match t.waiting with
  | c :: cs =>
    if t.claimable then addCtr slot c 1 (updTensor slot i (fun t => { t with claimed := true, waiting := cs }) m) else m
  | [] => m

/-- CLAIM_GRANT. -/
def execClaimGrant (slot : BitVec 6) (tensor : BitVec 10) (s : State) : Host.Outcome State Fault Refusal :=
  liftL (claimGrant slot.toNat tensor.toNat) s

/-- EDPUB: without a granted claim it is ignored (event 0x0703). -/
def edPub (w : By) (slot i : Nat) (m : Module) : Module :=
  onCtx w slot offEdpub i (fun x => x.sched.mode == 0) (fun m =>
    if ((m.ctx slot).tensor i).claimed then updTensor slot i Tensor.publish m
    else led 0x0703 sevWarn (atCtx m slot) [i] m) m

/-- EDPUB. -/
def execEdpub (f : Option Fn) (slot : BitVec 6) (tensor : BitVec 10) (s : State) :
    Host.Outcome State Fault Refusal := liftW f (edPub f slot.toNat tensor.toNat) s

/-! Bounds of a Reserve -/

/-- RSVBASE or RSVLIM: only while the Reserve holds no entry (R362, event 0x0701). -/
def rsvBound (w : By) (slot stage : Nat) (lim : Bool) (v : Word) (m : Module) : Module :=
  let n := field v 16 28 * 65536
  onCtx w slot (offRsv + 0x40 * stage + (if lim then 8 else 0)) v.toNat (fun _ => true) (fun m =>
    if !((m.ctx slot).rsvAt stage).dir.isEmpty then led 0x0701 sevWarn (atCtx m slot) [stage, v.toNat] m
    else
      updRsv slot stage (fun r => if lim then { r with lim := n } else { r with base := n, top := n }) m) m

/-- RSVBOUND_WRITE. -/
def execRsvboundWrite (f : Fn) (slot : BitVec 6) (stage : BitVec 4) (lim : Bool) (v : Word) (s : State) :
    Host.Outcome State Fault Refusal :=
  liftW (some f) (fun m =>
    if seesCtx m (some f) slot.toNat then
      rsvOk (some f) slot.toNat 0xFFFFFFFFFFF v (rsvBound (some f) slot.toNat stage.toNat lim v) m
    else m) s

/-- RSVHWM is W1C: a write with a 1 in the field clears it (18 Table 18.7). -/
def rsvHwm (w : By) (slot stage : Nat) (v : Word) (m : Module) : Module :=
  onCtx w slot (offRsv + 0x40 * stage + 0x28) v.toNat (fun _ => true)
    (fun m => updRsv slot stage (fun r =>
      { r with hwm := (BitVec.ofNat 44 r.hwm &&& ~~~(v.extractLsb' 0 44)).toNat }) m) m

/-- RSVHWM_CLEAR: every bit of the field written as 1. -/
def execRsvhwmClear (f : Option Fn) (slot : BitVec 6) (stage : BitVec 4) (s : State) :
    Host.Outcome State Fault Refusal := liftW f (rsvHwm f slot.toNat stage.toNat 0xFFFFFFFFFFF) s

end Sys2Proof.Machine
end

