-- ==== Sys2Proof/Machine/Timetable.lean ====
section
/-! DEFINITION. The banks of the timetable and the switch between them (09 R309 to R312). -/

namespace Sys2Proof.Machine

/-- The slot-map entry of a port and bank. -/
def mapEntry (m : Module) (bank : Bool) (n k : Nat) : Bool × BitVec 16 × BitVec 8 :=
  Sparse.get (false, 0, 0) m.tt.maps (256 * n + (if bank then 128 else 0) + k)

/-- Why a bank cannot be switched to: cause of TTSTAT and port (R311). -/
def bankFault (m : Module) (bank : Bool) : Option (Nat × Nat) :=
  let valid := fun (n k : Nat) => (mapEntry m bank n k).1
  let find := fun (c : Nat) (p : Nat → Bool) => ((upTo 10).find? p).map fun n => (c, n)
  (find 1 fun n => decide (Config.maxReserved < ((upTo 125).filter (valid n)).length)).or
    ((find 2 fun n => valid n 0).or
      (find 3 fun n => (upTo 125).any fun k => valid n k && (mapEntry m bank n k).2.2 == 0))

/-- The frame in which a switch accepted now takes effect (R312). -/
def switchFrame (now frame : Nat) : Nat :=
  if frame * Config.frameNs < now + Config.switchLead then (now + Config.switchLead + Config.frameNs - 1) / Config.frameNs
  else frame

/-- A pending switch whose frame has begun has taken effect. -/
def commitSwitch (m : Module) : Module :=
  match m.tt.pend with
  | some (b, fr) =>
    if fr * Config.frameNs ≤ m.now then { m with tt := { m.tt with live := b, pend := none } } else m
  | none => m

/-- A TTSW write. -/
def ttswitch (bank : Bool) (frame : Nat) (m : Module) : Module :=
  let m := commitSwitch m
  if bank = m.tt.live ∧ m.tt.pend.isSome then { m with tt := { m.tt with pend := none } }
  else
    match bankFault m bank with
    | some e =>
      led 0x0603 sevWarn atModule [e.1, e.2, frame] { m with tt := { m.tt with cause := e.1, port := e.2 } }
    | none =>
      let fr := switchFrame m.now frame
      let m := { m with tt := { m.tt with pend := some (bank, fr), lastFrame := fr } }
      if fr = frame then m else led 0x0604 sevWarn atModule [frame, fr] m

end Sys2Proof.Machine
end

