-- ==== Sys2Proof/Machine/Units.lean ====
section
/-! DEFINITION. The units of a plan: the unit table, readiness, turning, the step boundary and its report, skipped updates, and
a switch notice at a member (11 R380 to R400; 12 R410, R415; 14 R453). -/

namespace Sys2Proof.Machine

/-! Units (Table 11.4) -/

/-- An entry of a unit table. `kind`: 0 forward, 1 backward, 2 update, 3 auxiliary. -/
structure PUnit where
  idx : Nat
  kind : Nat
  stage : Nat
  mb : Nat
  norm : Bool
  dem : Nat
  ine : Bool
  inctr : CtrNo
  inval : W32
  cre : Bool
  crctr : CtrNo
  crval : W32
  gbytes : Nat
  rg : Option Nat
  tens : List Nat
  dce : Bool
  dctr : CtrNo
  deriving DecidableEq, Repr

/-- Read an entry from its 64 bytes. -/
def parseUnit (i : Nat) (bs : List Byte) : PUnit :=
  let w := fun (k : Nat) => BitVec.ofNat 64 (leNat ((bs.drop (8 * k)).take 8))
  let kind := field (w 0) 62 2
  let half := fun (k : Nat) => leNat ((bs.drop (32 + 2 * k)).take 2)
  { idx := i, kind := kind, stage := field (w 0) 58 4, mb := field (w 0) 42 16, norm := bit (w 0) 41,
    dem := if kind = 0 then field (w 0) 0 32 else 0,
    ine := bit (w 1) 22, inctr := (w 1).extractLsb' 23 9, inval := (w 1).extractLsb' 32 32,
    cre := bit (w 2) 22, crctr := (w 2).extractLsb' 23 9, crval := (w 2).extractLsb' 32 32,
    gbytes := if kind = 0 then (w 4).toNat else 0,
    rg := if kind = 0 ∧ 32768 ≤ half 4 then some (half 4 % 4096) else none,
    tens := if kind = 2 then ((upTo 8).filter fun k => 32768 ≤ half k).map (fun k => half k % 1024) else [],
    dce := bit (w 6) 54, dctr := (w 6).extractLsb' 55 9 }

/-- Units from the bytes of a table. -/
def parsePlan : Nat → Nat → List Byte → List PUnit
  | 0, _, _ => []
  | n + 1, i, bs => parseUnit i (bs.take 64) :: parsePlan n (i + 1) (bs.drop 64)

/-- The live variant's table: its call number and unit count (R381). -/
def livePlan (x : Ctx) : Word × Nat := Sparse.get (0, 0) x.sched.plan x.sched.varcur

/-- Read the unit table of the live variant; a poisoned word of it is no case of consumption (08 R278), and acts as its bytes
read. -/
def planM (slot : Nat) : EngM (List PUnit) := do
  let m ← get
  let p := livePlan (m.ctx slot)
  let bs ← readLocal slot noCore none p.1 (64 * p.2)
  return parsePlan p.2 0 (bs.map (·.1))

/-- A stage of a context, and its change. -/
def Ctx.stage (x : Ctx) (s : Nat) : Stage := Sparse.get Stage.init x.sched.stages s
def updStage (slot s : Nat) (f : Stage → Stage) (m : Module) : Module :=
  m.updCtx slot fun x => { x with sched := { x.sched with stages := Sparse.upd Stage.init x.sched.stages s f } }

/-- Change the scheduler of a context. -/
def updSched (slot : Nat) (f : Sched → Sched) (m : Module) : Module :=
  m.updCtx slot fun x => { x with sched := f x.sched }

/-- What has become of a unit. -/
def unitSt (x : Ctx) (u : PUnit) : UnitSt := Sparse.get .waiting x.sched.units u.idx
def isWaiting (x : Ctx) (u : PUnit) : Bool := unitSt x u == .waiting
/-- It has completed or been skipped. -/
def isSettled (x : Ctx) (u : PUnit) : Bool := unitSt x u == .done || unitSt x u == .skipped

/-! Readiness (R382, R388, R399) -/

def inputOk (x : Ctx) (u : PUnit) : Bool := !u.ine || reached (x.ctr u.inctr) u.inval
def creditOk (x : Ctx) (u : PUnit) : Bool := !u.cre || reached (x.ctr u.crctr) u.crval
/-- The coordinator holds its NORM units until every notice is acknowledged. -/
def normOk (x : Ctx) (u : PUnit) : Bool := !u.norm || x.sched.notices.isEmpty
/-- Admission of a forward unit. -/
def admitOk (x : Ctx) (u : PUnit) : Bool :=
  let r := x.rsvAt u.stage
  decide (r.top + r.aside + u.dem ≤ r.lim)
def claimsOk (x : Ctx) (u : PUnit) : Bool := u.tens.all fun i => (x.tensor i).claimable

/-- The unit is ready in every respect but admission. -/
def readyBut (x : Ctx) (u : PUnit) : Bool := inputOk x u && creditOk x u && normOk x u && claimsOk x u
/-- The unit is ready. -/
def unitReady (x : Ctx) (u : PUnit) : Bool :=
  readyBut x u && (u.kind != 0 || x.sched.mode != 2 || admitOk x u)

/-- Waiting units of a stage, in plan order. -/
def waitingIn (x : Ctx) (plan : List PUnit) (s : Nat) : List PUnit :=
  plan.filter fun u => u.stage == s && isWaiting x u

/-! Turning (R390) -/

/-- The turn counter of a stage has gone up since the step began. -/
def noticed (x : Ctx) (s : Nat) : Bool :=
  let g := x.stage s
  x.ctr (g.cfg1.extractLsb' 0 9) != g.tbase

/-- Every forward unit of a stage whose input has arrived has been run: none waits or runs. -/
def ranForward (x : Ctx) (plan : List PUnit) (s : Nat) : Bool :=
  plan.all fun u => u.stage != s || u.kind != 0 || isSettled x u || (isWaiting x u && !(inputOk x u))

/-- Whether a stage in FILL enters TURN now, and whether as the stage that filled. -/
def turns (x : Ctx) (plan : List PUnit) (s : Nat) : Option Bool :=
  let f := (waitingIn x plan s).find? fun u => u.kind == 0
  if x.sched.mode ≠ 2 ∨ (x.stage s).turn then none
  else if f.any fun u => readyBut x u && !(admitOk x u) then some true
  else if noticed x s && ranForward x plan s then some false
  else none

/-- Tell the next stage (R390, 07 R228). -/
def sendTurn (slot s : Nat) (m : Module) : Module :=
  let g := (m.ctx slot).stage s
  let ctr : CtrNo := g.cfg2.extractLsb' 0 9
  let mod_ := g.cfg2.extractLsb' 32 16
  if !(bit g.cfg2 63) then m
  else if mod_ = 0xFFFF ∨ mod_ = ownNum m then addCtr slot ctr 1 m
  else
    let x := { baseTx m slot .write mod_ 0 with tce := true, tctr := ctr }
    request (flightFor m slot (lowCore (m.ctx slot)) .lib x) m

/-- Enter TURN if a stage must. -/
def maybeTurn (slot : Nat) (plan : List PUnit) (s : Nat) (m : Module) : Module :=
  match turns (m.ctx slot) plan s with
  | some filled => sendTurn slot s (updStage slot s (fun g => { g with turn := true, filled := filled }) m)
  | none => m

/-- Every stage that must turn does; a notice within the module may turn another. -/
def turnAll (slot : Nat) (plan : List PUnit) : Nat → Module → Module
  | 0, m => m
  | n + 1, m => turnAll slot plan n ((upTo 16).foldl (fun m s => maybeTurn slot plan s m) m)

/-! Marks and the global norm -/

/-- Every NORM unit of the live variant is settled: the partial is formed (12 R410). -/
def normCheck (slot : Nat) (plan : List PUnit) (m : Module) : Module :=
  let x := m.ctx slot
  if plan.any (·.norm) && (plan.filter (·.norm)).all (isSettled x) then gnForm slot m else m

/-- Mark a unit. -/
def markUnit (slot i : Nat) (st : UnitSt) (m : Module) : Module :=
  updSched slot (fun s => { s with units := Sparse.set .waiting s.units i st }) m

/-- Increment the DONECTR of a unit. -/
def bumpDone (slot : Nat) (u : PUnit) (m : Module) : Module := bumpCtr slot u.dce u.dctr m

/-- Dispatch of the step has begun (14 R453). -/
def mayDispatch (x : Ctx) : Bool := x.state == .running && x.sched.mode != 0 && (!x.bm.auto || x.sched.started)

/-- A turn notice has reached a stage that has not turned: the stages of the context turn if they must (R390). -/
def turnNoticed (slot : Nat) (m : Module) : Module :=
  let x := m.ctx slot
  if mayDispatch x && x.sched.mode == 2 && (upTo 16).any (fun s => noticed x s && !(x.stage s).turn) then
    runLib slot (planM slot) (turnAll slot · 16) m
  else m

/-! Step reports (R396, R397) -/

/-- Mean of samples in microseconds, rounded down. -/
def meanUs (l : List (Nat × Nat)) : Nat := if l.isEmpty then 0 else (l.map (·.2)).sum / l.length / 1000

/-- Local stages with units in the live variant. -/
def stagesOf (plan : List PUnit) : List Nat := (upTo 16).filter fun s => plan.any fun u => u.stage == s

/-- The summary of a step. -/
def summaryBytes (x : Ctx) (plan : List PUnit) : List Byte :=
  let ss := stagesOf plan
  let body := ss.flatMap fun s =>
    let g := x.stage s
    leBytes 2 (field g.cfg1 48 16) ++ leBytes 2 0 ++ leBytes 4 (meanUs g.fwd) ++ leBytes 4 (meanUs g.bwd)
  let head := leBytes 8 x.stepnum.toNat ++ leBytes 1 x.sched.varstby ++ leBytes 1 ss.length ++ leBytes 6 0
  (head ++ body) ++ List.replicate (256 - (head ++ body).length) 0

/-- Send the summary to the coordinator, where COORD names one and catalogue bit 7 is set. -/
def report (slot : Nat) (plan : List PUnit) (m : Module) : Module :=
  let x := m.ctx slot
  if x.sched.coordArea = 0 ∨ !(catOn m 7) then m
  else
    let c := x.sched.coordArea + BitVec.ofNat 64 (256 * x.sched.coordRank)
    let d := (summaryBytes x plan).map fun b => wb b false
    let w : EngM Unit := do
      if isLocal m c then writeLocal slot noCore none c d
      else
        let _ ← sendWrites slot (lowCore x) .lib 0 c d
        return ()
    runLib slot w (fun _ m => m) m

/-! The step boundary (R384, R399; 14 R452, R483) -/

/-- A stage as the next step finds it. -/
def Stage.next (g : Stage) (x : Ctx) (clear : Bool) : Stage :=
  { g with turn := false, filled := false, fdone := [], tbase := x.ctr (g.cfg1.extractLsb' 0 9),
           fwd := if clear then [] else g.fwd, bwd := if clear then [] else g.bwd }

/-- The scheduler as the next step finds it: a noticed variant becomes live in its step. -/
def Sched.next (d : Sched) (x : Ctx) (step : Nat) : Sched :=
  let sw := match d.note with
    | some n => if n.2.1 = step then some n.1 else none
    | none => none
  { d with units := [], keep := [], started := false, varcur := sw.getD d.varcur,
           note := if sw.isSome then none else d.note,
           since := if sw.isSome then 20 else d.since - 1,
           stages := d.stages.map fun e => (e.1, e.2.next x sw.isSome) }

/-- The step ends once every unit is settled. -/
def stepEnd (slot : Nat) (plan : List PUnit) (m : Module) : Module :=
  if plan.isEmpty || !(plan.all (isSettled (m.ctx slot))) then m
  else
    let m := report slot plan m
    let m := m.updCtx slot fun x =>
      { x with stepnum := x.stepnum + 1, sched := x.sched.next x (x.stepnum.toNat + 1) }
    let m := shadowBoundary slot m
    let x := m.ctx slot
    if x.bm.auto then takeBookmark slot x.stepnum.toNat m else m

/-! Skipped updates (12 R415) -/

/-- Every update unit of the step that waits is skipped: no claim, no publication. -/
def skipUpdates (slot : Nat) (plan : List PUnit) (m : Module) : Module :=
  (plan.filter fun u => u.kind == 2 && isWaiting (m.ctx slot) u).foldl
    (fun m u => bumpDone slot u (markUnit slot u.idx .skipped m))
    (m.updCtx slot fun x => { x with gn := { x.gn with skipped := true } })

/-- The sum of the global norm arrives (12 R414 to R416): with SKIP and NONFINITE, and a scheduler, it skips the updates. -/
def gnTaken (slot : Nat) (sum : W32) (bad : Bool) (m : Module) : Module :=
  let m := gnArrive slot sum bad m
  let x := m.ctx slot
  if x.gn.skip && x.gn.done && x.gn.nonfinite && x.gn.step == x.stepnum.toNat && x.sched.mode != 0 then
    runLib slot (planM slot) (fun plan m => stepEnd slot plan (skipUpdates slot plan m)) m
  else m

/-- The notice takes hold on this module: VARNOTE, and the timetable switches to the standby bank at its frame as a TTSW
write would switch it (R399). -/
def takeNotice (slot variant step frame : Nat) (m : Module) : Module :=
  ttswitch (!m.tt.live) frame (updSched slot (fun d => { d with note := some (variant, step, frame) }) m)

/-- Offset of VARNOTE in the context block (18 Table 18.7). -/
def offVarnote : Nat := 0x868

end Sys2Proof.Machine
end

