-- ==== Sys2Proof/Machine/Collective.lean ====
section
/-! DEFINITION. In-fabric reduction (10 R343 to R353): the units of the port dies, the owner's result, the
broadcast of elements, and the grant of tags (07 R242). -/

namespace Sys2Proof.Machine

/-- What a transaction meets at its target: it is taken, taken without an answer, passed on with its buffer still held, must
wait, or is refused with a cause. -/
inductive Took where
  | taken (m : Module)
  | lost (m : Module)
  | passed (m : Module)
  | wait (m : Module)
  | refused (c : NackCause) (m : Module)
  deriving DecidableEq, Repr

/-- Run engine work for a context on behalf of an arriving transaction, which has effect `pre` however the work ends. -/
def tookEng {α : Type} (slot core : Nat) (e : Engine) (src : BitVec 17) (drop pre : Module → Module) (w : EngM α)
    (k : α → Module → Module) (m : Module) : Took :=
  match w.run m with
  | (.ok a, m') => .taken (k a (pre m'))
  | (.error (.deny sub c), m') => .taken (denyFault slot sub c src (drop (pre m')))
  | (.error (.wait bs ttid), _) => .wait (askFor slot core e ttid bs m)
  | (.error (.cow sl ps), _) => .wait (waitCow sl ps m)
  | (.error (.ub _), m') => .taken (undefCtx slot (pre m'))

/-! Events -/

/-- Event counts saturate at 16 bits (R323). -/
def addEvents (a b : Events) : Events := (upTo 6).map fun i => satAdd 16 (a.getD i 0) (b.getD i 0)

/-- The counts of a list of events. -/
def evOf (l : List Ev) : Events := (upTo 6).map fun i => Nat.min 65535 (l.filter fun e => e.num == i).length

/-- The event with a number. -/
def evAt (i : Nat) : Ev :=
  match i with
  | 0 => .overflow
  | 1 => .nanCreate
  | 2 => .infCreate
  | 3 => .saturate
  | 4 => .underflow
  | _ => .late

/-- Count an event record at a TE (R70). -/
def countRecord (slot core : Nat) (tag : Option W32) (ev : Events) (m : Module) : Module :=
  (upTo 6).foldl (fun m i => if ev.getD i 0 = 0 then m else countEv slot core .te tag (ev.getD i 0) (evAt i) m) m

/-! Units -/

/-- The owner module of a collective transaction. -/
def ownerMod (g : Group) (c : CollH) : BitVec 16 :=
  g.members.getD (if c.ckind.toNat = 3 ∨ c.ckind.toNat = 4 then 0 else c.shidx.toNat) 0

/-- The unit of a member for an owner (R345): 0 PD0, 1 PD1. -/
def unitDie (m : Module) (owner : BitVec 16) : Nat :=
  match route m owner none with
  | some p => pdOf p
  | none => 0

/-- The key of a slot (R346): JOB, GROUP, CSER, SHIDX, first element. -/
def sameSlot (r : RSlot) (x : Txn) : Bool :=
  r.job == x.job && r.coll.group == x.coll.group && r.coll.cser == x.coll.cser &&
    r.coll.shidx == x.coll.shidx && r.coll.first == x.coll.first

/-- The values every contribution to a shard must share (07 R235). -/
def sameShape (a b : CollH) : Bool :=
  a.ckind == b.ckind && a.cop == b.cop && a.n1 == b.n1 && a.fmt == b.fmt && a.shfirst == b.shfirst &&
    a.shcount == b.shcount

/-- Elements of a packet. -/
def packetCount (fmt : BitVec 4) (bytes : Nat) : Nat :=
  if isQuire fmt then bytes * 32 / (4 * codeBits fmt + 1) else bytes * 8 / codeBits fmt

/-- The elements of a packet in FP32, with the events of their conversion; a quire element carries the mark of its scale too. -/
def inputVals (x : Txn) : List (W32 × Bool) × List Ev :=
  let es := packetElemsOf x.coll.fmt (packetCount x.coll.fmt x.payload.length) x.payload x.bad
  let vs := es.map fun e => let v := toF32 x.coll.fmt e.scale e.code; (v.1, e.marked, v.2)
  (vs.map fun v => (v.1, v.2.1), vs.flatMap (·.2.2))

/-- One reduction in FP32 (R346, 02 R46, R47). -/
def reduce1 (cop : Nat) (a b : W32) : W32 × List Ev :=
  match cop with
  | 0 => fadd32 a b
  | 1 => (fmax32 a b, [])
  | _ => (fmin32 a b, [])

/-- Add an input into a slot (R346, R347). -/
def slotAdd (r : RSlot) (x : Txn) : RSlot :=
  let v := inputVals x
  let s := (r.sums.zip (v.1.map (·.1))).map fun e => reduce1 x.coll.cop.toNat e.1 e.2
  { r with sums := s.map (·.1), bad := (r.bad.zip (v.1.map (·.2))).map (fun e => e.1 || e.2),
           ev := addEvents (addEvents r.ev x.ev) (evOf (v.2 ++ s.flatMap (·.2))),
           contrib := r.contrib + x.coll.contrib.toNat }

/-- Open a slot with its first input. -/
def slotOpen (m : Module) (expect : Nat) (x : Txn) : RSlot :=
  let v := inputVals x
  { job := x.job, coll := x.coll, sums := v.1.map (·.1), bad := v.1.map (·.2), ev := addEvents x.ev (evOf v.2),
    contrib := x.coll.contrib.toNat, expect := expect, opened := m.now, ttid := x.ttid }

/-- The combined transaction of a complete slot (R346 to R348): narrowed to FMT with round-to-nearest-even. It holds no tag, so
its TAG and INC are open. -/
def combine (m : Module) (slot : Nat) (dst : BitVec 16) (r : RSlot) : Txn :=
  let vals := r.sums.zipIdx.map fun v => (v.2, f32 v.1, r.bad.getD v.2 false)
  let rnd : Rnd := { code := 2, seed := 0, step := 0, tag := 0, rne := true }
  let q := narrowAll r.coll.fmt rnd id vals
  let es : List Elem := q.1.map fun o => { code := o.code, scale := 127, bad := o.bad, sbad := false }
  let n := r.sums.length
  let body := packetBody r.coll.cop.toNat r.coll.fmt es.toArray 0 n n
  let w := Config.freeWord m.draw
  let x := baseTx m slot .coll dst 0
  { x with
    ttid := r.ttid, len := body.1.length, payload := body.1, bad := body.2, ev := addEvents r.ev (evOf q.2.2),
    tag := w.extractLsb' 0 16, inc := w.extractLsb' 16 6, tagless := some (m.fab.uid + 1),
    coll := { r.coll with contrib := BitVec.ofNat 16 r.expect } }

/-- A member's unit sends its combined transaction on (R346, R348). -/
def sendComb (slot die : Nat) (dst : BitVec 16) (r : RSlot) (m : Module) : Module :=
  let x := combine m slot dst r
  let id := m.fab.uid
  let m := { m with fab := { m.fab with uid := id + 1 }, draw := m.draw + 1 }
  switchTx x .unit m.now (.comb id) (m.updPd die fun p => { p with combs := p.combs ++ [{ id := id, x := x, sent := none }] })

/-! The owner -/

/-- The started COLL of a context with a group and serial: its core and run. -/
def collRun (m : Module) (slot : Nat) (group : BitVec 12) (cser : Nat) : Option (Nat × TeRun) :=
  m.cores.findSome? fun e =>
    (e.2.teRun.find? fun r =>
      r.cmd.iss.slot == slot && !r.bad &&
        (match r.d with
         | some d => d.kind.toNat == 1 && d.group == group && r.cser == cser
         | none => false)).map fun r => (e.1, r)

/-- The group serial under which a context's global norm runs. -/
def gnSerial (g : Group) : Nat := (g.cser + 255) % 256

/-- The context awaits its global norm under a group and serial. -/
def gnAwaits (m : Module) (slot : Nat) (g : Group) (cser : Nat) : Bool :=
  (m.ctx slot).gn.sent && (m.ctx slot).gn.group == g.id && gnSerial g == cser

/-- A member's own descriptor and shard table disagree with a contribution (R235), or with a result, which has FMTD where it was
reduced. -/
def disagrees (d : Desc) (shards : List (Nat × Nat)) (c : CollH) (bcast : Bool) : Bool :=
  d.ckind != c.ckind || d.cop != c.cop || BitVec.ofNat 32 (d.nelem - 1) != c.n1 ||
    (if bcast && (d.ckind.toNat < 2 || d.ckind.toNat == 4) then d.fmtd else d.fmts) != c.fmt ||
    shards[c.shidx.toNat]? != some (c.shfirst.toNat, c.shcount.toNat)

/-- Place in DST of element `pos` of a shard (R232). -/
def dstIndex (c : CollH) (pos : Nat) : Nat :=
  if c.ckind.toNat = 1 then pos else c.shfirst.toNat + pos

/-- The broadcast of an owner's narrowed packet to its children (R352), in packets of FMTD; the events of its reduction go with
the first, for every receiver to count (02 R70). -/
def bcastTxs (m : Module) (slot : Nat) (d : Desc) (c : CollH) (ev : Events) (kids : List (BitVec 16)) (count real : Nat)
    (es : Array Elem) : List Txn :=
  let p := packetElems d.fmtd
  (upTo ((count + p - 1) / p)).flatMap fun k =>
    let n := Nat.min p (count - k * p)
    let body := packetBody d.cop.toNat d.fmtd es (k * p) n real
    kids.map fun t =>
      { collTx m slot d c.cser.toNat d.fmtd t c.shidx.toNat (c.shfirst.toNat, c.shcount.toNat) (c.first.toNat + k * p) 0 body with
        ev := if k = 0 then ev else noEvents }

/-- The packets of an owner's result for a shadow of its context (14 R481): each is sent under its copy's own target. -/
def resultTxs (m : Module) (slot : Nat) (d : Desc) (c : CollH) (ev : Events) (count real : Nat) (es : Array Elem) : List Txn :=
  bcastTxs m slot d c ev [ownNum m] count real es

/-- Copies of several transactions for a shadow. -/
def copyAll (slot : Nat) (xs : List Txn) (m : Module) : Module := xs.foldl (fun m x => copyToShadow slot x m) m

/-- The call number of an element of a COLL's DST. -/
def dstCall (d : Desc) (i : Nat) : Word :=
  let o := linearOp d.dst d.fmtd d.nelem
  o.call + BitVec.ofNat 64 (o.bitAt i / 8)

/-- The result of a complete slot, narrowed to FMTD under RND: elements in DST, their scales and events. -/
def ownerVals (slot : Nat) (d : Desc) (r : RSlot) (base real : Nat) (m : Module) :
    List OutElem × List (Nat × Nat × Bool) × List Ev :=
  let vals := (r.sums.take real).zipIdx.map fun v => (base + v.2, f32 v.1, false)
  narrowAll d.fmtd (rndOf (m.ctx slot) d.rnd d.tag)
    (fun i => r.coll.shfirst.toNat + r.coll.first.toNat + (i - base)) vals

/-- The owner's TE takes the result of a complete slot: it counts the record, and consumes poison at the destination of the
first poisoned element or writes what it narrows, and under ALLREDUCE sends it on (R346, R347, R352; 02 R70; 08 R279). -/
def ownerTake (slot core : Nat) (run : TeRun) (d : Desc) (g : Group) (r : RSlot) (m : Module) : Took :=
  let first := r.coll.first.toNat
  let real := Nat.min r.sums.length (r.coll.shcount.toNat - first)
  let src := srcOf run.cmd.iss.t
  let base := dstIndex r.coll first
  let count := countRecord slot core (some d.tag) r.ev
  match (r.bad.take real).findIdx? id with
  | some i => .taken (denyFault slot none (dstCall d (base + i)) src (dropTe core run.uid (count m)))
  | none =>
    let q := ownerVals slot d r base real m
    let es : List Elem := q.1.map fun o => { code := o.code, scale := 127, bad := false, sbad := false }
    let kids := if d.ckind.toNat = 0 then childrenOf m g (ownNum m) (ownNum m) else []
    let work : EngM Nat := do
      let n ← putElems slot core run.uid d q.1 q.2.1
      let m ← get
      let xs := bcastTxs m slot d r.coll r.ev kids r.sums.length real es.toArray
      askTxs slot core (.te core run.uid) xs
      modify (copyAll slot (resultTxs m slot d r.coll r.ev r.sums.length real es.toArray))
      return n + xs.length
    tookEng slot core .te src (dropTe core run.uid) count work (fun n m =>
      teTry core run.uid (updTe core run.uid (fun t =>
        { t with unsettled := t.unsettled + n, expect := t.expect - real })
          (countEvs slot core .te (some d.tag) q.2.2 m))) m

/-- The global norm of a context whose sum is complete at its owner (12 R412 to R416): a poisoned sum goes to every member too; the
events of the reduction, which no descriptor
receives, count with no tag at the TE of the context's lowest core (log 151). -/
def gnOwner (slot : Nat) (g : Group) (r : RSlot) (m : Module) : Module :=
  let core := lowCore (m.ctx slot)
  let sum := r.sums.headD 0
  let bad := r.bad.headD false
  let d := gnDesc (m.ctx slot)
  let es : Array Elem := #[{ code := sum.toNat, scale := 127, bad := bad, sbad := false }]
  let xs := bcastTxs m slot d r.coll r.ev (childrenOf m g (ownNum m) (ownNum m)) 1 1 es
  let own := resultTxs m slot d r.coll r.ev 1 1 es
  let m := copyAll slot own (xs.foldl (fun m x => request (flightFor m slot core .gn x) m) m)
  gnTaken slot sum bad (countRecord slot core none r.ev m)

/-- A complete slot at member M: the owner takes it, another member sends it on (R346). -/
def slotDone (slot : Nat) (g : Group) (die : Nat) (r : RSlot) (m : Module) : Took :=
  let owner := ownerMod g r.coll
  if owner = ownNum m then
    match collRun m slot g.id r.coll.cser.toNat with
    | some e =>
      match e.2.d with
      | some d => ownerTake slot e.1 e.2 d g r m
      | none => .taken m
    | none => .taken (if gnAwaits m slot g r.coll.cser.toNat then gnOwner slot g r m else m)
  else .taken (sendComb slot die (nextMember m g (ownNum m) owner) r m)

/-- Slots of a port die (R349). -/
def unitSlots : Nat := 2048

/-- The unit has a slot for an input: its own, or a free one (R349). -/
def unitRoom (m : Module) (g : Group) (x : Txn) : Bool :=
  let p := m.pd (unitDie m (ownerMod g x.coll))
  p.slots.any (fun r => sameSlot r x) || decide (p.slots.length < unitSlots)

/-- An input clashes with the member's own descriptor (07 R235). -/
def ownClash (m : Module) (slot : Nat) (g : Group) (x : Txn) : Bool :=
  match collRun m slot g.id x.coll.cser.toNat with
  | some e =>
    match e.2.d with
    | some d => disagrees d e.2.shards x.coll false
    | none => false
  | none => false

/-- An input reaches the unit of this member (R345 to R349; 07 R235): added into its slot, which it may open. -/
def unitTake (slot : Nat) (g : Group) (x : Txn) (m : Module) : Took :=
  let owner := ownerMod g x.coll
  let die := unitDie m owner
  if ownClash m slot g x then .refused .remoteDenied m
  else
    let old := (m.pd die).slots.find? fun r => sameSlot r x
    let others := (m.pd die).slots.filter fun r => !(sameSlot r x)
    let add := fun (r : RSlot) =>
      if r.expect ≤ r.contrib then slotDone slot g die r (m.updPd die fun p => { p with slots := others })
      else .taken (m.updPd die fun p => { p with slots := others ++ [r] })
    match old with
    | some r => if sameShape r.coll x.coll then add (slotAdd r x) else .refused .remoteDenied m
    | none => if unitRoom m g x then add (slotOpen m (expectAt m g (ownNum m) owner) x) else .wait m

/-- An input of the unit: a wait leaves the unit as it was, and a contribution that a detour has moved off the plan meets no
slot and gets no answer (R353). -/
def unitInput (slot : Nat) (g : Group) (x : Txn) (m : Module) : Took :=
  if x.det then .lost m
  else
    match unitTake slot g x m with
    | .wait m' => .wait { m with cows := m'.cows, fab := m'.fab }
    | r => r

/-! Broadcast -/

/-- Copies of a broadcast packet sent on from here (R352): unchanged, with no tag. -/
def copyOn (members : List (BitVec 16)) (x : Txn) (m : Module) : Module :=
  let owner := members.getD (if x.coll.ckind.toNat = 3 then 0 else x.coll.shidx.toNat) 0
  (legsOf m members owner (ownNum m)).foldl (fun m t =>
    switchTx { x with dst := t, det := false, tagless := some 0 } .unit m.now .copy m) m

/-- A broadcast packet that reaches a module which is no member, where its routes part: copied and acknowledged, with neither
context nor key (R333, R352). -/
def planCopy (x : Txn) (m : Module) : Option Module :=
  let members := Config.routePlan x.job x.coll.group
  if (jobCtx m x.job).isNone ∧ x.kind = .coll ∧ x.coll.contrib = 0 ∧ members.contains (ownNum m) = false ∧ members ≠ [] then
    some (copyOn members x m)
  else none

/-- The run that takes a broadcast packet: the one of its serial; in a shadow, whose count of the group's collectives is not
that of the member it shadows, a run that still lacks elements and agrees with the packet (log 104). -/
def bcastRun (m : Module) (slot : Nat) (g : Group) (c : CollH) : Option (Nat × TeRun) :=
  if (m.ctx slot).shadow.role = 0 then collRun m slot g.id c.cser.toNat
  else m.cores.findSome? fun e =>
    (e.2.teRun.find? fun r =>
      r.cmd.iss.slot == slot && !r.bad && decide (r.expect ≠ 0) &&
        (match r.d with
         | some d => d.kind.toNat == 1 && d.group == g.id && !disagrees d r.shards c true
         | none => false)).map fun r => (e.1, r)

/-- The context awaits its global norm from a broadcast packet. -/
def gnTakes (m : Module) (slot : Nat) (g : Group) (c : CollH) : Bool :=
  if (m.ctx slot).shadow.role = 0 then gnAwaits m slot g c.cser.toNat
  else (m.ctx slot).gn.sent && (m.ctx slot).gn.group == g.id && !disagrees (gnDesc (m.ctx slot)) [(0, 1)] c true

/-- The TE of a member writes the elements of a broadcast packet as they arrive (R352) and counts its record first (R347). -/
def bcastWrite (slot core : Nat) (run : TeRun) (d : Desc) (g : Group) (x : Txn) (m : Module) : Took :=
  let first := x.coll.first.toNat
  let es := packetElemsOf x.coll.fmt (packetCount x.coll.fmt x.payload.length) x.payload x.bad
  let real := Nat.min es.length (x.coll.shcount.toNat - first)
  let raw := rawElems (es.take real) (dstIndex x.coll first) x.coll.fmt
  tookEng slot core .te (srcOf run.cmd.iss.t) (dropTe core run.uid) (countRecord slot core (some d.tag) x.ev)
    (putElems slot core run.uid d raw.1 raw.2) (fun n m =>
      let m := copyToShadow slot x (copyOn g.members x m)
      let m := teTry core run.uid (updTe core run.uid (fun t =>
        { t with unsettled := t.unsettled + n, expect := t.expect - real }) m)
      match findTe m core run.uid with
      | some t => if t.done && t.expect == 0 then dropTe core run.uid m else m
      | none => m) m

/-- A broadcast packet arrives at a member, is copied to a shadow (14 R481) and sent on; before the member has started its own
descriptor it waits. -/
def bcastTake (slot : Nat) (g : Group) (x : Txn) (m : Module) : Took :=
  match bcastRun m slot g x.coll with
  | none =>
    if gnTakes m slot g x.coll then
      let e := (inputVals x).1.headD (0, false)
      .taken (copyToShadow slot x (copyOn g.members x
        (gnTaken slot e.1 e.2 (countRecord slot (lowCore (m.ctx slot)) none x.ev m))))
    else .wait m
  | some e =>
    match e.2.d with
    | none => .wait m
    | some d =>
      if disagrees d e.2.shards x.coll true then .refused .remoteDenied m else bcastWrite slot e.1 e.2 d g x m

/-- A collective transaction for a context of this module. -/
def collTake (slot : Nat) (x : Txn) (m : Module) : Took :=
  match groupOf m slot x.coll.group with
  | none => .refused .remoteDenied m
  | some g =>
    if (posIn m slot g).isNone || decide (g.members.length ≤ x.coll.shidx.toNat) then .refused .remoteDenied m
    else if x.coll.contrib = 0 then bcastTake slot g x m
    else unitInput slot g x m

/-! Tags -/

/-- A transaction of a shadow that is not sent: a write or a contribution completes at once as acknowledged, an atomic
operation returns as a timeout does (14 R481). -/
def shadowTx (f : Flight) (m : Module) : Option (Module → Module) :=
  if (m.ctx f.slot).shadow.role = 0 then none
  else
    match f.x.kind with
    | .write => some (issuerAcked f)
    | .coll => some (issuerAcked f)
    | .atomic => some (issuerTimedOut f)
    | _ => none

/-- A contribution, which goes to the module's own unit. -/
def contributes (f : Flight) : Bool := f.x.kind == .coll && f.x.coll.contrib != 0

/-- A waiting transaction can go once it has a tag: one that finds no slot of the unit holds up no other core (R242, R349). -/
def canGo (m : Module) (f : Flight) : Bool :=
  (shadowTx f m).isSome || !(contributes f) ||
    (match groupOf m f.slot f.x.coll.group with
     | some g => unitRoom m g f.x
     | none => true)

/-- A free tag goes to the core in turn. A contribution goes to the module's own unit, which acknowledges it at once; while it
cannot be taken it waits. -/
def tagGrant (tag : BitVec 16) (m : Module) : Module :=
  if !(tagFree m tag) then m
  else
    match nextWaiting m (canGo m) with
    | none => m
    | some f =>
      match shadowTx f m with
      | some k => k (takeTag tag f m)
      | none =>
        if !(contributes f) then grantTag tag f m
        else
          let fl : Flight := { f with x := { f.x with tag := tag } }
          match collTake f.slot f.x m with
          | .taken m' => flightAcked fl (takeTag tag f m')
          | .lost m' => takeTag tag f m'
          | .passed m' => takeTag tag f m'
          | .wait m' => { m' with fab := { m'.fab with turn := f.core } }
          | .refused cause m' => flightRefused fl cause (takeTag tag f m')

/-! Commands -/

/-- TAG_GRANT. -/
def execTagGrant (tag : BitVec 16) (s : State) : Host.Outcome State Fault Refusal := lift (tagGrant tag) s

/-- REDUCTION_SLOT_EXPIRE: a slot incomplete 2 ms after it opened is discarded (R349). -/
def execReductionSlotExpire (pd1 : Bool) (i : Nat) (s : State) : Host.Outcome State Fault Refusal :=
  lift (fun m =>
    let d := if pd1 then 1 else 0
    match (m.pd d).slots[i]? with
    | none => m
    | some r =>
      if m.now < r.opened + Config.txTimeout then m
      else
        led 0x050A sevWarn (atPort (Config.ledgerNo 0x050A d)) [r.job.toNat, r.coll.group.toNat, r.coll.cser.toNat, r.contrib]
          (m.updPd d fun p => { p with slots := p.slots.eraseIdx i })) s

/-- COMBINED_ACK_TIMEOUT: UNITTMO counts (R348), 2 ms after the combined transaction left the port or was discarded. -/
def execCombinedAckTimeout (pd1 : Bool) (i : Nat) (s : State) : Host.Outcome State Fault Refusal :=
  lift (fun m =>
    let d := if pd1 then 1 else 0
    match (m.pd d).combs[i]? with
    | none => m
    | some k =>
      match k.sent with
      | none => m
      | some t =>
        if m.now < t + Config.txTimeout then m
        else
          let c := k.x.coll
          led 0x0509 sevWarn (atPort (Config.ledgerNo 0x0509 d)) [k.x.job.toNat, c.group.toNat, c.cser.toNat, c.shidx.toNat]
            (m.updPd d fun p => { p with combs := p.combs.eraseIdx i, unittmo := satAdd 32 p.unittmo 1 })) s

end Sys2Proof.Machine
end

