-- ==== Sys2Proof/Machine/PortOps.lean ====
section
/-! DEFINITION. A fabric port's link: receiving and resending frames, going DOWN and UP, rings with failures
(10 R317, R318, R321, R325 to R328, R334 to R338). -/

namespace Sys2Proof.Machine

/-- The module number at the far end of a port. -/
def farNum (m : Module) (n : Nat) : Nat := numAt m.topo.lens (farEnd m n)

/-- The port of the neighbour that port n connects to. -/
def farPort (n : Nat) : Nat := if n % 2 = 0 then n + 1 else n - 1

/-! Rings with failures (R338) -/

/-- A known failed port pair: two module numbers; a pair of this module's own names its port as
65,536 + port. -/
abbrev Pair := Nat × Nat

/-- Two places lie on this module's ring of axis k. -/
def onRing (m : Module) (k : Nat) (a : Coord) : Bool :=
  (upTo 5).all fun j => j == k || axisGet a j == axisGet m.topo.coord j

/-- The axis of this module's ring on which a failed pair lies. -/
def ringAxis (m : Module) (p : Pair) : Option Nat :=
  if p.2 ≥ 65536 then some (axisOf (p.2 - 65536))
  else
    let a := coordOf m.topo.lens p.1
    let b := coordOf m.topo.lens p.2
    (upTo 5).find? fun k => onRing m k a && onRing m k b && axisGet a k != axisGet b k

/-- The failed pairs known on a ring. -/
def failedOn (m : Module) (k : Nat) : Nat := (m.fab.failedPairs.filter fun p => ringAxis m p == some k).length

/-- This module's coordinates in one word, a byte each. -/
def coordWord (c : Coord) : Nat := leNat ([c.t, c.s, c.e, c.p, c.d].map (BitVec.ofNat 8))

/-- The Librarian learns of a failed pair; with two or more on a ring it tells the tray controller. -/
def noteFailed (p : Pair) (m : Module) : Module :=
  match ringAxis m p with
  | none => m
  | some k =>
    if m.fab.failedPairs.contains p then m
    else
      let m := { m with fab := { m.fab with failedPairs := m.fab.failedPairs ++ [p] } }
      if m.boot.lib && 2 ≤ failedOn m k then
        led 0x050B sevError atModule [Config.ledgerNo 0x050B k, Config.ledgerNo 0x050B (256 + coordWord m.topo.coord), failedOn m k] (toTray (.ring k) m)
      else m

/-- The pair of one of this module's own ports. -/
def ownPair (m : Module) (n : Nat) : Pair := (m.num, 65536 + n)

/-! Port states -/

/-- Detoured transactions that wait at a port that is no longer UP meet it and are discarded (R336). -/
def dropDetoured (n : Nat) (m : Module) : Module :=
  ((m.port n).oq.filter (·.x.det)).foldl (fun m o => detDrop n o.x o.inp o.own m)
    (m.updPort n fun p => { p with oq := p.oq.filter fun o => !o.x.det })

/-- A port stops carrying traffic: its replay buffer and what waits behind it are lost (R327). -/
def portStop (n : Nat) (st : PortSt) (m : Module) : Module :=
  dropDetoured n (m.updPort n fun p =>
    { p with st := st, replay := [], resend := [], fq := [], cq := [], peerRun := false, lanesUp := false,
             replayAsked := (0, 0) })

/-- A port declared DOWN: the Librarian writes a ledger entry, a LINK_DOWN FAULT is flooded (R326, R327, R354). Causes of event
0x0501. -/
def portDown (n cause : Nat) (m : Module) : Module :=
  let m := portStop n .down m
  let m := led 0x0501 sevWarn (atPort n) [n, cause, (m.port n).lanefail.toNat] m
  sendFault .linkDown (BitVec.ofNat 16 (farNum m n)) (noteFailed (ownPair m n) m)

/-- A link starts afresh once its lanes have trained: sequence numbers 0, buffers empty, all credits. -/
def linkFresh (n now : Nat) (p : Port) : Port :=
  { p with lanesUp := true, txSeq := 0, rxSeq := 0, replay := [], resend := [], fq := [], cq := [], replayAsked := (0, 0),
           credit := (upTo 9).map (fun v => (v, vcCredits n v)), owed := [], era := p.era + 1, lastRx := now, lastTx := now,
           reqSent := none }

/-- The peer reports coordinates and a port number that R317 allows (R318). -/
def peerOk (m : Module) (n : Nat) (b : StatusB) : Bool := b.port.val == farPort n && b.coord == farEnd m n

/-- The peer is not one that R317 allows: from now on the port sends only STATUS frames and carries no traffic (R318). -/
def misWire (n : Nat) (b : StatusB) (m : Module) : Module :=
  led 0x0503 sevError (atPort n) [n, b.modnum.toNat, b.port.val] (dropDetoured n (m.updPort n fun p =>
    { p with st := .miswire, replay := [], resend := [], fq := [], cq := [] }))

/-- The port comes UP: what failed on it is forgotten. -/
def portUp (n : Nat) (b : StatusB) (m : Module) : Module :=
  let m := m.updPort n fun p => { p with st := .up }
  let m := { m with fab := { m.fab with failedPairs := m.fab.failedPairs.filter fun p => p != ownPair m n } }
  led 0x0502 sevInfo (atPort n) [n, b.modnum.toNat, b.port.val] m

/-! Frames -/

/-- The port takes frames from its link. -/
def listens (p : Port) : Bool :=
  match p.st with
  | .up => true
  | .miswire => true
  | .training => p.lanesUp
  | _ => false

/-- Sequence number q is covered by an acknowledgement of a. -/
def coveredBy (a q : Nat) : Bool := decide ((a + 65536 - q) % 65536 < 32768)

/-- A frame taken in order: acknowledged frames leave the replay buffer, returned credits count (R325, R328). -/
def rxAccept (rx : Rx) (m : Module) : Module :=
  let n := rx.port.val
  let held := fun (f : Nat × Frame) => !(coveredBy rx.ackseq.toNat f.1)
  flushPort n (m.updPort n fun p =>
    { p with rxSeq := (rx.seq.toNat + 1) % 65536, lastRx := m.now, replayAsked := (0, 0),
             replay := p.replay.filter held, resend := p.resend.filter held,
             credit := Sparse.upd 0 p.credit rx.crvc.toNat (· + rx.crcnt.toNat) })

/-- A frame discarded: a REPLAY asks for the next one expected; the eighth request for one sequence number declares the link
DOWN (R325, R326). A MISWIRE port sends none (R318). -/
def rxReject (rx : Rx) (m : Module) : Module :=
  let n := rx.port.val
  let p := m.port n
  let m := m.updPort n fun p => { p with lastRx := if rx.good then m.now else p.lastRx }
  if p.st = .miswire then m
  else
    let k := if p.replayAsked.1 = p.rxSeq then p.replayAsked.2 + 1 else 1
    let m := emitCtl n (.replay p.rxSeq) (m.updPort n fun q => { q with replayAsked := (p.rxSeq, k) })
    if 8 ≤ k then portDown n 2 m else m

/-- The link passes this frame on. -/
def rxOk (m : Module) (rx : Rx) : Bool := rx.good && rx.seq.toNat == (m.port rx.port.val).rxSeq

/-- Receive a control frame, whose buffer is free again at once; one that fails its GMAC is taken by the link and discarded
(R342). -/
def rxCtl (rx : Rx) (k : Nat → Module → Module) (m : Module) : Module :=
  let n := rx.port.val
  if !(listens (m.port n)) then m
  else if !(rxOk m rx) then rxReject rx m
  else
    let m := rxAccept rx (m.updPort n fun p => { p with owed := Sparse.upd 0 p.owed 6 (· + 2) })
    if rx.auth && m.fabKey.isSome then k n m else m

/-- The same on an UP port. -/
def rxUp (rx : Rx) (k : Nat → Module → Module) (m : Module) : Module :=
  rxCtl rx (fun n m => if (m.port n).st = .up then k n m else m) m

/-! Transactions -/

/-- What becomes of a transaction from the receive buffers of port n: answered or not, switched on, or still there. -/
def rxOne (n : Nat) (take : Nat → Inp → Txn → Module → Took) (st : Module × List (BitVec 4) × List (Txn × Nat))
    (e : Txn × Nat) : Module × List (BitVec 4) × List (Txn × Nat) :=
  let i : Inp := .port n e.1.vc.toNat e.2
  if st.2.1.contains e.1.vc then (st.1, st.2.1, st.2.2 ++ [e])
  else
    match take n i e.1 st.1 with
    | .taken m => (freeBuf i e.1 m, st.2)
    | .lost m => (freeBuf i e.1 m, st.2)
    | .passed m => (m, st.2)
    | .refused c m => (answer e.1 .nack c [] [] (freeBuf i e.1 m), st.2)
    | .wait m => (m, e.1.vc :: st.2.1, st.2.2 ++ [e])

/-- Take what can be taken from the receive buffers of an UP port: a transaction that must wait holds up its channel alone
(R349). -/
def drainRx (n : Nat) (take : Nat → Inp → Txn → Module → Took) (m : Module) : Module :=
  if (m.port n).st ≠ .up then m
  else
    let r := (m.port n).rxq.foldl (rxOne n take) (m, [], [])
    r.1.updPort n fun p => { p with rxq := r.2.2 }

/-- Receive a transaction: a port that is not yet UP keeps it, a MISWIRE port discards it (R318, R325). -/
def rxTx (rx : Rx) (take : Nat → Inp → Txn → Module → Took) (x : Txn) (m : Module) : Module :=
  let n := rx.port.val
  if !(listens (m.port n)) then m
  else if !(rxOk m rx) then rxReject rx m
  else if (m.port n).st = .miswire then rxAccept rx (freeBuf (.port n x.vc.toNat (m.port n).era) x m)
  else drainRx n take (rxAccept rx (m.updPort n fun p => { p with rxq := p.rxq ++ [(x, p.era)] }))

end Sys2Proof.Machine
end

