-- ==== Sys2Proof/Machine/Fabric.lean ====
section
/-! DEFINITION. Transactions that arrive at a port and leave it (03 R101 to R103; 07 R239, R243; 08 Table 8.8;
10 R329, R333, R340). -/

namespace Sys2Proof.Machine

/-- The call number a transaction names at its target (Table 10.4). -/
def targetCall (x : Txn) : Word := (0xFFFF#16) ++ x.addr

/-- A remote access is refused: a NACK, and a ledger entry (03 Table 3.5, R103). -/
def refuseTx (slot : Nat) (x : Txn) (poison : Bool) (m : Module) : Module :=
  if poison then
    led 0x0406 sevError (atCtx m slot) [(targetCall x).toNat, x.src.toNat, x.job.toNat] m
  else ledOpen (atCtx m slot) m

/-- The checks of a remote access to n bytes: their keys, or why not. For a write of a fill `remote` is false: REMWR is not
checked (14 R470). -/
def remotePas (remote : Bool) (slot : Nat) (k : Acc) (c : Word) (n : Nat) (m : Module) : Module × Except Bool (List Nat) :=
  (runsOf c n).foldl (fun (st : Module × Except Bool (List Nat)) r =>
    match st.2 with
    | .error _ => st
    | .ok l =>
      let a := resolveLocal slot k remote none r.1 st.1
      match a.2 with
      | .pa pa => (a.1, .ok (l ++ (upTo r.2).map (pa + ·)))
      | .poison => (a.1, .error true)
      | _ => (a.1, .error false)) (m, .ok [])

/-- The bytes a WRITE stores: with HALF the last byte keeps its high nibble (07 R227). -/
def writeItems (x : Txn) (pas : List Nat) : List (Nat × WByte) :=
  (pas.zip x.payload).zipIdx.map fun e =>
    (e.1.1, { v := e.1.2, mask := if x.half && e.2 + 1 == x.payload.length then 0x0F else 0xFF, bad := x.bad.contains (e.2 / 8) })

/-- A WRITE with TCE is visible: with the last of its MOVE the counter increments (07 R228; log 136). -/
def moveSeen (slot : Nat) (x : Txn) (m : Module) : Module :=
  if !x.tce then m
  else
    let is := fun (e : MoveIn) => e.src == x.src && e.slot == x.srcslot && e.gen == x.srcgen && e.no == x.move.no
    let got := (m.fab.moves.filter is).foldl (fun a e => a + e.got) 1
    let rest := m.fab.moves.filter fun e => !is e
    if x.move.count ≤ got then turnNoticed slot (addCtr slot x.tctr 1 { m with fab := { m.fab with moves := rest } })
    else
      let e : MoveIn := { src := x.src, slot := x.srcslot, gen := x.srcgen, no := x.move.no, got := got }
      { m with fab := { m.fab with moves := rest ++ [e] } }

/-- The partition whose deposit region holds for a sender and job (14 R460). -/
def holdingPart (m : Module) (src job : BitVec 16) : Option Nat :=
  (upTo 8).find? fun p =>
    isPart m p && decide ((m.part p).depCount ≠ 0) && (m.part p).depmod == src && (m.part p).depjob == job

/-- A WRITE of a deposit at its holder: into slot A or B of the region (14 R460 to R462). -/
def depositTake (slot : Nat) (x : Txn) (b : Bool) (off : Nat) (m : Module) : Took :=
  match holdingPart m x.src x.job with
  | none => .refused .remoteDenied (refuseTx slot x false m)
  | some p =>
    let half := (m.part p).depCount / 2
    let fr := (m.part p).depFirst + (if b then half else 0)
    if half * 65536 < off + x.payload.length || !x.bad.isEmpty then .refused .remoteDenied (refuseTx slot x false m)
    else
      let pas := (upTo x.payload.length).map fun i => paMain fr (off + i)
      .taken (answer x .ack .noTarget [] [] (putBytes byContext (writeItems x pas) m))

/-- A received schedule image becomes the bookmark of its step (14 R470). -/
def installBm (slot step : Nat) (img : List Byte) (m : Module) : Module :=
  let x := m.ctx slot
  let s := Config.schedOf img
  let b : Bookmark :=
    { job := x.r.job, part := x.part, step := step, copies := [], lost := false, mixed := false, rsv := s.rsv,
      tensors := s.tensors, sched := s.sched, stepnum := s.stepnum, ctrs := s.ctrs, ptbase := x.r.ptbase,
      regions := x.bm.rgn, dep := none }
  let m := dropBms (fun k => k.job == x.r.job) m
  { m with bms := m.bms ++ [b] }

/-- Bytes of the schedule image of a fill arrive at the spare; with the last of them its bookmark is there. -/
def imageTake (slot : Nat) (x : Txn) (step off len : Nat) (m : Module) : Took :=
  let img := x.payload.zipIdx.foldl (fun l e => Sparse.set 0 l (off + e.2) (e.1.toNat + 1)) (m.ctx slot).img
  let all := (upTo len).all fun i => Sparse.get 0 img i != 0
  let bytes := (upTo len).map fun i => BitVec.ofNat 8 (Sparse.get 0 img i - 1)
  let m := m.updCtx slot fun y => { y with img := if all then [] else img }
  .taken (answer x .ack .noTarget [] [] (if all then installBm slot step bytes m else m))

/-- The bytes of a WRITE are stored; with an act of 03 Table 3.10 what R119 allows happens too. -/
def storeTx (slot : Nat) (x : Txn) (pas : List Nat) (m : Module) : Module :=
  let items := writeItems x pas
  let act := writeAct m none none (items.map fun e => (e.1, e.2.v))
  let m := putBytes byContext items m
  if act.isSome then undefCtx slot m else m

/-- A WRITE at the address it names (03 R103, R111; 07 R228, R239); a context's shadow receives a copy (14 R481). -/
def writeAddr (remote : Bool) (slot : Nat) (x : Txn) (m : Module) : Took :=
  let c := targetCall x
  match cowPages slot c x.payload.length m with
  | p :: ps => .wait (waitCow slot (p :: ps) m)
  | [] =>
    let r := remotePas remote slot .write c x.payload.length m
    match r.2 with
    | .error b => .refused .remoteDenied (refuseTx slot x b r.1)
    | .ok pas =>
      if toMain pas && !x.bad.isEmpty then .refused .remoteDenied (refuseTx slot x false r.1)
      else
        let m := moveSeen slot x (storeTx slot x pas r.1)
        let m := if remote then m.updCtx slot fun x => { x with bm := { x.bm with lastRemote := m.now } } else m
        .taken (answer x .ack .noTarget [] [] (if remote then copyToShadow slot x m else m))

/-- The call number of VARNOTE as a switch notice names it (11 R399). -/
def noteCall : Word := BitVec.ofNat 64 (0xFFFF * 2 ^ 48 + 4 * 2 ^ 44 + offVarnote)

/-- A switch notice at a member: the two words of VARNOTE (11 R399). -/
def noteTake (slot : Nat) (x : Txn) (m : Module) : Took :=
  let w := BitVec.ofNat 64 (leNat (x.payload.take 8))
  .taken (answer x .ack .noTarget [] []
    (takeNotice slot (field w 56 2) (field w 0 32) (leNat ((x.payload.drop 8).take 8)) m))

/-- A WRITE at its target. -/
def writeTake (slot : Nat) (x : Txn) (m : Module) : Took :=
  match x.lib with
  | .none => if targetCall x = noteCall then noteTake slot x m else writeAddr true slot x m
  | .deposit b off => depositTake slot x b off m
  | .page => if callSpace (targetCall x) = 0 then writeAddr false slot x m
             else .refused .remoteDenied (refuseTx slot x false m)
  | .image step off len => imageTake slot x step off len m

/-- A READ at its target. -/
def readTake (slot : Nat) (x : Txn) (m : Module) : Took :=
  let r := remotePas true slot .read (targetCall x) x.len m
  match r.2 with
  | .error b => .refused .remoteDenied (refuseTx slot x b r.1)
  | .ok pas =>
    let d := readPas pas r.1
    .taken (answer x .readdata .noTarget (d.2.map (·.1)) (badWords (d.2.map (·.2))) d.1)

/-- An ATOMIC at its target (03 R94; 04 R134). Its payload holds rb, then the value compared. -/
def atomicTake (slot : Nat) (x : Txn) (m : Module) : Took :=
  let fn := x.fn.toNat
  let n := atomSize fn
  let c := targetCall x &&& ~~~(BitVec.ofNat 64 (n - 1))
  match cowPages slot c n m with
  | p :: ps => .wait (waitCow slot (p :: ps) m)
  | [] =>
    let r := remotePas true slot .atomic c n m
    match r.2 with
    | .error b => .refused .remoteDenied (refuseTx slot x b r.1)
    | .ok pas =>
      if toMain pas && !x.bad.isEmpty then .refused .remoteDenied (refuseTx slot x false r.1)
      else
      let b := BitVec.ofNat 64 (leNat (x.payload.take 8))
      let d := BitVec.ofNat 64 (leNat ((x.payload.drop 8).take 8))
      let act := writeAct r.1 none none (atomItems fn b d pas r.1)
      let a := atomAt fn b d (!x.bad.isEmpty) pas r.1
      let m := if act.isSome then undefCtx slot a.1 else a.1
      .taken (answer x .readdata .noTarget (leBytes n a.2.1) (if a.2.2 then [0] else []) m)

/-- A collective transaction at its target, acknowledged once it is added or written (10 R348, R352). -/
def collArrive (slot : Nat) (x : Txn) (m : Module) : Took :=
  match collTake slot x m with
  | .taken m' => .taken (answer x .ack .noTarget [] [] m')
  | r => r

/-! Arriving -/

/-- A payload that fails its check is discarded without a reply (10 R340). -/
def authFail (n : Nat) (x : Txn) (m : Module) : Took :=
  .lost (led 0x0508 sevError (atPort n) [n, x.src.toNat, x.job.toNat]
    (m.updPort n fun p => { p with fabauth := satAdd 32 p.fabauth 1 }))

/-- A request for this module: no live context of its job gives NO_TARGET (03 R101), but where a broadcast's routes part it is
copied on (10 R352). -/
def request1 (n : Nat) (x : Txn) (m : Module) : Took :=
  match planCopy x m with
  | some m' => .taken (answer x .ack .noTarget [] [] m')
  | none =>
    match jobCtx m x.job with
    | none => .refused .noTarget m
    | some slot =>
      if !x.keyOk then authFail n x m
      else
        match x.kind with
        | .read => readTake slot x m
        | .atomic => atomicTake slot x m
        | .coll => collArrive slot x m
        | _ => writeTake slot x m

/-- What a reply does for the transaction it answers. -/
def replyTo (x : Txn) (f : Flight) (m : Module) : Module :=
  match x.kind with
  | .nack => flightRefused f x.cause m
  | .readdata => flightData f (x.payload.zipIdx.map fun e => (e.1, x.bad.contains (e.2 / 8))) m
  | _ => flightAcked f m

/-- A combined transaction has its answer (10 R348). -/
def combDone (id : Nat) (m : Module) : Module :=
  each [0, 1] (fun d m => m.updPd d fun p => { p with combs := p.combs.filter fun c => c.id != id }) m

/-- A reply for this module: matched by tag and incarnation, or discarded with event 0x0507 (07 R243). One to a combined
transaction or to a copy answers what holds no tag. -/
def reply1 (n : Nat) (x : Txn) (m : Module) : Took :=
  if !x.keyOk then authFail n x m
  else
    match x.tagless with
    | some 0 => .taken m
    | some (id + 1) => .taken (if x.kind = .ack then combDone id m else m)
    | none =>
      match flightOf m x with
      | some f => .taken (replyTo x f m)
      | none => .taken (led 0x0507 sevInfo (atPort n) [x.tag.toNat, x.inc.toNat, x.src.toNat] m)

/-- An answer to a request. -/
def isReply (x : Txn) : Bool := x.kind == .ack || x.kind == .nack || x.kind == .readdata

/-- A transaction from a link: one for another module is switched on by route, detour or discard, with neither context nor key
(10 R333). -/
def txArrive (n : Nat) (i : Inp) (x : Txn) (m : Module) : Took :=
  if x.dst ≠ ownNum m then .passed (switchTx x i m.now .fwd m)
  else if isReply x then reply1 n x m
  else request1 n x m

/-- WRITE_RECEIVE. -/
def execWriteReceive (rx : Rx) (x : Txn) (s : State) : Host.Outcome State Fault Refusal :=
  lift (rxTx rx txArrive { x with kind := .write }) s
/-- READ_RECEIVE. -/
def execReadReceive (rx : Rx) (x : Txn) (s : State) : Host.Outcome State Fault Refusal :=
  lift (rxTx rx txArrive { x with kind := .read }) s
/-- ATOMIC_RECEIVE. -/
def execAtomicReceive (rx : Rx) (x : Txn) (s : State) : Host.Outcome State Fault Refusal :=
  lift (rxTx rx txArrive { x with kind := .atomic }) s
/-- COLL_RECEIVE. -/
def execCollReceive (rx : Rx) (x : Txn) (s : State) : Host.Outcome State Fault Refusal :=
  lift (rxTx rx txArrive { x with kind := .coll }) s
/-- ACK_RECEIVE. -/
def execAckReceive (rx : Rx) (x : Txn) (s : State) : Host.Outcome State Fault Refusal :=
  lift (rxTx rx txArrive { x with kind := .ack }) s
/-- NACK_RECEIVE. -/
def execNackReceive (rx : Rx) (x : Txn) (s : State) : Host.Outcome State Fault Refusal :=
  lift (rxTx rx txArrive { x with kind := .nack }) s
/-- READDATA_RECEIVE. -/
def execReaddataReceive (rx : Rx) (x : Txn) (s : State) : Host.Outcome State Fault Refusal :=
  lift (rxTx rx txArrive { x with kind := .readdata }) s

/-- TRANSACTION_FORWARD: a transaction for another module comes in. -/
def execTransactionForward (rx : Rx) (x : Txn) (s : State) : Host.Outcome State Fault Refusal :=
  lift (fun m => if x.dst = ownNum m then m else rxTx rx txArrive x m) s

/-- TRANSACTION_SEND of the i-th transaction that waits at a port. -/
def execTransactionSend (port : PortNo) (i : Nat) (s : State) : Host.Outcome State Fault Refusal :=
  lift (sendTx port.val i) s

/-- The transaction in flight that an own transaction at a port carries. -/
def outFlight (m : Module) (o : OutTx) : Option Flight := if o.own = .flight then flightOf m o.x else none

/-- A held transaction is discarded: its issuer sees the timeout, which has passed (R334). -/
def heldLost (o : OutTx) (m : Module) : Module :=
  match outFlight m o with
  | some f => flightTimedOut f (freeBuf o.inp o.x m)
  | none => dropTx o.x o.inp o.own m

/-- HELD_TRAFFIC_DISCARD: at the head of the queue of a port that is not UP (R334). -/
def execHeldTrafficDiscard (port : PortNo) (s : State) : Host.Outcome State Fault Refusal :=
  lift (fun m =>
    let p := m.port port.val
    match p.oq with
    | [] => m
    | o :: q =>
      if p.st = .up ∨ m.now < o.since + Config.txTimeout then m
      else heldLost o (m.updPort port.val fun p => { p with oq := q })) s

/-- What waits in the receive buffers of the ports is taken up where it can be (R349). -/
def drainAll (m : Module) : Module :=
  (upTo 10).foldl (fun m n => if (m.port n).rxq.isEmpty then m else drainRx n txArrive m) m

end Sys2Proof.Machine
end

