-- ==== Sys2Proof/Machine/Links.lean ====
section
/-! DEFINITION. Link and control-frame commands (10 R318, R321, R324 to R328, R335 to R337, R354 to R359). -/

namespace Sys2Proof.Machine

/-- IDLE_RECEIVE. -/
def execIdleReceive (rx : Rx) (s : State) : Host.Outcome State Fault Refusal := lift (rxUp rx fun _ m => m) s

/-- The frames from the named one on are to be sent again, in order, as the slots allow (R325). -/
def resend (n q : Nat) (m : Module) : Module :=
  flushPort n (m.updPort n fun p =>
    { p with resend := p.replay.filter fun f => decide ((f.1 + 65536 - q) % 65536 < 32768), resendAt := m.now })

/-- REPLAY_RECEIVE. -/
def execReplayReceive (rx : Rx) (expseq : BitVec 16) (s : State) : Host.Outcome State Fault Refusal :=
  lift (rxCtl rx fun n m => resend n expseq.toNat m) s

/-- Declare an incarnation of a peer dead (13 R441 to R443): PEERDEAD, the ledger, vector 1 at every function whose
contexts hold a group with the peer. Each incarnation is declared at most once. -/
def declareDead (peer : BitVec 16) (inc : BitVec 32) (sent : Nat) (m : Module) : Module :=
  if !m.boot.lib || m.lease.dead.contains (peer, inc) then m
  else
    let m := { m with lease := { m.lease with
        dead := m.lease.dead ++ [(peer, inc)], deadCount := satAdd 32 m.lease.deadCount 1, lastDead := peer } }
    let m := led 0x0303 sevError atModule [peer.toNat, inc.toNat, sent] m
    let m := each (slotsWhere m fun x => x.shadow.role != 0 && x.shadow.modnum == peer)
      (fun i m => m.updCtx i fun x => { x with shadow := { x.shadow with role := 0, admitted := false, clean := 0 } }) m
    let fs := ((slotsWhere m fun _ => true).filter (fun i => groupHas m i peer)).filterMap fun i =>
      boundFn m (m.ctx i).part
    each fs.dedup (fun f => irq f 1) m

/-- A module reports its incarnation: a change declares the earlier one dead, and ends its lapse notice (13 R441,
R442). -/
def noteInc (b : StatusB) (m : Module) : Module :=
  let old := m.lease.seenInc.find? fun e => e.1 == b.modnum
  let m := { m with lease := { m.lease with
      seenInc := (m.lease.seenInc.filter fun e => e.1 != b.modnum) ++ [(b.modnum, b.inc)],
      notices := m.lease.notices.filter fun n => !(n.1 == b.modnum && n.2.1 != b.inc) } }
  match old with
  | some e => if e.2 ≠ b.inc then declareDead b.modnum e.2 0 m else m
  | none => m

/-- The peer's STATUS shows RUN on an UP port: the Librarian removes the detour entries (R337). -/
def detourEnd (n : Nat) (b : StatusB) (m : Module) : Module :=
  if b.pstate = .run ∧ (m.port n).detour ∧ m.boot.lib then
    led 0x0506 sevInfo (atPort n) [n] (m.updPort n fun p => { p with detour := false })
  else m

/-- An authenticated STATUS (R318, R321, R326, R337). -/
def statusTake (b : StatusB) (n : Nat) (m : Module) : Module :=
  let st := (m.port n).st
  let m := noteInc b (m.updPort n fun p =>
    { p with peerport := b.port.val, peermod := b.modnum, peerInc := b.inc, peerRun := b.pstate == .run })
  match st with
  | .training => if peerOk m n b then detourEnd n b (portUp n b m) else misWire n b m
  | .up =>
    if b.pstate = .training then portDown n 3 m
    else if !(peerOk m n b) then misWire n b m
    else detourEnd n b m
  | .miswire => if b.pstate = .training then portDown n 3 m else m
  | _ => m

/-- STATUS_RECEIVE. -/
def execStatusReceive (rx : Rx) (b : StatusB) (s : State) : Host.Outcome State Fault Refusal :=
  lift (rxCtl rx (statusTake b)) s

/-- A FAULT seen first is forwarded ahead of every queued frame and applied (R355, R356). -/
def faultTake (b : FaultB) (n : Nat) (m : Module) : Module :=
  let recent := m.fab.seen.filter fun e => decide (m.now < e.2.2 + Config.faultMemoryNs)
  let m := { m with fab := { m.fab with seen := recent } }
  if recent.any fun e => e.1 == b.reporter.toNat && e.2.1 == b.serial.toNat then m
  else
    let m := { m with fab := { m.fab with seen := recent ++ [(b.reporter.toNat, b.serial.toNat, m.now)] } }
    let m := each ((upPorts m).filter (· != n)) (fun k => emitFault k b) m
    let a := b.reporter.toNat
    let c := b.subject.toNat
    let m := if b.type ≠ .job ∧ a ≠ m.num ∧ c ≠ m.num then noteFailed (Nat.min a c, Nat.max a c) m else m
    if m.boot.lib then applyFault b m else m

/-- FAULT_RECEIVE. -/
def execFaultReceive (rx : Rx) (b : FaultB) (s : State) : Host.Outcome State Fault Refusal :=
  lift (rxUp rx (faultTake b)) s

/-- An authenticated FENCED frame (R359). -/
def fencedTake (b : FencedB) (n : Nat) (m : Module) : Module :=
  let m := portStop n .peerFenced m
  let m := led 0x0504 sevWarn (atPort n) [n, b.modnum.toNat, b.inc.toNat] m
  sendFault .peerFenced (BitVec.ofNat 16 (farNum m n)) (noteFailed (ownPair m n) m)

/-- FENCED_RECEIVE, in whatever state the port listens. -/
def execFencedReceive (rx : Rx) (b : FencedB) (s : State) : Host.Outcome State Fault Refusal :=
  lift (rxCtl rx (fencedTake b)) s

/-- LINK_SILENCE_TIMEOUT: 500 ns without a frame that passes its CRC (R326). -/
def execLinkSilenceTimeout (port : PortNo) (s : State) : Host.Outcome State Fault Refusal :=
  lift (fun m =>
    let p := m.port port.val
    if (p.st = .up ∨ p.st = .miswire) ∧ p.lastRx + Config.silenceNs ≤ m.now then portDown port.val 0 m else m) s

/-- FEC_ALIGNMENT_LOSS (R326). -/
def execFecAlignmentLoss (port : PortNo) (lane : BitVec 4) (s : State) : Host.Outcome State Fault Refusal :=
  lift (fun m =>
    let p := m.port port.val
    if (p.st = .up ∨ p.st = .miswire) ∧ lane.toNat < lanesOf port.val then portDown port.val 1 m else m) s

/-- The port has a peer: its axis is longer than 1 (R317). -/
def hasPeer (m : Module) (n : Nat) : Bool := axisGet m.topo.lens (axisOf n) != 1

/-- TRAINING_ATTEMPT: of a DOWN port, when its peer has begun one or every 10 s (R321); a PEER_FENCED port leaves
that state in no other way (R359). -/
def execTrainingAttempt (port : PortNo) (s : State) : Host.Outcome State Fault Refusal :=
  lift (fun m =>
    let p := m.port port.val
    if (p.st = .down ∨ p.st = .peerFenced) ∧ hasPeer m port.val = true then
      m.updPort port.val fun p => { p with st := .training, lanesUp := false }
    else m) s

/-- The lanes of a port among those of a mask. -/
def laneMask (n : Nat) (f : BitVec 16) : BitVec 16 := f &&& BitVec.ofNat 16 (2 ^ lanesOf n - 1)

/-- TRAINING_END: with every lane trained the port waits in TRAINING for STATUS (R342); a lane that failed leaves
it DOWN (R321). -/
def execTrainingEnd (port : PortNo) (fail : BitVec 16) (s : State) : Host.Outcome State Fault Refusal :=
  lift (fun m =>
    let n := port.val
    if (m.port n).st ≠ .training ∨ (m.port n).lanesUp then m
    else
      let f := laneMask n fail
      if f = 0 then
        m.updPort n fun p => linkFresh n m.now { p with lanefail := 0, firstDone := true }
      else
        noteFailed (ownPair m n) (led 0x0501 sevWarn (atPort n) [n, 4, f.toNat]
          (m.updPort n fun p => { p with st := .down, lanefail := f, firstDone := true }))) s

/-- IDLE_SEND: nothing else sent for 250 ns (R326). -/
def execIdleSend (port : PortNo) (s : State) : Host.Outcome State Fault Refusal :=
  lift (fun m =>
    let p := m.port port.val
    if p.st = .up ∧ p.lastTx + Config.idleNs ≤ m.now then emitCtl port.val .idle m else m) s

/-- The STATUS a port sends (R318, R360). -/
def statusOf (m : Module) (n : PortNo) (ps : PState) : StatusB :=
  { pstate := ps, port := n, modnum := ownNum m, coord := m.topo.coord, inc := m.lease.inc, stamp := m.now }

/-- The PSTATE a port sends (R360); none in a state that sends no STATUS. -/
def pstateOf (p : Port) : Option PState :=
  match p.st with
  | .up => some .run
  | .miswire => some .miswire
  | .training => if p.lanesUp then some .training else none
  | _ => none

/-- STATUS is due: every 1 µs, and once in slot 0 of every frame (10 Table 10.10). -/
def statusDue (m : Module) (p : Port) : Bool :=
  p.statusAt == 0 || decide (p.statusAt + Config.statusNs ≤ m.now + 1) ||
    (slotAt m.now == 0 && decide (p.statusAt ≤ slotStart m.now))

/-- STATUS_SEND. -/
def execStatusSend (port : PortNo) (s : State) : Host.Outcome State Fault Refusal :=
  lift (fun m =>
    let n := port.val
    match pstateOf (m.port n) with
    | some ps =>
      if statusDue m (m.port n) then
        emitCtl n (.status (statusOf m port ps)) (m.updPort n fun p => { p with statusAt := m.now + 1 })
      else m
    | none => m) s

/-- FENCED_SEND: a fenced module sends only FENCED frames, one every 1 µs while the peer's credits last (R328, R358). -/
def execFencedSend (port : PortNo) (s : State) : Host.Outcome State Fault Refusal :=
  lift (fun m =>
    let p := m.port port.val
    let f : Frame := .fenced { modnum := ownNum m, inc := m.lease.inc, fstamp := m.lease.fencedAt }
    if p.st = .fencing ∧ hasCredit m port.val 6 f ∧
       (p.lastTx < m.lease.fencedAt ∨ p.lastTx + Config.fencedNs ≤ m.now) then emitVc port.val 6 f m
    else m) s

/-- Held traffic of a port moves to its detour, or is discarded (R334 to R336). -/
def moveHeld (n : Nat) (m : Module) : Module :=
  (m.port n).oq.foldl (fun m o => detourTx n o.x o.inp o.since o.own m) (m.updPort n fun p => { p with oq := [] })

/-- DETOUR_LOAD (R335). -/
def execDetourLoad (port : PortNo) (s : State) : Host.Outcome State Fault Refusal :=
  liftL (fun m =>
    let n := port.val
    let p := m.port n
    if (p.st = .down ∨ p.st = .peerFenced) ∧ p.detour = false ∧ hasPeer m n = true then
      moveHeld n (led 0x0505 sevInfo (atPort n) [n] (m.updPort n fun p => { p with detour := true }))
    else m) s

end Sys2Proof.Machine
end

