-- ==== Sys2Proof/Machine/Stamp.lean ====
section
/-! DEFINITION. The stamp and its alignment (09 R287 to R297), the tray controller's boot messages (17 Table 17.7),
the timetable switch (09 R308 to R313), and the passage of time. -/

namespace Sys2Proof.Machine

/-! Alignment states -/

/-- Number of an alignment state (18 Table 18.3). -/
def Align.num : Align → Nat
  | .unaligned => 0
  | .coarse => 1
  | .aligned => 2
  | .holdover => 3

/-- The present candidate parent. -/
def parentOf (m : Module) : Option Parent := m.topo.parents[m.time.parent]?

/-- The port of the present parent; 0 without one. -/
def parentPort (m : Module) : Nat :=
  match parentOf m with
  | some p => p.port.val
  | none => 0

/-- A frame came from a candidate parent. -/
def isCandidate (m : Module) (n : Nat) : Bool := m.topo.parents.any fun p => p.port.val == n

/-- Enter an alignment state: one ledger entry for each change (R296). -/
def enterAlign (a : Align) (m : Module) : Module :=
  if m.time.align = a then m
  else
    let old := m.time.align
    let m := { m with time := { m.time with align := a,
                                            everAligned := m.time.everAligned || decide (a = .aligned) } }
    led 0x0601 (if a = .holdover then sevWarn else sevInfo) atModule [a.num, old.num, parentPort m] m

/-- The bound of R295 in eighths of a nanosecond: a module whose first candidate parent lies in another rack is the timekeeper
of its rack (R291). -/
def boundOf (m : Module) : Nat :=
  match m.topo.parents.head? with
  | some p => if p.sameRack then Config.rackBound8 else Config.machineBound8
  | none => Config.rackBound8

/-- The whole counts nearest an offset in eighths. -/
def wholeOf (o8 : Int) : Int := (o8 + 4) / 8

/-- Set the stamp: what is measured from earlier stamps starts from the new one. -/
def setStamp (t : Nat) (m : Module) : Module :=
  let m := accrueThrot m
  { m with
    time := { m.time with now := t },
    pm := { m.pm with throtAt := t, lastDec := 0, samples := [] },
    ports := m.ports.map fun e =>
      (e.1, { e.2 with lastRx := t, lastTx := t, wireB := 0, slotUse := (0, 0), syncFrame := 0, statusAt := 0 }) }

/-- The single step the stamp ever takes (Table 9.1). -/
def stepStamp (o8 : Int) (m : Module) : Module := setStamp ((m.time.now : Int) - wholeOf o8).toNat m

/-- The rate within the ±244 ppm of R288. -/
def clampRate (r : Int) : Int := max (-Config.rateMax8) (min Config.rateMax8 r)

/-- Alignment corrects the rate too where the parent lies in another rack (R290). -/
def correctRate (o8 : Int) (m : Module) : Module :=
  let r := match parentOf m with
    | some p => if p.sameRack then 0 else clampRate (Config.rateOf m.time.rate8 o8)
    | none => 0
  { m with time := { m.time with rate8 := r } }

/-- The estimate of the offset lies within the bound or not: OUTOFBOUND, and the tray controller is told (R296). -/
def judgeBound (o8 : Int) (m : Module) : Module :=
  if o8.natAbs ≤ boundOf m then { m with time := { m.time with outOfBound := false } }
  else if m.time.outOfBound then m
  else
    toTray .outOfBound (led 0x0602 sevError atModule [(BitVec.ofInt 64 o8).toNat]
      { m with time := { m.time with outOfBound := true } })

/-- An exchange with the parent has completed with an estimated offset (R293 to R296). -/
def exchanged (o8 : Int) (m : Module) : Module :=
  let run := if o8.natAbs ≤ boundOf m then Nat.min 255 (m.time.run + 1) else 0
  match m.time.align with
  | .unaligned =>
    let rest := o8 - 8 * wholeOf o8
    let m := stepStamp o8 m
    enterAlign .coarse { m with time := { m.time with run := 0, offset8 := rest, slew8 := rest, lastHeard := m.now } }
  | a =>
    let m := correctRate o8 { m with time := { m.time with run := run, offset8 := o8, slew8 := o8 } }
    let m := judgeBound o8 m
    if (a = .coarse ∨ a = .holdover) ∧ Config.alignRuns ≤ run then enterAlign .aligned m else m

/-! The exchange (R292): t1 the sync's send stamp, t2 its receive stamp, t3 the request's send stamp, which the port keeps, t4
its receive stamp at the parent, t5 the response's send stamp, t6 its receive stamp -/

/-- Forget the exchange in progress. -/
def Time.clear (t : Time) : Time := { t with t1 := none, t2 := none, t4 := none, t5 := none, t6 := none }

/-- The send stamp of the child's request, once it has left. -/
def reqAt (m : Module) (n : Nat) : Option Nat :=
  ((m.port n).reqSent.filter fun e => e.1 == m.time.seqid).map (·.2)

/-- Complete the exchange once every stamp is there: peer delay, corrected by the link's asymmetry (R293). -/
def tryComplete (n : Nat) (m : Module) : Module :=
  match m.time.t1, m.time.t2, reqAt m n, m.time.t4, m.time.t5, m.time.t6 with
  | some t1, some t2, some t3, some t4, some t5, some t6 =>
    let mean : Int := (((t6 : Int) - t3) - ((t5 : Int) - t4)) / 2
    let delay := mean + (m.port n).linkasym
    let m := { m.updPort n (fun p => { p with linkdelay := delay.toNat, reqSent := none }) with time := m.time.clear }
    exchanged ((t2 : Int) - t1 - delay) m
  | _, _, _, _, _, _ => m

/-- A frame of the exchange from a candidate parent; only those of the present parent are used. -/
def fromParent (n : Nat) (k : Module → Module) (m : Module) : Module :=
  if !(isCandidate m n) then m
  else
    let m := { m with time := { m.time with lastHeard := m.now } }
    match parentOf m with
    | some p => if p.port.val = n then k m else m
    | none => m

/-- SYNC_RECEIVE. -/
def execSyncReceive (rx : Rx) (seqid : BitVec 16) (at8 : Nat) (s : State) : Host.Outcome State Fault Refusal :=
  lift (rxUp rx fun n m => fromParent n (fun m =>
    { m with time := { m.time.clear with seqid := seqid.toNat, t2 := some at8 } }) m) s

/-- FOLLOWUP_RECEIVE: of a sync, the child asks for the delay; of a response, it is the last stamp. -/
def execFollowupReceive (rx : Rx) (isResp : Bool) (seqid : BitVec 16) (t8 : Nat) (s : State) :
    Host.Outcome State Fault Refusal :=
  lift (rxUp rx fun n m => fromParent n (fun m =>
    if m.time.seqid ≠ seqid.toNat then m
    else if isResp then tryComplete n { m with time := { m.time with t5 := some t8 } }
    else if m.time.t2.isNone then m
    else emitCtl n (.delayreq seqid.toNat) { m with time := { m.time with t1 := some t8 } }) m) s

/-- DELAYREQ_RECEIVE: the parent answers with its receive stamp; the follow-up goes behind the answer once that has left, with
its send stamp (R292, 10 R360). -/
def execDelayreqReceive (rx : Rx) (seqid : BitVec 16) (at8 : Nat) (s : State) : Host.Outcome State Fault Refusal :=
  lift (rxUp rx fun n m => emitCtl n (.delayresp seqid.toNat at8) m) s

/-- DELAYRESP_RECEIVE. -/
def execDelayrespReceive (rx : Rx) (seqid : BitVec 16) (t8 at8 : Nat) (s : State) :
    Host.Outcome State Fault Refusal :=
  lift (rxUp rx fun n m => fromParent n (fun m =>
    if m.time.seqid ≠ seqid.toNat ∨ (reqAt m n).isNone then m
    else tryComplete n { m with time := { m.time with t4 := some t8, t6 := some at8 } }) m) s

/-- An exchange is due on a port: one every 64 frames (R292). -/
def syncDue (m : Module) (p : Port) : Bool :=
  p.syncFrame == 0 || decide (p.syncFrame + Config.exchangeNs / Config.frameNs ≤ m.now / Config.frameNs + 1)

/-- ALIGNMENT_EXCHANGE: the parent's sync, which leaves in slot 0 with its follow-up behind it (R292, R301). -/
def execAlignmentExchange (port : PortNo) (t8 : BitVec 3) (s : State) : Host.Outcome State Fault Refusal :=
  lift (fun m =>
    let n := port.val
    let p := m.port n
    if p.st = .up ∧ syncDue m p then
      emitCtl n (.sync p.syncSeq t8) (m.updPort n fun p =>
        { p with syncSeq := (p.syncSeq + 1) % 65536, syncFrame := m.now / Config.frameNs + 1 })
    else m) s

/-- HOLDOVER_ENTRY: every candidate parent silent for 8 exchange periods (Table 9.1). -/
def execHoldoverEntry (s : State) : Host.Outcome State Fault Refusal :=
  lift (fun m =>
    if m.time.align = .aligned ∧ m.topo.timekeeper = false ∧
       m.time.lastHeard + Config.holdoverPeriods * Config.exchangeNs ≤ m.now then
      enterAlign .holdover { m with time := { m.time.clear with run := 0, lastTry := m.now } }
    else m) s

/-- PARENT_RETRY: the next candidate in turn (R296). -/
def execParentRetry (s : State) : Host.Outcome State Fault Refusal :=
  liftL (fun m =>
    if m.time.align = .holdover ∧ m.topo.parents ≠ [] then
      { m with time := { m.time.clear with parent := (m.time.parent + 1) % m.topo.parents.length, run := 0,
                                           lastTry := m.now } }
    else m) s

/-! The tray controller's messages -/

/-- TKSET: the machine timekeeper's stamp; it becomes ALIGNED (R291, R294). -/
def execTkset (stamp : BitVec 64) (s : State) : Host.Outcome State Fault Refusal :=
  liftT (fun m =>
    if m.topo.timekeeper ∧ m.time.align = .unaligned then enterAlign .aligned (setStamp stamp.toNat m) else m) s

/-- LINKASYM of a port: as the tray controller says on an optical port, 0 on copper (R293). -/
def asymOf (b : TopoB) (n : Nat) : Int :=
  if n < 4 then 0 else ((b.linkasym.find? fun e => e.1 == n).map (·.2)).getD 0

/-- TOPO (R315, 09 R291). -/
def execTopo (b : TopoB) (s : State) : Host.Outcome State Fault Refusal :=
  liftT (fun m =>
    if !b.wf then m
    else
      (upTo 10).foldl (fun m n => m.updPort n fun p => { p with linkasym := asymOf b n })
        { m with topo := b, time := { m.time.clear with parent := 0 } }) s

/-- FABKEY (10 R342). -/
def execFabkey (key : BitVec 256) (s : State) : Host.Outcome State Fault Refusal :=
  liftT (fun m => { m with fabKey := some key }) s

/-! Reading the stamp -/

/-- STAMPLO_READ (R289): the lower half answers, the upper half is latched for the reading function. -/
def execStamploRead (f : Fn) (s : State) : Host.Outcome State Fault Refusal :=
  liftRd f (fun m =>
    let m := m.updFunc f.val fun x => { x with stamphi := BitVec.ofNat 32 (m.now / 2 ^ 32) }
    hostOut (.stamplo f.val (BitVec.ofNat 32 m.now)) m) s

/-! Timetable switches -/

/-- Offset of TTSW (18 Table 18.2). -/
def offTtsw : Nat := 0x98

/-- TTSW, through the physical function, catalogue bit 2. -/
def writeTtsw (f : Fn) (bank : Bool) (frame : Nat) (m : Module) : Module :=
  physOnly f (gated 2 offTtsw f (ttswitch bank frame)) m

/-- TTSW. -/
def execTtsw (f : Fn) (bank : Bool) (frame : BitVec 48) (s : State) : Host.Outcome State Fault Refusal :=
  liftW (some f) (writeTtsw f bank frame.toNat) s

/-- TIMETABLE_SWITCH: recorded once its frame has begun; the ports have sent by the bank since that start (R311). -/
def execTimetableSwitch (s : State) : Host.Outcome State Fault Refusal := lift commitSwitch s

/-! The passage of time -/

/-- The rate correction of one reference nanosecond becomes counts to add or withhold. -/
def rateStep (t : Time) : Time :=
  let unit : Int := 8 * Config.exchangeNs
  let a := t.rateAcc + t.rate8
  if unit ≤ a then { t with rateAcc := a - unit, slew8 := t.slew8 + 8 }
  else if a ≤ -unit then { t with rateAcc := a + unit, slew8 := t.slew8 - 8 }
  else { t with rateAcc := a }

/-- One nanosecond of the reference: the stamp advances by one count, or by none or two when alignment withholds or adds one, at
most once in 4,096 ns (R288). -/
def tickTime (t : Time) : Time :=
  let t := rateStep t
  if t.slewWait ≠ 0 then { t with now := t.now + 1, slewWait := t.slewWait - 1 }
  else if 8 ≤ t.slew8 then { t with slew8 := t.slew8 - 8, slewWait := Config.slewNs - 1 }
  else if t.slew8 ≤ -8 then { t with now := t.now + 2, slew8 := t.slew8 + 8, slewWait := Config.slewNs - 1 }
  else { t with now := t.now + 1 }

/-- What a port does by itself as time passes: the ledger entry of a past frame's TTMISS (10 R563), and the frames that waited for
credits, slots or the wire. -/
def tickPort (m : Module) (n : Nat) : Module :=
  let p := m.port n
  let m := if p.missCount ≠ 0 ∧ p.missFrame < m.now / Config.frameNs then missEntry n m else m
  if p.cq.isEmpty && p.fq.isEmpty && p.resend.isEmpty then m else flushPort n m

/-- One nanosecond of the module: its time, its ports, and what waits in their receive buffers. -/
def tickModule (m : Module) : Module :=
  if !m.on then m
  else
    let m := noteActivity { m with time := tickTime m.time }
    drainAll ((upTo 10).foldl tickPort m)

/-- The meter's time base advances, and with it MTIME and the durations of open loans (16 R506, R507). -/
def tickMeter (x : Meter) : Meter :=
  if !x.powered then x
  else if x.sub + 1 < 1000000 then { x with sub := x.sub + 1 }
  else
    { x with sub := 0, ticks := x.ticks + 1, mtime := x.mtime + 1,
             loans := x.loans.map fun l => if l.suspended then l else { l with duration := l.duration + 1 } }

/-- What a step does on an empty queue (log 1). -/
def tick (s : State) : State := { s with mod := tickModule s.mod, meter := tickMeter s.meter }

end Sys2Proof.Machine
end

