-- ==== Sys2Proof/Machine/Lease.lean ====
section
/-! DEFINITION. Renewals, fencing and dead peers (13 R438 to R444). -/

namespace Sys2Proof.Machine

/-- RENEWAL_SEND: every 50 ms, from when the Librarian runs (R438). -/
def renewalSend (m : Module) : Module :=
  let l := m.lease
  if l.st = .fenced ∨ !m.boot.spdm ∨ (l.seq ≠ 0 ∧ m.now < l.last + Config.renewNs) then m
  else
    toTray (.renew (l.seq + 1) (ownNum m) l.inc m.now)
      { m with lease := { l with seq := l.seq + 1, last := m.now, sent := l.sent ++ [(l.seq + 1, m.now)] } }

/-- RENEWAL_SEND. -/
def execRenewalSend (s : State) : Host.Outcome State Fault Refusal := liftL renewalSend s

/-- Every port sends only FENCED frames; what waited is gone (10 R358). -/
def fencePorts (m : Module) : Module :=
  (upTo 10).foldl (fun m n => m.updPort n fun p =>
    { p with st := .fencing, oq := [], cq := [], replay := [], lanesUp := false, peerRun := false }) m

/-- The module fences itself (R440; 14 R457; 15 R492). -/
def fence (m : Module) : Module :=
  if m.lease.st = .fenced then m
  else
    let m := led 0x0302 sevFatal atModule [m.lease.s] m
    let m := toTray .fenced { m with lease := { m.lease with st := .fenced, fencedAt := m.now } }
    let m := each (slotsWhere m fun _ => true) escalate (fencePorts m)
    let m := dropBms (fun _ => true) { m with fab := { m.fab with jobKeys := [] } }
    let open_ := (upTo 8).filter fun p => (m.part p).st == .open_
    each open_ (fun p m => (closeBegin p 2 m).updPart p fun q => { q with keyNo := none }) m

/-- RENEWAL_ACCEPT: the lease extends to the request's send stamp (R439). -/
def renewalAccept (seq : Nat) (m : Module) : Module :=
  match m.lease.sent.find? fun e => e.1 == seq with
  | none => m
  | some e =>
    if m.lease.st = .fenced then m
    else
      { m with lease := { m.lease with st := .held, s := Nat.max m.lease.s e.2,
                                       sent := m.lease.sent.filter fun x => x.1 != seq },
               boot := { m.boot with renewed := true } }

/-- RENEWAL_ACCEPT. -/
def execRenewalAccept (seq : Nat) (s : State) : Host.Outcome State Fault Refusal := liftT (renewalAccept seq) s

/-- RENEWAL_REFUSE: fences the module at once (R439). -/
def execRenewalRefuse (seq : Nat) (s : State) : Host.Outcome State Fault Refusal :=
  liftC (fun m =>
    if m.boot.lib && m.boot.spdm && (m.lease.sent.any fun e => e.1 == seq) && m.lease.st != .fenced then
      fence (led 0x0301 sevError atModule [m.lease.s] m)
    else m) s

/-- LEASE_EXPIRY: the lease counter of PD0, independent of the Librarian (R439). -/
def execLeaseExpiry (s : State) : Host.Outcome State Fault Refusal :=
  liftC (fun m => if m.lease.st = .held ∧ m.lease.s + Config.leaseNs ≤ m.now then fence m else m) s

/-- LAPSE_NOTICE (R441). -/
def execLapseNotice (m : BitVec 16) (inc : BitVec 32) (sent : Nat) (s : State) : Host.Outcome State Fault Refusal :=
  liftT (fun x =>
    { x with lease := { x.lease with
        notices := (x.lease.notices.filter fun n => !(n.1 == m && n.2.1 == inc)) ++ [(m, inc, sent)] } }) s

/-- PEER_DEAD_DECLARE: a member of a bound group, with a lapse notice, once the stamp reaches S + 300 ms (R441). -/
def execPeerDeadDeclare (peer : BitVec 16) (s : State) : Host.Outcome State Fault Refusal :=
  liftL (fun m =>
    if m.fab.groups.any fun g => g.members.contains peer then
      match m.lease.notices.find? fun n =>
          n.1 == peer && decide (n.2.2 + Config.deadNs ≤ m.now) && !(m.lease.dead.contains (peer, n.2.1)) with
      | some n => declareDead peer n.2.1 n.2.2 m
      | none => m
    else m) s

end Sys2Proof.Machine
end

