-- ==== Sys2Proof/Machine/Boot.lean ====
section
/-! DEFINITION. Module reset and power loss, the boot ROM, READY and the catalogue (13 R428; 17 R534, R538 to R547). -/

namespace Sys2Proof.Machine

/-! What a reset leaves -/

/-- The module with every island reset: kept are the firmware image and the ledger (R428), the pins, the identity
derived at power-up (15 R500), faults of the memories' own, sensors, and what lies outside the module. -/
def wiped (trig : Nat) (m : Module) : Module :=
  let b := m.boot
  { Module.reset with
    boot := { Boot.init with
      rails := b.rails, pwrEn := b.pwrEn, pwrGood := b.pwrGood, rstN := b.rstN, perstN := b.perstN, trip := b.trip,
      refclk := b.refclk, inReset := true, rstTrig := trig, rstAt := m.now,
      ctxLost := (slotsWhere m fun _ => true).length, store := b.store, identity := b.identity,
      powerUps := b.powerUps },
    lease := { Lease.init with resets := m.lease.resets + 1, inc := Config.incarnation (m.lease.resets + 1) },
    att := { Att.init with transport := m.att.transport },
    ledger := m.ledger, out := m.out, draw := m.draw, chanErr := m.chanErr, sramErr := m.sramErr, trainBad := m.trainBad,
    hidKey := m.lease.resets + 1,
    pm := { Pm.init with tDie := m.pm.tDie, tPort := m.pm.tPort, tLpddr := m.pm.tLpddr, tOptical := m.pm.tOptical } }

/-- Power is gone: no logic runs, and neither image nor ledger is left (R534). -/
def powerOff (m : Module) : Module :=
  let w := wiped 6 m
  { w with boot := { w.boot with rails := false, store := [], ctxLost := 0 },
           ledger := { head := 0, entries := [] } }

/-! The image (Table 17.8) -/

/-- Bytes lo to lo + n − 1 of the image store. -/
def storeBytes (m : Module) (lo n : Nat) : List Byte := (upTo n).map fun i => Sparse.get 0 m.boot.store (lo + i)
/-- An n-byte field of the header. -/
def hdr (m : Module) (lo n : Nat) : Nat := leNat (storeBytes m lo n)
/-- Bytes of the image store. -/
def storeSize : Nat := 2 ^ 26

/-- The first check that fails, as BOOTSTAT names it (R542). -/
def imageCheck (m : Module) : Option Nat :=
  let len := hdr m 16 8
  let pub := hdr m 32 32
  if hdr m 0 4 ≠ 0x4F564657 ∨ hdr m 4 4 ≠ 1 then some 1
  else if len = 0 ∨ len % 4096 ≠ 0 ∨ storeSize < len then some 2
  else if Config.sha512 (storeBytes m 32 32) ≠ Config.romKeyHash then some 3
  else if !(Config.verify (BitVec.ofNat 256 pub) (Config.sha512 (storeBytes m 0 64 ++ storeBytes m 128 (len - 128)))
      (BitVec.ofNat 512 (hdr m 64 64))) then some 4
  else none

/-- The host link comes up; below x16 at 64 GT/s the Librarian writes event 0x0905 (R521). -/
def linkUp (m : Module) : Module :=
  if m.boot.perstN && (Config.linkRate != 6 || Config.linkWidth != 16) then
    led 0x0905 sevWarn atModule [Config.linkWidth, Config.linkRate] m
  else m

/-- The Librarian starts: attestation entries 0 and 1, the entry of the reset that went before (R542, 15 R501,
13 Table 13.8), and the channels retired that failed training at bring-up (08 R263). -/
def startLib (m : Module) : Module :=
  let img := Config.sha512 (storeBytes m 0 (hdr m 16 8))
  let m := { m with boot := { m.boot with st := .running, cause := 0, lib := true, restartClose := true } }
  let m := attest img (attest Config.romDigest m)
  let m := if m.boot.rstTrig = 6 then m else led 0x0204 sevError atModule [Config.ledgerNo 0x0204 m.boot.rstTrig, m.boot.ctxLost] m
  linkUp (m.trainBad.foldl (fun m k => retire (k / 16) (k % 16) 0 m) m)

/-- Check the image: start the Librarian, or leave the window open with the cause. -/
def bootCheck (m : Module) : Module :=
  match imageCheck m with
  | some c => { m with boot := { m.boot with st := .window, cause := c } }
  | none => startLib m

/-- The boot ROM starts once the module is powered, RST_N is high and the reference is there (R538, R539); it checks
an image that the store kept (R544). -/
def bootRom (m : Module) : Module :=
  if !(m.boot.rails && m.boot.inReset && m.boot.rstN && m.boot.refclk) then m
  else
    let m := { m with boot := { m.boot with inReset := false, st := .window } }
    if m.boot.store.isEmpty then m else bootCheck m

/-- A module reset with its trigger (Table 13.1): 0 a partition reset not complete, 1 the watchdog, 2 a port die,
3 MODRST, 4 the reset signal, 5 the reference. -/
def moduleReset (trig : Nat) (m : Module) : Module := bootRom (wiped trig m)

/-- BOOTGO, through the physical function while the window is open. -/
def bootGo (f : Fn) (m : Module) : Module :=
  if f ≠ 0 ∨ m.boot.lib ∨ m.boot.st ≠ .window ∨ !m.boot.perstN then m
  else bootCheck { m with boot := { m.boot with attempts := satAdd 32 m.boot.attempts 1 } }

/-- BOOTGO. -/
def execBootgo (f : Fn) (s : State) : Host.Outcome State Fault Refusal := lift (bootGo f) s

/-! READY (R545) -/

/-- Every fabric port has finished its first round of training. -/
def portsTrained (m : Module) : Bool := (upTo 10).all fun n => (m.port n).firstDone || !(hasPeer m n)

/-- READY: reported once all conditions hold. -/
def ready (m : Module) : Module :=
  if m.boot.ready || !(portsTrained m && m.time.everAligned && m.boot.renewed && m.boot.catalogue) then m
  else irq 0 4 (toTray .ready { m with boot := { m.boot with ready := true, trained := true } })

/-- READY. -/
def execReady (s : State) : Host.Outcome State Fault Refusal := liftL ready s

/-! The catalogue (R546) -/

/-- CATPUB_PUBLISH: once per module reset; bits 16 to 255 read as zero (Table 17.10). -/
def execCatpubPublish (v : BitVec 256) (s : State) : Host.Outcome State Fault Refusal :=
  liftL (fun m =>
    if m.cat.published then m
    else
      irq 0 4 { m with cat := { m.cat with published := true, pub := v &&& BitVec.ofNat 256 Config.catalogueBits } }) s

/-- The one accepted CATACCEPT write; a bit that was not published written as 1 is an act of 03 Table 3.10. -/
def catAccept (f : Fn) (v : BitVec 256) (m : Module) : Module :=
  if f ≠ 0 then m
  else if m.cat.accepted then led 0x0902 sevWarn atModule [v.toNat % 2 ^ 64] m
  else if v &&& ~~~m.cat.pub ≠ 0 then undefFn 0 m
  else
    attest (Config.sha512 (leBytes 32 v.toNat))
      { m with cat := { m.cat with accepted := true, en := v }, boot := { m.boot with catalogue := true } }

/-- CATACCEPT. -/
def execCataccept (f : Fn) (v : BitVec 256) (s : State) : Host.Outcome State Fault Refusal :=
  liftW (some f) (catAccept f v) s

/-- SPDM_SESSION_OPEN: once the Librarian has started (R540). -/
def execSpdmSessionOpen (s : State) : Host.Outcome State Fault Refusal :=
  liftL (fun m => { m with boot := { m.boot with spdm := true } }) s

end Sys2Proof.Machine
end

