-- ==== Sys2Proof/Machine/Collation.lean ====
section
/-! DEFINITION. Collation of a bookmark with the pages of another module, and what its end does (14 R468, R469, R472, R482). -/

namespace Sys2Proof.Machine

/-- Counts of a collation: pages compared, digest mismatches, failed pages, first failed page (R469). -/
structure ColSum where
  compared : Nat
  mismatch : Nat
  failed : Nat
  first : Nat
  deriving DecidableEq, Repr

def ColSum.zero : ColSum := { compared := 0, mismatch := 0, failed := 0, first := 0 }

/-- Compare one page. -/
def colPage (m : Module) (slot : Nat) (b : Bookmark) (vpn : Nat) (r : Nat × Nat × Nat) (img : List Byte) (c : ColSum) :
    ColSum :=
  let key := (m.ctx slot).col.key
  let c := { c with compared := c.compared + 1 }
  let fail := fun (c : ColSum) => { c with failed := c.failed + 1, first := if c.failed = 0 then vpn else c.first }
  match bmImage m slot b vpn with
  | none => fail { c with mismatch := c.mismatch + 1 }
  | some mine =>
    if colDigest key vpn r mine = colDigest key vpn r img then c
    else
      let c := { c with mismatch := c.mismatch + 1 }
      if pageAgrees r vpn mine img then c else fail c

/-- Compare pages in order; once more than COLFBMAX digests are unequal, collation stops (R468). -/
def colPages (m : Module) (slot : Nat) (b : Bookmark) : List (Nat × List Byte) → ColSum → ColSum
  | [], c => c
  | p :: ps, c =>
    match pageRegion b.regions p.1 with
    | none => colPages m slot b ps c
    | some r =>
      let c := colPage m slot b p.1 r p.2 c
      if (m.ctx slot).col.fbmax < c.mismatch then c else colPages m slot b ps c

/-- SHADOWSTAT after a collation (R482). -/
def shadowCount (slot step : Nat) (ok : Bool) (failed : Nat) (m : Module) : Module :=
  if (m.ctx slot).shadow.role = 0 then m
  else if ok then
    m.updCtx slot fun x => { x with shadow := { x.shadow with clean := satAdd 8 x.shadow.clean 1 } }
  else
    led 0x070B sevWarn (atCtx m slot) [step, failed]
      (m.updCtx slot fun x => { x with shadow := { x.shadow with clean := 0, failStep := step } })

/-- COLLATION_END against the pages the other module sent. -/
def collationEnd (slot : Nat) (pages : List (Nat × List Byte)) (refOk : Bool) (m : Module) : Module :=
  let x := m.ctx slot
  match x.state, bmOf m x.r.job with
  | .free, _ => m
  | _, none => m
  | _, some b =>
    let c := colPages m slot b pages ColSum.zero
    let clean := decide (c.failed = 0) && decide (c.mismatch ≤ x.col.fbmax)
    let m := m.updCtx slot fun x =>
      { x with col := { x.col with compared := c.compared, mismatch := c.mismatch, firstFailed := c.first,
                                   failed := c.failed, clean := clean } }
    let m := m.updPart x.part fun q =>
      if q.fillSt = 2 ∧ q.fillJob = x.r.job then { q with fillSt := if clean then 3 else 0 } else q
    shadowCount slot b.step (clean && refOk && !b.lost && !b.mixed) c.failed (irq3 x.part m)

/-- COLLATION_END. -/
def execCollationEnd (slot : BitVec 6) (pages : List (Nat × List Byte)) (refOk : Bool) (s : State) :
    Host.Outcome State Fault Refusal := liftL (collationEnd slot.toNat pages refOk) s

end Sys2Proof.Machine
end

