-- ==== Sys2Proof/Machine/ContextCmd.lean ====
section
/-! DEFINITION. Creating a context, and CTXCMD (03 R79 to R87; 15 R495, R496; 18 R557, R558). -/

namespace Sys2Proof.Machine

/-! Creation -/

/-- Two windows overlap in a cluster where both contexts own a core (03 R83). -/
def windowsMeet (a : CtxRegs) (b : Ctx) : Bool :=
  decide (a.csBase.toNat < b.r.csBase.toNat + b.r.csSize.toNat) &&
    decide (b.r.csBase.toNat < a.csBase.toNat + a.csSize.toNat) &&
    ((coresOf a.cores).any fun c => ownsCluster b (clusterOfCore c))

/-- The window meets the area of a cluster store that holds summaries (08 R255). -/
def meetsReserved (a : CtxRegs) : Bool :=
  decide (256 ≤ a.csBase.toNat + a.csSize.toNat) &&
    (coresOf a.cores).any fun c => reservedCluster (clusterOfCore c)

/-- The 64-bit fingerprint of a job key (15 R496). -/
def keyPrint (m : Module) (key : BitVec 256) (job : BitVec 16) : Word :=
  let k := Config.libKey m.lease.resets
  sipHash24 k.1 k.2 (leBytes 32 key.toNat ++ leBytes 2 job.toNat)

/-- The job key that the area's CTXKEY unwraps to under the loan of a partition (15 R495). -/
def unwrapKey (m : Module) (p : Nat) (a : Area) : Option (BitVec 256) :=
  match (m.part p).keyNo with
  | some n =>
    Config.unwrap n (((m.part p).openRec.map (·.loanid)).getD 0) a.r.job (BitVec.ofNat 16 m.num) a.keyE a.keyW a.keyT
  | none => none

/-- The checks of a creation in order: the cause of the first that fails (R557). -/
def createCheck (m : Module) (p : Nat) (a : Area) : Option Nat :=
  let cs := coresOf a.r.cores
  if m.lease.st = .fenced then some 7
  else if !m.boot.ready then some 11
  else if !m.time.everAligned then some 4
  else if !m.boot.renewed then some 5
  else if (m.part p).rst ≠ 0 then some 6
  else if (m.part p).st ≠ .open_ then some 3
  else if a.r.cores = 0 ∨ cs.any (fun c => partOfCore m c != p || (ownerOf m c).isSome) then some 8
  else if a.r.csSize = 0 ∨ 256 < a.r.csBase.toNat + a.r.csSize.toNat then some 12
  else if (m.ctxs.any fun e => e.2.state != .free && windowsMeet a.r e.2) || meetsReserved a.r then some 2
  else if (jobCtx m a.r.job).isSome then some 1
  else
    match unwrapKey m p a with
    | none => some 9
    | some key =>
      if !(m.att.prints.any fun e => e.1 == keyPrint m key a.r.job) && Config.fingerprintMax ≤ m.att.prints.length
      then some 10
      else none

/-- Install a job key: a KEYSTAMP later than the key's last, and NONCE counts from 0 (15 R496, 10 R339). -/
def installKey (key : BitVec 256) (job : BitVec 16) (m : Module) : Module × Nat :=
  let pr := keyPrint m key job
  let stamp := match m.att.prints.find? fun e => e.1 == pr with
    | some e => Nat.max m.now (e.2 + 1)
    | none => m.now
  let m := { m with
             att := { m.att with prints := (m.att.prints.filter fun e => e.1 != pr) ++ [(pr, stamp)] },
             fab := { m.fab with jobKeys := (m.fab.jobKeys.filter fun k => k.1 != job) ++ [(job, key, stamp)] } }
  ((upTo 2).foldl (fun m d => m.updPd d fun q => { q with nonces := Sparse.drop q.nonces job.toNat }) m, stamp)

/-- The first FREE slot from a given one on. -/
def freeFrom (m : Module) (pick : Nat) : Option Nat :=
  ((upTo 64).map fun i => (pick + i) % 64).find? fun i => (m.ctx i).state == .free

/-- The context of a creation that passed: errata counters zero (02 R71), accumulators +0 (04 R128). -/
def makeCtx (p slot : Nat) (a : Area) (m : Module) : Module :=
  let job := a.r.job
  let key := (unwrapKey m p a).getD 0
  let r := installKey key job m
  let m := (coresOf a.r.cores).foldl (fun m c =>
    m.updCore c CoreSt.released) r.1
  let gen := (m.ctx slot).gen + 1
  let x : Ctx := { Ctx.init with state := .created, gen := gen, part := p, r := a.r, keystamp := r.2 }
  (m.setCtx slot x).updPart p fun q =>
    { q with area := { q.area with st := .done, slot := slot, gen := gen.toNat, refuse := 0, keyE := 0, keyW := 0, keyT := 0 } }

/-- Carry out a creation request: held while no slot is FREE (07 R248). -/
def tryCreate (p pick : Nat) (m : Module) : Module :=
  let a := (m.part p).area
  match freeFrom m pick with
  | none => m
  | some slot =>
    match createCheck m p a with
    | some k =>
      m.updPart p fun q =>
        { q with area := { q.area with st := .refused, refuse := k, keyE := 0, keyW := 0, keyT := 0 } }
    | none => makeCtx p slot a m

/-- Offset of the creation area's CTXCMD. -/
def offAreaCmd : Nat := 0x400

/-- CREATE, by the function bound to the partition (03 R84); ignored while a request is PENDING. -/
def create (f : Fn) (p pick : Nat) (m : Module) : Module :=
  if !(isPart m p) || !(seesPart m f.val p) then m
  else if !(isBound m f.val p) || (m.part p).area.st == .pending then
    refused (some f) (atPart p) (partOff p offAreaCmd) 5 m
  else
    tryCreate p pick (m.updPart p fun q => { q with area := { q.area with st := .pending, refuse := 0, by_ := f.val } })

/-- CREATE. -/
def execCreate (f : Fn) (part : BitVec 3) (pick : BitVec 6) (s : State) : Host.Outcome State Fault Refusal :=
  liftW (some f) (create f part.toNat pick.toNat) s

/-- CREATE_PROCEED: a PENDING creation once a slot is FREE. -/
def execCreateProceed (part : BitVec 3) (pick : BitVec 6) (s : State) : Host.Outcome State Fault Refusal :=
  liftL (fun m => if (m.part part.toNat).area.st = .pending then tryCreate part.toNat pick.toNat m else m) s

/-! CTXCMD -/

/-- A CTXCMD write: only the bound function commands a context (03 R84); other states ignore it (R558). -/
def ctxCommand (f : Fn) (slot code : Nat) (ok : Ctx → Bool) (k : Module → Module) (m : Module) : Module :=
  onCtx (some f) slot offCtxcmd code (fun x => isBound m f.val x.part && ok x) k m

/-- The threads that START begins: on every owned core, each bit of the mask (03 R75). -/
def startList (x : Ctx) : List ThreadNo :=
  (coresOf x.r.cores).flatMap fun c =>
    ((upTo 256).filter fun b => x.r.startmask.getLsbD b).map fun b => BitVec.ofNat 17 (256 * c + b)

/-- The turn counters as a fresh context's first step finds them (11 R390). -/
def turnBases (slot : Nat) (m : Module) : Module :=
  m.updCtx slot fun x =>
    if x.state = .created then
      { x with sched := { x.sched with
          stages := x.sched.stages.map fun e => (e.1, { e.2 with tbase := x.ctr (e.2.cfg1.extractLsb' 0 9) }) } }
    else x

/-- START: the edition table is read (11 R372); to RUNNING; entry into RUNNING counts as progress (13 R420). -/
def startCtx (slot : Nat) (m : Module) : Module :=
  let x := m.ctx slot
  let m := turnBases slot (edTable slot m)
  let m := (startList x).foldl (fun m t => startThread slot t x.r.entry 0 m) m
  settle slot (progress slot (m.updCtx slot fun x =>
    { x with state := .running, ovd := { x.ovd with nextCheck := m.now + x.ovd.win * 1000000 / 16 } }))

/-- START. -/
def execStart (f : Fn) (slot : BitVec 6) (s : State) : Host.Outcome State Fault Refusal :=
  liftW (some f) (ctxCommand f slot.toNat 1 Ctx.quiet (startCtx slot.toNat)) s

/-- STOP, DELETE and RESET are accepted in CREATED, RUNNING, IDLE and FAULTED (R558). -/
def endCtx (f : Fn) (slot cmd : Nat) (m : Module) : Module :=
  ctxCommand f slot cmd Ctx.live (startTeardown slot cmd) m

/-- STOP. -/
def execStop (f : Fn) (slot : BitVec 6) (s : State) : Host.Outcome State Fault Refusal :=
  liftW (some f) (endCtx f slot.toNat 2) s
/-- DELETE. -/
def execDelete (f : Fn) (slot : BitVec 6) (s : State) : Host.Outcome State Fault Refusal :=
  liftW (some f) (endCtx f slot.toNat 3) s
/-- RESET. -/
def execReset (f : Fn) (slot : BitVec 6) (s : State) : Host.Outcome State Fault Refusal :=
  liftW (some f) (endCtx f slot.toNat 4) s

end Sys2Proof.Machine
end

