-- ==== Sys2Proof/Machine/CtxRegs.lean ====
section
/-! DEFINITION. Context registers with commands of their own: PTINV, ERRCLR, CTXCTL, GRPBIND (02 R67; 03 R100; 10 R343; 13
R435; 17 R547; 18 Tables 18.7, 18.9). -/

namespace Sys2Proof.Machine

/-- PTINV: FENCE.PT for the context by its owning function (R100), with an optional counter. -/
def ptInv (w : By) (slot : Nat) (ce : Bool) (ctr : CtrNo) (m : Module) : Module :=
  onCtx w slot offPtinv ((if ce then 512 else 0) + ctr.toNat) (fun x => w.all fun f => isBound m f.val x.part)
    (fun m => endFences slot (startFence slot none (if ce then some ctr else none) m)) m

/-- PTINV. -/
def execPtinv (f : Fn) (slot : BitVec 6) (ce : Bool) (ctr : CtrNo) (s : State) : Host.Outcome State Fault Refusal :=
  liftW (some f) (ptInv (some f) slot.toNat ce ctr) s

/-- ERRCLR. -/
def errClr (w : By) (slot : Nat) (sets : BitVec 4) (m : Module) : Module :=
  onCtx w slot offErrclr sets.toNat (fun _ => true) (clearErr slot sets) m

/-- ERRCLR. -/
def execErrclr (f : Option Fn) (slot : BitVec 6) (sets : BitVec 4) (s : State) : Host.Outcome State Fault Refusal :=
  liftW f (errClr f slot.toNat sets) s

/-- One field of CTXCTL: a value that selects a feature with its catalogue bit clear is ignored, and so is one at a wrong
state (R547, R549). -/
def ctlField (w : By) (slot bit_ : Nat) (v cur : Bool) (ok : Ctx → Bool) (set : Ctx → Ctx) (word : Nat) (m : Module) :
    Module :=
  if v = cur then m
  else if v && !(catOn m bit_) then led 0x0901 sevWarn atModule [ctxOff slot offCtxctl, bit_, writerNo w] m
  else if ok (m.ctx slot) then m.updCtx slot set
  else ctxRefused w slot offCtxctl word m

/-- CTXCTL (Table 18.9): ABORT only while CREATED (R435). -/
def writeCtxctl (w : By) (slot : Nat) (v : Word) (m : Module) : Module :=
  onCtx w slot offCtxctl v.toNat (fun _ => true) (fun m =>
    let r := (m.ctx slot).r
    let m := ctlField w slot 4 (bit v 2) r.abort (fun x => x.state == .created)
      (fun x => { x with r := { x.r with abort := bit v 2 } }) v.toNat m
    let m := ctlField w slot 14 (bit v 0) r.rnd (fun _ => true)
      (fun x => { x with r := { x.r with rnd := bit v 0 } }) v.toNat m
    m.updCtx slot fun x => { x with r := { x.r with keep := bit v 1 } }) m

/-- CTXCTL_WRITE. -/
def execCtxctlWrite (f : Fn) (slot : BitVec 6) (v : Word) (s : State) : Host.Outcome State Fault Refusal :=
  liftW (some f) (fun m =>
    if seesCtx m (some f) slot.toNat then rsvOk (some f) slot.toNat 7 v (writeCtxctl (some f) slot.toNat v) m else m) s

/-! Groups (10 R343) -/

/-- Member entries in use on the module. -/
def memberEntries (gs : List Group) : Nat := (gs.map fun g => g.members.length).sum

/-- Bind refused: REFUSED, and event 0x050D with 1 limit, 2 list not local, 3 list unreadable or poisoned. -/
def grpRefuse (slot : Nat) (id : BitVec 12) (cause : Nat) (m : Module) : Module :=
  led 0x050D sevWarn (atCtx m slot) [id.toNat, cause]
    (m.updCtx slot fun x => { x with grpDone := false, grpRefused := true })

/-- The member list of n modules, read from local main memory or a carrel. -/
def memberList (slot n : Nat) (m : Module) : Module × Except Nat (List (BitVec 16)) :=
  let c := (m.ctx slot).grplist
  if !(isLocal m c) || decide (1 < callSpace c) then (m, .error 2)
  else
    let r := libRead slot c (2 * n) m
    match r.2 with
    | some bs =>
      if anyBad bs then (r.1, .error 3)
      else (r.1, .ok ((upTo n).map fun i => BitVec.ofNat 16 (bytesNat ((bs.drop (2 * i)).take 2))))
    | none => (r.1, .error 3)

/-- Bind a group; a group bound under the same number is replaced (12 R405). -/
def bindGroup (slot : Nat) (id : BitVec 12) (n : Nat) (m : Module) : Module :=
  let others := m.fab.groups.filter fun g => !(g.slot == slot && g.id == id)
  if 256 ≤ others.length ∨ 1048576 < memberEntries others + n then grpRefuse slot id 1 m
  else
    let r := memberList slot n m
    match r.2 with
    | .error c => grpRefuse slot id c r.1
    | .ok ms =>
      let g : Group := { slot := slot, job := (m.ctx slot).r.job, id := id, members := ms, cser := 0 }
      { r.1 with fab := { r.1.fab with groups := others ++ [g] } }.updCtx slot fun x =>
        { x with grpDone := true, grpRefused := false }

/-- Release a group. -/
def unbindGroup (slot : Nat) (id : BitVec 12) (m : Module) : Module :=
  { m with fab := { m.fab with groups := m.fab.groups.filter fun g => !(g.slot == slot && g.id == id) } }.updCtx slot
    fun x => { x with grpDone := true, grpRefused := false }

/-- A GRPBIND write: by the owning function, catalogue bit 3. -/
def grpBind (f : Fn) (slot v : Nat) (k : Module → Module) (m : Module) : Module :=
  onGated 3 (some f) slot offGrpbind v (fun x => isBound m f.val x.part) k m

/-- GRPBIND of G = g1 + 1 members. -/
def execGrpbind (f : Fn) (slot : BitVec 6) (group : BitVec 12) (g1 : BitVec 15) (s : State) :
    Host.Outcome State Fault Refusal :=
  liftW (some f) (grpBind f slot.toNat (g1.toNat * 65536 + group.toNat) (bindGroup slot.toNat group (g1.toNat + 1))) s

/-- GRPUNBIND. -/
def execGrpunbind (f : Fn) (slot : BitVec 6) (group : BitVec 12) (s : State) : Host.Outcome State Fault Refusal :=
  liftW (some f) (grpBind f slot.toNat (2 ^ 63 + group.toNat) (unbindGroup slot.toNat group)) s

end Sys2Proof.Machine
end

