-- ==== Sys2Proof/Machine/Fp.lean ====
section
/-! DEFINITION. The scalar FP32 instructions (04 R132, Table 4.4): operands in bits [31:0], results rounded to
nearest-even, errata events in set 0 of the core's VE. -/

namespace Sys2Proof.Machine

/-- rd[31:0] ← the result, rd[63:32] cleared, its events counted in set 0 of the VE. -/
def fpWrite (t : ThreadNo) (rd : Reg) (r : W32 × List Ev) (bad : Bool) : Body := fun slot m =>
  retireI slot t ((countEvs slot t.core .ve none r.2 m).setReg t rd (zext32 r.1) bad)

/-- Two FP32 operands. -/
def fp3 (t : ThreadNo) (rd ra rb : Reg) (f : W32 → W32 → W32 × List Ev) : Body := fun slot m =>
  fpWrite t rd (f (lo32 (m.reg t ra)) (lo32 (m.reg t rb))) (m.mark t ra || m.mark t rb) slot m

/-- A compare writes the integer 1 or 0. -/
def fpCmp (t : ThreadNo) (rd ra rb : Reg) (f : FVal → FVal → Bool) : Body := fun slot m =>
  retireI slot t (m.setReg t rd (if f (f32 (lo32 (m.reg t ra))) (f32 (lo32 (m.reg t rb))) then 1 else 0)
    (m.mark t ra || m.mark t rb))

/-- a < b or a = b; unordered gives false. -/
def fvLe (a b : FVal) : Bool := FVal.lt a b || FVal.eqv a b

def bodyFadd (t : ThreadNo) (rd ra rb : Reg) : Body := fp3 t rd ra rb fadd32
def bodyFsub (t : ThreadNo) (rd ra rb : Reg) : Body := fp3 t rd ra rb fsub32
def bodyFmul (t : ThreadNo) (rd ra rb : Reg) : Body := fp3 t rd ra rb fmul32
def bodyFdiv (t : ThreadNo) (rd ra rb : Reg) : Body := fp3 t rd ra rb fdiv32
def bodyFsqrt (t : ThreadNo) (rd ra : Reg) : Body := fun slot m =>
  fpWrite t rd (fsqrt32 (lo32 (m.reg t ra))) (m.mark t ra) slot m
def bodyFmin (t : ThreadNo) (rd ra rb : Reg) : Body := fp3 t rd ra rb fun a b => (fmin32 a b, [])
def bodyFmax (t : ThreadNo) (rd ra rb : Reg) : Body := fp3 t rd ra rb fun a b => (fmax32 a b, [])
/-- rd ← rd + ra × rb with one rounding. -/
def bodyFmadd (t : ThreadNo) (rd ra rb : Reg) : Body := fun slot m =>
  fpWrite t rd (fma32 (lo32 (m.reg t ra)) (lo32 (m.reg t rb)) (lo32 (m.reg t rd)))
    (m.mark t ra || m.mark t rb || m.mark t rd) slot m
def bodyFeq (t : ThreadNo) (rd ra rb : Reg) : Body := fpCmp t rd ra rb FVal.eqv
def bodyFlt (t : ThreadNo) (rd ra rb : Reg) : Body := fpCmp t rd ra rb FVal.lt
def bodyFle (t : ThreadNo) (rd ra rb : Reg) : Body := fpCmp t rd ra rb fvLe
/-- FCVT.S.L: a signed 64-bit integer to FP32. -/
def bodyFcvtSL (t : ThreadNo) (rd ra : Reg) : Body := fun slot m =>
  fpWrite t rd (ofInt32 (m.reg t ra).toInt, []) (m.mark t ra) slot m
/-- FCVT.L.S: FP32 to a signed 64-bit integer toward zero; it counts no event. -/
def bodyFcvtLS (t : ThreadNo) (rd ra : Reg) : Body := fun slot m =>
  retireI slot t (m.setReg t rd (BitVec.ofInt 64 (toInt64 (lo32 (m.reg t ra)))) (m.mark t ra))

/-! Commands -/

/-- FADD: rd ← ra + rb. -/
def execFadd (t : ThreadNo) (rd ra rb : Reg) (s : State) : Host.Outcome State Fault Refusal :=
  scalar (.fadd t rd ra rb) t (bodyFadd t rd ra rb) s
/-- FSUB: rd ← ra − rb. -/
def execFsub (t : ThreadNo) (rd ra rb : Reg) (s : State) : Host.Outcome State Fault Refusal :=
  scalar (.fsub t rd ra rb) t (bodyFsub t rd ra rb) s
/-- FMUL: rd ← ra × rb. -/
def execFmul (t : ThreadNo) (rd ra rb : Reg) (s : State) : Host.Outcome State Fault Refusal :=
  scalar (.fmul t rd ra rb) t (bodyFmul t rd ra rb) s
/-- FDIV: rd ← ra / rb. -/
def execFdiv (t : ThreadNo) (rd ra rb : Reg) (s : State) : Host.Outcome State Fault Refusal :=
  scalar (.fdiv t rd ra rb) t (bodyFdiv t rd ra rb) s
/-- FMIN: rd ← the IEEE minimum (R46). -/
def execFmin (t : ThreadNo) (rd ra rb : Reg) (s : State) : Host.Outcome State Fault Refusal :=
  scalar (.fmin t rd ra rb) t (bodyFmin t rd ra rb) s
/-- FMAX: rd ← the IEEE maximum (R46). -/
def execFmax (t : ThreadNo) (rd ra rb : Reg) (s : State) : Host.Outcome State Fault Refusal :=
  scalar (.fmax t rd ra rb) t (bodyFmax t rd ra rb) s
/-- FMADD: rd ← rd + ra × rb. -/
def execFmadd (t : ThreadNo) (rd ra rb : Reg) (s : State) : Host.Outcome State Fault Refusal :=
  scalar (.fmadd t rd ra rb) t (bodyFmadd t rd ra rb) s
/-- FEQ: rd ← 1 if ra = rb. -/
def execFeq (t : ThreadNo) (rd ra rb : Reg) (s : State) : Host.Outcome State Fault Refusal :=
  scalar (.feq t rd ra rb) t (bodyFeq t rd ra rb) s
/-- FLT: rd ← 1 if ra < rb. -/
def execFlt (t : ThreadNo) (rd ra rb : Reg) (s : State) : Host.Outcome State Fault Refusal :=
  scalar (.flt t rd ra rb) t (bodyFlt t rd ra rb) s
/-- FLE: rd ← 1 if ra ≤ rb. -/
def execFle (t : ThreadNo) (rd ra rb : Reg) (s : State) : Host.Outcome State Fault Refusal :=
  scalar (.fle t rd ra rb) t (bodyFle t rd ra rb) s
/-- fsqrt: rd ← the square root of ra. -/
def execFsqrt (t : ThreadNo) (rd ra : Reg) (s : State) : Host.Outcome State Fault Refusal :=
  scalar (.fsqrt t rd ra) t (bodyFsqrt t rd ra) s
/-- fcvtSL: rd ← ra converted to FP32. -/
def execFcvtSL (t : ThreadNo) (rd ra : Reg) (s : State) : Host.Outcome State Fault Refusal :=
  scalar (.fcvtSL t rd ra) t (bodyFcvtSL t rd ra) s
/-- fcvtLS: rd ← ra converted to an integer. -/
def execFcvtLS (t : ThreadNo) (rd ra : Reg) (s : State) : Host.Outcome State Fault Refusal :=
  scalar (.fcvtLS t rd ra) t (bodyFcvtLS t rd ra) s

end Sys2Proof.Machine
end

