-- ==== Sys2Proof/Machine/Host.lean ====
section
/-! DEFINITION. The host link: the BAR4 window and the image store's window, the host queues, quotes and IDE
streams (15 R493, R502; 17 R525 to R528, R531, R543; 18 R556). -/

namespace Sys2Proof.Machine

/-! BAR4 -/

/-- A SECURE loan takes only TLPs of an IDE stream at BAR2 and BAR4 of its bound function (15 R493). -/
def ideRefused (m : Module) (f : Fn) (ide : Bool) : Bool :=
  ((upTo 8).any fun p => isBound m f.val p && (m.part p).secure &&
      ((m.part p).st == .open_ || (m.part p).st == .closing)) &&
    !(ide && (m.func f.val).ide)

/-- A function reaches a frame through BAR4 (R525). -/
def bar4Frame (m : Module) (f : Fn) (fr : Nat) : Bool :=
  softFrame fr && (f == 0 || isBound m f.val (partOfDie m (dieOfFrame fr)))

/-- The main-memory bytes a BAR4 request reaches; none when one of them is out of reach. -/
def bar4Bytes (m : Module) (f : Fn) (off len : Nat) : Option (List Nat) :=
  let base := (m.func f.val).bar4win.toNat * 65536 + off
  if ((upTo (base % 65536 + len)).filter (· % 65536 == 0)).all fun o => bar4Frame m f (base / 65536 + o / 65536)
  then some ((upTo len).map (base + ·))
  else none

/-- Bytes of the window onto the image store (R543). -/
def windowHit (f : Fn) (off len : Nat) : Bool := f == 0 && decide (off + len ≤ 2 ^ 26)

/-- The request completes with Unsupported Request. -/
def unsupported (f : Fn) (m : Module) : Module := hostOut (.unsupported f.val) m

/-- BAR4_READ: poisoned granules give a completion with EP set and an AER Advisory Non-Fatal error. -/
def bar4Read (f : Fn) (off len : Nat) (ide : Bool) (m : Module) : Module :=
  if !m.boot.perstN then m
  else if !m.boot.lib then
    if windowHit f off len then
      hostOut (.data f.val ((upTo len).map fun i => Sparse.get 0 m.boot.store (off + i)) false) m
    else unsupported f m
  else if !(hostUp m f.val) || ideRefused m f ide then unsupported f m
  else
    match bar4Bytes m f off len with
    | none => unsupported f m
    | some pas =>
      let r := readPas pas m
      if anyBad r.2 then hostOut (.aer f.val false) (hostOut (.data f.val [] true) r.1)
      else hostOut (.data f.val (r.2.map (·.1)) false) r.1

/-- BAR4_READ. -/
def execBar4Read (f : Fn) (off : BitVec 36) (len : Nat) (ide : Bool) (s : State) :
    Host.Outcome State Fault Refusal := lift (bar4Read f off.toNat len ide) s

/-- A function writes bytes of main memory; a write that is an act of 03 Table 3.10 makes what lies in its scope free. -/
def hostStore (f : Nat) (items : List (Nat × Byte)) (m : Module) : Module :=
  let m' := putPas f items false m
  if (writeAct m none none items).isSome then undefFn f m' else m'

/-- BAR4_WRITE: a poisoned write is discarded (event 0x0904). -/
def bar4Write (f : Fn) (off : Nat) (data : List Byte) (ep ide : Bool) (m : Module) : Module :=
  if !m.boot.perstN then m
  else if !m.boot.lib then
    if !(windowHit f off data.length) then unsupported f m
    else if ep then hostOut (.aer f.val true) m
    else if m.boot.st ≠ .window then m
    else
      { m with boot := { m.boot with
        store := data.zipIdx.foldl (fun st e => Sparse.set (0 : Byte) st (off + e.2) e.1) m.boot.store } }
  else if !(hostUp m f.val) || ideRefused m f ide then unsupported f m
  else
    match bar4Bytes m f off data.length with
    | none => unsupported f m
    | some pas =>
      if ep then led 0x0904 sevWarn atModule [f.val, off] (hostOut (.aer f.val true) m)
      else hostStore f.val (pas.zip data) m

/-- BAR4_WRITE. -/
def execBar4Write (f : Fn) (off : BitVec 36) (data : List Byte) (ep ide : Bool) (s : State) :
    Host.Outcome State Fault Refusal := lift (bar4Write f off.toNat data ep ide) s

/-! Queues (R527, R528) -/

/-- Queue q of a function. -/
def hq (m : Module) (f q : Nat) : HQ := Sparse.get HQ.init (m.func f).queues q

/-- Change a queue. -/
def updHq (f q : Nat) (g : HQ → HQ) (m : Module) : Module :=
  m.updFunc f fun x => { x with queues := Sparse.upd HQ.init x.queues q g }

/-- Entries of a ring. -/
def HQ.size (h : HQ) : Nat := 2 ^ h.log2

/-- DOORBELL: the new tail, and the entries the DMA returned, in order from the head. -/
def doorbell (f : Fn) (q tail : Nat) (es : List QEntry) (ide : Bool) (m : Module) : Module :=
  if ideRefused m f ide then unsupported f m
  else
    updHq f.val q (fun h =>
      if !h.en then h
      else
        let n := (tail + h.size - h.head) % h.size
        let got := es.take n
        { h with
          tail := tail % h.size, head := (h.head + got.length) % h.size,
          fetched := h.fetched ++ got.zipIdx.map fun e => ((h.head + e.2) % h.size, e.1, none) }) m

/-- DOORBELL. -/
def execDoorbell (f : Fn) (q : BitVec 4) (tail : BitVec 32) (entries : List QEntry) (ide : Bool) (s : State) :
    Host.Outcome State Fault Refusal := liftW (some f) (doorbell f q.toNat tail.toNat entries ide) s

/-- STATUS of a completion entry. -/
def stOk : Nat := 0
def stFault : Nat := 1
def stNoctx : Nat := 2
def stHosterr : Nat := 3
def stMalformed : Nat := 4

/-- Every earlier entry of the queue has started; a CINC starts with its turn and holds nothing back. -/
def mayStart (h : HQ) (i : Nat) : Bool :=
  (h.fetched.take i).all fun e => e.2.2.isSome || (e.2.1.op != 1 && e.2.1.op != 2)

/-- An entry is done with a status. -/
def entryDone (f q i st sub : Nat) (m : Module) : Module :=
  updHq f q (fun h => { h with fetched := h.fetched.modify i fun e => (e.1, e.2.1, some (st, sub)) }) m

/-- It names no live context of the function (R528). -/
def noctx (m : Module) (f : Nat) (e : QEntry) : Bool :=
  !(ownsSlot m f e.slot.toNat && (m.ctx e.slot.toNat).live)

/-- It completes against a context: CTR increments (R110, R528). -/
def entryEnd (f q i : Nat) (e : QEntry) (st sub : Nat) (m : Module) : Module :=
  entryDone f q i st sub (bumpCtr e.slot.toNat e.ce e.ctr m)

/-- The module bytes of a copy, checked as a local access of the context: STATUS and SUBCAUSE on a refusal. -/
def copyBytes (slot : Nat) (k : Acc) (c : Word) (n : Nat) (m : Module) : Module × Except (Nat × Nat) (List Nat) :=
  if !(isLocal m c) then (m, .error (stFault, PageSub.badModule.code))
  else if 2 < callSpace c then (m, .error (stFault, PageSub.badSpace.code))
  else
    (runsOf c n).foldl (fun acc r =>
      match acc.2 with
      | .error e => (acc.1, .error e)
      | .ok l =>
        let a := resolveLocal slot k false none r.1 acc.1
        match a.2 with
        | .pa pa => (a.1, .ok (l ++ (upTo r.2).map (pa + ·)))
        | .deny s => (a.1, .error (stFault, s.code))
        | _ => (a.1, .error (stFault, 0))) (m, .ok [])

/-- COPY_IN: the copied bytes, or none when the DMA failed. -/
def copyIn (f q i : Nat) (data : Option (List Byte)) (m : Module) : Module :=
  let h := hq m f q
  match h.fetched[i]? with
  | none => m
  | some e =>
    let e1 := e.2.1
    if e1.op ≠ 1 ∨ e.2.2.isSome ∨ !(mayStart h i) then m
    else if noctx m f e1 then entryDone f q i stNoctx 0 m
    else
      let r := copyBytes e1.slot.toNat .write e1.call e1.len.toNat m
      match r.2 with
      | .error x => entryEnd f q i e1 x.1 x.2 r.1
      | .ok pas =>
        match cowPages e1.slot.toNat e1.call e1.len.toNat r.1, data with
        | [], none => entryEnd f q i e1 stHosterr 0 r.1
        | [], some d =>
          if d.length ≠ e1.len.toNat then m else entryEnd f q i e1 stOk 0 (hostStore f (pas.zip d) r.1)
        | ps, _ => waitCow e1.slot.toNat ps r.1

/-- COPY_IN. -/
def execCopyIn (f : Fn) (q : BitVec 4) (i : Nat) (data : Option (List Byte)) (s : State) :
    Host.Outcome State Fault Refusal :=
  liftL (copyIn f.val q.toNat i data) s

/-- COPY_OUT: the data leave by DMA, poisoned ones with EP set. -/
def copyOut (f q i : Nat) (dmaOk : Bool) (m : Module) : Module :=
  let h := hq m f q
  match h.fetched[i]? with
  | none => m
  | some e =>
    let e1 := e.2.1
    if e1.op ≠ 2 ∨ e.2.2.isSome ∨ !(mayStart h i) then m
    else if noctx m f e1 then entryDone f q i stNoctx 0 m
    else
      let r := copyBytes e1.slot.toNat .read e1.call e1.len.toNat m
      match r.2 with
      | .error x => entryEnd f q i e1 x.1 x.2 r.1
      | .ok pas =>
        let d := readPas pas r.1
        if !dmaOk then entryEnd f q i e1 stHosterr 0 d.1
        else entryEnd f q i e1 stOk 0 (hostOut (.dma f e1.hostaddr (d.2.map (·.1)) (anyBad d.2)) d.1)

/-- COPY_OUT. -/
def execCopyOut (f : Fn) (q : BitVec 4) (i : Nat) (dmaOk : Bool) (s : State) :
    Host.Outcome State Fault Refusal := liftL (copyOut f.val q.toNat i dmaOk) s

/-- QUEUE_CINC: once every earlier entry of the queue has completed. -/
def queueCinc (f q i : Nat) (m : Module) : Module :=
  match (hq m f q).fetched[i]? with
  | none => m
  | some e =>
    let e1 := e.2.1
    if e1.op ≠ 3 ∨ e.2.2.isSome ∨ i ≠ 0 then m
    else if noctx m f e1 then entryDone f q i stNoctx 0 m
    else entryEnd f q i e1 stOk 0 m

/-- QUEUE_CINC. -/
def execQueueCinc (f : Fn) (q : BitVec 4) (i : Nat) (s : State) : Host.Outcome State Fault Refusal :=
  liftL (queueCinc f.val q.toNat i) s

/-- STATUS and SUBCAUSE of an entry that may complete: a done one, or one with another OP (Table 17.3). -/
def readyStatus (e : Nat × QEntry × Option (Nat × Nat)) : Option (Nat × Nat) :=
  if e.2.1.op = 1 ∨ e.2.1.op = 2 ∨ e.2.1.op = 3 then e.2.2 else some (stMalformed, 0)

/-- QUEUE_COMPLETION: the completion entry, then the queue's vector. PHASE toggles on each wrap. -/
def queueCompletion (f q i : Nat) (m : Module) : Module :=
  let h := hq m f q
  match h.fetched[i]? with
  | none => m
  | some e =>
    match readyStatus e with
    | none => m
    | some st =>
      let m := updHq f q (fun h => { h with fetched := h.fetched.eraseIdx i, written := h.written + 1 }) m
      let m := hostOut (.completion f q e.2.1.cmdid h.head st.1 st.2 (h.written / h.size % 2 == 0)) m
      if h.ien then irq f (16 + q) m else m

/-- QUEUE_COMPLETION. -/
def execQueueCompletion (f : Fn) (q : BitVec 4) (i : Nat) (s : State) : Host.Outcome State Fault Refusal :=
  liftL (queueCompletion f.val q.toNat i) s

/-- Offset of QCFGq in the function block. -/
def offQcfg (q word : Nat) : Nat := 0x10100 + 0x20 * q + 8 * word

/-- A write of QCFGq (18 R556): the rings and LOG2 only while EN is 0. Setting EN starts both rings afresh. -/
def writeQcfg (f : Fn) (q word : Nat) (v : Word) (m : Module) : Module :=
  let h := hq m f.val q
  let no := refused (some f) atModule (offQcfg q word) v.toNat m
  if !(seesFn m f) then m
  else
    gated 0 (offQcfg q word) f (fun m =>
    match word with
    | 0 => if h.en then no else updHq f.val q (fun h => { h with sub := v }) m
    | 1 => if h.en then no else updHq f.val q (fun h => { h with comp := v }) m
    | 2 =>
      if h.en && field v 0 5 != h.log2 && bit v 9 then no
      else
        updHq f.val q (fun h =>
          if h.en then { h with en := bit v 9, ien := bit v 8 }
          else if bit v 9 then { h with en := true, ien := bit v 8, log2 := field v 0 5, head := 0, tail := 0, written := 0 }
          else { h with ien := bit v 8, log2 := field v 0 5 }) m
    | _ => m) m

/-- QCFG_WRITE. -/
def execQcfgWrite (f : Fn) (q : BitVec 4) (word : BitVec 2) (v : Word) (s : State) :
    Host.Outcome State Fault Refusal :=
  liftW (some f) (fun m =>
    if !(seesFn m f) || word != 2 then writeQcfg f q.toNat word.toNat v m
    else rsvOk (some f) 0 0x31F v (writeQcfg f q.toNat word.toNat v) m) s

/-! Quotes and IDE -/

/-- Bytes 0 to 191 of a quote (15 Table 15.5). -/
def quoteBytes (q : Quote) : List Byte :=
  leBytes 8 (q.modnum.toNat * 2 ^ 48 + q.inc.toNat) ++ leBytes 8 q.stamp ++ leBytes 64 q.logdig.toNat ++
    leBytes 32 q.chal.toNat ++ leBytes 64 q.loandig.toNat ++ leBytes 4 q.loglen ++ leBytes 12 0

/-- LOANDIG of a partition: the digest of the co-signed open record of its loan. -/
def loanDig (m : Module) (p : Nat) : BitVec 512 :=
  let q := m.part p
  if !(isPart m p) || !(q.st == .open_ || q.st == .closing) then 0
  else
    match q.loanrec with
    | some c => if c.lr.isOpen then coDigest c else 0
    | none => 0

/-- The quote for a function: the physical one names a partition, a virtual one has its own (R502). -/
def quoteOf (m : Module) (f : Fn) (chal : BitVec 256) (part : Nat) : Quote :=
  let p := if f = 0 then part else (partOfFn m f.val).getD 8
  let q : Quote :=
    { modnum := BitVec.ofNat 16 m.num, inc := m.lease.inc, stamp := m.now, logdig := m.att.running, chal := chal,
      loandig := loanDig m p, loglen := m.att.log.length, sig := 0 }
  { q with sig := libSign (Config.sha512 (quoteBytes q)) }

/-- A challenge. -/
def challenge (f : Fn) (chal : BitVec 256) (part : Nat) (m : Module) : Module :=
  if !(seesFn m f) then m
  else m.updFunc f.val fun x => { x with chal := chal, quote := some (quoteOf m f chal part) }

/-- ATTCHAL. -/
def execAttchal (f : Fn) (chal : BitVec 256) (part : BitVec 3) (s : State) :
    Host.Outcome State Fault Refusal := liftW (some f) (challenge f chal part.toNat) s

/-- IDE_KM: a stream of a function is established, in a session that authenticates the module by its identity
key. -/
def execIdeKm (f : Fn) (s : State) : Host.Outcome State Fault Refusal :=
  liftL (fun m =>
    if m.boot.perstN && m.boot.identity then m.updFunc f.val fun x => { x with ide := true } else m) s

end Sys2Proof.Machine
end

