-- ==== Sys2Proof/Machine/MemoryEvents.lean ====
section
/-! DEFINITION. Patrol scrub, channel retirement by MEMRET, and the KV windows (08 R263, R264, R281, R282; 15 R498, R499;
18 R559). -/

namespace Sys2Proof.Machine

/-- Granules of a stripe, those of the hidden frames among them (08 R257, R258). -/
def stripeGranules : Nat := 4394531 * 64

/-- Module granule number of a stripe's granule. -/
def granuleAt (k sg : Nat) : Nat := k / 4 * 2 ^ 33 + 4 * sg + k % 4

/-- PATROL_SCRUB: the granule that SCRUBPOS names is read, unless its valid bit is clear, and SCRUBPOS goes on. -/
def patrolScrub (k : Nat) (m : Module) : Module :=
  let pos := (m.stripe k).scrub
  (readGran (granuleAt k pos) 1 m).updStripe k fun s => { s with scrub := (pos + 1) % stripeGranules }

/-- PATROL_SCRUB. -/
def execPatrolScrub (die : BitVec 3) (stripe : BitVec 2) (s : State) : Host.Outcome State Fault Refusal :=
  lift (patrolScrub (4 * die.toNat + stripe.toNat)) s

/-- BAR0 offset of a stripe register. -/
def stripeReg (k off : Nat) : Nat := 0x40000 + 0x800 * k + off

/-- A MEMRET write with RETIRED 1, through the physical function (18 R559). -/
def memretRetire (f : Fn) (k ch v : Nat) (m : Module) : Module :=
  physOnly f (fun m =>
    if 9 < ch ∨ (m.stripe k).retired = some ch then refused (some f) (atStripe m k) (stripeReg k 0x58) v m
    else retire k ch 2 m) m

/-- MEMRET_RETIRE. -/
def execMemretRetire (f : Fn) (die : BitVec 3) (stripe : BitVec 2) (channel : BitVec 4) (s : State) :
    Host.Outcome State Fault Refusal :=
  liftW (some f) (memretRetire f (4 * die.toNat + stripe.toNat) channel.toNat (16 + channel.toNat)) s

/-- KVFREE: the valid bits of a frame of the partition are cleared, then the counter increments (15 R499). -/
def kvFree (w : By) (slot : Nat) (ctr : CtrNo) (frame : Nat) (m : Module) : Module :=
  let v := ctr.toNat * 2 ^ 32 + frame
  onGated 13 w slot offKvfree v (fun x => frameOk m x.part frame) (fun m => addCtr slot ctr 1 (clearFrame frame m)) m

/-- KVFREE. -/
def execKvfree (f : Option Fn) (slot : BitVec 6) (ctr : CtrNo) (frame : BitVec 28) (s : State) :
    Host.Outcome State Fault Refusal := liftW f (kvFree f slot.toNat ctr frame.toNat) s

/-- Bits a word of KVWIN holds (18 Table 18.7). -/
def kvMask (word : Nat) : Word := if word < 2 then 0xFFFFFFFFFFF else BitVec.allOnes 64

/-- One word of a window. -/
def Kv.set (k : Kv) (word : Nat) (v : Word) : Kv :=
  match word with
  | 0 => { k with base := field v 16 28 * 65536 }
  | 1 => { k with len := field v 16 28 * 65536 }
  | _ => { k with table := v }

/-- A write of KVWINw: ignored in a TRAINING loan (15 R498). -/
def writeKvwin (w : By) (slot i word : Nat) (v : Word) (m : Module) : Module :=
  onGated 13 w slot (offKvwin + 0x20 * i + 8 * word) v.toNat (fun x => (m.part x.part).role == 1)
    (fun m => m.updCtx slot fun x =>
      { x with kv := Sparse.upd { base := 0, len := 0, table := 0 } x.kv i fun k => k.set word v }) m

/-- KVWIN_WRITE. -/
def execKvwinWrite (f : Fn) (slot : BitVec 6) (w : BitVec 2) (word : BitVec 2) (v : Word) (s : State) :
    Host.Outcome State Fault Refusal :=
  liftW (some f) (fun m =>
    if 2 < word.toNat || !(seesCtx m (some f) slot.toNat) then m
    else rsvOk (some f) slot.toNat (kvMask word.toNat) v (writeKvwin (some f) slot.toNat w.toNat word.toNat v) m) s

end Sys2Proof.Machine
end

