-- ==== Sys2Proof/Machine/Overdue.lean ====
section
/-! DEFINITION. The overdue monitor (13 R419 to R423). -/

namespace Sys2Proof.Machine

/-- The overdue window in nanoseconds. -/
def Ovd.winNs (o : Ovd) : Nat := o.win * 1000000
/-- The grace after a due stamp in nanoseconds. -/
def Ovd.graceNs (o : Ovd) : Nat := o.grace * 1000

/-- Of two late pieces of work, the one that CTXFAULTADDR names: the earliest due stamp, then the lowest core, SP and
slot (R422). -/
def earlier (a b : DueWork) : Bool := decide (a.d < b.d) || (a.d == b.d && decide (a.t.toNat ≤ b.t.toNat))

/-- The work that fails the due test at a stamp. -/
def lateWork (o : Ovd) (now : Nat) : Option DueWork :=
  (o.work.filter fun w => decide (w.d + o.graceNs < now)).foldl (fun (best : Option DueWork) w =>
    match best with
    | some b => some (if earlier b w then b else w)
    | none => some w) none

/-- The window test (R420). -/
def windowOver (o : Ovd) (now : Nat) : Bool := decide (o.lastProgress + o.winNs ≤ now)

/-- An overdue context faults (R422): the test that failed, the last progress, and the call number and thread of the late work;
the window test has neither (log 155). -/
def overdue (slot test d : Nat) (addr : Word) (src : BitVec 17) (m : Module) : Module :=
  let x := m.ctx slot
  let m := m.updCtx slot fun x => { x with ovd := { x.ovd with test := test, lastStat := x.ovd.lastProgress } }
  let m := led 0x0207 sevWarn (atCtx m slot) [test - 1, x.ovd.lastProgress, d] m
  ctxFault slot (outerFault .overdue addr src) m

/-- The scheduler holds the dispatch of a step under AUTO: no check is made (14 R453). -/
def Ctx.held (x : Ctx) : Bool := x.bm.auto && x.sched.mode != 0 && !x.sched.started

/-- One check (R420, R421). -/
def overdueCheck (slot : Nat) (m : Module) : Module :=
  let x := m.ctx slot
  if x.state ≠ .running ∨ m.now < x.ovd.nextCheck ∨ x.held then m
  else
    let m := m.updCtx slot fun x => { x with ovd := { x.ovd with nextCheck := m.now + x.ovd.winNs / 16 } }
    match lateWork x.ovd m.now with
    | some w => overdue slot 2 w.d w.at_ (srcOf w.t) m
    | none => if windowOver x.ovd m.now then overdue slot 1 0 0 0 m else m

/-- OVERDUE_CHECK. -/
def execOverdueCheck (slot : BitVec 6) (s : State) : Host.Outcome State Fault Refusal :=
  lift (overdueCheck slot.toNat) s

/-- OVDWIN takes the nearer limit (R419). -/
def writeOvdwin (w : By) (slot : Nat) (v : Word) (m : Module) : Module :=
  onCtx w slot offOvdwin v.toNat (fun _ => true)
    (fun m => m.updCtx slot fun x =>
      { x with ovd := { x.ovd with win := Nat.max 1 (Nat.min 60000 (field v 0 16)) } }) m

/-- OVDWIN_WRITE. -/
def execOvdwinWrite (f : Fn) (slot : BitVec 6) (v : Word) (s : State) : Host.Outcome State Fault Refusal :=
  liftW (some f) (fun m =>
    if seesCtx m (some f) slot.toNat then rsvOk (some f) slot.toNat 0xFFFF v (writeOvdwin (some f) slot.toNat v) m
    else m) s

end Sys2Proof.Machine
end

