-- ==== Sys2Proof/Machine/Scheduler.lean ====
section
/-! DEFINITION. The scheduler: the dataflow modes, dispatch, UNITDONE, and the choice of plan variants (11 R380 to R400; 14
R453). -/

namespace Sys2Proof.Machine

/-! The choice of a unit (R385, R387, R391) -/

/-- The place of a micro-batch among the completed forward units, most recent first. -/
def recency (x : Ctx) (s mb : Nat) : Nat := (x.stage s).fdone.findIdx (· == mb)

/-- Of the ready backward units, the one whose forward unit completed most recently (R387). -/
def bestBackward (x : Ctx) (s : Nat) (us : List PUnit) : Option PUnit :=
  (us.filter fun u => u.kind == 1 && unitReady x u).foldl (fun (b : Option PUnit) u =>
    match b with
    | none => some u
    | some v => if recency x s u.mb < recency x s v.mb then some u else some v) none

/-- The micro-batch of the topmost live Reserve entry of a stage (R391). -/
def topMb (x : Ctx) (s : Nat) : Option Nat := ((x.rsvAt s).dir.reverse.find? fun e => e.live).map (·.mb)

/-- The units a stage may dispatch now under DATAFLOW. -/
def flowChoice (x : Ctx) (plan : List PUnit) (s : Nat) : List PUnit :=
  let us := waitingIn x plan s
  let fwd := us.find? fun u => u.kind == 0
  let aux := (us.find? fun u => 2 ≤ u.kind).toList.filter (unitReady x)
  let bwd := (bestBackward x s us).toList
  match fwd with
  | none => bwd ++ aux
  | some f =>
    if (x.stage s).turn then
      let newest := us.filter fun u => u.kind == 1 && topMb x s == some u.mb && unitReady x u
      (if newest.isEmpty then [f].filter (unitReady x) else newest.take 1) ++ aux
    else if unitReady x f then f :: aux
    else if inputOk x f && normOk x f && admitOk x f && !(creditOk x f) then bwd ++ aux
    else aux

/-- The units a stage may dispatch now. -/
def choices (x : Ctx) (plan : List PUnit) (s : Nat) : List PUnit :=
  if (x.stage s).running.isSome then []
  else
    match x.sched.mode with
    | 1 => (waitingIn x plan s).head?.toList.filter (unitReady x)
    | 2 => flowChoice x plan s
    | _ => []

/-! Dispatch (R383, R394, R395) -/

/-- KEEP of a forward unit's dispatch (R394). -/
def keeps (x : Ctx) (u : PUnit) : Bool :=
  u.kind == 0 && decide (u.gbytes ≠ 0) && decide (x.sched.gkept + u.gbytes ≤ x.sched.gpool)

/-- What KEEP does: the account, and the skipped re-gather unit. -/
def applyKeep (slot : Nat) (plan : List PUnit) (u : PUnit) (m : Module) : Module :=
  let m := updSched slot (fun s => { s with gkept := s.gkept + u.gbytes, keep := NatSet.add s.keep u.idx }) m
  match u.rg.bind fun i => plan.find? fun v => v.idx == i && isWaiting (m.ctx slot) v with
  | some v => normCheck slot plan (bumpDone slot v (markUnit slot v.idx .skipped m))
  | none => m

/-- The dispatch entry. -/
def dispatchWord (u : PUnit) (keep : Bool) : Nat := u.idx * 2 ^ 52 + (if keep then 2 ^ 51 else 0)

/-- Dispatch a unit. -/
def dispatch (slot : Nat) (plan : List PUnit) (u : PUnit) (m : Module) : Module :=
  let x := m.ctx slot
  let g := x.stage u.stage
  let keep := keeps x u
  let at_ := g.cfg0 + BitVec.ofNat 64 (8 * (g.count % 16))
  let w := writeLocal slot noCore none at_ ((leBytes 8 (dispatchWord u keep)).map fun b => wb b false)
  runLib slot w (fun _ m =>
    let m := u.tens.foldl (fun m i => updTensor slot i (fun t => { t with claimed := true }) m) m
    let m := if u.kind = 0 ∧ x.sched.mode = 2 then updRsv slot u.stage (fun r => { r with aside := r.aside + u.dem }) m
      else m
    let m := updStage slot u.stage (fun g => { g with running := some (u.idx, m.now), count := g.count + 1 }) m
    let m := addCtr slot (g.cfg1.extractLsb' 9 9) 1 (markUnit slot u.idx .running m)
    if keep then applyKeep slot plan u m else m) m

/-- UNIT_DISPATCH: stages turn that must, then a unit the stage may dispatch is dispatched; between several the choice is
open. -/
def unitDispatch (slot s : Nat) (m : Module) : Module :=
  if !(mayDispatch (m.ctx slot)) then m
  else
    runLib slot (planM slot) (fun plan m =>
      let m := turnAll slot plan 16 m
      match choices (m.ctx slot) plan s with
      | [] => m
      | [u] => dispatch slot plan u m
      | us =>
        let r := m.fresh
        match us[r.1.toNat % us.length]? with
        | some u => dispatch slot plan u r.2
        | none => m) m

/-- UNIT_DISPATCH. -/
def execUnitDispatch (slot : BitVec 6) (stage : BitVec 4) (s : State) : Host.Outcome State Fault Refusal :=
  liftL (unitDispatch slot.toNat stage.toNat) s

/-- STEP_START: the stamp has reached the start of the step and HOLD is clear; the monitor's interval starts afresh (14
R453). -/
def stepStartEv (slot : Nat) (m : Module) : Module :=
  let x := m.ctx slot
  if x.state = .running ∧ x.held ∧ !x.bm.hold ∧ stepStart x x.stepnum.toNat ≤ m.now then
    progress slot (updSched slot (fun s => { s with started := true }) m)
  else m

/-- STEP_START. -/
def execStepStart (slot : BitVec 6) (s : State) : Host.Outcome State Fault Refusal := liftL (stepStartEv slot.toNat) s

/-- Samples of the last 20 steps with one more. -/
def addSample (step t : Nat) (l : List (Nat × Nat)) : List (Nat × Nat) :=
  l.filter (fun e => step < e.1 + 20) ++ [(step, t)]

/-- A unit completes (R383, R388, R395, R396). -/
def finishUnit (slot : Nat) (plan : List PUnit) (u : PUnit) (t0 : Nat) (m : Module) : Module :=
  let step := (m.ctx slot).stepnum.toNat
  let m := updStage slot u.stage (fun g =>
    let g := { g with running := none }
    match u.kind with
    | 0 => { g with fwd := addSample step (m.now - t0) g.fwd, fdone := u.mb :: g.fdone }
    | 1 => { g with bwd := addSample step (m.now - t0) g.bwd }
    | _ => g) m
  let m := if u.kind = 0 then updRsv slot u.stage (fun r => { r with aside := 0 }) m else m
  let m := u.tens.foldl (fun m i => updTensor slot i (fun t => if t.claimed then t.publish else t) m) m
  let m := if u.kind = 1 then
      let kept := plan.filter fun v =>
        v.kind == 0 && v.stage == u.stage && v.mb == u.mb && NatSet.has (m.ctx slot).sched.keep v.idx
      updSched slot (fun s =>
        { s with gkept := s.gkept - (kept.map (·.gbytes)).sum, keep := s.keep.filter fun i => !(kept.any fun v => v.idx == i) }) m
    else m
  normCheck slot plan (bumpDone slot u (markUnit slot u.idx .done m))

/-- The stage that runs a unit, with its dispatch stamp. -/
def runningStage (x : Ctx) (i : Nat) : Option (Nat × Nat) :=
  (x.sched.stages.find? fun e => e.2.running.any fun r => r.1 == i).bind fun e => e.2.running.map fun r => (e.1, r.2)

/-- UNITDONE: of a unit that is not running it is ignored (event 0x0705). -/
def unitDone (w : By) (slot i : Nat) (m : Module) : Module :=
  onCtx w slot offUnitdone i (fun _ => true) (fun m =>
    match runningStage (m.ctx slot) i with
    | none => led 0x0705 sevWarn (atCtx m slot) [i] m
    | some r =>
      runLib slot (planM slot) (fun plan m =>
        match plan.find? fun u => u.idx == i with
        | some u =>
          let m := finishUnit slot plan u r.2 m
          stepEnd slot plan (if mayDispatch (m.ctx slot) then turnAll slot plan 16 m else m)
        | none => m) m) m

/-- UNITDONE. -/
def execUnitdone (f : Option Fn) (slot : BitVec 6) (unit : BitVec 12) (s : State) :
    Host.Outcome State Fault Refusal := liftW f (unitDone f slot.toNat unit.toNat) s

/-! Modes and variants -/

/-- A write that only a CREATED or IDLE context takes (R380, event 0x0704). -/
def quietWrite (w : By) (slot off v : Nat) (ok : Bool) (f : Sched → Sched) (m : Module) : Module :=
  onCtx w slot off v (fun _ => true) (fun m =>
    if (m.ctx slot).quiet && ok then updSched slot f m else led 0x0704 sevWarn (atCtx m slot) [Config.ledgerNo 0x0704 off, v] m) m

/-- SCHEDMODE: FIXED and DATAFLOW under catalogue bits 5 and 6; code 3 names no mode. -/
def writeMode (w : By) (slot v : Nat) (m : Module) : Module :=
  let bit_ := if v = 1 then 5 else 6
  if (v = 1 ∨ v = 2) && seesCtx m w slot && !(catOn m bit_) then
    led 0x0901 sevWarn atModule [ctxOff slot offSchedmode, bit_, writerNo w] m
  else quietWrite w slot offSchedmode v (v != 3) (fun d => { d with mode := v }) m

/-- SCHEDMODE_WRITE. -/
def execSchedmodeWrite (f : Fn) (slot : BitVec 6) (v : BitVec 2) (s : State) : Host.Outcome State Fault Refusal :=
  liftW (some f) (writeMode (some f) slot.toNat v.toNat) s

/-- VARCUR written by software: the means of another variant start afresh (R396). -/
def Sched.setVar (d : Sched) (v : Nat) : Sched :=
  if v = d.varcur then d
  else { d with varcur := v, stages := d.stages.map fun e => (e.1, { e.2 with fwd := [], bwd := [] }) }

/-- VARCUR_WRITE. -/
def execVarcurWrite (f : Fn) (slot : BitVec 6) (v : BitVec 2) (s : State) : Host.Outcome State Fault Refusal :=
  liftW (some f) (quietWrite (some f) slot.toNat offVarcur v.toNat true (fun d => d.setVar v.toNat)) s

/-- A step report as the coordinator reads it (R397): (job-wide stage, forward, backward). -/
structure Report where
  step : Nat
  stby : Nat
  stages : List (Nat × Nat × Nat)
  deriving DecidableEq, Repr

/-- Read a report from its 256 bytes. -/
def parseReport (bs : List Byte) : Report :=
  let at_ := fun (lo n : Nat) => leNat ((bs.drop lo).take n)
  { step := at_ 0 8, stby := at_ 8 1,
    stages := (upTo (Nat.min 16 (at_ 9 1))).map fun j => (at_ (16 + 12 * j) 2, at_ (20 + 12 * j) 4, at_ (24 + 12 * j) 4) }

/-- Reports from the bytes of the report area, one for each member. -/
def parseReports : Nat → List Byte → List Report
  | 0, _ => []
  | n + 1, bs => parseReport (bs.take 256) :: parseReports n (bs.drop 256)

/-- Every job-wide stage that is reported. -/
def jobStages (rs : List Report) : List Nat := (rs.flatMap fun r => r.stages.map (·.1)).dedup

/-- A stage's time in one report: forward and backward means together. -/
def timesOf (rs : List Report) (s : Nat) : List Nat :=
  rs.flatMap fun r => (r.stages.filter fun e => e.1 == s).map fun e => e.2.1 + e.2.2

/-- The measured time of a stage: the slowest module that runs it. -/
def stageTime (rs : List Report) (s : Nat) : Nat := (timesOf rs s).foldl Nat.max 0

/-- The slowest stage's time. -/
def slowest (f : Nat → Nat) (ss : List Nat) : Nat := (ss.map f).foldl Nat.max 0

/-- A stage's predicted time under another variant (R398). -/
def predicted (rs : List Report) (live v s : Nat) : Nat :=
  stageTime rs s * Config.stageShare v s / Nat.max 1 (Config.stageShare live s)

/-- The variant to switch to, if any (R398). -/
def chooseVariant (x : Ctx) (rs : List Report) : Option Nat :=
  let d := x.sched
  let ss := jobStages rs
  let slow := slowest (stageTime rs) ss
  let total := (ss.map (stageTime rs)).sum
  if d.imbthr = 0 ∨ d.since ≠ 0 ∨ (slow * ss.length - total) * 1000 ≤ d.imbthr * total then none
  else
    let vs := (upTo 4).filter fun v => v != d.varcur && d.varmask.getLsbD v && rs.all fun r => r.stby == v
    let best := vs.foldl (fun (b : Option (Nat × Nat)) v =>
      let t := slowest (predicted rs d.varcur v) ss
      match b with
      | some c => if t < c.2 then some (v, t) else some c
      | none => some (v, t)) none
    match best with
    | some b => if d.imbthr * slow < (slow - b.2) * 1000 then some b.1 else none
    | none => none

/-- The median of a list of times: of an even number, the mean of the two middle ones, rounded down. -/
def median (l : List Nat) : Nat :=
  let s := l.insertionSort fun a b => a ≤ b
  (s.getD ((s.length - 1) / 2) 0 + s.getD (s.length / 2) 0) / 2

/-- Stragglers (R400): (member's rank, job-wide stage, mean). -/
def stragglers (x : Ctx) (rs : List Report) : List (Nat × Nat × Nat) :=
  if x.sched.stragthr = 0 then []
  else
    rs.zipIdx.flatMap fun e => (e.1.stages.filter fun s =>
      decide (median (timesOf rs s.1) * (1000 + x.sched.stragthr) < (s.2.1 + s.2.2) * 1000)).map fun s =>
        (e.2, s.1, s.2.1 + s.2.2)

/-- A switch notice to a member (R399): a WRITE of the two words of VARNOTE. -/
def sendNotice (slot : Nat) (to_ : BitVec 16) (m : Module) : Module :=
  match (m.ctx slot).sched.note with
  | none => m
  | some n =>
    let body := leBytes 8 (2 ^ 63 + n.1 * 2 ^ 56 + n.2.1) ++ leBytes 8 n.2.2
    let x := { baseTx m slot .write to_ (BitVec.ofNat 48 (4 * 2 ^ 44 + offVarnote)) with len := 16, payload := body }
    let m := updSched slot (fun d =>
      { d with notices := (d.notices.filter fun e => e.1 != to_.toNat) ++ [(to_.toNat, m.now)] }) m
    request (flightFor m slot (lowCore (m.ctx slot)) (.notice to_) x) m

/-- The members of the job: those of the global-norm group, in member order. -/
def jobMembers (m : Module) (slot : Nat) : List (BitVec 16) :=
  match groupOf m slot (m.ctx slot).gn.group with
  | some g => g.members
  | none => []

/-- The coordinator acts on the reports of the step before the present one. -/
def evaluate (slot : Nat) (rs : List Report) (m : Module) : Module :=
  let x := m.ctx slot
  let now := x.stepnum.toNat
  if rs.isEmpty || !(rs.all fun r => r.step + 1 == now) then m
  else
    let mem := jobMembers m slot
    let m := updSched slot (fun d => { d with evald := now + 1 }) m
    let m := (stragglers x rs).foldl (fun m e =>
      irq3 x.part (led 0x0707 sevWarn (atCtx m slot) [(mem.getD e.1 0).toNat, e.2.1, e.2.2] m)) m
    match chooseVariant x rs with
    | none => m
    | some v =>
      let frame := (x.sched.stept0 + (now + 1) * x.sched.stepper) / 16000
      let m := takeNotice slot v (now + 1) frame m
      (mem.filter (· != ownNum m)).foldl (fun m n => sendNotice slot n m) m

/-- VARIANT_EVALUATE: on the coordinator, once in a step, when every report is there (R398, R400). -/
def variantEvaluate (slot : Nat) (m : Module) : Module :=
  let x := m.ctx slot
  let n := (jobMembers m slot).length
  if x.state ≠ .running ∨ x.sched.mode = 0 ∨ !(catOn m 7) ∨ x.sched.coordArea = 0 ∨ !(isLocal m x.sched.coordArea) ∨
      x.sched.evald = x.stepnum.toNat + 1 ∨ x.sched.note.isSome ∨ !x.sched.notices.isEmpty then m
  else
    runLib slot (readLocal slot noCore none x.sched.coordArea (256 * n))
      (fun bs m => evaluate slot (parseReports n (bs.map (·.1))) m) m

/-- VARIANT_EVALUATE. -/
def execVariantEvaluate (slot : BitVec 6) (s : State) : Host.Outcome State Fault Refusal :=
  liftL (variantEvaluate slot.toNat) s

/-- VARNOTE_RECEIVE: the notice as a member's VARNOTE takes it; the WRITE that carries it does the same and is acknowledged
(log 152). -/
def execVarnoteReceive (job : BitVec 16) (variant : BitVec 2) (step : BitVec 32) (frame : Word) (s : State) :
    Host.Outcome State Fault Refusal :=
  liftL (fun m =>
    match jobCtx m job with
    | some slot => takeNotice slot variant.toNat step.toNat frame.toNat m
    | none => m) s

/-- VARNOTE_RESEND: a notice not acknowledged within 2 ms of its send (R399). -/
def varnoteResend (slot : Nat) (to_ : BitVec 16) (m : Module) : Module :=
  let w := Who.notice to_
  let out := m.fab.waiting.any (fun f => f.who == w && f.slot == slot) ||
    m.fab.flights.any fun f => f.who == w && f.slot == slot
  if ((m.ctx slot).sched.notices.any fun e => e.1 == to_.toNat && decide (e.2 + Config.txTimeout ≤ m.now)) && !out then
    sendNotice slot to_ m
  else m

/-- VARNOTE_RESEND. -/
def execVarnoteResend (slot : BitVec 6) (m : BitVec 16) (s : State) : Host.Outcome State Fault Refusal :=
  liftL (varnoteResend slot.toNat m) s

end Sys2Proof.Machine
end

