-- ==== Sys2Proof/Machine/CtxBlock.lean ====
section
/-! DEFINITION. The context block and the core block (18 Tables 18.7 to 18.11, R548, R549, R554, R555): what a register
reads as, what a write of it does, and the control space. -/

namespace Sys2Proof.Machine

/-! Packing -/

/-- A word from (place, value) pairs. -/
def packW (l : List (Nat × Nat)) : Word := BitVec.ofNat 64 ((l.map fun e => e.2 * 2 ^ e.1).sum)
/-- One bit. -/
def b1 (b : Bool) : Nat := if b then 1 else 0
/-- A region word with its low 16 bits zero. -/
def page44 (v : Word) : Nat := field v 16 28 * 65536
/-- Word w of a mask. -/
def maskWord {n : Nat} (v : BitVec n) (w : Nat) : Word := v.extractLsb' (64 * w) 64
/-- Change word w of a mask. -/
def setMaskWord {n : Nat} (v : BitVec n) (w : Nat) (x : Word) : BitVec n :=
  (v &&& ~~~((BitVec.allOnes 64).zeroExtend n <<< (64 * w))) ||| (x.zeroExtend n <<< (64 * w))

/-- The STATE field of CTXSTATE. -/
def CtxState.code : CtxState → Nat
  | .free => 0
  | .created => 1
  | .running => 2
  | .idle => 3
  | .faulted => 4
  | .teardown => 5

/-! RW registers -/

/-- An RW register of a context: its fields, the catalogue bit that gates it, what it reads as and what a write leaves. -/
structure RwReg where
  mask : Word
  gate : Option Nat
  get : Ctx → Word
  put : Word → Ctx → Ctx

/-- A register of plain fields. -/
def rw (mask : Word) (get : Ctx → Word) (put : Word → Ctx → Ctx) : Option RwReg :=
  some { mask := mask, gate := none, get := get, put := put }

/-- The same, gated. -/
def rwGated (bit_ : Nat) (mask : Word) (get : Ctx → Word) (put : Word → Ctx → Ctx) : Option RwReg :=
  some { mask := mask, gate := some bit_, get := get, put := put }

/-- All 64 bits. -/
def full : Word := BitVec.allOnes 64
/-- Bits 31 to 0. -/
def low32 : Word := 0xFFFFFFFF

/-- 0x0000 to 0x02FF. -/
def rwHead (off : Nat) : Option RwReg :=
  if off = 0x30 then rw full (·.r.entry) fun v x => { x with r := { x.r with entry := v } }
  else if 0x80 ≤ off ∧ off < 0xA0 then
    let w := (off - 0x80) / 8
    rw full (fun x => maskWord x.r.startmask w) fun v x =>
      { x with r := { x.r with startmask := setMaskWord x.r.startmask w v } }
  else if 0xC8 ≤ off ∧ off < 0xE0 then
    let k := (off - 0xC0) / 8
    rw 0x1FFFFFFFF
      (fun x => let e := Sparse.get (false, 0) x.errtag k; packW [(32, b1 e.1), (0, e.2.toNat)])
      fun v x => { x with errtag := Sparse.set (false, 0) x.errtag k (bit v 32, v.truncate 32) }
  else if off = 0xE8 then rw full (·.srseed) fun v x => { x with srseed := v }
  else if off = 0xF0 then rw low32 (fun x => x.stepnum.zeroExtend 64) fun v x => { x with stepnum := v.truncate 32 }
  else if off = 0xF8 then rw low32 (fun x => x.remtmo.zeroExtend 64) fun v x => { x with remtmo := v.truncate 32 }
  else if off = 0x108 then
    rw 0x3FFFFFF (fun x => BitVec.ofNat 64 x.ovd.grace) fun v x =>
      { x with ovd := { x.ovd with grace := Nat.max 10 (Nat.min 60000000 v.toNat) } }
  else if off = 0x200 then rw full (·.grplist) fun v x => { x with grplist := v }
  else none

/-- The registers of the global norm (0x0300 to 0x0337). -/
def rwGn (off : Nat) : Option RwReg :=
  if off = 0x300 then
    rw 0xFFF01FFFF03
      (fun x => packW [(32, x.gn.group.toNat), (16, x.gn.ctr.toNat), (8, x.gn.ttid.toNat), (1, b1 x.gn.skip), (0, b1 x.gn.en)])
      fun v x =>
        { x with gn := { x.gn with group := v.extractLsb' 32 12, ctr := v.extractLsb' 16 9, ttid := v.extractLsb' 8 8,
                                   skip := bit v 1, en := bit v 0 } }
  else if off = 0x308 then rw full (fun x => BitVec.ofNat 64 x.gn.off) fun v x => { x with gn := { x.gn with off := v.toNat } }
  else if off = 0x310 then rw full (·.gn.area) fun v x => { x with gn := { x.gn with area := v } }
  else if off = 0x318 then
    rw 0xFFFF (fun x => BitVec.ofNat 64 x.gn.len) fun v x => { x with gn := { x.gn with len := v.toNat } }
  else if off = 0x320 then
    rw low32 (fun x => x.gn.scale.zeroExtend 64) fun v x => { x with gn := { x.gn with scale := v.truncate 32 } }
  else if off = 0x328 then
    rw low32 (fun x => x.gn.maxv.zeroExtend 64) fun v x => { x with gn := { x.gn with maxv := v.truncate 32 } }
  else if off = 0x330 then rw full (·.gn.out) fun v x => { x with gn := { x.gn with out := v } }
  else none

/-- The words of BMRGNr. -/
def rwRegion (r w : Nat) : Option RwReg :=
  let at_ := fun (x : Ctx) => Sparse.get (0, 0, 0) x.bm.rgn r
  let upd := fun (g : Nat × Nat × Nat → Nat × Nat × Nat) (x : Ctx) =>
    { x with bm := { x.bm with rgn := Sparse.upd (0, 0, 0) x.bm.rgn r g } }
  if w = 0 then
    rwGated 9 0xF0000FFFFFFFFFFF (fun x => packW [(60, (at_ x).1), (0, (at_ x).2.1)])
      fun v => upd fun e => (field v 60 4, page44 v, e.2.2)
  else rwGated 9 0xFFFFFFFFFFF (fun x => BitVec.ofNat 64 (at_ x).2.2) fun v => upd fun e => (e.1, e.2.1, page44 v)

/-- Bookmarks, deposits and collation (0x0400 to 0x05FF). -/
def rwBm (off : Nat) : Option RwReg :=
  if off = 0x400 then
    rwGated 9 3 (fun x => packW [(1, b1 x.bm.hold), (0, b1 x.bm.auto)]) fun v x =>
      { x with bm := { x.bm with hold := bit v 1, auto := bit v 0 } }
  else if 0x410 ≤ off ∧ off < 0x490 then rwRegion ((off - 0x410) / 16) ((off - 0x410) / 8 % 2)
  else if off = 0x490 then rw full (·.bm.poolList) fun v x => { x with bm := { x.bm with poolList := v } }
  else if off = 0x498 then
    rw low32 (fun x => BitVec.ofNat 64 x.bm.poolCount) fun v x => { x with bm := { x.bm with poolCount := v.toNat } }
  else if off = 0x500 then
    rwGated 10 0xFFFFFFFF00FF00FF
      (fun x => packW [(48, x.dep.holder.toNat), (32, x.dep.holder2.toNat), (16, x.dep.k), (0, x.dep.ttid.toNat)])
      fun v x =>
        { x with dep := { x.dep with holder := v.extractLsb' 48 16, holder2 := v.extractLsb' 32 16, k := field v 16 8,
                                     ttid := v.extractLsb' 0 8 } }
  else if off = 0x510 then rw full (·.dep.partners) fun v x => { x with dep := { x.dep with partners := v } }
  else if off = 0x530 then
    rw low32 (fun x => BitVec.ofNat 64 x.col.fbmax) fun v x => { x with col := { x.col with fbmax := v.toNat } }
  else none

/-- The words of VARPLANv: the variants other than 0 are gated. -/
def rwPlan (v w : Nat) : Option RwReg :=
  let at_ := fun (x : Ctx) => Sparse.get (0, 0) x.sched.plan v
  let upd := fun (g : Word × Nat → Word × Nat) (x : Ctx) =>
    { x with sched := { x.sched with plan := Sparse.upd (0, 0) x.sched.plan v g } }
  let r : RwReg :=
    if w = 0 then { mask := full, gate := none, get := fun x => (at_ x).1, put := fun d => upd fun e => (d, e.2) }
    else
      { mask := 0x1FFF, gate := none, get := fun x => BitVec.ofNat 64 (at_ x).2, put := fun d => upd fun e => (e.1, d.toNat) }
  some { r with gate := if v = 0 then none else some 7 }

/-- The words of STGCFGs. -/
def rwStage (s w : Nat) : Option RwReg :=
  let at_ := fun (x : Ctx) => x.stage s
  let upd := fun (g : Stage → Stage) (x : Ctx) =>
    { x with sched := { x.sched with stages := Sparse.upd Stage.init x.sched.stages s g } }
  match w with
  | 0 => rw full (fun x => (at_ x).cfg0) fun v => upd fun g => { g with cfg0 := v }
  | 1 => rw 0xFFFF00000003FFFF (fun x => (at_ x).cfg1) fun v => upd fun g => { g with cfg1 := v }
  | 2 => rw 0x8000FFFF000001FF (fun x => (at_ x).cfg2) fun v => upd fun g => { g with cfg2 := v }
  | _ => none

/-- The scheduler (0x0800 to 0x0BFF). -/
def rwSched (off : Nat) : Option RwReg :=
  let upd := fun (g : Sched → Sched) (x : Ctx) => { x with sched := g x.sched }
  if 0x810 ≤ off ∧ off < 0x850 then rwPlan ((off - 0x810) / 16) ((off - 0x810) / 8 % 2)
  else if off = 0x858 then
    rw 0xF (fun x => x.sched.varmask.zeroExtend 64) fun v => upd fun d => { d with varmask := v.extractLsb' 0 4 }
  else if off = 0x860 then
    rw 3 (fun x => BitVec.ofNat 64 x.sched.varstby) fun v => upd fun d => { d with varstby := v.toNat }
  else if off = 0x878 then
    rw full (fun x => BitVec.ofNat 64 x.sched.gpool) fun v => upd fun d => { d with gpool := v.toNat }
  else if off = 0x888 then
    rwGated 7 0xFFFF (fun x => BitVec.ofNat 64 x.sched.imbthr) fun v => upd fun d => { d with imbthr := v.toNat }
  else if off = 0x890 then
    rwGated 7 0xFFFF (fun x => BitVec.ofNat 64 x.sched.stragthr) fun v => upd fun d => { d with stragthr := v.toNat }
  else if off = 0x898 then rwGated 7 full (·.sched.coordArea) fun v => upd fun d => { d with coordArea := v }
  else if off = 0x8A0 then
    rwGated 7 0xFFFF (fun x => BitVec.ofNat 64 x.sched.coordRank) fun v => upd fun d => { d with coordRank := v.toNat }
  else if off = 0x8A8 then
    rw full (fun x => BitVec.ofNat 64 x.sched.stept0) fun v => upd fun d => { d with stept0 := v.toNat }
  else if off = 0x8B0 then
    rw full (fun x => BitVec.ofNat 64 x.sched.stepper) fun v => upd fun d => { d with stepper := v.toNat }
  else if 0xA00 ≤ off ∧ off < 0xC00 then rwStage ((off - 0xA00) / 32) ((off - 0xA00) / 8 % 4)
  else none

/-- The RW registers of a context whose write only sets their fields. -/
def rwPlain (off : Nat) : Option RwReg :=
  if off < 0x300 then rwHead off
  else if off < 0x400 then rwGn off
  else if off < 0x600 then rwBm off
  else if off < 0x1000 then rwSched off
  else if off = 0x2000 then rw full (·.edtbase) fun v x => { x with edtbase := v }
  else none

/-! Reading -/

/-- A Reserve's registers (+0x00 to +0x30). -/
def readRsv (m : Module) (slot s r : Nat) : Word :=
  let x := m.ctx slot
  let v := x.rsvAt s
  match r with
  | 0 => BitVec.ofNat 64 v.base
  | 1 => BitVec.ofNat 64 v.lim
  | 2 => BitVec.ofNat 64 v.top
  | 3 => BitVec.ofNat 64 (rsvHole v)
  | 4 => packW [(32, v.dir.length), (0, (v.dir.filter (·.live)).length)]
  | 5 => BitVec.ofNat 64 v.hwm
  | 6 =>
    BitVec.ofNat 64 (((coresOf x.r.cores).map fun c =>
      ((m.core c).tePark.filter fun k =>
        k.iss.slot == slot &&
          (match k.work with
           | .push st _ _ _ _ => st == s
           | _ => false)).length).sum)
  | _ => 0

/-- BMSTAT shows the job's bookmark on the module. -/
def readBmstat (m : Module) (slot w : Nat) : Word :=
  let x := m.ctx slot
  match bmOf m x.r.job with
  | none => if w = 0 then packW [(4, x.bm.cause)] else 0
  | some b =>
    if w = 0 then packW [(32, b.step), (4, x.bm.cause), (2, b1 b.mixed), (1, b1 b.lost), (0, 1)]
    else BitVec.ofNat 64 b.copies.length

/-- EDSTAT (Table 18.10). -/
def readEd (x : Ctx) (i : Nat) : Word :=
  let t := x.tensor i
  packW [(63, b1 t.bound), (62, b1 t.claimed), (61, b1 !t.waiting.isEmpty), (60, b1 t.cur), (32, t.edition.toNat),
    (16, t.pin1), (0, t.pin0)]

/-- STGSTAT of a stage. -/
def readStgstat (x : Ctx) (s : Nat) : Word :=
  let g := x.stage s
  packW [(63, b1 g.running.isSome), (32, (g.running.map (·.1)).getD 0), (2, b1 g.filled), (0, b1 g.turn)]

/-- The registers of Table 18.7 that are not plain RW ones. -/
def readOther (m : Module) (slot off : Nat) : Word :=
  let x := m.ctx slot
  if off = 0x8 then packW [(22, x.gen.toNat), (16, slot), (0, x.state.code)]
  else if off = 0x10 then packW [(2, b1 x.r.abort), (1, b1 x.r.keep), (0, b1 x.r.rnd)]
  else if off = 0x18 then x.r.job.zeroExtend 64
  else if off = 0x20 then x.r.ptbase.zeroExtend 64
  else if off = 0x28 then packW [(8, x.r.csSize.toNat), (0, x.r.csBase.toNat)]
  else if 0x40 ≤ off ∧ off < 0x80 then maskWord x.r.cores ((off - 0x40) / 8)
  else if off = 0xA0 then packW [(16, x.fault.count), (8, x.fault.sub.code), (0, x.fault.cause.code)]
  else if off = 0xA8 then x.fault.addr
  else if off = 0xB0 then x.fault.src.zeroExtend 64
  else if off = 0xC0 then x.errsum.zeroExtend 64
  else if off = 0x100 then BitVec.ofNat 64 x.ovd.win
  else if off = 0x110 then BitVec.ofNat 64 x.ovd.test
  else if off = 0x118 then BitVec.ofNat 64 x.ovd.lastProgress
  else if off = 0x210 then
    packW [(20, memberEntries m.fab.groups), (8, m.fab.groups.length), (1, b1 x.grpRefused), (0, b1 x.grpDone)]
  else if off = 0x340 then x.gn.res
  else if off = 0x348 then
    packW [(32, x.gn.step), (3, b1 x.gn.skipped), (2, b1 x.gn.late), (1, b1 x.gn.nonfinite), (0, b1 x.gn.done)]
  else if off = 0x4B0 then readBmstat m slot 0
  else if off = 0x4B8 then readBmstat m slot 1
  else if off = 0x508 then
    packW [(32, x.dep.stepNew), (8, b1 x.dep.newestB), (7, b1 x.dep.noholder), (6, b1 x.dep.correlated),
      (5, b1 x.dep.samefeed), (4, b1 x.dep.abandoned), (2, x.dep.slotB), (0, x.dep.slotA)]
  else if off = 0x518 then x.dep.usable.zeroExtend 64
  else if off = 0x538 then packW [(32, x.col.compared), (0, x.col.mismatch)]
  else if off = 0x540 then packW [(32, x.col.firstFailed), (1, x.col.failed), (0, b1 x.col.clean)]
  else if off = 0x548 then packW [(48, x.shadow.modnum.toNat), (0, x.shadow.role)]
  else if off = 0x550 then packW [(32, x.shadow.failStep), (0, x.shadow.clean)]
  else if 0x600 ≤ off ∧ off < 0x680 then
    let k := Sparse.get { base := 0, len := 0, table := 0 } x.kv ((off - 0x600) / 32)
    match (off - 0x600) / 8 % 4 with
    | 0 => BitVec.ofNat 64 k.base
    | 1 => BitVec.ofNat 64 k.len
    | 2 => k.table
    | _ => 0
  else if off = 0x800 then BitVec.ofNat 64 x.sched.mode
  else if off = 0x850 then BitVec.ofNat 64 x.sched.varcur
  else if off = 0x868 then
    match x.sched.note with
    | some n => packW [(63, 1), (56, n.1), (0, n.2.1)]
    | none => 0
  else if off = 0x870 then
    match x.sched.note with
    | some n => BitVec.ofNat 64 n.2.2
    | none => 0
  else if off = 0x880 then BitVec.ofNat 64 x.sched.gkept
  else if 0xC00 ≤ off ∧ off < 0xC80 then readStgstat x ((off - 0xC00) / 8)
  else if 0xC80 ≤ off ∧ off < 0xD00 then
    let g := x.stage ((off - 0xC80) / 8)
    packW [(32, meanUs g.bwd), (0, meanUs g.fwd)]
  else if 0x1000 ≤ off ∧ off < 0x1400 then readRsv m slot ((off - 0x1000) / 64) (off % 64 / 8)
  else if 0x4000 ≤ off ∧ off < 0x6000 then readEd x ((off - 0x4000) / 8)
  else if 0x8000 ≤ off ∧ off < 0x8800 then
    let c := (off - 0x8000) / 4
    packW [(32, (x.ctr (BitVec.ofNat 9 (c + 1))).toNat), (0, (x.ctr (BitVec.ofNat 9 c)).toNat)]
  else 0

/-- The aligned 8 B word of a context block at an offset: WO registers and offsets without a register read as zero. -/
def readCtx (m : Module) (slot off : Nat) : Word :=
  match rwPlain off with
  | some r => r.get (m.ctx slot)
  | none => readOther m slot off

/-- The aligned 8 B word of a core block (Table 18.11). -/
def readCore (m : Module) (c off : Nat) : Word :=
  let k := m.core c
  if off = 0 then BitVec.ofNat 64 k.clk
  else if off = 8 then BitVec.ofNat 64 k.sramce
  else if off = 0x10 then BitVec.ofNat 64 (Sparse.get 0 m.csce (clusterOfCore c))
  else if 0x100 ≤ off ∧ off < 0x220 then
    let at_ := fun (o : Nat) => Sparse.get 0 k.err ((o - 0x100) / 4)
    packW [(32, at_ (off + 4)), (0, at_ off)]
  else 0

/-- The word that holds a control-space offset (R554). -/
def readCtlWord (m : Module) (slot off : Nat) : Word :=
  if off / 2 ^ 21 % 2 = 0 then readCtx m slot (off / 8 * 8) else readCore m (off / 4096 % 512) (off % 4096 / 8 * 8)

/-- A control-space read of n bytes: other sizes than 4 and 8, and misaligned ones, read as zero. -/
def readCtl (m : Module) (slot off n : Nat) : Nat :=
  let w := readCtlWord m slot off
  if n = 8 ∧ off % 8 = 0 then w.toNat
  else if n = 4 ∧ off % 4 = 0 then w.toNat / 2 ^ (8 * (off % 8)) % 2 ^ 32
  else 0

/-! Writing -/

/-- Writes that have fields of their own after them: the deposit flags follow RECPART and DEPCFG (14 R465, R466). -/
def afterPut (slot off : Nat) (m : Module) : Module := if off = 0x500 ∨ off = 0x510 then depFlags slot m else m

/-- GNCFG keeps EN 0 while catalogue bit 8 is clear (17 R547). -/
def gnMasked (m : Module) (off : Nat) (v : Word) : Word :=
  if off = 0x300 ∧ !(catOn m 8) then v &&& ~~~1 else v

/-- A write of a plain RW register. -/
def putRw (w : By) (slot off : Nat) (r : RwReg) (v : Word) (m : Module) : Module :=
  let k := fun (m : Module) =>
    let v' := gnMasked m off v
    let m := if v' = v then m else led 0x0901 sevWarn atModule [ctxOff slot off, 8, writerNo w] m
    afterPut slot off (m.updCtx slot (r.put v'))
  match r.gate with
  | some b => onGated b w slot off v.toNat (fun _ => true) k m
  | none => onCtx w slot off v.toNat (fun _ => true) k m

/-- START, STOP, DELETE and RESET through CTXCMD; CREATE is for the creation area, and the other codes name nothing. -/
def writeCtxcmd (f : Fn) (slot cmd : Nat) (m : Module) : Module :=
  match cmd with
  | 1 => ctxCommand f slot 1 Ctx.quiet (startCtx slot) m
  | 2 => endCtx f slot 2 m
  | 3 => endCtx f slot 3 m
  | 4 => endCtx f slot 4 m
  | _ => onCtx (some f) slot offCtxcmd cmd (fun _ => false) id m

/-- Half of COLKEY. -/
def writeColkey (w : By) (slot off : Nat) (v : Word) (m : Module) : Module :=
  onCtx w slot off v.toNat (fun _ => true) (fun m => m.updCtx slot fun x =>
    { x with col := { x.col with key := setMaskWord x.col.key ((off - 0x520) / 8) v } }) m

/-- What an 8 B write of a register with an action of its own does, with the fields it has. -/
structure RegAct where
  mask : Word
  run : Module → Module

/-- A register with an action of its own. -/
def regAct (mask : Word) (run : Module → Module) : Option RegAct := some { mask := mask, run := run }

/-- WO registers that a thread or a function writes. -/
def woAct (w : By) (slot off : Nat) (v : Word) : Option RegAct :=
  let ctr := fun (lo : Nat) => v.extractLsb' lo 9
  if off = offPtinv then regAct 0x3FF (ptInv w slot (bit v 9) (ctr 0))
  else if off = offErrclr then regAct 0xF (errClr w slot (v.extractLsb' 0 4))
  else if off = offGngo then regAct low32 (gngo w slot (v.extractLsb' 0 32))
  else if off = offBmtake then regAct low32 (bmTake w slot (v.extractLsb' 0 32))
  else if off = offKvfree then regAct 0x1FF0FFFFFFF (kvFree w slot (ctr 32) (field v 0 28))
  else if off = offUnitdone then regAct 0xFFF (unitDone w slot (field v 0 12))
  else if off = offEdbind then regAct 0x3FF (edBind w slot (field v 0 10))
  else if off = offEdclaim then regAct 0x1FF03FF (edClaim w slot (ctr 16) (field v 0 10))
  else if off = offEdpub then regAct 0x3FF (edPub w slot (field v 0 10))
  else if off = 0x520 ∨ off = 0x528 then regAct full (writeColkey w slot off v)
  else none

/-- WO registers that only a function writes. -/
def woHost (f : Fn) (slot off : Nat) (v : Word) : Option RegAct :=
  if off = offCtxcmd then regAct 7 (writeCtxcmd f slot (field v 0 3))
  else if off = offGrpbind then
    regAct 0x800000007FFF0FFF
      (grpBind f slot v.toNat
        (if bit v 63 then unbindGroup slot (v.extractLsb' 0 12) else bindGroup slot (v.extractLsb' 0 12) (field v 16 15 + 1)))
  else if off = offBmrestore then regAct low32 (bmRestore f slot (v.extractLsb' 0 32))
  else if 0x180 ≤ off ∧ off < 0x1D0 then regAct full (onCtx (some f) slot off v.toNat (fun _ => false) id)
  else woAct (some f) slot off v

/-- RW registers with rules of their own. -/
def rwAct (w : By) (slot off : Nat) (v : Word) : Option RegAct :=
  if off = offCtxctl then regAct 7 (writeCtxctl w slot v)
  else if off = offOvdwin then regAct 0xFFFF (writeOvdwin w slot v)
  else if off = offShadowcfg then regAct 0xFFFF000000000007 (writeShadow w slot v)
  else if off = offSchedmode then regAct 3 (writeMode w slot (field v 0 2))
  else if off = offVarcur then regAct 3 (quietWrite w slot off v.toNat true fun d => d.setVar (field v 0 2))
  else if 0x600 ≤ off ∧ off < 0x680 ∧ (off - 0x600) / 8 % 4 ≠ 3 then
    regAct (kvMask ((off - 0x600) / 8 % 4)) (writeKvwin w slot ((off - 0x600) / 32) ((off - 0x600) / 8 % 4) v)
  else if 0x1000 ≤ off ∧ off < 0x1400 then
    let s := (off - 0x1000) / 64
    match off % 64 / 8 with
    | 0 => regAct 0xFFFFFFFFFFF (rsvBound w slot s false v)
    | 1 => regAct 0xFFFFFFFFFFF (rsvBound w slot s true v)
    | 5 => regAct 0xFFFFFFFFFFF (rsvHwm w slot s v)
    | _ => none
  else
    match rwPlain off with
    | some r => regAct r.mask (putRw w slot off r v)
    | none => none

/-- A completion counter takes a value. -/
def writeCtr (w : By) (slot off : Nat) (v : W32) (m : Module) : Module :=
  onCtx w slot off v.toNat (fun _ => true) (fun m => m.updCtx slot fun x =>
    { x with ctrs := Sparse.set 0 x.ctrs ((off - 0x8000) / 4) v }) m

/-- Run the action of a writer; a write with a non-zero RSV field is an act of 03 Table 3.10 instead. -/
def runAct (w : By) (slot : Nat) (a : Option RegAct) (v : Word) (m : Module) : Module :=
  match a with
  | some a => rsvOk w slot a.mask v a.run m
  | none => m

/-- The word an RW register takes from a 4 B write of one half (R548). An action register of Table 18.7 that reads as zero
takes zero in its other half. -/
def mergeHalf (cur : Word) (hi : Bool) (v : Word) : Word :=
  if hi then (cur &&& low32) ||| (v <<< 32) else (cur &&& ~~~low32) ||| (v &&& low32)

/-- RSVHWM clears where 1 is written: its other half is written with zeros. -/
def halfBase (m : Module) (slot off : Nat) : Word :=
  if 0x1000 ≤ off ∧ off < 0x1400 ∧ off % 64 = 0x28 then 0 else readCtx m slot off

/-- A host write of 4 or 8 aligned bytes into a context block (R548). RO registers and offsets that the table does not list
ignore it. -/
def writeCtx (f : Fn) (slot off n : Nat) (v : Word) (m : Module) : Module :=
  let w : By := some f
  let at_ := off / 8 * 8
  if !(seesCtx m w slot) then m
  else if 0x8000 ≤ off ∧ off < 0x8800 then
    let m := writeCtr w slot off (v.truncate 32) m
    if n = 8 then writeCtr w slot (off + 4) (v.extractLsb' 32 32) m else m
  else if n = 8 then
    match woHost f slot off v with
    | some a => runAct w slot (some a) v m
    | none => runAct w slot (rwAct w slot off v) v m
  else
    let v' := mergeHalf (halfBase m slot at_) (off % 8 == 4) v
    runAct w slot (rwAct w slot at_ v') v' m

/-- The RW registers a thread may write (R555). -/
def threadRw (off : Nat) : Bool :=
  (decide (0xC8 ≤ off) && decide (off < 0xE0)) || off == 0xF8 ||
    (decide (0x1000 ≤ off) && decide (off < 0x1400) && off % 64 == 0x28)

/-- A control-space store of n bytes: of the registers of R555, WO ones take 8 B writes only; every other write is ignored,
with a ledger entry. -/
def writeCtl (slot off n : Nat) (v : Word) (m : Module) : Module :=
  let at_ := off / 8 * 8
  if !(n = 4 ∨ n = 8) ∨ off % n ≠ 0 then m
  else if off / 2 ^ 21 % 2 = 0 && threadRw at_ then
    let v' := if n = 8 then v else mergeHalf (halfBase m slot at_) (off % 8 == 4) v
    runAct none slot (rwAct none slot at_ v') v' m
  else if off / 2 ^ 21 % 2 = 0 && at_ != offPtinv && at_ != 0x520 && at_ != 0x528 && (woAct none slot at_ v).isSome then
    if n = 8 then runAct none slot (woAct none slot off v) v m else m
  else ctxRefused none slot off v.toNat m

end Sys2Proof.Machine
end

