-- ==== Sys2Proof/Machine/LoadStore.lean ====
section
/-! DEFINITION. Scalar loads, stores and atomic operations (03 R93, R94, R105, R106; 04 R133, R134; 07 R247; 08 R277 to
R279). -/

namespace Sys2Proof.Machine

/-- The first byte of an access that fails its check, and the fault it takes (R93, R115). -/
def failAt (slot : Nat) (k : Acc) (n : Nat) (c : Word) (t : ThreadNo) (m : Module) : Option FaultInfo :=
  (upTo n).findSome? fun i =>
    let at_ := c + BitVec.ofNat 64 i
    match (resolve slot k none at_ m).2 with
    | .deny s => some (pageFault s at_ (srcOf t))
    | .poison => some (poisonFault at_ (srcOf t))
    | _ => none

/-- Where an access of n bytes lands, after its checks, or the fault it takes. -/
def locate (slot : Nat) (k : Acc) (n : Nat) (c : Word) (t : ThreadNo) (m : Module) : Module × Except FaultInfo Loc :=
  let r := resolveBytes slot k none n c m
  match r.2, failAt slot k n c t m with
  | .ok pas, _ => (r.1, .ok (.mem pas))
  | _, some f => (r.1, .error f)
  | .error (.ctl off), none => (r.1, .ok (.ctl off))
  | .error _, none => (r.1, .ok .remote)

/-- A scalar request that the TE of the thread's core carries (R105). -/
def askScalar (slot : Nat) (t : ThreadNo) (who : Who) (x : Txn) (m : Module) : Module :=
  request { core := t.core, slot := slot, gen := (m.ctx slot).gen.toNat, who := who, sent := none, x := x } m

/-- The transactions of a remote access of n bytes: one, or one for each byte when it is misaligned (R93). -/
def scalarTxs (m : Module) (slot : Nat) (k : TxKind) (n : Nat) (c : Word) : List Txn :=
  let one := fun (c : Word) (n : Nat) => { baseTx m slot k (callDst c) (callAddr c) with len := n }
  if misaligned n c then (upTo n).map fun i => one (c + BitVec.ofNat 64 i) 1 else [one c n]

/-- The thread waits for its value (R133). -/
def awaitValue (t : ThreadNo) (l : LoadWait) (m : Module) : Module :=
  m.updThread t fun x => { x with load := some l, stall := .none }

/-! Loads -/

/-- A load of n bytes. -/
def bodyLoad (n : Nat) (signed : Bool) (t : ThreadNo) (rd ra : Reg) (i : BitVec 14) : Body := fun slot m =>
  if m.mark t ra then useFault slot t m
  else
    let c := m.reg t ra + imm14 i
    let r := locate slot .read n c t m
    match r.2 with
    | .error f => ctxFault slot f r.1
    | .ok loc =>
      let m := awaitValue t { rd := rd, op := .ld n signed, call := c, loc := loc, value := none, timedOut := false, got := [] } r.1
      if loc = .remote then (scalarTxs m slot .read n c).foldl (fun m x => askScalar slot t (.load t) x m) m else m

/-! Stores -/

/-- A write into the module's memories waits for its memory path, and for the copies of pages with COW set. -/
def pendOne (slot : Nat) (t : ThreadNo) (c : Word) (items : List (Nat × Byte)) (bad : Bool) (m : Module) : Module :=
  let pages := cowPages slot c items.length m
  let u := newUid m
  let w : PWrite := { uid := u.1, t := t, slot := slot, gen := (m.ctx slot).gen.toNat, items := items, bad := bad, call := c }
  waitCow slot pages { u.2 with writes := u.2.writes ++ [w] }

/-- A store waits whole, or byte by byte when it is misaligned (R93). -/
def pendStore (slot : Nat) (t : ThreadNo) (c : Word) (items : List (Nat × Byte)) (bad : Bool) (m : Module) : Module :=
  if misaligned items.length c then
    items.zipIdx.foldl (fun m e => pendOne slot t (c + BitVec.ofNat 64 e.2) [e.1] bad m) m
  else pendOne slot t c items bad m

/-- Ask for the remote WRITEs of a store. -/
def sendStore (slot : Nat) (t : ThreadNo) (c : Word) (bytes : List Byte) (bad : Bool) (m : Module) : Module :=
  (scalarTxs m slot .write bytes.length c).zipIdx.foldl (fun m e =>
    askScalar slot t (.store t) { e.1 with payload := (bytes.drop e.2).take e.1.len, bad := if bad then [0] else [] } m) m

/-- A misaligned store of which one byte fails its check: any of its other bytes may have been stored, as free values
choose. -/
def strayStore (slot : Nat) (t : ThreadNo) (c : Word) (bytes : List Byte) (bad : Bool) (m : Module) : Module :=
  if misaligned bytes.length c then
    let d := Config.freeWord m.draw
    bytes.zipIdx.foldl (fun m e =>
      let c' := c + BitVec.ofNat 64 e.2
      let r := resolve slot .write none c' m
      match r.2 with
      | .pa pa => if d.getLsbD e.2 && !(bad && toMain [pa]) then pendOne slot t c' [(pa, e.1)] bad r.1 else r.1
      | .remote => if d.getLsbD e.2 && !(bad && callSpace c' == 0) then sendStore slot t c' [e.1] bad r.1 else r.1
      | _ => r.1) { m with draw := m.draw + 1 }
  else m

/-- The thread goes past a store, which retires later, when it is accepted or acknowledged (R133, R104; 07 R249). -/
def passI (t : ThreadNo) (m : Module) : Module := m.updThread t fun x => { x with pc := x.pc + 4, pfx := none, stall := .none }

/-- A store of the n low bytes of rs. A marked register is consumed by a write into main memory or into the control space;
elsewhere its mark travels. -/
def bodyStore (n : Nat) (t : ThreadNo) (rs ra : Reg) (i : BitVec 14) : Body := fun slot m =>
  if m.mark t ra then useFault slot t m
  else
    let c := m.reg t ra + imm14 i
    let v := m.reg t rs
    let bad := m.mark t rs
    let bytes := leBytes n v.toNat
    let eaten := fun (m : Module) => ctxFault slot (poisonFault c (srcOf t)) m
    let r := locate slot .write n c t m
    match r.2 with
    | .error f => ctxFault slot f (strayStore slot t c bytes bad r.1)
    | .ok (.mem pas) =>
      if bad && toMain pas then eaten r.1 else passI t (pendStore slot t c (pas.zip bytes) bad r.1)
    | .ok (.ctl off) =>
      if bad then useFault slot t r.1
      else retireI slot t (writeCtl slot off n (BitVec.ofNat 64 (leNat bytes)) r.1)
    | .ok .remote =>
      if bad && callSpace c == 0 then eaten r.1 else passI t (sendStore slot t c bytes bad r.1)

/-! Atomic operations -/

/-- The address of an atomic operation ignores the bits below its size (R134). -/
def atomCall (fn : Nat) (w : Word) : Word := w &&& ~~~(BitVec.ofNat 64 (atomSize fn - 1))

/-- An atomic operation: rb is stored or added, rd is compared by ACAS. Marked operands are data on their way to memory. -/
def bodyAtom (fn : Nat) (t : ThreadNo) (rd ra rb : Reg) : Body := fun slot m =>
  if m.mark t ra then useFault slot t m
  else
    let c := atomCall fn (m.reg t ra)
    let b := m.reg t rb
    let d := m.reg t rd
    let bad := m.mark t rb || (fn / 2 == 2 && m.mark t rd)
    let r := locate slot .atomic (atomSize fn) c t m
    match r.2 with
    | .error f => ctxFault slot f r.1
    | .ok loc =>
      let main := match loc with
        | .mem pas => toMain pas
        | _ => callSpace c == 0
      if bad && main then ctxFault slot (poisonFault c (srcOf t)) r.1
      else
        let m := awaitValue t { rd := rd, op := .atom fn b d bad, call := c, loc := loc, value := none, timedOut := false, got := [] } r.1
        if loc = .remote then
          let x : Txn := { baseTx m slot .atomic (callDst c) (callAddr c) with
                           fn := BitVec.ofNat 8 fn, len := 16, payload := leBytes 8 b.toNat ++ leBytes 8 d.toNat,
                           bad := if bad then [0] else [] }
          askScalar slot t (.load t) x m
        else m

/-! Arrival of values -/

/-- A write of the thread to one of these bytes still waits: the later access waits for it (R106). -/
def ownPending (m : Module) (t : ThreadNo) (pas : List Nat) : Bool :=
  m.writes.any fun w => w.t == t && w.items.any fun e => pas.contains e.1

/-- The value of an operation in rd: an answer of the operation's width is extended; the one a timeout supplies is taken
whole. -/
def loadedWord (op : LoadOp) (v : Nat) (whole : Bool) : Word :=
  match op with
  | .ld n signed => if whole then BitVec.ofNat 64 v else extendN n signed v
  | .atom _ _ _ _ => BitVec.ofNat 64 v

/-- The value is in rd, and the thread goes on. A retirement by timeout is no progress (07 R246). -/
def valueTo (slot : Nat) (t : ThreadNo) (l : LoadWait) (v : Nat) (bad : Bool) (m : Module) : Module :=
  let m := m.updThread t fun x =>
    { (x.setReg l.rd (loadedWord l.op v l.timedOut) bad) with load := none, pc := x.pc + 4, pfx := none, stall := .none }
  loadOver slot t (if l.timedOut then m else progress slot m)

/-- After a read of bytes that an engine writes in tile registers, an act of Table 3.10: what R119 allows. -/
def readAct (slot : Nat) (act : Bool) (m : Module) : Module := if act then undefCtx slot m else m

/-- One byte of a misaligned local load is read: which of those that are left, a free value chooses (R93). -/
def byteArrive (slot : Nat) (t : ThreadNo) (l : LoadWait) (n : Nat) (pas : List Nat) (m : Module) : Module :=
  let left := (upTo n).filter fun i => !(l.got.any fun e => e.1 == i)
  let i := match left with
    | [i] => i
    | _ => left.getD ((Config.freeWord m.draw).toNat % left.length) 0
  let pa := pas.getD i 0
  let act := tileWritten m none [pa]
  let r := readPas [pa] { m with draw := m.draw + 1 }
  let got := l.got ++ r.2.map fun b => (i, b)
  readAct slot act
    (if got.length < n then r.1.updThread t fun x => { x with load := some { l with got := got } }
     else valueTo slot t l (got.map fun e => e.2.1.toNat * 2 ^ (8 * e.1)).sum (got.any fun e => e.2.2) r.1)

/-- The value of a local access, if it can be performed now. -/
def localValue (slot : Nat) (t : ThreadNo) (l : LoadWait) (pas : List Nat) (m : Module) : Module :=
  if ownPending m t pas then m
  else
    match l.op with
    | .ld n _ =>
      if misaligned n l.call then byteArrive slot t l n pas m
      else
        let r := readPas pas m
        readAct slot (tileWritten m none pas) (valueTo slot t l (bytesNat r.2) (anyBad r.2) r.1)
    | .atom fn b d bad =>
      match cowPages slot l.call (atomSize fn) m with
      | [] =>
        let act := writeAct m (some t) none (atomItems fn b d pas m)
        let r := atomAt fn b d bad pas m
        let m := valueTo slot t l r.2.1 r.2.2 r.1
        if act.isSome then undefCtx slot m else m
      | ps => waitCow slot ps m

/-- The bytes of a control-space load. -/
def opBytes (op : LoadOp) : Nat :=
  match op with
  | .ld n _ => n
  | .atom fn _ _ _ => atomSize fn

/-- The value of thread t's load or atomic operation arrives. -/
def valueArrive (t : ThreadNo) (m : Module) : Module :=
  match ownerOf m t.core, (m.thread t).load with
  | some slot, some l =>
    match l.loc with
    | .mem pas => localValue slot t l pas m
    | .ctl off => valueTo slot t l (readCtl m slot off (opBytes l.op)) false m
    | .remote =>
      match l.value with
      | some v => settle slot (valueTo slot t l v.1.toNat v.2 m)
      | none => m
  | _, _ => m

/-- LOAD_VALUE_ARRIVAL. -/
def execLoadValueArrival (t : ThreadNo) (s : State) : Host.Outcome State Fault Refusal := lift (valueArrive t) s

/-- An earlier write of the same thread to one of the same bytes waits (R106). -/
def behindOwn (m : Module) (i : Nat) (w : PWrite) : Bool :=
  (m.writes.take i).any fun o => o.t == w.t && o.items.any fun e => w.items.any fun f => e.1 == f.1

/-- The i-th waiting write is accepted and its store progresses, unless it must wait for an earlier one or for a copy-on-write
copy; with an act of Table 3.10 what R119 allows happens too. -/
def acceptWrite (i : Nat) (m : Module) : Module :=
  match m.writes[i]? with
  | none => m
  | some w =>
    if behindOwn m i w then m
    else
      match cowPages w.slot w.call w.items.length m with
      | [] =>
        let act := writeAct m (some w.t) none w.items
        let m := putPas byContext w.items w.bad { m with writes := m.writes.eraseIdx i }
        let m := if (m.ctx w.slot).gen.toNat = w.gen then progress w.slot m else m
        if act.isSome then undefCtx w.slot m else m
      | ps => waitCow w.slot ps m

/-- LOCAL_WRITE_ACCEPT. -/
def execLocalWriteAccept (i : Nat) (s : State) : Host.Outcome State Fault Refusal := lift (acceptWrite i) s

/-! Commands -/

def bodyLd8u (t : ThreadNo) (rd ra : Reg) (i : BitVec 14) : Body := bodyLoad 1 false t rd ra i
def bodyLd16u (t : ThreadNo) (rd ra : Reg) (i : BitVec 14) : Body := bodyLoad 2 false t rd ra i
def bodyLd32u (t : ThreadNo) (rd ra : Reg) (i : BitVec 14) : Body := bodyLoad 4 false t rd ra i
def bodyLd64 (t : ThreadNo) (rd ra : Reg) (i : BitVec 14) : Body := bodyLoad 8 false t rd ra i
def bodyLd8s (t : ThreadNo) (rd ra : Reg) (i : BitVec 14) : Body := bodyLoad 1 true t rd ra i
def bodyLd16s (t : ThreadNo) (rd ra : Reg) (i : BitVec 14) : Body := bodyLoad 2 true t rd ra i
def bodyLd32s (t : ThreadNo) (rd ra : Reg) (i : BitVec 14) : Body := bodyLoad 4 true t rd ra i
def bodySt8 (t : ThreadNo) (rs ra : Reg) (i : BitVec 14) : Body := bodyStore 1 t rs ra i
def bodySt16 (t : ThreadNo) (rs ra : Reg) (i : BitVec 14) : Body := bodyStore 2 t rs ra i
def bodySt32 (t : ThreadNo) (rs ra : Reg) (i : BitVec 14) : Body := bodyStore 4 t rs ra i
def bodySt64 (t : ThreadNo) (rs ra : Reg) (i : BitVec 14) : Body := bodyStore 8 t rs ra i
def bodyAadd32 (t : ThreadNo) (rd ra rb : Reg) : Body := bodyAtom 0 t rd ra rb
def bodyAadd64 (t : ThreadNo) (rd ra rb : Reg) : Body := bodyAtom 1 t rd ra rb
def bodyAswp32 (t : ThreadNo) (rd ra rb : Reg) : Body := bodyAtom 2 t rd ra rb
def bodyAswp64 (t : ThreadNo) (rd ra rb : Reg) : Body := bodyAtom 3 t rd ra rb
def bodyAcas32 (t : ThreadNo) (rd ra rb : Reg) : Body := bodyAtom 4 t rd ra rb
def bodyAcas64 (t : ThreadNo) (rd ra rb : Reg) : Body := bodyAtom 5 t rd ra rb

/-- LD8U. -/
def execLd8u (t : ThreadNo) (rd ra : Reg) (i : BitVec 14) (s : State) : Host.Outcome State Fault Refusal :=
  scalar (.ld8u t rd ra i) t (bodyLd8u t rd ra i) s
/-- LD16U. -/
def execLd16u (t : ThreadNo) (rd ra : Reg) (i : BitVec 14) (s : State) : Host.Outcome State Fault Refusal :=
  scalar (.ld16u t rd ra i) t (bodyLd16u t rd ra i) s
/-- LD32U. -/
def execLd32u (t : ThreadNo) (rd ra : Reg) (i : BitVec 14) (s : State) : Host.Outcome State Fault Refusal :=
  scalar (.ld32u t rd ra i) t (bodyLd32u t rd ra i) s
/-- LD64. -/
def execLd64 (t : ThreadNo) (rd ra : Reg) (i : BitVec 14) (s : State) : Host.Outcome State Fault Refusal :=
  scalar (.ld64 t rd ra i) t (bodyLd64 t rd ra i) s
/-- LD8S. -/
def execLd8s (t : ThreadNo) (rd ra : Reg) (i : BitVec 14) (s : State) : Host.Outcome State Fault Refusal :=
  scalar (.ld8s t rd ra i) t (bodyLd8s t rd ra i) s
/-- LD16S. -/
def execLd16s (t : ThreadNo) (rd ra : Reg) (i : BitVec 14) (s : State) : Host.Outcome State Fault Refusal :=
  scalar (.ld16s t rd ra i) t (bodyLd16s t rd ra i) s
/-- LD32S. -/
def execLd32s (t : ThreadNo) (rd ra : Reg) (i : BitVec 14) (s : State) : Host.Outcome State Fault Refusal :=
  scalar (.ld32s t rd ra i) t (bodyLd32s t rd ra i) s
/-- ST8. -/
def execSt8 (t : ThreadNo) (rs ra : Reg) (i : BitVec 14) (s : State) : Host.Outcome State Fault Refusal :=
  scalar (.st8 t rs ra i) t (bodySt8 t rs ra i) s
/-- ST16. -/
def execSt16 (t : ThreadNo) (rs ra : Reg) (i : BitVec 14) (s : State) : Host.Outcome State Fault Refusal :=
  scalar (.st16 t rs ra i) t (bodySt16 t rs ra i) s
/-- ST32. -/
def execSt32 (t : ThreadNo) (rs ra : Reg) (i : BitVec 14) (s : State) : Host.Outcome State Fault Refusal :=
  scalar (.st32 t rs ra i) t (bodySt32 t rs ra i) s
/-- ST64. -/
def execSt64 (t : ThreadNo) (rs ra : Reg) (i : BitVec 14) (s : State) : Host.Outcome State Fault Refusal :=
  scalar (.st64 t rs ra i) t (bodySt64 t rs ra i) s
/-- AADD32. -/
def execAadd32 (t : ThreadNo) (rd ra rb : Reg) (s : State) : Host.Outcome State Fault Refusal :=
  scalar (.aadd32 t rd ra rb) t (bodyAadd32 t rd ra rb) s
/-- AADD64. -/
def execAadd64 (t : ThreadNo) (rd ra rb : Reg) (s : State) : Host.Outcome State Fault Refusal :=
  scalar (.aadd64 t rd ra rb) t (bodyAadd64 t rd ra rb) s
/-- ASWP32. -/
def execAswp32 (t : ThreadNo) (rd ra rb : Reg) (s : State) : Host.Outcome State Fault Refusal :=
  scalar (.aswp32 t rd ra rb) t (bodyAswp32 t rd ra rb) s
/-- ASWP64. -/
def execAswp64 (t : ThreadNo) (rd ra rb : Reg) (s : State) : Host.Outcome State Fault Refusal :=
  scalar (.aswp64 t rd ra rb) t (bodyAswp64 t rd ra rb) s
/-- ACAS32. -/
def execAcas32 (t : ThreadNo) (rd ra rb : Reg) (s : State) : Host.Outcome State Fault Refusal :=
  scalar (.acas32 t rd ra rb) t (bodyAcas32 t rd ra rb) s
/-- ACAS64. -/
def execAcas64 (t : ThreadNo) (rd ra rb : Reg) (s : State) : Host.Outcome State Fault Refusal :=
  scalar (.acas64 t rd ra rb) t (bodyAcas64 t rd ra rb) s

end Sys2Proof.Machine
end

