-- ==== Sys2Proof/Machine/Launch.lean ====
section
/-! DEFINITION. Launch of a scalar instruction that its due prefix has held (04 R156). -/

namespace Sys2Proof.Machine

/-- What a scalar instruction does once it issues. -/
def bodyOf (c : Instr) : Option Body :=
  match c with
  | .add t rd ra rb => some (bodyAdd t rd ra rb)
  | .sub t rd ra rb => some (bodySub t rd ra rb)
  | .and t rd ra rb => some (bodyAnd t rd ra rb)
  | .or t rd ra rb => some (bodyOr t rd ra rb)
  | .xor t rd ra rb => some (bodyXor t rd ra rb)
  | .sll t rd ra rb => some (bodySll t rd ra rb)
  | .srl t rd ra rb => some (bodySrl t rd ra rb)
  | .sra t rd ra rb => some (bodySra t rd ra rb)
  | .slt t rd ra rb => some (bodySlt t rd ra rb)
  | .sltu t rd ra rb => some (bodySltu t rd ra rb)
  | .min t rd ra rb => some (bodyMin t rd ra rb)
  | .max t rd ra rb => some (bodyMax t rd ra rb)
  | .minu t rd ra rb => some (bodyMinu t rd ra rb)
  | .maxu t rd ra rb => some (bodyMaxu t rd ra rb)
  | .mul t rd ra rb => some (bodyMul t rd ra rb)
  | .mulh t rd ra rb => some (bodyMulh t rd ra rb)
  | .mulhu t rd ra rb => some (bodyMulhu t rd ra rb)
  | .div t rd ra rb => some (bodyDiv t rd ra rb)
  | .divu t rd ra rb => some (bodyDivu t rd ra rb)
  | .rem t rd ra rb => some (bodyRem t rd ra rb)
  | .remu t rd ra rb => some (bodyRemu t rd ra rb)
  | .addi t rd ra imm => some (bodyAddi t rd ra imm)
  | .andi t rd ra imm => some (bodyAndi t rd ra imm)
  | .ori t rd ra imm => some (bodyOri t rd ra imm)
  | .xori t rd ra imm => some (bodyXori t rd ra imm)
  | .slti t rd ra imm => some (bodySlti t rd ra imm)
  | .shiSll t rd ra amt => some (bodyShiSll t rd ra amt)
  | .shiSrl t rd ra amt => some (bodyShiSrl t rd ra amt)
  | .shiSra t rd ra amt => some (bodyShiSra t rd ra amt)
  | .shiRor t rd ra amt => some (bodyShiRor t rd ra amt)
  | .movi t rd lane imm => some (bodyMovi t rd lane imm)
  | .movk t rd lane imm => some (bodyMovk t rd lane imm)
  | .fadd t rd ra rb => some (bodyFadd t rd ra rb)
  | .fsub t rd ra rb => some (bodyFsub t rd ra rb)
  | .fmul t rd ra rb => some (bodyFmul t rd ra rb)
  | .fdiv t rd ra rb => some (bodyFdiv t rd ra rb)
  | .fsqrt t rd ra => some (bodyFsqrt t rd ra)
  | .fmin t rd ra rb => some (bodyFmin t rd ra rb)
  | .fmax t rd ra rb => some (bodyFmax t rd ra rb)
  | .fmadd t rd ra rb => some (bodyFmadd t rd ra rb)
  | .feq t rd ra rb => some (bodyFeq t rd ra rb)
  | .flt t rd ra rb => some (bodyFlt t rd ra rb)
  | .fle t rd ra rb => some (bodyFle t rd ra rb)
  | .fcvtSL t rd ra => some (bodyFcvtSL t rd ra)
  | .fcvtLS t rd ra => some (bodyFcvtLS t rd ra)
  | .ld8u t rd ra imm => some (bodyLd8u t rd ra imm)
  | .ld16u t rd ra imm => some (bodyLd16u t rd ra imm)
  | .ld32u t rd ra imm => some (bodyLd32u t rd ra imm)
  | .ld64 t rd ra imm => some (bodyLd64 t rd ra imm)
  | .ld8s t rd ra imm => some (bodyLd8s t rd ra imm)
  | .ld16s t rd ra imm => some (bodyLd16s t rd ra imm)
  | .ld32s t rd ra imm => some (bodyLd32s t rd ra imm)
  | .st8 t rs ra imm => some (bodySt8 t rs ra imm)
  | .st16 t rs ra imm => some (bodySt16 t rs ra imm)
  | .st32 t rs ra imm => some (bodySt32 t rs ra imm)
  | .st64 t rs ra imm => some (bodySt64 t rs ra imm)
  | .aadd32 t rd ra rb => some (bodyAadd32 t rd ra rb)
  | .aadd64 t rd ra rb => some (bodyAadd64 t rd ra rb)
  | .aswp32 t rd ra rb => some (bodyAswp32 t rd ra rb)
  | .aswp64 t rd ra rb => some (bodyAswp64 t rd ra rb)
  | .acas32 t rd ra rb => some (bodyAcas32 t rd ra rb)
  | .acas64 t rd ra rb => some (bodyAcas64 t rd ra rb)
  | .beq t ra rb off => some (bodyBeq t ra rb off)
  | .bne t ra rb off => some (bodyBne t ra rb off)
  | .blt t ra rb off => some (bodyBlt t ra rb off)
  | .bge t ra rb off => some (bodyBge t ra rb off)
  | .bltu t ra rb off => some (bodyBltu t ra rb off)
  | .bgeu t ra rb off => some (bodyBgeu t ra rb off)
  | .jal t rd off => some (bodyJal t rd off)
  | .jalr t rd ra imm => some (bodyJalr t rd ra imm)
  | .fenceL t => some (bodyFenceL t)
  | .fenceG t => some (bodyFenceG t)
  | .fencePt t => some (bodyFencePt t)
  | .halt t => some (bodyHalt t)
  | .stamp t rd => some (bodyStamp t rd)
  | .wait t reg ctr => some (bodyWait t reg ctr)
  | .cinc t reg ctr => some (bodyCinc t reg ctr)
  | .crd t reg ctr => some (bodyCrd t reg ctr)
  | .tstart t rd ra rb => some (bodyTstart t rd ra rb)
  | .unallocatedEncoding t => some (bodyUnallocated t)
  | _ => none

/-- The held instruction of thread t issues once the stamp of its island has reached D, and is not late (09 R298). -/
def dueLaunch (t : ThreadNo) (m : Module) : Module :=
  match ownerOf m t.core, (m.thread t).held with
  | some slot, some h =>
    if m.islandStamp t.core < h.2 ∨ (m.ctx slot).state ≠ .running then m
    else
      let m := m.updThread t fun x => { x with held := none, stall := .none, pfx := none }
      let m := dueDone slot { d := h.2, at_ := (m.thread t).pc, t := t } m
      match bodyOf h.1 with
      | some b => b slot m
      | none => m
  | _, _ => m

/-- DUE_INSTRUCTION_LAUNCH. -/
def execDueInstructionLaunch (t : ThreadNo) (s : State) : Host.Outcome State Fault Refusal := lift (dueLaunch t) s

end Sys2Proof.Machine
end

