-- ==== Sys2Proof/Machine/MeterOps.lean ====
section
/-! DEFINITION. The Circulation Meter (16): measurement, the loan table, commits, and the commands of its RS-485 port. -/

namespace Sys2Proof.Machine

/-- A command of the meter, which runs whenever the 72 V entry is live (17 R534). -/
def liftM (f : State → State) (s : State) : Host.Outcome State Fault Refusal :=
  .next (if s.meter.powered then f s else s)

/-- The same for a command that sees the meter alone. -/
def liftMtr (f : Meter → Meter) (s : State) : Host.Outcome State Fault Refusal :=
  liftM (fun s => { s with meter := f s.meter }) s

namespace Meter

/-! Measurement (R503, R505) -/

/-- Dies of a mask. -/
def diesIn (d : BitVec 8) : List Nat := (upTo 8).filter fun i => d.getLsbD i

/-- Sum of numbers. -/
def sum (l : List Nat) : Nat := l.foldl (· + ·) 0

/-- One sample of 1 ms on each channel. -/
def sample (entry : Nat) (dies : List Nat) (x : Meter) : Meter :=
  { x with entry := entry, dies := dies, accEntry := x.accEntry + entry,
           accDies := (upTo 8).map fun i => x.accDies.getD i 0 + dies.getD i 0 }

/-- What an open loan accrues of the present accumulators, in eighths of a microjoule. -/
def share (x : Meter) (l : MLoan) : Nat :=
  if l.suspended then 0
  else
    let c := x.accEntry - sum x.accDies
    let ds := diesIn l.co.lr.dies
    8 * sum (ds.map fun i => x.accDies.getD i 0) + c * ds.length

/-- Apportion the energy measured since the last time (R505). -/
def apportion (x : Meter) : Meter :=
  let e := 8 * x.accEntry
  { x with loans := x.loans.map fun l => { l with energy := l.energy + share x l },
           total := x.total + e, unattr := x.unattr + (e - sum (x.loans.map (share x))),
           accEntry := 0, accDies := List.replicate 8 0 }

/-- Millijoules of an energy, rounded down. -/
def mJ (e : Nat) : Nat := e / 8000

/-! Commits (R513) -/

/-- The newer committed state. -/
def newest (x : Meter) : Option Commit :=
  match x.slotA, x.slotB with
  | some a, some b => some (if a.seq ≤ b.seq then b else a)
  | some a, none => some a
  | none, b => b

/-- Commit to the slot that does not hold the newer state. -/
def commit (x : Meter) : Meter :=
  let c : Commit :=
    { seq := (x.newest.map (·.seq)).getD 0 + 1, mtime := x.mtime, mseq := x.mseq, total := x.total,
      unattr := x.unattr, loans := x.loans, paired := x.paired, idpub := x.idpub, tampered := x.tampered,
      log := x.log, closed := x.closed, opened := x.opened }
  let toB := match x.slotA, x.slotB with
    | some a, some b => decide (b.seq < a.seq)
    | some _, none => true
    | none, _ => false
  if toB then { x with slotB := some c } else { x with slotA := some c }

/-- Write the event log; it stops at 1,024 entries (R520). -/
def event (e : MEvent) (x : Meter) : Meter :=
  if 1024 ≤ x.events.length then x else { x with events := x.events ++ [e] }

/-- Power-up: the newer slot is loaded, MTIME resumes, UNSYNCED is set, open loans are SUSPENDED (R506, R508). -/
def powerUp (x : Meter) : Meter :=
  let x : Meter :=
    { x with
      powered := true, ticks := 0, sub := 0, unsynced := true, firstSet := false, sets := [], entry := 0,
      dies := List.replicate 8 0, accEntry := 0, accDies := List.replicate 8 0, queue := [] }
  let x := match x.newest with
    | some c =>
      { x with
        mtime := c.mtime, mseq := c.mseq, total := c.total, unattr := c.unattr, paired := c.paired,
        idpub := c.idpub, tampered := c.tampered, log := c.log, closed := c.closed, opened := c.opened,
        loans := c.loans.map fun (l : MLoan) => { l with suspended := true, co := { l.co with suspended := true } } }
    | none =>
      { x with
        mtime := 0, mseq := 0, total := 0, unattr := 0, paired := false, idpub := 0, tampered := false, log := [],
        closed := [], opened := [], loans := [] }
  x.event .powerUp

/-! Loan records (R509 to R512) -/

/-- Most records the meter holds. -/
def queueMax : Nat := 8
/-- Entries of the closed-loan log. -/
def logMax : Nat := 4096

/-- The dies of a record form a group of 01 R29 whose lowest die is its partition index. -/
def diesOk (d : BitVec 8) (part : BitVec 3) : Bool :=
  let g := (diesIn d)
  let p := part.toNat
  g == [p] || (p % 2 == 0 && g == [p, p + 1]) || (p % 4 == 0 && g == [p, p + 1, p + 2, p + 3]) ||
    g == [0, 1, 2, 3, 4, 5, 6, 7] && p == 0

/-- The causes of Table 16.2 that refuse opens and closes alike. -/
def refuseAny (x : Meter) (r : LoanRec) : Option Nat :=
  if (if r.isOpen then decide (r.cause ≠ 0) else decide (4 < r.cause.toNat)) || !(diesOk r.dies r.part) then some 1
  else if !x.paired || x.idpub != r.idpub then some 2
  else if !(Config.verify r.idpub (lrDigest r) r.libsig) then some 3
  else none

/-- The first cause that refuses an open (Table 16.2). -/
def refuseOpen (x : Meter) (r : LoanRec) : Option Nat :=
  match refuseAny x r with
  | some k => some k
  | none =>
    if x.tampered then some 4
    else if x.unsynced then some 5
    else if logMax < x.log.length + x.loans.length + 1 then some 6
    else if x.loans.any fun l => l.co.lr.dies &&& r.dies != 0 then some 7
    else if x.opened.contains r.loanid then some 8
    else none

/-- Sign a co-signed record (Table 16.3). -/
def signed (c : Cosigned) : Cosigned := { c with msig := Config.meterSign (Config.sha512 (coBytes c)) }

/-- A co-signature now with the next MSEQ. -/
def cosign (x : Meter) (r : LoanRec) (energy duration : Nat) (suspended notopen : Bool) : Cosigned :=
  signed { lr := r, mtime := x.mtime, mseq := x.mseq + 1, energy := energy, duration := duration, rep := false,
           tampered := x.tampered, unsynced := x.unsynced, suspended := suspended, notopen := notopen, msig := 0 }

/-- Handle an open record (R508, R510): the answer, and the meter after it, committed before release. -/
def openRecord (r : LoanRec) (x : Meter) : Meter × MAnswer :=
  match refuseOpen x r with
  | some k => (x, .refused r k)
  | none =>
    let x := x.apportion
    let c := cosign x r 0 0 false false
    let l : MLoan := { co := c, energy := 0, duration := 0, suspended := false }
    (commit { x with mseq := x.mseq + 1, loans := x.loans ++ [l], opened := x.opened ++ [r.loanid] }, .cosigned c)

/-- Handle a close record (R511). -/
def closeRecord (r : LoanRec) (x : Meter) : Meter × MAnswer :=
  match refuseAny x r with
  | some k => (x, .refused r k)
  | none =>
    match x.loans.find? fun l => l.co.lr.loanid == r.loanid with
    | some _ =>
      let x := x.apportion
      let l := (x.loans.find? fun l => l.co.lr.loanid == r.loanid)
      let e := (l.map (·.energy)).getD 0
      let d := (l.map (·.duration)).getD 0
      let sus := (l.map (·.suspended)).getD false
      let c := cosign x r (mJ e) d sus false
      (commit { x with mseq := x.mseq + 1, loans := x.loans.filter (fun l => l.co.lr.loanid != r.loanid),
                       log := x.log ++ [c], closed := x.closed ++ [c] }, .cosigned c)
    | none =>
      match x.closed.find? fun c => c.lr.loanid == r.loanid with
      | some c => (commit x, .cosigned (signed { c with rep := true }))
      | none =>
        let c := cosign x r 0 0 false true
        (commit { x with mseq := x.mseq + 1 }, .cosigned c)

/-! Snapshots and the RS-485 port (R515 to R520) -/

/-- Bytes of a snapshot before its signature (Table 16.6). -/
def snapBytes (d : Snap) : List Byte :=
  leBytes 8 d.mseq ++ leBytes 8 d.mtime ++ leBytes 8 Config.meterId.toNat ++ leBytes 32 d.idpub.toNat ++
    leBytes 8 d.total ++ leBytes 8 d.unattr ++
    leBytes 8 ((if d.tampered then 2 ^ 63 else 0) + (if d.unsynced then 2 ^ 62 else 0) + d.loans.length) ++
    d.loans.flatMap fun l =>
      leBytes 8 l.loanid.toNat ++ leBytes 8 l.tenant.toNat ++ leBytes 8 l.energy ++ leBytes 8 l.duration ++
        leBytes 8 l.mtime ++
        leBytes 8 (l.part.toNat * 2 ^ 61 + l.dies.toNat * 2 ^ 53 + l.role.toNat * 2 ^ 51 +
          (if l.suspended then 2 ^ 50 else 0))

/-- A loan as a snapshot lists it. -/
def snapLoan (l : MLoan) : SnapLoan :=
  { loanid := l.co.lr.loanid, tenant := l.co.lr.tenant, mtime := l.co.mtime, duration := l.duration,
    energy := mJ l.energy, part := l.co.lr.part, dies := l.co.lr.dies, role := l.co.lr.role,
    suspended := l.suspended }

/-- A signed snapshot of the last commit; for a partition its statement, with TOTAL and UNATTR zero (R516). -/
def snapshot (x : Meter) (part : Option Nat) : Meter × Snap :=
  let c := x.newest
  let loans := ((c.map (·.loans)).getD []).map snapLoan
  let mine := match part with
    | some p => loans.filter fun l => l.part.toNat == p
    | none => loans
  let whole := part.isNone
  let d : Snap :=
    { mseq := x.mseq + 1, mtime := (c.map (·.mtime)).getD 0,
      total := if whole then mJ ((c.map (·.total)).getD 0) else 0,
      unattr := if whole then mJ ((c.map (·.unattr)).getD 0) else 0,
      tampered := (c.map (·.tampered)).getD false, unsynced := x.unsynced, idpub := (c.map (·.idpub)).getD 0,
      loans := mine, sig := 0 }
  (commit { x with mseq := x.mseq + 1 },
   { d with sig := Config.meterSign (Config.sha512 (snapBytes d)) })

/-- A log entry by MSEQ. -/
def logAt (x : Meter) (mseq : Nat) : Option Cosigned := x.log.find? fun c => c.mseq == mseq

/-- Answer on the port. -/
def reply (r : MReply) (x : Meter) : Meter := { x with replies := x.replies ++ [r] }

/-- SET_TIME (R506). -/
def setTime (ms : Nat) (x : Meter) : Meter :=
  let x := x.event .timeSet
  if !x.firstSet then
    if (x.newest.map (·.mtime)).getD 0 ≤ ms then
      ({ x with mtime := ms, unsynced := false, firstSet := true } : Meter).reply .ok
    else x.reply .refused
  else
    let moved := (ms - x.mtime) + (x.mtime - ms)
    let recent := x.sets.filter fun e => decide (x.ticks < e.1 + Config.setTimeWindowMs)
    if sum (recent.map (·.2)) + moved ≤ Config.setTimeMaxMs then
      ({ x with mtime := ms, sets := recent ++ [(x.ticks, moved)] } : Meter).reply .ok
    else x.reply .refused

/-- PAIR (R519). -/
def pairWith (certOk : Bool) (idpub : BitVec 256) (address : Byte) (x : Meter) : Meter :=
  if certOk && x.loans.isEmpty then
    ((({ x with paired := true, idpub := idpub, address := address } : Meter).event .paired)).reply .ok
  else x.reply .refused

end Meter

/-! Arrival over the meter link -/

/-- Records on the link enter the queue while it holds fewer than eight (R509). -/
def arrive (s : State) : State :=
  s.toMeter.foldl (fun s q =>
    match q with
    | .record r =>
      if s.meter.queue.length < Meter.queueMax && s.toMeter.head? == some q then
        { s with toMeter := s.toMeter.drop 1, meter := { s.meter with queue := s.meter.queue ++ [r] } }
      else s
    | .list => s) s

/-- Handle the record at the front of the queue when it is of the kind named. -/
def takeRecord (isOpen : Bool) (k : LoanRec → Meter → Meter × MAnswer) (s : State) : State :=
  let s := arrive s
  match s.meter.queue with
  | [] => s
  | r :: q =>
    if r.isOpen ≠ isOpen then s
    else
      let a := k r { s.meter with queue := q }
      { s with meter := a.1, fromMeter := s.fromMeter ++ [a.2] }

/-! Commands -/

/-- METER_SAMPLE. -/
def execMeterSample (entry : Nat) (dies : List Nat) (s : State) : Host.Outcome State Fault Refusal :=
  liftMtr (Meter.sample entry dies) s
/-- METER_APPORTION. -/
def execMeterApportion (s : State) : Host.Outcome State Fault Refusal := liftMtr Meter.apportion s
/-- METER_COMMIT. -/
def execMeterCommit (s : State) : Host.Outcome State Fault Refusal := liftMtr Meter.commit s
/-- METER_OPEN_RECORD. -/
def execMeterOpenRecord (s : State) : Host.Outcome State Fault Refusal :=
  liftM (takeRecord true Meter.openRecord) s
/-- METER_CLOSE_RECORD. -/
def execMeterCloseRecord (s : State) : Host.Outcome State Fault Refusal :=
  liftM (takeRecord false Meter.closeRecord) s
/-- METER_LIST_OPEN: the co-signed open record of every loan held open or SUSPENDED (R511). -/
def execMeterListOpen (s : State) : Host.Outcome State Fault Refusal :=
  liftM (fun s =>
    let s := arrive s
    match s.toMeter with
    | .list :: q =>
      { s with toMeter := q, fromMeter := s.fromMeter ++ [.list (s.meter.loans.map (·.co))] }
    | _ => s) s
/-- METER_RECORD_DROP: a record that arrives while eight are held (R509). -/
def execMeterRecordDrop (s : State) : Host.Outcome State Fault Refusal :=
  liftM (fun s =>
    let s := arrive s
    match s.toMeter with
    | .record _ :: q => { s with toMeter := q }
    | _ => s) s
/-- METER_POWER_UP: the 72 V entry becomes live. -/
def execMeterPowerUp (s : State) : Host.Outcome State Fault Refusal :=
  .next (if s.meter.powered then s else { s with meter := s.meter.powerUp, toMeter := [], fromMeter := [] })
/-- CASE_SWITCH_OPEN (R518): committed at once, since TAMPERED is permanent. -/
def execCaseSwitchOpen (s : State) : Host.Outcome State Fault Refusal :=
  liftMtr (fun x => (({ x with tampered := true } : Meter).event .tamper).commit) s
/-- READ_ID. -/
def execReadId (s : State) : Host.Outcome State Fault Refusal :=
  liftMtr (Meter.reply (.id Config.meterId Config.lrVer Config.lrDigest Config.meterPub)) s
/-- READ_SNAPSHOT. -/
def execReadSnapshot (s : State) : Host.Outcome State Fault Refusal :=
  liftMtr (fun x => let r := x.snapshot none; r.1.reply (.snap (.snapshot r.2))) s
/-- READ_LOG. -/
def execReadLog (mseq : Nat) (s : State) : Host.Outcome State Fault Refusal :=
  liftMtr (fun x => x.reply (.log (x.logAt mseq))) s
/-- ACK_LOG. -/
def execAckLog (mseq : Nat) (s : State) : Host.Outcome State Fault Refusal :=
  liftMtr (fun x => ({ x with log := x.log.filter fun c => decide (mseq < c.mseq) } : Meter).reply .ok) s
/-- SET_TIME. -/
def execSetTime (ms : Nat) (s : State) : Host.Outcome State Fault Refusal := liftMtr (Meter.setTime ms) s
/-- PAIR. -/
def execPair (certOk : Bool) (idpub : BitVec 256) (address : Byte) (s : State) : Host.Outcome State Fault Refusal :=
  liftMtr (Meter.pairWith certOk idpub address) s
/-- READ_EVENTS. -/
def execReadEvents (i : Nat) (s : State) : Host.Outcome State Fault Refusal :=
  liftMtr (fun x => x.reply (.event x.events[i]?)) s

end Sys2Proof.Machine
end

