-- ==== Sys2Proof/Machine/MeterHost.lean ====
section
/-! DEFINITION. Meter requests of a function, MTRCMD and MTRDATA (16 R516, 18 R556). -/

namespace Sys2Proof.Machine

/-- MTRCMD REQ 1: a snapshot, or a statement for a virtual function; a later request replaces an earlier one. -/
def mtrRequest (f : Fn) (req mseq : Nat) (m : Module) : Module :=
  if seesFn m f then m.updFunc f.val fun x => { x with mtrReq := some (req, mseq) } else m

/-- MTR_SNAPSHOT. -/
def execMtrSnapshot (f : Fn) (s : State) : Host.Outcome State Fault Refusal := liftW (some f) (mtrRequest f 1 0) s

/-- A log entry is read through the physical function only (R516). -/
def mtrLog (f : Fn) (mseq : Nat) (m : Module) : Module :=
  if f = 0 then mtrRequest f 2 mseq m
  else if seesFn m f then refused (some f) atModule 0x10400 (mseq * 2 ^ 32 + 2) m
  else m

/-- MTR_LOG_ENTRY. -/
def execMtrLogEntry (f : Fn) (mseq : BitVec 32) (s : State) : Host.Outcome State Fault Refusal :=
  liftW (some f) (mtrLog f mseq.toNat) s

/-- MTR_ANSWER_READY: the answer of the meter reaches MTRDATA, and vector 2 fires at that function (17 R529). -/
def execMtrAnswerReady (f : Fn) (s : State) : Host.Outcome State Fault Refusal :=
  .next (
    match (s.mod.func f.val).mtrReq with
    | none => s
    | some q =>
      if !s.mod.lib || !s.meter.powered then s
      else
        let put := fun (d : MtrData) (m : Module) =>
          irq f.val 2 (m.updFunc f.val fun x => { x with mtrReq := none, mtrdata := d })
        if q.1 = 1 then
          let part := if f = 0 then none else some ((partOfFn s.mod f.val).getD 8)
          let r := s.meter.snapshot part
          { s with meter := r.1, mod := put (.snapshot r.2) s.mod }
        else { s with mod := put (.logEntry (s.meter.logAt q.2)) s.mod })

end Sys2Proof.Machine
end

