-- ==== Sys2Proof/Machine/Resets.lean ====
section
/-! DEFINITION. Engine, partition, module and function resets (13 R424 to R434; 17 R522, R523, R530, R539). -/

namespace Sys2Proof.Machine

/-! Engine resets (R426) -/

/-- What an engine reset empties. -/
def CoreSt.clearEngine (e : Engine) (c : CoreSt) : CoreSt :=
  match e with
  | .me => { c with meQ := [], meRun := none, acc := [], accBad := [], accErr := [], cart := [], cartBusy := 0 }
  | .ve => { c with veQ := [], chains := [], cart := [], cartBusy := 0 }
  | .te => { c with teQ := [], teRun := [], tePark := [], teTmo := 0 }

/-- Running chains or TE commands of the engine stop: some of their writes have been accepted (06 R224, 07 R251). -/
def cutEngine (core : Nat) (e : Engine) (m : Module) : Module :=
  let c := m.core core
  match e with
  | .me => m
  | .ve => c.chains.foldl (fun m r => stopChain core r m) m
  | .te => c.teRun.foldl (fun m r => stopTe core r m) m

/-- An engine reset begins; the context that owns the core faults with ESCALATED unless it has faulted already. -/
def engineReset (core : Nat) (e : Engine) (m : Module) : Module :=
  let m := (cutEngine core e m).updCore core fun c =>
    { (c.clearEngine e) with
      engStop := c.engStop.filter (fun x => x.1 != e),
      engRst := c.engRst.filter (fun x => x.1 != e) ++ [(e, m.now)],
      rbuf := c.rbuf.filter fun b => b.e != e }
  let m := if e = .te then dropUnsent (fun f => f.core == core) m else m
  match ownerOf m core with
  | some i => if (m.ctx i).fault.cause = .none then ctxFault i (outerFault .escalated 0 0) m else m
  | none => m

/-- The engine with a number of ENGRST. -/
def engineOf (n : Nat) : Option Engine :=
  match n with
  | 0 => some .me
  | 1 => some .ve
  | 2 => some .te
  | _ => none

/-- ENGRST, through the physical function; ENGINE 3 is refused (18 Table 18.2). -/
def engrst (f : Fn) (core n : Nat) (m : Module) : Module :=
  physOnly f (fun m =>
    match engineOf n with
    | some e => engineReset core e m
    | none => refused (some f) atModule 0x38 (n * 4096 + core) m) m

/-- ENGRST. -/
def execEngrst (f : Fn) (core : BitVec 9) (engine : BitVec 2) (s : State) : Host.Outcome State Fault Refusal :=
  liftW (some f) (engrst f core.toNat engine.toNat) s

/-- ENGINE_STOP_TIMEOUT: not stopped 1 ms into a context reset (Table 13.1). -/
def execEngineStopTimeout (core : BitVec 9) (e : Engine) (s : State) : Host.Outcome State Fault Refusal :=
  liftL (fun m =>
    match (m.core core.toNat).engStop.find? fun x => x.1 == e with
    | some x => if x.2 + Config.engineStopNs ≤ m.now then engineReset core.toNat e m else m
    | none => m) s

/-- ENGINE_RESET_DONE. -/
def execEngineResetDone (core : BitVec 9) (e : Engine) (s : State) : Host.Outcome State Fault Refusal :=
  liftL (fun m =>
    let c := core.toNat
    if (m.core c).engRst.any fun x => x.1 == e then
      led 0x0202 sevWarn (atCore m c) [e.num, m.now]
        (m.updCore c fun k => { k with engRst := k.engRst.filter fun x => x.1 != e })
    else m) s

/-- ENGINE_INTERNAL_CHECK. -/
def execEngineInternalCheck (core : BitVec 9) (e : Engine) (s : State) : Host.Outcome State Fault Refusal :=
  liftL (engineReset core.toNat e) s

/-! Partition resets (R427) -/

/-- Phase 1: every context of the partition faults with ESCALATED and enters TEARDOWN. -/
def partReset (p trig : Nat) (m : Module) : Module :=
  if !(isPart m p) || (m.part p).rst != 0 then m
  else
    let m := m.updPart p fun q => { q with rst := 1, rstAt := m.now, rstTrig := trig }
    each (slotsWhere m fun x => x.part == p) escalate m

/-- Phase 2 on one die: cores and routers reset, SRAM zeroed (08 R256). -/
def resetDie (d : Nat) (m : Module) : Module :=
  let cs := (upTo 64).map (64 * d + ·)
  let cls := (upTo 8).map (8 * d + ·)
  let m := cs.foldl (fun m c => (zeroCore c m).setCore c CoreSt.init) (accrueThrot m)
  let m := cls.foldl (fun m cl => { (zeroStore cl m) with csce := Sparse.drop m.csce cl }) m
  { m with threads := m.threads.filter fun e => e.1 / 256 / 64 != d }

/-- PARTITION_RESET_ISLANDS: once the contexts' transactions are settled; their teardowns end with it. -/
def partIslands (p : Nat) (m : Module) : Module :=
  let slots := slotsWhere m fun x => x.part == p
  if (m.part p).rst ≠ 1 ∨ slots.any (fun i => anyFlight m i) then m
  else
    let m := (diesOf m p).foldl (fun m d => resetDie d m) m
    let m := each slots freeSlot m
    let back := (m.part p).rstTrig == 2
    let m := m.updPart p fun q => { q with rst := 3 }
    flrAll back (closeAdvance p m)

/-- PARTITION_RESET_ISLANDS. -/
def execPartitionResetIslands (part : BitVec 3) (s : State) : Host.Outcome State Fault Refusal :=
  liftCL (partIslands part.toNat) s

/-- PARTITION_READY: phase 3 ends. -/
def execPartitionReady (part : BitVec 3) (s : State) : Host.Outcome State Fault Refusal :=
  liftL (fun m =>
    let p := part.toNat
    if (m.part p).rst = 3 then
      led 0x0203 sevWarn (atPart p) [Config.ledgerNo 0x0203 (m.part p).rstTrig, m.now] (m.updPart p fun q => { q with rst := 0 })
    else m) s

/-- PARTRST, by the bound function or the physical function. -/
def partrst (f : Fn) (p : Nat) (m : Module) : Module :=
  if isPart m p && seesPart m f.val p then partReset p 3 m else m

/-- PARTRST. -/
def execPartrst (f : Fn) (part : BitVec 3) (s : State) : Host.Outcome State Fault Refusal :=
  liftW (some f) (partrst f part.toNat) s

/-- ENGINE_RESET_TIMEOUT: not complete within 5 ms. -/
def execEngineResetTimeout (core : BitVec 9) (e : Engine) (s : State) : Host.Outcome State Fault Refusal :=
  liftL (fun m =>
    match (m.core core.toNat).engRst.find? fun x => x.1 == e with
    | some x => if x.2 + Config.engineResetNs ≤ m.now then partReset (partOfCore m core.toNat) 0 m else m
    | none => m) s

/-- UNCORRECTABLE_CONTROL_ERROR in router or queue control state. -/
def execUncorrectableControlError (part : BitVec 3) (s : State) : Host.Outcome State Fault Refusal :=
  liftL (partReset part.toNat 1) s

/-! Module resets (R428) -/

/-- PARTITION_RESET_TIMEOUT: not complete within 40 ms. -/
def execPartitionResetTimeout (part : BitVec 3) (s : State) : Host.Outcome State Fault Refusal :=
  lift (fun m =>
    let q := m.part part.toNat
    if q.rst ≠ 0 ∧ q.rstAt + Config.partResetNs ≤ m.now then moduleReset 0 m else m) s

/-- MODRST. -/
def execModrst (f : Fn) (s : State) : Host.Outcome State Fault Refusal :=
  liftW (some f) (physOnly f (moduleReset 3)) s

/-- LIBRARIAN_WATCHDOG. -/
def execLibrarianWatchdog (s : State) : Host.Outcome State Fault Refusal := liftL (moduleReset 1) s

/-- PORT_DIE_UNCORRECTABLE_ERROR. -/
def execPortDieUncorrectableError (_pd1 : Bool) (s : State) : Host.Outcome State Fault Refusal := lift (moduleReset 2) s

/-- A pin changes, whether or not the module runs. -/
def liftPin (f : Module → Module) (s : State) : Host.Outcome State Fault Refusal := .next { s with mod := f s.mod }

/-- RST_N_ASSERT: module reset while it is low (17 Table 17.6). -/
def execRstNAssert (s : State) : Host.Outcome State Fault Refusal :=
  liftPin (fun m =>
    let m := { m with boot := { m.boot with rstN := false } }
    if m.boot.rails then moduleReset 4 m else m) s

/-- RST_N_RELEASE: the boot ROM starts (17 R538). -/
def execRstNRelease (s : State) : Host.Outcome State Fault Refusal :=
  liftPin (fun m => bootRom { m with boot := { m.boot with rstN := true } }) s

/-- REFCLK_LOSS for more than 10 µs (17 R539). -/
def execRefclkLoss (s : State) : Host.Outcome State Fault Refusal :=
  liftPin (fun m =>
    let m := { m with boot := { m.boot with refclk := false } }
    if m.boot.rails then moduleReset 5 m else m) s

/-- REFCLK_RETURN. -/
def execRefclkReturn (s : State) : Host.Outcome State Fault Refusal :=
  liftPin (fun m => bootRom { m with boot := { m.boot with refclk := true } }) s

/-! Functions (R433, R434; 17 R522, R523, R530) -/

/-- Tear down every context of some partitions. -/
def drain (ps : List Nat) (m : Module) : Module :=
  each (slotsWhere m fun x => ps.contains x.part) (fun i => startTeardown i 0) m

/-- An FLR of a function begins, and ends at once if nothing drains. -/
def flr (f : Nat) (m : Module) : Module :=
  if (m.func f).flr.isSome then m
  else
    let m := m.updFunc f fun x => { x with flr := some m.now }
    flrFinish f false (drain (flrParts m f) m)

/-- The function exists. -/
def hasFn (m : Module) (f : Nat) : Bool := f == 0 || decide (f ≤ m.boot.numvfs)

/-- FLR. -/
def execFlr (f : Fn) (s : State) : Host.Outcome State Fault Refusal :=
  lift (fun m => if m.boot.perstN && hasFn m f.val then flr f.val m else m) s

/-- VF_DISABLE. -/
def execVfDisable (f : Fn) (s : State) : Host.Outcome State Fault Refusal :=
  lift (fun m => if f ≠ 0 ∧ m.boot.perstN ∧ hasFn m f.val = true then flr f.val m else m) s

/-- SRIOV_DISABLE: every context of the module; the virtual functions are gone. -/
def sriovDisable (m : Module) : Module :=
  if m.boot.numvfs = 0 then m
  else
    let m := drain (upTo 8) m
    let m := (upTo 9).foldl (fun m f => if f = 0 then m else m.setFunc f Func.init) m
    { m with boot := { m.boot with numvfs := 0, sriovOff := some m.now } }

/-- SRIOV_DISABLE. -/
def execSriovDisable (s : State) : Host.Outcome State Fault Refusal :=
  lift (fun m => if m.boot.perstN then sriovDisable m else m) s

/-- Since when a function drains. -/
def drainingSince (m : Module) (f : Nat) : Option Nat :=
  match (m.func f).flr with
  | some t => some t
  | none => if f = 0 then m.boot.sriovOff else none

/-- FLR_BACKSTOP: 90 ms after the FLR or disable (R434). -/
def execFlrBackstop (f : Fn) (s : State) : Host.Outcome State Fault Refusal :=
  liftL (fun m =>
    match drainingSince m f.val with
    | some t =>
      if t + Config.flrBackstopNs ≤ m.now then
        let ps := (flrParts m f.val).filter fun p => hasCtx m p
        let m := each ps (fun p => partReset p 2) m
        if (m.func f.val).flr.isNone then { m with boot := { m.boot with sriovOff := none } } else m
      else m
    | none => m) s

/-- PERST_ASSERT: an FLR of the physical function, then a reset of the PCIe island; IDE streams end (17 R523,
R531). -/
def execPerstAssert (s : State) : Host.Outcome State Fault Refusal :=
  liftPin (fun m =>
    let m := { m with boot := { m.boot with perstN := false } }
    if m.on then
      let m := flr 0 m
      let m := (upTo 9).foldl (fun m f =>
        let x := m.func f
        m.setFunc f { Func.init with flr := if f = 0 then x.flr else none }) m
      { m with boot := { m.boot with numvfs := 0 } }
    else m) s

/-- PERST_DEASSERT. -/
def execPerstDeassert (s : State) : Host.Outcome State Fault Refusal :=
  liftPin (fun m => if m.boot.perstN then m else linkUp { m with boot := { m.boot with perstN := true } }) s

/-- SRIOV_ENABLE: only after READY; NumVFs is gated by catalogue bit 1. -/
def execSriovEnable (numvfs : BitVec 4) (s : State) : Host.Outcome State Fault Refusal :=
  liftL (fun m =>
    if !m.boot.perstN || !m.boot.ready || decide (8 < numvfs.toNat) then m
    else if catOn m 1 then { m with boot := { m.boot with numvfs := numvfs.toNat, sriovOff := none } }
    else led 0x0901 sevWarn atModule [0, 1, 0] m) s

/-- D3HOT_TRANSITION: contexts keep running (17 R522). -/
def execD3hotTransition (f : Fn) (enter : Bool) (s : State) : Host.Outcome State Fault Refusal :=
  lift (fun m =>
    if m.boot.perstN && hasFn m f.val then m.updFunc f.val fun x => { x with d3hot := enter } else m) s

end Sys2Proof.Machine
end

