-- ==== Sys2Proof/Machine/Power.lean ====
section
/-! DEFINITION. The power manager (01 R21 to R28), temperatures (17 R535), and the power entry (17 R532 to R538). -/

namespace Sys2Proof.Machine

/-! Clocks -/

/-- The island runs at the lower of what the cap and the temperature call for (R26); while a change takes effect it runs at the
lower of old and new (R24). -/
def setClk (c : Nat) (m : Module) : Module :=
  m.updCore c fun k =>
    let new := Nat.min k.capClk k.tempClk
    if k.clk = new ∧ k.clkNext = none then k
    else { k with clk := Nat.min k.clk new, clkNext := some (new, m.now + Config.clockEffectNs) }

/-- The core ran no context in the previous decision interval (R25 stage 1). -/
def coreIdle (m : Module) (c : Nat) : Bool := !(NatSet.has m.pm.ran c)

/-- Every thread of the core was stalled throughout it (stage 2). -/
def coreStalled (m : Module) (c : Nat) : Bool := !(NatSet.has m.pm.awake c)

/-- Stage of R25 in which a core is lowered. -/
def stageOf (m : Module) (c : Nat) : Nat := if coreIdle m c then 1 else if coreStalled m c then 2 else 3

/-- Change what the cap calls for on a list of cores. -/
def capTo (f : Nat → Nat) (cs : List Nat) (m : Module) : Module :=
  cs.foldl (fun m c => m.updCore c fun k => { k with capClk := f k.capClk }) m

/-- The first stage in an order that has a core a test accepts. -/
def firstStage (m : Module) (order : List Nat) (ok : Nat → Bool) : List Nat :=
  ((order.map fun k => (upTo 512).filter fun c => stageOf m c == k && ok c).find? fun l => !l.isEmpty).getD []

/-- How many steps a decision takes, at most four: open (R24). -/
def stepsFree (m : Module) : Nat × Module :=
  let r := m.fresh
  (1 + r.1.toNat % 4, r.2)

/-- Average of the samples of the last 1 ms. -/
def avgPower (m : Module) : Nat :=
  let l := m.pm.samples
  if l.isEmpty then 0 else (l.foldl (fun a e => a + e.2) 0) / l.length

/-- What the cap calls for: above it a stage of cores goes down by n steps, more than 5 % below it one goes up by a step (R24,
R25). -/
def capDecision (n : Nat) (m : Module) : Module :=
  let avg := avgPower m
  let cap := 1000 * m.pm.cap
  if cap < avg then
    capTo (fun k => Nat.max clkMin (k - n)) (firstStage m [1, 2, 3] fun c => decide (clkMin < (m.core c).capClk)) m
  else if 100 * avg < 95 * cap then
    capTo (· + 1) (firstStage m [3, 2, 1] fun c => decide ((m.core c).capClk < clkMax)) m
  else m

/-- A die at its temperature limit. -/
def isHot (m : Module) (d : Nat) : Bool := decide (100 ≤ Sparse.get 0 m.pm.tDie d)

/-- The cluster-router and die-network clocks of a die, in sixteenths of nominal; the ledger tells when the network is lowered and
when no longer (R26, R27). -/
def setNets (d : Nat) (f : Nat → Nat) (m : Module) : Module :=
  let was := Sparse.get 16 m.pm.netClk d
  let new := f was
  let m := { m with pm := { m.pm with netClk := Sparse.set 16 m.pm.netClk d new, rtrClk := Sparse.upd 16 m.pm.rtrClk d f } }
  if decide (was < 16) = decide (new < 16) then m else led 0x0907 sevWarn atModule [d, if new < 16 then 1 else 0] m

/-- What the temperature of a die calls for: at its limit its cores go down by n steps, and once they cannot be lowered further its
networks, to no less than half nominal; below it they come back (R24, R26). -/
def tempDecision (n d : Nat) (m : Module) : Module :=
  let cs := (upTo 64).map (64 * d + ·)
  let set := fun (f : Nat → Nat) (m : Module) => cs.foldl (fun m c => m.updCore c fun k => { k with tempClk := f k.tempClk }) m
  if isHot m d then
    if cs.all fun c => decide ((m.core c).tempClk ≤ clkMin) then setNets d (fun k => Nat.max 8 (k - n)) m
    else set (fun k => Nat.max clkMin (k - n)) m
  else setNets d (fun k => Nat.min 16 (k + n)) (set (fun k => Nat.min clkMax (k + n)) m)

/-- POWER_DECISION, every 100 µs (R24 to R26). -/
def powerDecision (m : Module) : Module :=
  if m.now < m.pm.lastDec + Config.decisionNs then m
  else
    let m := accrueThrot m
    let r := stepsFree m
    let m := { r.2 with pm := { r.2.pm with lastDec := r.2.now } }
    let m := (upTo 8).foldl (fun m d => tempDecision r.1 d m) (capDecision r.1 m)
    let m := (upTo 512).foldl (fun m c => setClk c m) m
    noteActivity { m with pm := { m.pm with ran := [], awake := [] } }

/-- POWER_TELEMETRY_SAMPLE (every 10 µs). -/
def execPowerTelemetrySample (mw : Nat) (s : State) : Host.Outcome State Fault Refusal :=
  liftL (fun m =>
    { m with pm := { m.pm with
        samples := (m.pm.samples.filter fun e => decide (m.now < e.1 + 1000000)) ++ [(m.now, mw)] } }) s

/-- POWER_DECISION. -/
def execPowerDecision (s : State) : Host.Outcome State Fault Refusal := liftL powerDecision s

/-- CLOCK_CHANGE_EFFECT. -/
def execClockChangeEffect (core : BitVec 9) (s : State) : Host.Outcome State Fault Refusal :=
  lift (fun m =>
    match (m.core core.toNat).clkNext with
    | some e => (accrueThrot m).updCore core.toNat fun k => { k with clk := e.1, clkNext := none }
    | none => m) s

/-- PWRCAP takes the nearer limit (R22); physical function only, catalogue bit 15. -/
def writePwrcap (f : Fn) (v : Nat) (m : Module) : Module :=
  physOnly f (gated 15 0x20 f fun m => { m with pm := { m.pm with cap := Nat.max 3000 (Nat.min 6000 v) } }) m

/-- PWRCAP_WRITE. -/
def execPwrcapWrite (f : Fn) (v : Word) (s : State) : Host.Outcome State Fault Refusal :=
  liftW (some f) (fun m => if f = 0 then rsvOk (some f) 0 0x1FFF v (writePwrcap f v.toNat) m else m) s

/-! Temperatures -/

/-- A sensor's place and its limit in the table (Table 17.5). -/
def sensorKind : Sensor → Nat
  | .computeDie _ => 0
  | .portDie => 1
  | .lpddr => 2
  | .optical => 3
def sensorLimit : Sensor → Nat
  | .computeDie _ => 100
  | .portDie => 100
  | .lpddr => 85
  | .optical => 75

/-- Record a reading. -/
def readTemp (x : Sensor) (c : Nat) (p : Pm) : Pm :=
  match x with
  | .computeDie d => { p with tDie := Sparse.set 0 p.tDie d.toNat c }
  | .portDie => { p with tPort := c }
  | .lpddr => { p with tLpddr := c }
  | .optical => { p with tOptical := c }

/-- The reading a sensor showed. -/
def tempOf (x : Sensor) (p : Pm) : Nat :=
  match x with
  | .computeDie d => Sparse.get 0 p.tDie d.toNat
  | .portDie => p.tPort
  | .lpddr => p.tLpddr
  | .optical => p.tOptical

/-- TEMPERATURE_LIMIT: a reading; the limit is reached or left (17 R535, R529). A compute die's clocks follow at the next
decision. -/
def temperature (x : Sensor) (c : Nat) (m : Module) : Module :=
  let was := decide (sensorLimit x ≤ tempOf x m.pm)
  let is := decide (sensorLimit x ≤ c)
  let m := { m with pm := readTemp x c m.pm }
  if was = is then m
  else
    let m := if is then irq 0 4 m else m
    match x with
    | .computeDie _ => m
    | .lpddr => { m with pm := { m.pm with refresh2x := is } }
    | _ => led 0x0906 sevWarn atModule [Config.ledgerNo 0x0906 (sensorKind x), c, if is then 1 else 0] m

/-- TEMPERATURE_LIMIT. -/
def execTemperatureLimit (sensor : Sensor) (celsius : Nat) (s : State) : Host.Outcome State Fault Refusal :=
  liftL (temperature sensor celsius) s

/-- THERMAL_TRIP: THERMTRIP_N low, then every rail opens. -/
def execThermalTrip (_sensor : Sensor) (s : State) : Host.Outcome State Fault Refusal :=
  liftPin (fun m =>
    if m.boot.rails then
      let m := powerOff m
      { m with boot := { m.boot with trip := true } }
    else m) s

/-! The power entry -/

/-- PWR_EN_ASSERT: the rails start only with PWR_GOOD, sampled at that moment (17 R538); the identity is derived at
power-up (15 R500). -/
def execPwrEnAssert (pwrGood : Bool) (s : State) : Host.Outcome State Fault Refusal :=
  .next (
    let b := s.mod.boot
    if b.rails || !s.meter.powered then s
    else
      let b := { b with pwrEn := true, pwrGood := pwrGood }
      if pwrGood then
        let n := b.powerUps + 1
        { s with mod := bootRom { s.mod with boot := { b with rails := true, inReset := true, trip := false, powerUps := n,
                                                              identity := Config.pufOk n } } }
      else { s with mod := { s.mod with boot := b } })

/-- PWR_EN_DEASSERT: a power loss. -/
def execPwrEnDeassert (s : State) : Host.Outcome State Fault Refusal :=
  liftPin (fun m =>
    let m := if m.boot.rails then powerOff m else m
    { m with boot := { m.boot with pwrEn := false } }) s

/-- POWER_LOSS: the 72 V input is lost, and the meter stops with it (17 R534, 16 R514). -/
def execPowerLoss (s : State) : Host.Outcome State Fault Refusal :=
  .next { s with mod := if s.mod.boot.rails then powerOff s.mod else s.mod,
                 meter := { s.meter with powered := false }, toMeter := [], fromMeter := [] }

/-- SUPPLY_SAG: below 66 V behaviour is undefined for the whole module and for the meter's readings (17 R533, 03 Tables 3.9 and
3.10). -/
def execSupplySag (s : State) : Host.Outcome State Fault Refusal :=
  .next (
    let w := fun (i : Nat) => (Config.freeWord (s.mod.draw + i)).toNat
    let meter := if s.meter.powered then { s.meter with entry := w 0, dies := (upTo 8).map fun i => w (i + 1) } else s.meter
    let m := { s.mod with draw := s.mod.draw + 9 }
    { s with mod := if m.boot.rails then undefModule m else m, meter := meter })

end Sys2Proof.Machine
end

