-- ==== Sys2Proof/Machine/Registers.lean ====
section
/-! DEFINITION. Host writes to BAR0 (18 R548 to R553, R557, R559): REGISTER_WRITE. -/

namespace Sys2Proof.Machine

/-! Module block (Table 18.2) -/

/-- CATACCEPT words 0 to 2 are held; word 3 acts. -/
def writeCataccept (f : Fn) (w : Nat) (v : Word) (m : Module) : Module :=
  if f ≠ 0 then m
  else if w < 3 then { m with cat := { m.cat with held := setMaskWord m.cat.held w v } }
  else catAccept f (setMaskWord m.cat.held 3 v) m

/-- MODRST GO. -/
def modrst (f : Fn) (m : Module) : Module := if f = 0 then moduleReset 3 m else m

/-- The module block, 8 B writes; a virtual function sees none of its writable registers (R550). -/
def writeModule (f : Fn) (off : Nat) (v : Word) (m : Module) : Module :=
  if f ≠ 0 then m
  else if 0x120 ≤ off ∧ off < 0x140 then writeCataccept f ((off - 0x120) / 8) v m
  else
    runAct (some f) 0
      (match off with
       | 0x00 => regAct 1 (fun m => if bit v 0 then bootGo f m else m)
       | 0x20 => regAct 0x1FFF (writePwrcap f v.toNat)
       | 0x28 => regAct 0xFFFFFF (setLayout f (v.extractLsb' 0 24))
       | 0x30 => regAct 1 (fun m => if bit v 0 then modrst f m else m)
       | 0x38 => regAct 0x31FF (engrst f (field v 0 9) (field v 12 2))
       | 0x98 => regAct 0x8000FFFFFFFFFFFF (writeTtsw f (bit v 63) (field v 0 48))
       | _ => none) v m

/-! Function block (Table 18.4) -/

/-- MTRCMD. -/
def writeMtrcmd (f : Fn) (v : Word) (m : Module) : Module :=
  match field v 0 4 with
  | 1 => mtrRequest f 1 0 m
  | 2 => mtrLog f (field v 32 32) m
  | _ => refused (some f) atModule 0x10400 v.toNat m

/-- ATTCHAL: words 0 to 3 are held, word 4 starts the quote. -/
def writeAttchal (f : Fn) (w : Nat) (v : Word) (m : Module) : Module :=
  if w < 4 then m.updFunc f.val fun x => { x with chal := setMaskWord x.chal w v }
  else challenge f (m.func f.val).chal (field v 0 3) m

/-- The function block, 8 B writes. -/
def writeFunction (f : Fn) (off : Nat) (v : Word) (m : Module) : Module :=
  if !(seesFn m f) then m
  else
    runAct (some f) 0
      (if off = 0x8 then
        regAct 0xFFFFFFF (fun m => m.updFunc f.val fun x => { x with bar4win := v.extractLsb' 0 28 })
      else if 0x100 ≤ off ∧ off < 0x300 ∧ (off - 0x100) / 8 % 4 ≠ 3 then
        let w := (off - 0x100) / 8 % 4
        regAct (if w = 2 then 0x31F else full) (writeQcfg f ((off - 0x100) / 32) w v)
      else if off = 0x400 then regAct 0xFFFFFFFF0000000F (writeMtrcmd f v)
      else if 0xC00 ≤ off ∧ off < 0xC28 then
        regAct (if off = 0xC20 then 7 else full) (writeAttchal f ((off - 0xC00) / 8) v)
      else none) v m

/-! Partition block (Table 18.5) -/

/-- Word w of a 256-bit or shorter key field. -/
def Area.setKey (a : Area) (w : Nat) (v : Word) : Area :=
  if w < 4 then { a with keyE := setMaskWord a.keyE w v }
  else if w < 8 then { a with keyW := setMaskWord a.keyW (w - 4) v }
  else { a with keyT := setMaskWord a.keyT (w - 8) v }

/-- A register of the creation area, at its context-block offset (R557): its fields, what it reads as, what a write leaves. -/
structure AreaReg where
  mask : Word
  get : CtxRegs → Word
  put : Word → Area → Area

/-- An area register among those copied to the context. -/
def areaR (mask : Word) (get : CtxRegs → Word) (put : Word → CtxRegs → CtxRegs) : Option AreaReg :=
  some { mask := mask, get := get, put := fun v a => { a with r := put v a.r } }

/-- The RW registers of the creation area, CTXKEY aside. -/
def areaReg (off : Nat) : Option AreaReg :=
  if off = 0x10 then
    areaR 7 (fun r => packW [(2, b1 r.abort), (1, b1 r.keep), (0, b1 r.rnd)]) fun v r =>
      { r with abort := bit v 2, keep := bit v 1, rnd := bit v 0 }
  else if off = 0x18 then areaR 0xFFFF (fun r => r.job.zeroExtend 64) fun v r => { r with job := v.extractLsb' 0 16 }
  else if off = 0x20 then
    areaR 0xFFFFFFF (fun r => r.ptbase.zeroExtend 64) fun v r => { r with ptbase := v.extractLsb' 0 28 }
  else if off = 0x28 then
    areaR 0x1FFFF (fun r => packW [(8, r.csSize.toNat), (0, r.csBase.toNat)]) fun v r =>
      { r with csSize := v.extractLsb' 8 9, csBase := v.extractLsb' 0 8 }
  else if off = 0x30 then areaR full (·.entry) fun v r => { r with entry := v }
  else if 0x40 ≤ off ∧ off < 0x80 then
    let w := (off - 0x40) / 8
    areaR full (fun r => maskWord r.cores w) fun v r => { r with cores := setMaskWord r.cores w v }
  else if 0x80 ≤ off ∧ off < 0xA0 then
    let w := (off - 0x80) / 8
    areaR full (fun r => maskWord r.startmask w) fun v r => { r with startmask := setMaskWord r.startmask w v }
  else none

/-- The values of CTXCTL that the catalogue lets through (17 Table 17.10). -/
def ctlLet (m : Module) (off : Nat) (v : Word) : Word :=
  if off = 0x10 then
    (if catOn m 4 then v else v &&& ~~~4) &&& (if catOn m 14 then full else ~~~1)
  else v

/-- A word of the area's CTXKEY. -/
def areaKey (a : Area) (w : Nat) : Word :=
  if w < 4 then maskWord a.keyE w else if w < 8 then maskWord a.keyW (w - 4) else maskWord a.keyT (w - 8)

/-- A write of the creation area: by the owning function, and not while the area is PENDING. -/
def onArea (f : Fn) (p off v : Nat) (k : Area → Area) (m : Module) : Module :=
  if isBound m f.val p && (m.part p).area.st != .pending then m.updPart p fun q => { q with area := k q.area }
  else refused (some f) (atPart p) (partOff p (0x400 + off)) v m

/-- CTXCMD of the area accepts only CREATE; the slot is any free one. -/
def areaCmd (f : Fn) (p : Nat) (v : Word) (m : Module) : Module :=
  if v = 5 then
    let r := m.fresh
    create f p (r.1.toNat % 64) r.2
  else refused (some f) (atPart p) (partOff p 0x400) v.toNat m

/-- The creation area, 8 B writes, at context-block offsets. -/
def areaAct (f : Fn) (p off : Nat) (v : Word) (m : Module) : Option RegAct :=
  if off = 0 then regAct 7 (areaCmd f p v)
  else if 0x180 ≤ off ∧ off < 0x1D0 then
    regAct full (onArea f p off v.toNat fun a => a.setKey ((off - 0x180) / 8) v)
  else
    match areaReg off with
    | some r =>
      let v' := ctlLet m off v
      let bit_ := if bit v 2 && !(catOn m 4) then 4 else 14
      regAct r.mask fun m =>
        let m :=
          if v' = v || !(isBound m f.val p) then m
          else led 0x0901 sevWarn atModule [partOff p (0x400 + off), bit_, f.val] m
        onArea f p off v.toNat (r.put v') m
    | none => none

/-- LOANCMD: OPEN is taken by `openLoan`; a CMD of 0 or 3, or a ROLE of 2 or 3, is refused (15 R488). -/
def writeLoancmd (f : Fn) (p : Nat) (v : Word) (m : Module) : Module :=
  if field v 0 2 = 2 ∧ field v 2 2 < 2 then loanClose f p m
  else physPart f p 0x30 v.toNat (refused (some f) (atPart p) (offLoancmd p) v.toNat) m

/-- The partition block but LOANCMD, 8 B writes. -/
def partAct (f : Fn) (p off : Nat) (v : Word) (m : Module) : Option RegAct :=
  let upd := fun (k : Part → Part) (m : Module) => m.updPart p k
  match off with
  | 0x00 => regAct 0xF (setBind f p (v.extractLsb' 0 4))
  | 0x08 => regAct 1 (fun m => if bit v 0 then partrst f p m else m)
  | 0x20 => regAct full (physPart f p 0x20 v.toNat (upd fun q => { q with loanid := v }))
  | 0x28 => regAct full (physPart f p 0x28 v.toNat (upd fun q => { q with tenant := v }))
  | 0x40 => regAct 0xFFFFFFFF0FFFFFFF (upd fun q => { q with dep0 := v })
  | 0x48 =>
    let d := (m.part p).dep0
    regAct 0xFFFFFFF (dephold f p (d.extractLsb' 48 16) (d.extractLsb' 32 16) (field d 0 28) (field v 0 28))
  | 0x50 => regAct 0xFFFFFFFF00000003 (upd fun q => { q with fill0 := v })
  | 0x58 =>
    let d := (m.part p).fill0
    regAct low32 (fillCmd f p (d.extractLsb' 48 16) (d.extractLsb' 32 16) (field d 0 2) (field v 0 32))
  | _ => if 0x400 ≤ off ∧ off < 0x5D0 then areaAct f p (off - 0x400) v m else none

/-- A partition block that the function sees. -/
def writePartition (f : Fn) (p off : Nat) (v : Word) (m : Module) : Module :=
  if !(isPart m p) || !(seesPart m f.val p) then m else runAct (some f) 0 (partAct f p off v m) v m

/-! Stripe blocks and TTMAP -/

/-- A stripe block (Table 18.14): MEMRET acts only through RETIRED (R559). -/
def writeStripe (f : Fn) (k off : Nat) (v : Word) (m : Module) : Module :=
  if f ≠ 0 then m
  else
    runAct (some f) 0
      (match off with
       | 0x50 => regAct low32 (fun m => m.updStripe k fun s => { s with thr := v.toNat })
       | 0x58 => regAct 0xF03F (fun m => if bit v 4 then memretRetire f k (field v 0 4) v.toNat m else m)
       | _ => none) v m

/-- Offset of a TTMAP entry. -/
def offTtmap (i : Nat) : Nat := 0x50000 + 4 * i

/-- One entry of TTMAP, of index 256 × (2 × port + bank) + slot; those past slot 124 are RSV. An edit of the live bank
acts at once (03 R120). -/
def writeTtmap (f : Fn) (i : Nat) (v : W32) (m : Module) : Module :=
  let k := i % 256
  let key := 128 * (i / 256) + k
  if f ≠ 0 ∨ 128 ≤ k then m
  else if v &&& (if 125 ≤ k then BitVec.allOnes 32 else 0x7F000000) ≠ 0 then undefFn 0 m
  else if 125 ≤ k then m
  else
    gated 2 (offTtmap i) f
      (fun m =>
        let m := commitSwitch m
        { m with tt := { m.tt with
          maps := Sparse.set (false, 0, 0) m.tt.maps key (v.getLsbD 31, v.extractLsb' 8 16, v.extractLsb' 0 8) } }) m

/-! The map (Table 18.1) -/

/-- What an RW register of a block other than a context block and TTMAP reads as, for a 4 B write of one half; none where
the register is not RW. -/
def rwWord (m : Module) (f : Fn) (off : Nat) : Option Word :=
  if off = 0x20 then some (BitVec.ofNat 64 m.pm.cap)
  else if off = 0x28 then some (m.layout.zeroExtend 64)
  else if off = 0x10008 then some ((m.func f.val).bar4win.zeroExtend 64)
  else if 0x10100 ≤ off ∧ off < 0x10300 then
    let h := hq m f.val ((off - 0x10100) / 32)
    match (off - 0x10100) / 8 % 4 with
    | 0 => some h.sub
    | 1 => some h.comp
    | 2 => some (packW [(9, b1 h.en), (8, b1 h.ien), (0, h.log2)])
    | _ => none
  else if 0x20000 ≤ off ∧ off < 0x28000 then
    let q := m.part ((off - 0x20000) / 4096)
    let o := off % 4096
    match o with
    | 0x00 => some (q.bind.zeroExtend 64)
    | 0x20 => some q.loanid
    | 0x28 => some q.tenant
    | 0x40 => some q.dep0
    | 0x48 => some (BitVec.ofNat 64 q.depCount)
    | _ =>
      if 0x580 ≤ o ∧ o < 0x5D0 then some (areaKey q.area ((o - 0x580) / 8))
      else if 0x400 ≤ o ∧ o < 0x5D0 then (areaReg (o - 0x400)).map fun r => r.get q.area.r
      else none
  else if 0x40000 ≤ off ∧ off < 0x50000 then
    let s := m.stripe ((off - 0x40000) / 2048)
    match off % 2048 with
    | 0x50 => some (BitVec.ofNat 64 s.thr)
    | 0x58 => some (packW [(12, s.second), (5, b1 s.degraded), (4, b1 s.retired.isSome), (0, s.retired.getD 15)])
    | _ => none
  else none

/-- An aligned 8 B write outside context blocks and TTMAP. -/
def write8 (f : Fn) (off : Nat) (v : Word) (m : Module) : Module :=
  if off < 0x10000 then writeModule f off v m
  else if off < 0x20000 then writeFunction f (off - 0x10000) v m
  else if off < 0x28000 then writePartition f ((off - 0x20000) / 4096) (off % 4096) v m
  else if 0x40000 ≤ off ∧ off < 0x50000 then writeStripe f ((off - 0x40000) / 2048) (off % 2048) v m
  else m

/-- Both entries of an 8 B write of TTMAP, or the one of a 4 B write. -/
def writeTtmaps (f : Fn) (i n : Nat) (v : Word) (m : Module) : Module :=
  let m := writeTtmap f i (v.truncate 32) m
  if n = 8 then writeTtmap f (i + 1) (v.extractLsb' 32 32) m else m

/-- A BAR0 write of n = 4 or 8 aligned bytes, LOANCMD OPEN aside. -/
def writeBar0 (f : Fn) (off n : Nat) (v : Word) (m : Module) : Module :=
  if 0x50000 ≤ off ∧ off < 0x55000 then writeTtmaps f ((off - 0x50000) / 4) n v m
  else if 0x400000 ≤ off ∧ off < 0x800000 then
    writeCtx f ((off - 0x400000) / 0x10000) (off % 0x10000) n v m
  else if n = 8 then write8 f off v m
  else
    match rwWord m f (off / 8 * 8) with
    | some w => write8 f (off / 8 * 8) (mergeHalf w (off % 8 == 4) v) m
    | none => m

/-- The partition whose LOANCMD an 8 B write names. -/
def loancmdAt (off n : Nat) : Option Nat :=
  if n = 8 ∧ 0x20000 ≤ off ∧ off < 0x28000 ∧ off % 4096 = 0x30 then some ((off - 0x20000) / 4096) else none

/-- A LOANCMD write; OPEN and CLOSE may send to the meter. -/
def loanWrite (f : Fn) (p : Nat) (v : Word) (s : State) : Host.Outcome State Fault Refusal :=
  if !(isPart s.mod p) || !(seesPart s.mod f.val p) then .next s
  else if v &&& ~~~0x1F ≠ 0 then .next { s with mod := undefFn f.val s.mod }
  else if field v 0 2 = 1 then .next (openLoan f p (v.extractLsb' 2 2) (bit v 4) s)
  else liftC (writeLoancmd f p v) s

/-- REGISTER_WRITE: before the Librarian starts only BOOTCTL answers (17 R543); a write not aligned to its size of 4 or
8 B is ignored (R548). -/
def execRegisterWrite (f : Fn) (off : BitVec 26) (size : Nat) (v : Word) (s : State) :
    Host.Outcome State Fault Refusal :=
  let o := off.toNat
  if !s.mod.on || !(size = 4 ∨ size = 8) || o % size != 0 || !s.mod.boot.perstN then .next s
  else if !s.mod.boot.lib then
    if f = 0 ∧ o = 0 ∧ size = 8 then lift (writeModule f 0 v) s else .next s
  else if !(reaches s.mod (some f)) then .next s
  else
    match loancmdAt o size with
    | some p => loanWrite f p v s
    | none => lift (writeBar0 f o size (if size = 4 then v &&& low32 else v)) s

end Sys2Proof.Machine
end

