-- ==== Sys2Proof/Machine/Dispatch.lean ====
section
/-! DEFINITION. The dispatch: one arm per command. -/

namespace Sys2Proof.Machine

def exec (i : Instr) (s : State) : Host.Outcome State Fault Refusal :=
  match i with
  | .add t rd ra rb => Sys2Proof.Machine.execAdd t rd ra rb s
  | .sub t rd ra rb => Sys2Proof.Machine.execSub t rd ra rb s
  | .and t rd ra rb => Sys2Proof.Machine.execAnd t rd ra rb s
  | .or t rd ra rb => Sys2Proof.Machine.execOr t rd ra rb s
  | .xor t rd ra rb => Sys2Proof.Machine.execXor t rd ra rb s
  | .sll t rd ra rb => Sys2Proof.Machine.execSll t rd ra rb s
  | .srl t rd ra rb => Sys2Proof.Machine.execSrl t rd ra rb s
  | .sra t rd ra rb => Sys2Proof.Machine.execSra t rd ra rb s
  | .slt t rd ra rb => Sys2Proof.Machine.execSlt t rd ra rb s
  | .sltu t rd ra rb => Sys2Proof.Machine.execSltu t rd ra rb s
  | .min t rd ra rb => Sys2Proof.Machine.execMin t rd ra rb s
  | .max t rd ra rb => Sys2Proof.Machine.execMax t rd ra rb s
  | .minu t rd ra rb => Sys2Proof.Machine.execMinu t rd ra rb s
  | .maxu t rd ra rb => Sys2Proof.Machine.execMaxu t rd ra rb s
  | .mul t rd ra rb => Sys2Proof.Machine.execMul t rd ra rb s
  | .mulh t rd ra rb => Sys2Proof.Machine.execMulh t rd ra rb s
  | .mulhu t rd ra rb => Sys2Proof.Machine.execMulhu t rd ra rb s
  | .div t rd ra rb => Sys2Proof.Machine.execDiv t rd ra rb s
  | .divu t rd ra rb => Sys2Proof.Machine.execDivu t rd ra rb s
  | .rem t rd ra rb => Sys2Proof.Machine.execRem t rd ra rb s
  | .remu t rd ra rb => Sys2Proof.Machine.execRemu t rd ra rb s
  | .addi t rd ra imm => Sys2Proof.Machine.execAddi t rd ra imm s
  | .andi t rd ra imm => Sys2Proof.Machine.execAndi t rd ra imm s
  | .ori t rd ra imm => Sys2Proof.Machine.execOri t rd ra imm s
  | .xori t rd ra imm => Sys2Proof.Machine.execXori t rd ra imm s
  | .slti t rd ra imm => Sys2Proof.Machine.execSlti t rd ra imm s
  | .shiSll t rd ra amt => Sys2Proof.Machine.execShiSll t rd ra amt s
  | .shiSrl t rd ra amt => Sys2Proof.Machine.execShiSrl t rd ra amt s
  | .shiSra t rd ra amt => Sys2Proof.Machine.execShiSra t rd ra amt s
  | .shiRor t rd ra amt => Sys2Proof.Machine.execShiRor t rd ra amt s
  | .movi t rd lane imm => Sys2Proof.Machine.execMovi t rd lane imm s
  | .movk t rd lane imm => Sys2Proof.Machine.execMovk t rd lane imm s
  | .fadd t rd ra rb => Sys2Proof.Machine.execFadd t rd ra rb s
  | .fsub t rd ra rb => Sys2Proof.Machine.execFsub t rd ra rb s
  | .fmul t rd ra rb => Sys2Proof.Machine.execFmul t rd ra rb s
  | .fdiv t rd ra rb => Sys2Proof.Machine.execFdiv t rd ra rb s
  | .fsqrt t rd ra => Sys2Proof.Machine.execFsqrt t rd ra s
  | .fmin t rd ra rb => Sys2Proof.Machine.execFmin t rd ra rb s
  | .fmax t rd ra rb => Sys2Proof.Machine.execFmax t rd ra rb s
  | .fmadd t rd ra rb => Sys2Proof.Machine.execFmadd t rd ra rb s
  | .feq t rd ra rb => Sys2Proof.Machine.execFeq t rd ra rb s
  | .flt t rd ra rb => Sys2Proof.Machine.execFlt t rd ra rb s
  | .fle t rd ra rb => Sys2Proof.Machine.execFle t rd ra rb s
  | .fcvtSL t rd ra => Sys2Proof.Machine.execFcvtSL t rd ra s
  | .fcvtLS t rd ra => Sys2Proof.Machine.execFcvtLS t rd ra s
  | .ld8u t rd ra imm => Sys2Proof.Machine.execLd8u t rd ra imm s
  | .ld16u t rd ra imm => Sys2Proof.Machine.execLd16u t rd ra imm s
  | .ld32u t rd ra imm => Sys2Proof.Machine.execLd32u t rd ra imm s
  | .ld64 t rd ra imm => Sys2Proof.Machine.execLd64 t rd ra imm s
  | .ld8s t rd ra imm => Sys2Proof.Machine.execLd8s t rd ra imm s
  | .ld16s t rd ra imm => Sys2Proof.Machine.execLd16s t rd ra imm s
  | .ld32s t rd ra imm => Sys2Proof.Machine.execLd32s t rd ra imm s
  | .st8 t rs ra imm => Sys2Proof.Machine.execSt8 t rs ra imm s
  | .st16 t rs ra imm => Sys2Proof.Machine.execSt16 t rs ra imm s
  | .st32 t rs ra imm => Sys2Proof.Machine.execSt32 t rs ra imm s
  | .st64 t rs ra imm => Sys2Proof.Machine.execSt64 t rs ra imm s
  | .aadd32 t rd ra rb => Sys2Proof.Machine.execAadd32 t rd ra rb s
  | .aadd64 t rd ra rb => Sys2Proof.Machine.execAadd64 t rd ra rb s
  | .aswp32 t rd ra rb => Sys2Proof.Machine.execAswp32 t rd ra rb s
  | .aswp64 t rd ra rb => Sys2Proof.Machine.execAswp64 t rd ra rb s
  | .acas32 t rd ra rb => Sys2Proof.Machine.execAcas32 t rd ra rb s
  | .acas64 t rd ra rb => Sys2Proof.Machine.execAcas64 t rd ra rb s
  | .beq t ra rb off => Sys2Proof.Machine.execBeq t ra rb off s
  | .bne t ra rb off => Sys2Proof.Machine.execBne t ra rb off s
  | .blt t ra rb off => Sys2Proof.Machine.execBlt t ra rb off s
  | .bge t ra rb off => Sys2Proof.Machine.execBge t ra rb off s
  | .bltu t ra rb off => Sys2Proof.Machine.execBltu t ra rb off s
  | .bgeu t ra rb off => Sys2Proof.Machine.execBgeu t ra rb off s
  | .jal t rd off => Sys2Proof.Machine.execJal t rd off s
  | .jalr t rd ra imm => Sys2Proof.Machine.execJalr t rd ra imm s
  | .fenceL t => Sys2Proof.Machine.execFenceL t s
  | .fenceG t => Sys2Proof.Machine.execFenceG t s
  | .fencePt t => Sys2Proof.Machine.execFencePt t s
  | .halt t => Sys2Proof.Machine.execHalt t s
  | .stamp t rd => Sys2Proof.Machine.execStamp t rd s
  | .wait t reg ctr => Sys2Proof.Machine.execWait t reg ctr s
  | .cinc t reg ctr => Sys2Proof.Machine.execCinc t reg ctr s
  | .crd t reg ctr => Sys2Proof.Machine.execCrd t reg ctr s
  | .tstart t rd ra rb => Sys2Proof.Machine.execTstart t rd ra rb s
  | .dueI t f => Sys2Proof.Machine.execDueI t f s
  | .dueR t ra => Sys2Proof.Machine.execDueR t ra s
  | .unallocatedEncoding t => Sys2Proof.Machine.execUnallocatedEncoding t s
  | .meMma t f => Sys2Proof.Machine.execMeMma t f s
  | .veChain t f => Sys2Proof.Machine.execVeChain t f s
  | .teCopy t f => Sys2Proof.Machine.execTeCopy t f s
  | .teDesc t f => Sys2Proof.Machine.execTeDesc t f s
  | .resPush t f => Sys2Proof.Machine.execResPush t f s
  | .resPop t f => Sys2Proof.Machine.execResPop t f s
  | .resFree t f => Sys2Proof.Machine.execResFree t f s
  | .loadValueArrival t => Sys2Proof.Machine.execLoadValueArrival t s
  | .localWriteAccept i0 => Sys2Proof.Machine.execLocalWriteAccept i0 s
  | .fencePtComplete slot => Sys2Proof.Machine.execFencePtComplete slot s
  | .dueInstructionLaunch t => Sys2Proof.Machine.execDueInstructionLaunch t s
  | .meCommandStart core => Sys2Proof.Machine.execMeCommandStart core s
  | .meStepEnd core => Sys2Proof.Machine.execMeStepEnd core s
  | .meEmit core => Sys2Proof.Machine.execMeEmit core s
  | .meEmitDone core => Sys2Proof.Machine.execMeEmitDone core s
  | .chainStart core => Sys2Proof.Machine.execChainStart core s
  | .cartSlotFree core => Sys2Proof.Machine.execCartSlotFree core s
  | .chainPassEnd core i0 => Sys2Proof.Machine.execChainPassEnd core i0 s
  | .teCommandStart core => Sys2Proof.Machine.execTeCommandStart core s
  | .parkedPushRestart core i0 => Sys2Proof.Machine.execParkedPushRestart core i0 s
  | .tagGrant tag => Sys2Proof.Machine.execTagGrant tag s
  | .transactionSend port i0 => Sys2Proof.Machine.execTransactionSend port i0 s
  | .transactionTimeout tag => Sys2Proof.Machine.execTransactionTimeout tag s
  | .writeReceive rx x => Sys2Proof.Machine.execWriteReceive rx x s
  | .readReceive rx x => Sys2Proof.Machine.execReadReceive rx x s
  | .atomicReceive rx x => Sys2Proof.Machine.execAtomicReceive rx x s
  | .collReceive rx x => Sys2Proof.Machine.execCollReceive rx x s
  | .ackReceive rx x => Sys2Proof.Machine.execAckReceive rx x s
  | .nackReceive rx x => Sys2Proof.Machine.execNackReceive rx x s
  | .readdataReceive rx x => Sys2Proof.Machine.execReaddataReceive rx x s
  | .transactionForward rx x => Sys2Proof.Machine.execTransactionForward rx x s
  | .idleReceive rx => Sys2Proof.Machine.execIdleReceive rx s
  | .replayReceive rx expseq => Sys2Proof.Machine.execReplayReceive rx expseq s
  | .statusReceive rx b => Sys2Proof.Machine.execStatusReceive rx b s
  | .syncReceive rx seqid at8 => Sys2Proof.Machine.execSyncReceive rx seqid at8 s
  | .followupReceive rx isResp seqid t8 => Sys2Proof.Machine.execFollowupReceive rx isResp seqid t8 s
  | .delayreqReceive rx seqid at8 => Sys2Proof.Machine.execDelayreqReceive rx seqid at8 s
  | .delayrespReceive rx seqid t8 at8 => Sys2Proof.Machine.execDelayrespReceive rx seqid t8 at8 s
  | .faultReceive rx b => Sys2Proof.Machine.execFaultReceive rx b s
  | .fencedReceive rx b => Sys2Proof.Machine.execFencedReceive rx b s
  | .linkSilenceTimeout port => Sys2Proof.Machine.execLinkSilenceTimeout port s
  | .fecAlignmentLoss port lane => Sys2Proof.Machine.execFecAlignmentLoss port lane s
  | .trainingAttempt port => Sys2Proof.Machine.execTrainingAttempt port s
  | .trainingEnd port fail => Sys2Proof.Machine.execTrainingEnd port fail s
  | .idleSend port => Sys2Proof.Machine.execIdleSend port s
  | .statusSend port => Sys2Proof.Machine.execStatusSend port s
  | .fencedSend port => Sys2Proof.Machine.execFencedSend port s
  | .detourLoad port => Sys2Proof.Machine.execDetourLoad port s
  | .heldTrafficDiscard port => Sys2Proof.Machine.execHeldTrafficDiscard port s
  | .reductionSlotExpire pd1 i0 => Sys2Proof.Machine.execReductionSlotExpire pd1 i0 s
  | .combinedAckTimeout pd1 i0 => Sys2Proof.Machine.execCombinedAckTimeout pd1 i0 s
  | .alignmentExchange port t8 => Sys2Proof.Machine.execAlignmentExchange port t8 s
  | .holdoverEntry => Sys2Proof.Machine.execHoldoverEntry s
  | .parentRetry => Sys2Proof.Machine.execParentRetry s
  | .tkset stamp => Sys2Proof.Machine.execTkset stamp s
  | .topo b => Sys2Proof.Machine.execTopo b s
  | .fabkey key => Sys2Proof.Machine.execFabkey key s
  | .ttsw f bank frame => Sys2Proof.Machine.execTtsw f bank frame s
  | .timetableSwitch => Sys2Proof.Machine.execTimetableSwitch s
  | .stamploRead f => Sys2Proof.Machine.execStamploRead f s
  | .powerTelemetrySample mw => Sys2Proof.Machine.execPowerTelemetrySample mw s
  | .powerDecision => Sys2Proof.Machine.execPowerDecision s
  | .clockChangeEffect core => Sys2Proof.Machine.execClockChangeEffect core s
  | .temperatureLimit sensor celsius => Sys2Proof.Machine.execTemperatureLimit sensor celsius s
  | .thermalTrip sensor => Sys2Proof.Machine.execThermalTrip sensor s
  | .pwrcapWrite f v => Sys2Proof.Machine.execPwrcapWrite f v s
  | .overdueCheck slot => Sys2Proof.Machine.execOverdueCheck slot s
  | .ovdwinWrite f slot v => Sys2Proof.Machine.execOvdwinWrite f slot v s
  | .create f part pick => Sys2Proof.Machine.execCreate f part pick s
  | .createProceed part pick => Sys2Proof.Machine.execCreateProceed part pick s
  | .start f slot => Sys2Proof.Machine.execStart f slot s
  | .stop f slot => Sys2Proof.Machine.execStop f slot s
  | .delete f slot => Sys2Proof.Machine.execDelete f slot s
  | .reset f slot => Sys2Proof.Machine.execReset f slot s
  | .teardownComplete slot => Sys2Proof.Machine.execTeardownComplete slot s
  | .engrst f core engine => Sys2Proof.Machine.execEngrst f core engine s
  | .engineStopTimeout core e => Sys2Proof.Machine.execEngineStopTimeout core e s
  | .engineResetDone core e => Sys2Proof.Machine.execEngineResetDone core e s
  | .engineResetTimeout core e => Sys2Proof.Machine.execEngineResetTimeout core e s
  | .partrst f part => Sys2Proof.Machine.execPartrst f part s
  | .partitionResetIslands part => Sys2Proof.Machine.execPartitionResetIslands part s
  | .partitionReady part => Sys2Proof.Machine.execPartitionReady part s
  | .partitionResetTimeout part => Sys2Proof.Machine.execPartitionResetTimeout part s
  | .modrst f => Sys2Proof.Machine.execModrst f s
  | .rstNAssert => Sys2Proof.Machine.execRstNAssert s
  | .rstNRelease => Sys2Proof.Machine.execRstNRelease s
  | .librarianWatchdog => Sys2Proof.Machine.execLibrarianWatchdog s
  | .refclkLoss => Sys2Proof.Machine.execRefclkLoss s
  | .pwrEnAssert pwrGood => Sys2Proof.Machine.execPwrEnAssert pwrGood s
  | .pwrEnDeassert => Sys2Proof.Machine.execPwrEnDeassert s
  | .powerLoss => Sys2Proof.Machine.execPowerLoss s
  | .supplySag => Sys2Proof.Machine.execSupplySag s
  | .perstAssert => Sys2Proof.Machine.execPerstAssert s
  | .perstDeassert => Sys2Proof.Machine.execPerstDeassert s
  | .flr f => Sys2Proof.Machine.execFlr f s
  | .vfDisable f => Sys2Proof.Machine.execVfDisable f s
  | .sriovDisable => Sys2Proof.Machine.execSriovDisable s
  | .flrBackstop f => Sys2Proof.Machine.execFlrBackstop f s
  | .renewalSend => Sys2Proof.Machine.execRenewalSend s
  | .renewalAccept seq => Sys2Proof.Machine.execRenewalAccept seq s
  | .renewalRefuse seq => Sys2Proof.Machine.execRenewalRefuse seq s
  | .leaseExpiry => Sys2Proof.Machine.execLeaseExpiry s
  | .lapseNotice m inc s0 => Sys2Proof.Machine.execLapseNotice m inc s0 s
  | .peerDeadDeclare m => Sys2Proof.Machine.execPeerDeadDeclare m s
  | .loanOpen f part role secure => Sys2Proof.Machine.execLoanOpen f part role secure s
  | .loanClose f part => Sys2Proof.Machine.execLoanClose f part s
  | .meterOpenAnswer => Sys2Proof.Machine.execMeterOpenAnswer s
  | .meterTimeout part => Sys2Proof.Machine.execMeterTimeout part s
  | .meterCloseCosign => Sys2Proof.Machine.execMeterCloseCosign s
  | .closeResend part => Sys2Proof.Machine.execCloseResend part s
  | .closeDelayLedger part => Sys2Proof.Machine.execCloseDelayLedger part s
  | .restartLoanClose => Sys2Proof.Machine.execRestartLoanClose s
  | .partlayoutWrite f v => Sys2Proof.Machine.execPartlayoutWrite f v s
  | .partbindWrite f part v => Sys2Proof.Machine.execPartbindWrite f part v s
  | .meterSample entry dies => Sys2Proof.Machine.execMeterSample entry dies s
  | .meterApportion => Sys2Proof.Machine.execMeterApportion s
  | .meterCommit => Sys2Proof.Machine.execMeterCommit s
  | .meterOpenRecord => Sys2Proof.Machine.execMeterOpenRecord s
  | .meterCloseRecord => Sys2Proof.Machine.execMeterCloseRecord s
  | .meterListOpen => Sys2Proof.Machine.execMeterListOpen s
  | .meterRecordDrop => Sys2Proof.Machine.execMeterRecordDrop s
  | .meterPowerUp => Sys2Proof.Machine.execMeterPowerUp s
  | .caseSwitchOpen => Sys2Proof.Machine.execCaseSwitchOpen s
  | .readId => Sys2Proof.Machine.execReadId s
  | .readSnapshot => Sys2Proof.Machine.execReadSnapshot s
  | .readLog mseq => Sys2Proof.Machine.execReadLog mseq s
  | .ackLog mseq => Sys2Proof.Machine.execAckLog mseq s
  | .setTime ms => Sys2Proof.Machine.execSetTime ms s
  | .pair certOk idpub address => Sys2Proof.Machine.execPair certOk idpub address s
  | .readEvents i0 => Sys2Proof.Machine.execReadEvents i0 s
  | .mtrSnapshot f => Sys2Proof.Machine.execMtrSnapshot f s
  | .mtrLogEntry f mseq => Sys2Proof.Machine.execMtrLogEntry f mseq s
  | .mtrAnswerReady f => Sys2Proof.Machine.execMtrAnswerReady f s
  | .patrolScrub die stripe => Sys2Proof.Machine.execPatrolScrub die stripe s
  | .memretRetire f die stripe channel => Sys2Proof.Machine.execMemretRetire f die stripe channel s
  | .kvfree f slot ctr frame => Sys2Proof.Machine.execKvfree f slot ctr frame s
  | .kvwinWrite f slot w word v => Sys2Proof.Machine.execKvwinWrite f slot w word v s
  | .bar4Read f off len ide => Sys2Proof.Machine.execBar4Read f off len ide s
  | .bar4Write f off data ep ide => Sys2Proof.Machine.execBar4Write f off data ep ide s
  | .bmtake f slot step => Sys2Proof.Machine.execBmtake f slot step s
  | .cowCopyDone i0 => Sys2Proof.Machine.execCowCopyDone i0 s
  | .bmrestore f slot step => Sys2Proof.Machine.execBmrestore f slot step s
  | .depholdWrite f part depmod job first count => Sys2Proof.Machine.execDepholdWrite f part depmod job first count s
  | .depositCommit job => Sys2Proof.Machine.execDepositCommit job s
  | .fillcmd f part spare job kind step => Sys2Proof.Machine.execFillcmd f part spare job kind step s
  | .fillEnd part => Sys2Proof.Machine.execFillEnd part s
  | .collationEnd slot pages refOk => Sys2Proof.Machine.execCollationEnd slot pages refOk s
  | .shadowAdmit f slot => Sys2Proof.Machine.execShadowAdmit f slot s
  | .unitDispatch slot stage => Sys2Proof.Machine.execUnitDispatch slot stage s
  | .unitdone f slot unit => Sys2Proof.Machine.execUnitdone f slot unit s
  | .stepStart slot => Sys2Proof.Machine.execStepStart slot s
  | .claimGrant slot tensor => Sys2Proof.Machine.execClaimGrant slot tensor s
  | .edbind f slot tensor => Sys2Proof.Machine.execEdbind f slot tensor s
  | .edclaim f slot ctr tensor => Sys2Proof.Machine.execEdclaim f slot ctr tensor s
  | .edpub f slot tensor => Sys2Proof.Machine.execEdpub f slot tensor s
  | .schedmodeWrite f slot v => Sys2Proof.Machine.execSchedmodeWrite f slot v s
  | .varcurWrite f slot v => Sys2Proof.Machine.execVarcurWrite f slot v s
  | .rsvboundWrite f slot stage lim v => Sys2Proof.Machine.execRsvboundWrite f slot stage lim v s
  | .variantEvaluate slot => Sys2Proof.Machine.execVariantEvaluate slot s
  | .varnoteReceive job variant step frame => Sys2Proof.Machine.execVarnoteReceive job variant step frame s
  | .varnoteResend slot m => Sys2Proof.Machine.execVarnoteResend slot m s
  | .gngo f slot step => Sys2Proof.Machine.execGngo f slot step s
  | .gnLaunch slot => Sys2Proof.Machine.execGnLaunch slot s
  | .grpbind f slot group g1 => Sys2Proof.Machine.execGrpbind f slot group g1 s
  | .grpunbind f slot group => Sys2Proof.Machine.execGrpunbind f slot group s
  | .doorbell f q tail entries ide => Sys2Proof.Machine.execDoorbell f q tail entries ide s
  | .copyIn f q i0 data => Sys2Proof.Machine.execCopyIn f q i0 data s
  | .copyOut f q i0 dmaOk => Sys2Proof.Machine.execCopyOut f q i0 dmaOk s
  | .queueCinc f q i0 => Sys2Proof.Machine.execQueueCinc f q i0 s
  | .queueCompletion f q i0 => Sys2Proof.Machine.execQueueCompletion f q i0 s
  | .qcfgWrite f q word v => Sys2Proof.Machine.execQcfgWrite f q word v s
  | .attchal f chal part => Sys2Proof.Machine.execAttchal f chal part s
  | .ideKm f => Sys2Proof.Machine.execIdeKm f s
  | .cataccept f v => Sys2Proof.Machine.execCataccept f v s
  | .catpubPublish v => Sys2Proof.Machine.execCatpubPublish v s
  | .ptinv f slot ce ctr => Sys2Proof.Machine.execPtinv f slot ce ctr s
  | .errclr f slot sets => Sys2Proof.Machine.execErrclr f slot sets s
  | .rsvhwmClear f slot stage => Sys2Proof.Machine.execRsvhwmClear f slot stage s
  | .ctxctlWrite f slot v => Sys2Proof.Machine.execCtxctlWrite f slot v s
  | .bootgo f => Sys2Proof.Machine.execBootgo f s
  | .ready => Sys2Proof.Machine.execReady s
  | .registerWrite f off size v => Sys2Proof.Machine.execRegisterWrite f off size v s
  | .engineInternalCheck core e => Sys2Proof.Machine.execEngineInternalCheck core e s
  | .uncorrectableControlError part => Sys2Proof.Machine.execUncorrectableControlError part s
  | .portDieUncorrectableError pd1 => Sys2Proof.Machine.execPortDieUncorrectableError pd1 s
  | .refclkReturn => Sys2Proof.Machine.execRefclkReturn s
  | .localTransferComplete core i0 => Sys2Proof.Machine.execLocalTransferComplete core i0 s
  | .sriovEnable numvfs => Sys2Proof.Machine.execSriovEnable numvfs s
  | .d3hotTransition f enter => Sys2Proof.Machine.execD3hotTransition f enter s
  | .spdmSessionOpen => Sys2Proof.Machine.execSpdmSessionOpen s

end Sys2Proof.Machine
end

