-- ==== Sys2Proof/Machine/HostRead.lean ====
section
/-! DEFINITION. What BAR0 reads as (18 R548 to R550, R553, Tables 18.1 to 18.14): every block as each function sees it, the ledger
window as R448 of 13 and R497 of 15 filter it, and the slot maps (09 R309). No command of the table is a register read but
STAMPLO_READ, whose latch is its effect; these functions say what a read of the state returns. -/

namespace Sys2Proof.Machine

/-- The aligned 8 B word of a run of bytes at an offset; past its end it reads as zero. -/
def wordOf (bs : List Byte) (off : Nat) : Word := BitVec.ofNat 64 (leNat ((bs.drop off).take 8))

/-! The ledger window (13 R447, R448; 15 R497) -/

/-- The 64 bytes of a ledger entry (13 Table 13.7). -/
def entryBytes (e : Entry) : List Byte :=
  leBytes 8 e.seq ++ leBytes 8 e.stamp ++
    leBytes 8 (e.code * 2 ^ 48 + e.sev * 2 ^ 46 + e.scope * 2 ^ 43 + e.part * 2 ^ 40 + e.src * 2 ^ 30 + e.slot * 2 ^ 24 +
      e.gen * 2 ^ 14) ++
    leBytes 8 (e.job.toNat * 2 ^ 48) ++ e.data.flatMap fun w => leBytes 8 w.toNat

/-- An entry that R448 of 13 shows a virtual function of partition p: of the scopes that name a partition those of its own, and
of the module's the lapses and declarations. -/
def Entry.shownTo (e : Entry) (p : Nat) : Bool :=
  (e.part == p && (e.scope == scPart || e.scope == scCtx || e.scope == scCore || e.scope == scStripe)) ||
    (e.scope == scModule && e.code / 256 == 3)

/-- A function sees an entry: a virtual one only while its partition has a current loan, and only from the moment that loan
entered OPEN (15 R497). -/
def seesEntry (m : Module) (f : Fn) (e : Entry) : Bool :=
  f == 0 ||
    match partOfFn m f.val with
    | none => false
    | some p =>
      let q := m.part p
      (q.st == .open_ || q.st == .closing) && e.shownTo p && decide (q.openedAt ≤ e.stamp)

/-- LEDGERWIN at index SEQ mod 65,536. -/
def ledgerWin (m : Module) (f : Fn) (i : Nat) : List Byte :=
  match m.ledger.entries.find? fun e => e.seq % Config.ledgerMax == i with
  | some e => if seesEntry m f e then entryBytes e else []
  | none => []

/-! The slot maps (09 R309) -/

/-- A 4 B entry of TTMAP, of index 256 × (2 × port + bank) + slot: every bank reads at any time, through the physical function
only. -/
def ttmapEntry (m : Module) (f : Fn) (i : Nat) : Nat :=
  let e := Sparse.get (false, 0, 0) m.tt.maps (128 * (i / 256) + i % 256)
  if f = 0 ∧ i % 256 < 125 then b1 e.1 * 2 ^ 31 + e.2.1.toNat * 2 ^ 8 + e.2.2.toNat else 0

/-! The module block (Table 18.2) -/

/-- Codes of RENEWSTAT, PORTSTAT, LOANSTAT, BOOTSTAT and of the creation area. -/
def LeaseSt.code : LeaseSt → Nat
  | .none => 0
  | .held => 1
  | .fenced => 2

def PortSt.code : PortSt → Nat
  | .down => 0
  | .training => 1
  | .miswire => 2
  | .up => 3
  | .peerFenced => 4
  | .fencing => 5

def LoanSt.code : LoanSt → Nat
  | .closed => 0
  | .opening => 1
  | .open_ => 2
  | .closing => 3

def BootSt.code : BootSt → Nat
  | .window => 0
  | .checking => 1
  | .running => 2

def AreaSt.code : AreaSt → Nat
  | .none => 0
  | .pending => 8
  | .done => 9
  | .refused => 10

/-- STAMPSTAT (Table 18.3). -/
def readStampstat (m : Module) : Word :=
  let t := m.time
  let keeper := m.topo.timekeeper || m.topo.parents.head?.any fun p => !p.sameRack
  packW [(16, (BitVec.ofInt 32 t.offset8).toNat), (8, t.run), (4, t.parent), (3, b1 keeper), (2, b1 t.outOfBound),
    (0, t.align.num)]

/-- The hottest compute die, as TEMPSTAT has one field for them (log 153). -/
def hottest (m : Module) : Nat := ((upTo 8).map fun d => Sparse.get 0 m.pm.tDie d).foldl Nat.max 0

/-- The registers of the module block that a virtual function sees too (R550); each function has its own STAMPHI. -/
def readShared (s : State) (f : Fn) (off : Nat) : Word :=
  let m := s.mod
  let b := m.boot
  match off with
  | 0x10 =>
    packW [(4, b1 b.ready), (3, b1 b.catalogue), (2, b1 b.renewed), (1, b1 m.time.everAligned), (0, b1 (portsTrained m))]
  | 0x40 => BitVec.ofNat 64 (m.now % 2 ^ 32)
  | 0x48 => (m.func f.val).stamphi.zeroExtend 64
  | 0x50 => readStampstat m
  | 0x58 => (feedOf m).zeroExtend 64
  | 0x78 => BitVec.ofNat 64 m.ledger.head
  | 0x88 => packW [(1, b1 (!b.identity)), (0, b1 b.identity)]
  | 0x90 =>
    packW [(32, s.meter.log.length), (2, b1 s.meter.tampered), (1, b1 s.meter.unsynced), (0, b1 s.meter.paired)]
  | _ =>
    if 0x100 ≤ off ∧ off < 0x120 then maskWord m.cat.pub ((off - 0x100) / 8)
    else if 0x140 ≤ off ∧ off < 0x160 then maskWord m.cat.en ((off - 0x140) / 8)
    else 0

/-- The other registers of the module block. -/
def readModule (m : Module) (off : Nat) : Word :=
  match off with
  | 0x08 => packW [(32, m.boot.attempts), (4, m.boot.cause), (0, m.boot.st.code)]
  | 0x18 => packW [(24, m.pm.tOptical), (16, m.pm.tLpddr), (8, m.pm.tPort), (0, hottest m)]
  | 0x20 => BitVec.ofNat 64 m.pm.cap
  | 0x28 => m.layout.zeroExtend 64
  | 0x60 => packW [(32, m.lease.inc.toNat), (0, m.lease.st.code)]
  | 0x68 => BitVec.ofNat 64 m.lease.s
  | 0x70 => packW [(32, m.lease.deadCount), (0, m.lease.lastDead.toNat)]
  | 0x80 => BitVec.ofNat 64 m.att.prints.length
  | 0xA0 =>
    let fr := (m.tt.pend.map (·.2)).getD m.tt.lastFrame
    packW [(63, b1 m.tt.live), (62, b1 m.tt.pend.isSome), (56, m.tt.cause), (52, m.tt.port), (0, fr)]
  | _ => 0

/-! The function block (Table 18.4) -/

/-- The bytes of MTRDATA: the answer as the meter signed it (16 Tables 16.3, 16.6). -/
def mtrBytes (d : MtrData) : List Byte :=
  match d with
  | .none => []
  | .snapshot s => Meter.snapBytes s ++ leBytes 64 s.sig.toNat
  | .logEntry (some c) => coBytes c ++ leBytes 64 c.msig.toNat
  | .logEntry none => []

/-- The function block of a function. -/
def readFunction (m : Module) (f : Fn) (off : Nat) : Word :=
  let x := m.func f.val
  if !(seesFn m f) then 0
  else if off = 0 then (if m.boot.perstN then packW [(4, Config.linkWidth), (0, Config.linkRate)] else 0)
  else if 0x800 ≤ off ∧ off < 0xC00 then wordOf (mtrBytes x.mtrdata) (off - 0x800)
  else if 0xD00 ≤ off ∧ off < 0xE00 then
    match x.quote with
    | some q => wordOf (quoteBytes q ++ leBytes 64 q.sig.toNat) (off - 0xD00)
    | none => 0
  else (rwWord m f (0x10000 + off)).getD 0

/-! The partition block (Tables 18.5, 18.6) -/

/-- LOANSTAT. -/
def readLoanstat (q : Part) : Word :=
  packW [(24, q.closecause), (16, q.metercode), (8, q.refuse), (5, b1 q.secure), (3, q.role.toNat), (0, q.st.code)]

/-- A partition block that the function sees; one that is not the lowest die of a current partition reads as zero. CTXKEY of the
creation area reads as it stands there (R557). -/
def readPart (m : Module) (f : Fn) (p off : Nat) : Word :=
  let q := m.part p
  if !(isPart m p) || !(seesPart m f.val p) then 0
  else
    match off with
    | 0x10 => BitVec.ofNat 64 q.rst
    | 0x18 => BitVec.ofNat 64 ((accrueThrot m).part p).throt
    | 0x38 => readLoanstat q
    | 0x60 => packW [(32, q.fillPages), (8, q.fillCause), (0, q.fillSt)]
    | 0x408 =>
      packW [(22, q.area.gen), (16, q.area.slot), (8, q.area.refuse), (0, q.area.st.code)]
    | _ =>
      if 0x800 ≤ off ∧ off < 0x958 then
        match q.loanrec with
        | some c => wordOf (coBytes c ++ leBytes 64 c.msig.toNat) (off - 0x800)
        | none => 0
      else (rwWord m f (0x20000 + 0x1000 * p + off)).getD 0

/-! Ports, port dies and stripes (Tables 18.12 to 18.14) -/

/-- PORTSTAT. -/
def readPortstat (p : Port) : Word :=
  packW [(48, p.peerport), (32, p.lanefail.toNat), (16, p.peermod.toNat), (4, b1 p.detour), (0, p.st.code)]

/-- A port block. -/
def readPort (m : Module) (n off : Nat) : Word :=
  let p := m.port n
  match off with
  | 0x00 => readPortstat p
  | 0x08 => BitVec.ofNat 64 (BitVec.ofInt 32 p.linkasym).toNat
  | 0x10 => BitVec.ofNat 64 p.linkdelay
  | 0x18 => BitVec.ofNat 64 p.ttmiss
  | 0x20 => BitVec.ofNat 64 p.fabauth
  | _ => 0

/-- A port-die block. -/
def readPd (m : Module) (d off : Nat) : Word :=
  match off with
  | 0x00 => BitVec.ofNat 64 (m.pd d).detdrop
  | 0x08 => BitVec.ofNat 64 (m.pd d).unittmo
  | _ => 0

/-- A stripe block. -/
def readStripe (m : Module) (k off : Nat) : Word :=
  let s := m.stripe k
  if off < 0x50 then BitVec.ofNat 64 (Sparse.get 0 s.memce (off / 8))
  else
    match off with
    | 0x60 => BitVec.ofNat 64 s.memue
    | 0x68 => BitVec.ofNat 64 s.scrub
    | _ => (rwWord m 0 (0x40000 + 0x800 * k + off)).getD 0

/-! The map (Table 18.1) -/

/-- A function sees a core block: the physical one all of them. -/
def seesCore (m : Module) (f : Fn) (c : Nat) : Bool := f == 0 || isBound m f.val (partOfCore m c)

/-- The aligned 8 B word at a BAR0 offset, once the Librarian runs; what Table 18.1 does not list, or not for the function, reads
as zero. -/
def readBar0 (s : State) (f : Fn) (off : Nat) : Word :=
  let m := s.mod
  let phys := fun (w : Word) => if f = 0 then w else 0
  if off < 0x10000 then readShared s f off ||| phys (readModule m off)
  else if off < 0x20000 then readFunction m f (off - 0x10000)
  else if off < 0x28000 then readPart m f ((off - 0x20000) / 0x1000) (off % 0x1000)
  else if 0x30000 ≤ off ∧ off < 0x3A000 then phys (readPort m ((off - 0x30000) / 0x1000) (off % 0x1000))
  else if 0x3A000 ≤ off ∧ off < 0x3C000 then phys (readPd m ((off - 0x3A000) / 0x1000) (off % 0x1000))
  else if 0x40000 ≤ off ∧ off < 0x50000 then phys (readStripe m ((off - 0x40000) / 0x800) (off % 0x800))
  else if 0x50000 ≤ off ∧ off < 0x55000 then
    let i := (off - 0x50000) / 4
    packW [(32, ttmapEntry m f (i + 1)), (0, ttmapEntry m f i)]
  else if 0x60000 ≤ off ∧ off < 0xA0000 then
    wordOf (leBytes 64 (m.att.log.getD ((off - 0x60000) / 64) 0).toNat) (off % 64)
  else if 0xA0000 ≤ off ∧ off < 0xA1000 then (if m.boot.identity then wordOf Config.idCert (off - 0xA0000) else 0)
  else if 0x400000 ≤ off ∧ off < 0x800000 then
    let slot := (off - 0x400000) / 0x10000
    if seesCtx m (some f) slot then readCtx m slot (off % 0x10000) else 0
  else if 0x800000 ≤ off ∧ off < 0xA00000 then
    let c := (off - 0x800000) / 0x1000
    if seesCore m f c then readCore m c (off % 0x1000) else 0
  else if 0xC00000 ≤ off ∧ off < 0x1000000 then wordOf (ledgerWin m f ((off - 0xC00000) / 64)) (off % 64)
  else 0

/-- A BAR0 read of n bytes: of other sizes than 4 and 8, and misaligned ones, zero (R548). Before the Librarian starts BAR0 shows
only the boot registers, and every other request is unsupported (17 R543). -/
def readHost (s : State) (f : Fn) (off n : Nat) : Option Nat :=
  if !(hostUp s.mod f.val) then none
  else if !s.mod.boot.lib && !(f == 0 && (off / 8 == 0 || off / 8 == 1)) then none
  else
    let w := (readBar0 s f (off / 8 * 8)).toNat
    if n = 8 ∧ off % 8 = 0 then some w
    else if n = 4 ∧ off % 4 = 0 then some (w / 2 ^ (8 * (off % 8)) % 2 ^ 32)
    else some 0

end Sys2Proof.Machine
end

