-- ==== Sys2Proof/Safety.lean ====
section
/-! DEFINITION. What counts as a good state and a safe run, in the terms the statements use. -/

namespace Sys2Proof.Safety

open Sys2Proof.Machine

/-- The step answers a next state. -/
def Runs (s : State) : Prop := ∃ t, step s = .next t

/-- A command completes: it answers a next state. -/
def Completes (c : Instr) (s : State) : Prop := ∃ t, exec c s = .next t

/-- Open and SUSPENDED loans hold disjoint, non-empty groups of dies (16 R508, R510). -/
def LoansOk (ls : List MLoan) : Prop :=
  (∀ l ∈ ls, l.co.lr.dies ≠ 0) ∧ ls.Pairwise fun a b => a.co.lr.dies &&& b.co.lr.dies = 0

/-- What a commit holds obeys the bounds of the loan table and of the closed-loan log (16 R508, R515). -/
def CommitOk (c : Commit) : Prop := LoansOk c.loans ∧ c.log.length + c.loans.length ≤ Meter.logMax

/-- The Circulation Meter within its bounds (16 R508 to R510, R515, R520). -/
structure MeterOk (x : Meter) : Prop where
  loans : LoansOk x.loans
  log : x.log.length + x.loans.length ≤ Meter.logMax
  queue : x.queue.length ≤ Meter.queueMax
  events : x.events.length ≤ 1024
  slotA : ∀ c, x.slotA = some c → CommitOk c
  slotB : ∀ c, x.slotB = some c → CommitOk c

/-- The newer commit holds TAMPERED whenever the meter does, so that it never clears (16 R518). -/
def TamperKept (x : Meter) : Prop := x.tampered = true → (x.newest.map (·.tampered)) = some true

/-! What the statements about commands are made of -/

/-- A command answers the next state whose module is m; all else is as it was. -/
abbrev Gives (c : Instr) (s : State) (m : Module) : Prop := exec c s = .next { s with mod := m }

/-- Thread t of the context in a slot may issue the n bytes of words at its pc, and their fetch, which leaves the
module m, faults at nothing (03 R74, R78; 04 R133; 07 R242). -/
structure Enters (t : ThreadNo) (n : Nat) (s : State) (slot : Nat) (m : Module) : Prop where
  on : s.mod.on = true
  owner : ownerOf s.mod t.core = some slot
  can : canIssue s.mod slot t = true
  tag : waitsForTag s.mod t = false
  fetch : fetchCheck slot n t s.mod = (m, none)

/-- A scalar instruction of thread t issues with module m: it has no due prefix, or its stamp D is reached, and an
instruction that the thread came to after D counts LATE in set 0 of the core's VE (04 R155 to R158). -/
def Issues (t : ThreadNo) (s : State) (slot : Nat) (m : Module) : Prop :=
  ∃ f : Module, Enters t 4 s slot f ∧
    (((f.thread t).pfx = none ∧ m = f) ∨
     (∃ d, (f.thread t).pfx = some d ∧ d.d ≤ f.islandStamp t.core ∧
        m = countLate slot t.core .ve none (decide (d.d < d.s))
          (f.updThread t fun x => { x with pfx := none })))

/-- The instruction has retired with a register written. -/
def wrote (slot : Nat) (t : ThreadNo) (rd : Reg) (v : Word) (bad : Bool) (m : Module) : Module :=
  retireI slot t (m.setReg t rd v bad)

/-- The link has taken a transaction, which is alone in the receive buffers of its port (10 R325, R328). -/
def got (rx : Rx) (x : Txn) (m : Module) : Module :=
  rxAccept rx (m.updPort rx.port.val fun p => { p with rxq := [(x, p.era)] })

/-- A transaction from a link that was alone in the receive buffers has been answered or discarded: its buffer is free (R328). -/
def left (rx : Rx) (x : Txn) (m p : Module) : Module :=
  (freeBuf (.port rx.port.val x.vc.toNat (m.port rx.port.val).era) x p).updPort rx.port.val fun q => { q with rxq := [] }

/-- The link has taken a control frame, whose buffer of 128 B is free again at once (10 R325, R328). -/
def gotCtl (rx : Rx) (m : Module) : Module :=
  rxAccept rx (m.updPort rx.port.val fun p => { p with owed := Sparse.upd 0 p.owed 6 (· + 2) })

end Sys2Proof.Safety
end

