-- ==== Sys2Proof/Certificates/Slice0/Obligations.lean ====
section
/-! DEFINITION. The statements for the provers, in the order of OBLIGATIONS.json. -/

open Sys2Proof Sys2Proof.Machine Sys2Proof.Safety

/-- The command at the front of the queue runs on the rest of the queue. -/
def Obligations.StepRunsTheFrontCommand : Prop :=
  ∀ (s : State) (c : Instr) (r : List Instr),
    step { s with pending := c :: r } = exec c { s with pending := r }

/-- 04 R126: g0 reads as zero, and writes to it are discarded; every other register reads back what was written, with
its mark, and no register but the one written changes. -/
def Obligations.GeneralRegisterReadAfterWrite : Prop :=
  ∀ (x : Thread) (r q : Reg) (v : Word) (bad : Bool),
    x.reg 0 = 0 ∧ x.mark 0 = false ∧ x.setReg 0 v bad = x ∧
      (r ≠ 0 → (x.setReg r v bad).reg r = v ∧ (x.setReg r v bad).mark r = bad) ∧
      (q ≠ r → (x.setReg r v bad).reg q = x.reg q ∧ (x.setReg r v bad).mark q = x.mark q)

/-- 04 R130, R131, Table 4.3: the results of the integer instructions on two registers.

04 R131: division by zero gives a quotient of all ones and the dividend as remainder; −2^63 divided by −1 gives
−2^63 and remainder 0; otherwise the quotient truncates toward zero.

04 R129, R130, Table 4.2: the integer instructions with an immediate, SHI, MOVI and MOVK. -/
def Obligations.IntegerInstructionResults : Prop :=
  (∀ (t : ThreadNo) (rd ra rb : Reg) (s : State) (slot : Nat) (m : Module), Issues t s slot m →
    let a := m.reg t ra
    let b := m.reg t rb
    let put := fun (v : Word) => wrote slot t rd v (m.mark t ra || m.mark t rb) m
    Gives (.add t rd ra rb) s (put (a + b)) ∧
    Gives (.sub t rd ra rb) s (put (a - b)) ∧
    Gives (.and t rd ra rb) s (put (a &&& b)) ∧
    Gives (.or t rd ra rb) s (put (a ||| b)) ∧
    Gives (.xor t rd ra rb) s (put (a ^^^ b)) ∧
    Gives (.sll t rd ra rb) s (put (BitVec.ofNat 64 (a.toNat * 2 ^ (b.toNat % 64)))) ∧
    Gives (.srl t rd ra rb) s (put (BitVec.ofNat 64 (a.toNat / 2 ^ (b.toNat % 64)))) ∧
    Gives (.sra t rd ra rb) s (put (BitVec.ofInt 64 (a.toInt / 2 ^ (b.toNat % 64)))) ∧
    Gives (.slt t rd ra rb) s (put (if a.toInt < b.toInt then 1 else 0)) ∧
    Gives (.sltu t rd ra rb) s (put (if a.toNat < b.toNat then 1 else 0)) ∧
    Gives (.min t rd ra rb) s (put (BitVec.ofInt 64 (Min.min a.toInt b.toInt))) ∧
    Gives (.max t rd ra rb) s (put (BitVec.ofInt 64 (Max.max a.toInt b.toInt))) ∧
    Gives (.minu t rd ra rb) s (put (BitVec.ofNat 64 (Min.min a.toNat b.toNat))) ∧
    Gives (.maxu t rd ra rb) s (put (BitVec.ofNat 64 (Max.max a.toNat b.toNat))) ∧
    Gives (.mul t rd ra rb) s (put (BitVec.ofInt 64 (a.toInt * b.toInt))) ∧
    Gives (.mulh t rd ra rb) s (put (BitVec.ofInt 64 (a.toInt * b.toInt / 2 ^ 64))) ∧
    Gives (.mulhu t rd ra rb) s (put (BitVec.ofNat 64 (a.toNat * b.toNat / 2 ^ 64)))) ∧
  (∀ (t : ThreadNo) (rd ra rb : Reg) (s : State) (slot : Nat) (m : Module), Issues t s slot m →
    let a := m.reg t ra
    let b := m.reg t rb
    let put := fun (v : Word) => wrote slot t rd v (m.mark t ra || m.mark t rb) m
    (b = 0 →
      Gives (.div t rd ra rb) s (put (BitVec.allOnes 64)) ∧ Gives (.divu t rd ra rb) s (put (BitVec.allOnes 64)) ∧
      Gives (.rem t rd ra rb) s (put a) ∧ Gives (.remu t rd ra rb) s (put a)) ∧
    (a = BitVec.ofInt 64 (-(2 ^ 63)) → b = BitVec.allOnes 64 →
      Gives (.div t rd ra rb) s (put (BitVec.ofInt 64 (-(2 ^ 63)))) ∧ Gives (.rem t rd ra rb) s (put 0)) ∧
    (b ≠ 0 →
      Gives (.divu t rd ra rb) s (put (BitVec.ofNat 64 (a.toNat / b.toNat))) ∧
      Gives (.remu t rd ra rb) s (put (BitVec.ofNat 64 (a.toNat % b.toNat))) ∧
      ((a ≠ BitVec.ofInt 64 (-(2 ^ 63)) ∨ b ≠ BitVec.allOnes 64) →
        ∃ q r : Word,
          Gives (.div t rd ra rb) s (put q) ∧ Gives (.rem t rd ra rb) s (put r) ∧
          a.toInt = q.toInt * b.toInt + r.toInt ∧ r.toInt.natAbs < b.toInt.natAbs ∧
          (r.toInt = 0 ∨ (r.toInt < 0 ↔ a.toInt < 0))))) ∧
  (∀ (t : ThreadNo) (rd ra : Reg) (i : BitVec 14) (n : BitVec 6) (lane : BitVec 2) (h : BitVec 16)
    (s : State) (slot : Nat) (m : Module), Issues t s slot m →
    let a := m.reg t ra
    let v := BitVec.ofInt 64 i.toInt
    let put := fun (v : Word) => wrote slot t rd v (m.mark t ra) m
    Gives (.addi t rd ra i) s (put (a + v)) ∧
    Gives (.andi t rd ra i) s (put (a &&& v)) ∧
    Gives (.ori t rd ra i) s (put (a ||| v)) ∧
    Gives (.xori t rd ra i) s (put (a ^^^ v)) ∧
    Gives (.slti t rd ra i) s (put (if a.toInt < i.toInt then 1 else 0)) ∧
    Gives (.shiSll t rd ra n) s (put (BitVec.ofNat 64 (a.toNat * 2 ^ n.toNat))) ∧
    Gives (.shiSrl t rd ra n) s (put (BitVec.ofNat 64 (a.toNat / 2 ^ n.toNat))) ∧
    Gives (.shiSra t rd ra n) s (put (BitVec.ofInt 64 (a.toInt / 2 ^ n.toNat))) ∧
    (∃ r : Word, Gives (.shiRor t rd ra n) s (put r) ∧
      ∀ k : Nat, k < 64 → r.getLsbD k = a.getLsbD ((k + n.toNat) % 64)) ∧
    Gives (.movi t rd lane h) s
      (wrote slot t rd (BitVec.ofNat 64 (h.toNat * 2 ^ (16 * lane.toNat))) false m) ∧
    (∃ r : Word, Gives (.movk t rd lane h) s (wrote slot t rd r (m.mark t rd) m) ∧
      ∀ k : Nat, k < 64 →
        r.getLsbD k = if k / 16 = lane.toNat then h.getLsbD (k % 16) else (m.reg t rd).getLsbD k))

/-- 04 R132: the FP32 instructions work on bits [31:0], clear bits [63:32] of rd, and count their errata events in set 0
of the core's VE.

04 R132, 02 R46: compares write the integer 1 or 0, an unordered comparison 0, −0 equal to +0; FCVT.L.S rounds
toward zero, gives 0 for NaN, saturates, and counts no event. -/
def Obligations.Fp32InstructionResults : Prop :=
  (∀ (t : ThreadNo) (rd ra rb : Reg) (s : State) (slot : Nat) (m : Module), Issues t s slot m →
    let a := lo32 (m.reg t ra)
    let b := lo32 (m.reg t rb)
    let d := lo32 (m.reg t rd)
    let two := m.mark t ra || m.mark t rb
    let put := fun (r : W32 × List Ev) (bad : Bool) =>
      wrote slot t rd (zext32 r.1) bad (countEvs slot t.core .ve none r.2 m)
    Gives (.fadd t rd ra rb) s (put (fadd32 a b) two) ∧
    Gives (.fsub t rd ra rb) s (put (fsub32 a b) two) ∧
    Gives (.fmul t rd ra rb) s (put (fmul32 a b) two) ∧
    Gives (.fdiv t rd ra rb) s (put (fdiv32 a b) two) ∧
    Gives (.fsqrt t rd ra) s (put (fsqrt32 a) (m.mark t ra)) ∧
    Gives (.fmadd t rd ra rb) s (put (fma32 a b d) (two || m.mark t rd)) ∧
    Gives (.fmin t rd ra rb) s (put (fmin32 a b, []) two) ∧
    Gives (.fmax t rd ra rb) s (put (fmax32 a b, []) two) ∧
    Gives (.fcvtSL t rd ra) s (put (ofInt32 (m.reg t ra).toInt, []) (m.mark t ra))) ∧
  (∀ (t : ThreadNo) (rd ra rb : Reg) (s : State) (slot : Nat) (m : Module), Issues t s slot m →
    let x := f32 (lo32 (m.reg t ra))
    let y := f32 (lo32 (m.reg t rb))
    let two := m.mark t ra || m.mark t rb
    let put := fun (v : Word) => wrote slot t rd v two m
    (x = .nan ∨ y = .nan →
      Gives (.feq t rd ra rb) s (put 0) ∧ Gives (.flt t rd ra rb) s (put 0) ∧ Gives (.fle t rd ra rb) s (put 0)) ∧
    (∀ n k e n' k' e', x = .fin n k e → y = .fin n' k' e' →
      let p : ℚ := (if n then -1 else 1) * k * (2 : ℚ) ^ e
      let q : ℚ := (if n' then -1 else 1) * k' * (2 : ℚ) ^ e'
      Gives (.feq t rd ra rb) s (put (if p = q then 1 else 0)) ∧
      Gives (.flt t rd ra rb) s (put (if p < q then 1 else 0)) ∧
      Gives (.fle t rd ra rb) s (put (if p ≤ q then 1 else 0))) ∧
    (∀ n n', x = .inf n → y = .inf n' →
      Gives (.feq t rd ra rb) s (put (if n = n' then 1 else 0)) ∧
      Gives (.flt t rd ra rb) s (put (if n = true ∧ n' = false then 1 else 0)) ∧
      Gives (.fle t rd ra rb) s (put (if n = true ∨ n' = false then 1 else 0))) ∧
    (∀ n n' k e, ((x = .inf n ∧ y = .fin n' k e) →
        Gives (.feq t rd ra rb) s (put 0) ∧ Gives (.flt t rd ra rb) s (put (if n then 1 else 0)) ∧
        Gives (.fle t rd ra rb) s (put (if n then 1 else 0))) ∧
      ((x = .fin n' k e ∧ y = .inf n) →
        Gives (.feq t rd ra rb) s (put 0) ∧ Gives (.flt t rd ra rb) s (put (if n then 0 else 1)) ∧
        Gives (.fle t rd ra rb) s (put (if n then 0 else 1)))) ∧
    (x = .nan → Gives (.fcvtLS t rd ra) s (wrote slot t rd 0 (m.mark t ra) m)) ∧
    (∀ n, x = .inf n → Gives (.fcvtLS t rd ra) s
      (wrote slot t rd (if n then BitVec.ofInt 64 (-(2 ^ 63)) else BitVec.ofInt 64 (2 ^ 63 - 1)) (m.mark t ra) m)) ∧
    (∀ n k e, x = .fin n k e →
      let c : Int := ⌊(k : ℚ) * (2 : ℚ) ^ e⌋
      let z : Int := if n then -c else c
      Gives (.fcvtLS t rd ra) s
        (wrote slot t rd (BitVec.ofInt 64 (Max.max (-(2 ^ 63)) (Min.min (2 ^ 63 - 1) z))) (m.mark t ra) m)))

/-- 02 R50, R59: the three roundings of a magnitude m × 2^e at the weight 2^q. -/
def Obligations.RoundingModes : Prop :=
  ∀ (m r : Nat) (e q : Int),
    let x : ℚ := (m : ℚ) * (2 : ℚ) ^ (e - q)
    (roundAt .trunc m e q : ℤ) = ⌊x⌋ ∧
    (2 * |x - roundAt .rne m e q| ≤ 1 ∧ (2 * |x - roundAt .rne m e q| = 1 → roundAt .rne m e q % 2 = 0)) ∧
    let d : ℤ := ⌊65536 * (x - ⌊x⌋)⌋
    (roundAt (.sr r) m e q : ℤ) = ⌊x⌋ + (if (r : ℤ) < d then 1 else 0) ∧
    (((List.range 65536).filter fun r => decide ((roundAt (.sr r) m e q : ℤ) = ⌊x⌋ + 1)).length : ℤ) = d ∧
    |(x - ⌊x⌋) - (d : ℚ) / 65536| < 1 / 65536

/-- 04 Table 4.6, R125, R129: a branch taken goes to the pc plus four times its offset, with the two low bits cleared;
otherwise the pc advances by 4. A marked operand is consumed. -/
def Obligations.BranchesAndJumps : Prop :=
  ∀ (t : ThreadNo) (rd ra rb : Reg) (o : BitVec 14) (j : BitVec 20) (s : State) (slot : Nat) (m : Module),
    Issues t s slot m →
    let a := m.reg t ra
    let b := m.reg t rb
    let pc := (m.thread t).pc
    let low := fun (w : Word) => BitVec.ofNat 64 (w.toNat / 4 * 4)
    let go := fun (c : Bool) => retireTo slot t (if c then low (pc + BitVec.ofInt 64 (4 * o.toInt)) else pc + 4) m
    (m.mark t ra = false → m.mark t rb = false →
      Gives (.beq t ra rb o) s (go (decide (a = b))) ∧
      Gives (.bne t ra rb o) s (go (decide (a ≠ b))) ∧
      Gives (.blt t ra rb o) s (go (decide (a.toInt < b.toInt))) ∧
      Gives (.bge t ra rb o) s (go (decide (b.toInt ≤ a.toInt))) ∧
      Gives (.bltu t ra rb o) s (go (decide (a.toNat < b.toNat))) ∧
      Gives (.bgeu t ra rb o) s (go (decide (b.toNat ≤ a.toNat)))) ∧
    Gives (.jal t rd j) s (retireTo slot t (low (pc + BitVec.ofInt 64 (4 * j.toInt))) (m.setReg t rd (pc + 4) false)) ∧
    (m.mark t ra = false →
      Gives (.jalr t rd ra o) s
        (retireTo slot t (low (a + BitVec.ofInt 64 o.toInt)) (m.setReg t rd (pc + 4) false))) ∧
    (m.mark t ra = true →
      ∀ c ∈ [Instr.beq t ra rb o, .bne t ra rb o, .blt t ra rb o, .bge t ra rb o, .bltu t ra rb o, .bgeu t ra rb o,
             .jalr t rd ra o],
        Gives c s (ctxFault slot (poisonFault pc t) m)) ∧
    (m.mark t rb = true →
      ∀ c ∈ [Instr.beq t ra rb o, .bne t ra rb o, .blt t ra rb o, .bge t ra rb o, .bltu t ra rb o, .bgeu t ra rb o],
        Gives c s (ctxFault slot (poisonFault pc t) m))

/-- 03 R93, 04 R133: a load whose address passes its checks waits for its value; one to another module sends a READ
(R105), or one for each byte when it is not aligned to its size.

04 R133, 07 R247, 08 R277: a store to the module's memories leaves its thread at issue and waits for its memory path
with the n low bytes of rs, least significant first; a marked value is consumed by a store into main memory. A store to
another module asks for one WRITE, or for one for each byte when it is not aligned. It retires when it is accepted or
acknowledged, so the thread goes on without progress of its context (R104; 07 R249).

03 R94, 04 R134: an atomic operation on the module's memories waits for the old value; its address ignores the bits
below its size. One to another module sends an ATOMIC with both operands, of 16 bytes (10 R323).

08 R279: a marked register that forms the address of a load, store or atomic operation, or that WAIT, CINC or TSTART
takes, is consumed: the context faults with the call number of the instruction. An address that fails its checks faults
the context with the sub-cause of the check.

03 R93: a store waits whole when it is aligned to its size, and byte by byte when it is not. -/
def Obligations.LoadsStoresAndAtomicsIssue : Prop :=
  (∀ (t : ThreadNo) (rd ra : Reg) (i : BitVec 14) (s : State) (slot : Nat) (m : Module), Issues t s slot m →
    m.mark t ra = false →
    ∀ e ∈ [(Instr.ld8u t rd ra i, 1, false), (.ld16u t rd ra i, 2, false), (.ld32u t rd ra i, 4, false),
           (.ld64 t rd ra i, 8, false), (.ld8s t rd ra i, 1, true), (.ld16s t rd ra i, 2, true),
           (.ld32s t rd ra i, 4, true)],
      let c := m.reg t ra + BitVec.ofInt 64 i.toInt
      ∀ (p : Module) (loc : Loc), locate slot .read e.2.1 c t m = (p, .ok loc) →
        let l : LoadWait :=
          { rd := rd, op := .ld e.2.1 e.2.2, call := c, loc := loc, value := none, timedOut := false, got := [] }
        let q := p.updThread t fun x => { x with load := some l, stall := .none }
        (loc ≠ .remote → Gives e.1 s q) ∧
        (loc = .remote → c.toNat % e.2.1 = 0 →
          Gives e.1 s (askScalar slot t (.load t)
            { baseTx q slot .read (callDst c) (callAddr c) with len := e.2.1 } q)) ∧
        (loc = .remote → c.toNat % e.2.1 ≠ 0 →
          Gives e.1 s ((List.range e.2.1).foldl (fun p k =>
            let d := c + BitVec.ofNat 64 k
            askScalar slot t (.load t) { baseTx q slot .read (callDst d) (callAddr d) with len := 1 } p) q))) ∧
  (∀ (t : ThreadNo) (rs ra : Reg) (i : BitVec 14) (s : State) (slot : Nat) (m : Module), Issues t s slot m →
    m.mark t ra = false →
    (∀ e ∈ [(Instr.st8 t rs ra i, 1), (.st16 t rs ra i, 2), (.st32 t rs ra i, 4), (.st64 t rs ra i, 8)],
      let c := m.reg t ra + BitVec.ofInt 64 i.toInt
      let bytes := (List.range e.2).map fun k => (m.reg t rs).extractLsb' (8 * k) 8
      ∀ (p : Module) (pas : List Nat), locate slot .write e.2 c t m = (p, .ok (.mem pas)) →
        (m.mark t rs = false ∨ toMain pas = false →
          Gives e.1 s ((pendStore slot t c (pas.zip bytes) (m.mark t rs) p).updThread t fun x =>
            { x with pc := x.pc + 4, pfx := none, stall := .none })) ∧
        (m.mark t rs = true → toMain pas = true →
          Gives e.1 s (ctxFault slot (poisonFault c t) p))) ∧
    (∀ e ∈ [(Instr.st8 t rs ra i, 1), (.st16 t rs ra i, 2), (.st32 t rs ra i, 4), (.st64 t rs ra i, 8)],
      let c := m.reg t ra + BitVec.ofInt 64 i.toInt
      let bytes := (List.range e.2).map fun k => (m.reg t rs).extractLsb' (8 * k) 8
      ∀ p : Module,
        (∀ off, locate slot .write e.2 c t m = (p, .ok (.ctl off)) →
          (m.mark t rs = false → Gives e.1 s (retireI slot t
            (writeCtl slot off e.2 (BitVec.ofNat 64 ((m.reg t rs).toNat % 2 ^ (8 * e.2))) p))) ∧
          (m.mark t rs = true → Gives e.1 s (ctxFault slot (poisonFault (p.thread t).pc t) p))) ∧
        (locate slot .write e.2 c t m = (p, .ok .remote) →
          (m.mark t rs = true → callSpace c = 0 → Gives e.1 s (ctxFault slot (poisonFault c t) p)) ∧
          ((m.mark t rs = false ∨ callSpace c ≠ 0) →
            let go := fun (q : Module) => q.updThread t fun x => { x with pc := x.pc + 4, pfx := none, stall := .none }
            let bad := if m.mark t rs then [0] else []
            (c.toNat % e.2 = 0 → Gives e.1 s (go (askScalar slot t (.store t)
              { baseTx p slot .write (callDst c) (callAddr c) with len := e.2, payload := bytes, bad := bad } p))) ∧
            (c.toNat % e.2 ≠ 0 → Gives e.1 s (go ((List.range e.2).foldl (fun q k =>
              let d := c + BitVec.ofNat 64 k
              askScalar slot t (.store t) { baseTx p slot .write (callDst d) (callAddr d) with
                len := 1, payload := [(m.reg t rs).extractLsb' (8 * k) 8], bad := bad } q) p))))))) ∧
  (∀ (t : ThreadNo) (rd ra rb : Reg) (s : State) (slot : Nat) (m : Module), Issues t s slot m → m.mark t ra = false →
    ∀ e ∈ [(Instr.aadd32 t rd ra rb, 0), (.aadd64 t rd ra rb, 1), (.aswp32 t rd ra rb, 2), (.aswp64 t rd ra rb, 3),
           (.acas32 t rd ra rb, 4), (.acas64 t rd ra rb, 5)],
      let size := if e.2 % 2 = 1 then 8 else 4
      let c := BitVec.ofNat 64 ((m.reg t ra).toNat / size * size)
      let bad := m.mark t rb || (decide (4 ≤ e.2) && m.mark t rd)
      (∀ (p : Module) (pas : List Nat), locate slot .atomic size c t m = (p, .ok (.mem pas)) →
        (bad = false ∨ toMain pas = false) →
        Gives e.1 s (p.updThread t fun x =>
          { x with
            load := some { rd := rd, op := .atom e.2 (m.reg t rb) (m.reg t rd) bad, call := c, loc := .mem pas,
                           value := none, timedOut := false, got := [] }, stall := .none })) ∧
      (∀ (p : Module) (pas : List Nat), locate slot .atomic size c t m = (p, .ok (.mem pas)) →
        bad = true → toMain pas = true → Gives e.1 s (ctxFault slot (poisonFault c t) p)) ∧
      (∀ p : Module, locate slot .atomic size c t m = (p, .ok .remote) → (bad = false ∨ callSpace c ≠ 0) →
        let q := p.updThread t fun x =>
          { x with
            load := some { rd := rd, op := .atom e.2 (m.reg t rb) (m.reg t rd) bad, call := c, loc := .remote,
                           value := none, timedOut := false, got := [] }, stall := .none }
        let byte := fun (w : Word) => (List.range 8).map fun k => w.extractLsb' (8 * k) 8
        Gives e.1 s (askScalar slot t (.load t)
          { baseTx q slot .atomic (callDst c) (callAddr c) with
            fn := BitVec.ofNat 8 e.2, len := 16, payload := byte (m.reg t rb) ++ byte (m.reg t rd),
            bad := if bad then [0] else [] } q))) ∧
  (∀ (t : ThreadNo) (rd ra rb : Reg) (i : BitVec 14) (c : CtrNo) (s : State) (slot : Nat) (m : Module), Issues t s slot m →
    let eaten := ctxFault slot (poisonFault (m.thread t).pc t) m
    (m.mark t ra = true →
      ∀ x ∈ [Instr.ld8u t rd ra i, .ld16u t rd ra i, .ld32u t rd ra i, .ld64 t rd ra i, .ld8s t rd ra i,
             .ld16s t rd ra i, .ld32s t rd ra i, .st8 t rd ra i, .st16 t rd ra i, .st32 t rd ra i, .st64 t rd ra i,
             .aadd32 t rd ra rb, .aadd64 t rd ra rb, .aswp32 t rd ra rb, .aswp64 t rd ra rb, .acas32 t rd ra rb,
             .acas64 t rd ra rb, .wait t ra c, .tstart t rd ra rb], Gives x s eaten) ∧
    (m.mark t ra = true → Gives (.cinc t ra c) s eaten) ∧
    (m.mark t ra = false → ∀ (f : FaultInfo) (p : Module),
      (locate slot .read 8 (m.reg t ra + BitVec.ofInt 64 i.toInt) t m = (p, .error f) →
        Gives (.ld64 t rd ra i) s (ctxFault slot f p)) ∧
      (locate slot .write 8 (m.reg t ra + BitVec.ofInt 64 i.toInt) t m = (p, .error f) →
        (m.reg t ra + BitVec.ofInt 64 i.toInt).toNat % 8 = 0 →
        Gives (.st64 t rd ra i) s (ctxFault slot f p)))) ∧
  (∀ (slot : Nat) (t : ThreadNo) (c : Word) (items : List (Nat × Byte)) (bad : Bool) (m : Module),
    let waits := fun (w : PWrite) => (w.t, w.slot, w.items, w.bad, w.call)
    let after := (pendStore slot t c items bad m).writes.map waits
    (c.toNat % items.length = 0 → after = m.writes.map waits ++ [(t, slot, items, bad, c)]) ∧
    (c.toNat % items.length ≠ 0 → after = m.writes.map waits ++
      items.zipIdx.map fun e => (t, slot, [e.1], bad, c + BitVec.ofNat 64 e.2)))

/-- 03 R106, 04 R133, R134: the value of a load or atomic operation arrives: rd holds the bytes addressed, sign- or
zero-extended, or the old value, marked if a byte of it is; the thread goes on.

03 R93: a load that is not aligned to its size reads its bytes one by one, in any order.

07 R247: a waiting store is accepted once nothing it must follow waits: its bytes are in memory, every other waiting
write stays, and its context progresses (R249).

03 R94, 04 Table 4.5: what an atomic operation does to a word that is not marked: it adds, swaps, or compares and
swaps, modulo its width, and answers the old value. -/
def Obligations.LoadValuesAndWritesArrive : Prop :=
  (∀ (t : ThreadNo) (s : State) (slot : Nat) (l : LoadWait),
    s.mod.on = true → ownerOf s.mod t.core = some slot → (s.mod.thread t).load = some l → l.timedOut = false →
    let m := s.mod
    let goes := fun (v : Word) (bad : Bool) (p : Module) =>
      loadOver slot t (progress slot (p.updThread t fun x =>
        { (x.setReg l.rd v bad) with load := none, pc := x.pc + 4, pfx := none, stall := .none }))
    (∀ (pas : List Nat) (n : Nat) (sg : Bool), l.loc = .mem pas → l.op = .ld n sg → n ∈ [1, 2, 4, 8] →
      pas.length = n → (∀ w ∈ m.writes, w.t = t → ∀ e ∈ w.items, e.1 ∉ pas) → tileWritten m none pas = false →
      l.call.toNat % n = 0 →
      let r := readPas pas m
      let v := BitVec.ofNat (8 * n) (bytesNat r.2)
      Gives (.loadValueArrival t) s (goes (if sg then v.signExtend 64 else v.zeroExtend 64) (anyBad r.2) r.1)) ∧
    (∀ (pas : List Nat) (n : Nat) (sg : Bool), l.loc = .mem pas → l.op = .ld n sg → n ∈ [2, 4, 8] →
      pas.length = n → l.call.toNat % n ≠ 0 → (∀ w ∈ m.writes, w.t = t → ∀ e ∈ w.items, e.1 ∉ pas) →
      (∀ pa ∈ pas, tileWritten m none [pa] = false) →
      (l.got.map (·.1)).Nodup → (∀ e ∈ l.got, e.1 < n) → l.got.length < n →
      ∃ (i pa : Nat), i < n ∧ i ∉ l.got.map (·.1) ∧ pas[i]? = some pa ∧
        let r := readPas [pa] { m with draw := m.draw + 1 }
        let got := l.got ++ r.2.map fun b => (i, b)
        let v := BitVec.ofNat (8 * n) ((got.map fun e => e.2.1.toNat * 2 ^ (8 * e.1)).sum)
        (got.length < n → Gives (.loadValueArrival t) s
          (r.1.updThread t fun x => { x with load := some { l with got := got } })) ∧
        (got.length = n → Gives (.loadValueArrival t) s
          (goes (if sg then v.signExtend 64 else v.zeroExtend 64) (got.any fun e => e.2.2) r.1))) ∧
    (∀ (pas : List Nat) (fn : Nat) (b d : Word) (bad : Bool), l.loc = .mem pas → l.op = .atom fn b d bad →
      (∀ w ∈ m.writes, w.t = t → ∀ e ∈ w.items, e.1 ∉ pas) →
      let size := if fn % 2 = 1 then 8 else 4
      cowPages slot l.call size m = [] → writeAct m (some t) none (atomItems fn b d pas m) = none →
      let r := atomAt fn b d bad pas m
      Gives (.loadValueArrival t) s (goes (BitVec.ofNat 64 r.2.1) r.2.2 r.1)) ∧
    (∀ (off : Nat), l.loc = .ctl off → l.op = .ld 8 false →
      Gives (.loadValueArrival t) s (goes (BitVec.ofNat 64 (readCtl m slot off 8)) false m)) ∧
    (∀ (v : Word) (bad : Bool), l.loc = .remote → l.value = some (v, bad) → l.op = .ld 8 false →
      Gives (.loadValueArrival t) s (settle slot (goes v bad m)))) ∧
  (∀ (s : State) (i : Nat) (w : PWrite), s.mod.on = true → s.mod.writes[i]? = some w →
    behindOwn s.mod i w = false → cowPages w.slot w.call w.items.length s.mod = [] →
    writeAct s.mod (some w.t) none w.items = none → (s.mod.ctx w.slot).gen.toNat = w.gen →
    holdOld (w.items.map (·.1)) { s.mod with writes := s.mod.writes.eraseIdx i } =
      { s.mod with writes := s.mod.writes.eraseIdx i } →
    Gives (.localWriteAccept i) s
      (progress w.slot (writePas byContext w.items w.bad { s.mod with writes := s.mod.writes.eraseIdx i }))) ∧
  (∀ (fn : Nat) (b d : Word) (mark : Bool) (pas : List Nat) (m : Module), fn < 6 →
    let size := if fn % 2 = 1 then 8 else 4
    let r := readPas pas m
    let old := bytesNat r.2
    let put := fun (v : Nat) =>
      (putPas byContext (pas.zip (leBytes size (v % 2 ^ (8 * size)))) mark r.1, old, false)
    (anyBad r.2 = true → atomAt fn b d mark pas m = (r.1, old, true)) ∧
    (anyBad r.2 = false →
      (fn / 2 = 0 → atomAt fn b d mark pas m = put (old + b.toNat)) ∧
      (fn / 2 = 1 → atomAt fn b d mark pas m = put b.toNat) ∧
      (fn / 2 = 2 → old = d.toNat % 2 ^ (8 * size) → atomAt fn b d mark pas m = put b.toNat) ∧
      (fn / 2 = 2 → old ≠ d.toNat % 2 ^ (8 * size) → atomAt fn b d mark pas m = (r.1, old, false))))

/-- 03 R77, R108, 04 R134 to R136, Table 4.6: fences with nothing to wait for, HALT, STAMP, CINC and CRD.

04 R124: an unallocated encoding halts its thread, with a ledger entry; nothing else of the word takes effect. -/
def Obligations.FencesCountersAndHalts : Prop :=
  (∀ (t : ThreadNo) (rd : Reg) (c : CtrNo) (s : State) (slot : Nat) (m : Module), Issues t s slot m →
    ((∀ w ∈ m.writes, w.t ≠ t) →
      Gives (.fenceL t) s (retireI slot t m) ∧
      ((∀ f ∈ m.fab.flights ++ m.fab.waiting, f.who ≠ .store t) → Gives (.fenceG t) s (retireI slot t m)) ∧
      (m.mark t rd = false → Gives (.cinc t rd c) s (retireI slot t (addCtr slot c (lo32 (m.reg t rd)) m)))) ∧
    Gives (.fencePt t) s ((startFence slot (some t) none m).updThread t fun x => { x with stall := .fence }) ∧
    Gives (.halt t) s (settle slot ((retireI slot t m).updThread t fun x => { x with running := false })) ∧
    Gives (.stamp t rd) s (wrote slot t rd (BitVec.ofNat 64 (m.islandStamp t.core)) false m) ∧
    Gives (.crd t rd c) s (wrote slot t rd (((m.ctx slot).ctr c).zeroExtend 64) false m)) ∧
  (∀ (t : ThreadNo) (s : State) (slot : Nat) (m : Module), Issues t s slot m →
    Gives (.unallocatedEncoding t) s
      (settle slot ((led 0x0208 sevWarn (atCore m t.core) [(m.thread t).pc.toNat, t.toNat] m).updThread t
        fun x => { x with running := false })))

/-- 03 R112, R113: WAIT retires once the counter minus the register's low 32 bits, read as a signed number, is zero or
more; otherwise the thread stalls. Counters wrap modulo 2^32. A counter exactly 2^31 away is an act of Table 3.10; the form
of what it then may do within R119 is the model's choice (log 16). -/
def Obligations.WaitOnACounter : Prop :=
  ∀ (t : ThreadNo) (r : Reg) (c : CtrNo) (s : State) (slot : Nat) (m : Module), Issues t s slot m →
    m.mark t r = false →
    let v := (m.reg t r).truncate 32
    let x := (m.ctx slot).ctr c
    (0 ≤ (x - v).toInt → Gives (.wait t r c) s (retireI slot t m)) ∧
    ((x - v).toInt < 0 → x - v ≠ 0x80000000#32 →
      Gives (.wait t r c) s (m.updThread t fun y => { y with stall := .counter c v })) ∧
    (x - v = 0x80000000#32 → Gives (.wait t r c) s (undefCtx slot m)) ∧
    (∀ n : W32, ((addCtr slot c n m).ctx slot).ctr c = x + n)

/-- 03 R75, R76, 04 R137: TSTART of a halted thread of a core the context owns starts it with g1, g2 and g3, and answers 0;
of a running thread it answers 1 and starts nothing; a core the context does not own is a page-fault. The model's choices:
a register with bits above the 17 of a thread number names no owned core (log 137).

03 R75: what a thread holds when it starts; the two low bits of its entry are cleared (the model's choice, log 154). -/
def Obligations.ThreadStarts : Prop :=
  (∀ (t : ThreadNo) (rd ra rb : Reg) (s : State) (slot : Nat) (m : Module), Issues t s slot m →
    m.mark t rd = false → m.mark t ra = false → m.mark t rb = false →
    let n := (m.reg t ra).toNat
    let u : ThreadNo := BitVec.ofNat 17 n
    let owned := n < 2 ^ 17 ∧ (m.ctx slot).r.cores.getLsbD (n / 256) = true
    (owned → (m.thread u).running = false →
      Gives (.tstart t rd ra rb) s
        (wrote slot t rd 0 false (startThread slot u (m.reg t rb) (m.reg t rd) m))) ∧
    (owned → (m.thread u).running = true → Gives (.tstart t rd ra rb) s (wrote slot t rd 1 false m)) ∧
    (¬owned → Gives (.tstart t rd ra rb) s (ctxFault slot (pageFault .notOwned (m.thread t).pc t) m))) ∧
  (∀ (slot : Nat) (u : ThreadNo) (entry arg : Word) (m : Module),
    let p := startThread slot u entry arg m
    (p.thread u).running = true ∧ (p.thread u).pc = BitVec.ofNat 64 (entry.toNat / 4 * 4) ∧
    (∀ r : Reg, r ≠ 1 → r ≠ 2 → r ≠ 3 → p.reg u r = 0) ∧
    p.reg u 1 = BitVec.ofNat 64 (256 * ((List.range 512).filter fun k =>
      (m.ctx slot).r.cores.getLsbD k && decide (k < u.toNat / 256)).length + u.toNat % 256) ∧ p.reg u 2 = BitVec.ofNat 64 m.num ∧ p.reg u 3 = arg ∧
    (∀ v : ThreadNo, v ≠ u → p.thread v = m.thread v))

/-- 04 R154, R155: a due prefix is held for the next instruction, its stamp D fixed: for DUE.I the value congruent to F
modulo 2^26 with S − 2^25 ≤ D < S + 2^25, for DUE.R the register.

04 R156, 13 R421: every scalar instruction whose prefix's stamp is not reached is held, and its due stamp watched.

04 R156, 09 R298: a held instruction issues once the island's stamp has reached D, with its whole effect, and counts
no LATE event; before that nothing changes. -/
def Obligations.DueLaunch : Prop :=
  (∀ (t : ThreadNo) (f : BitVec 26) (ra : Reg) (s : State) (slot : Nat) (m : Module), Enters t 4 s slot m →
    let S := m.islandStamp t.core
    let pc := (m.thread t).pc
    let held := fun (d : Due) => m.updThread t fun x => { x with pc := x.pc + 4, pfx := some d, stall := .none }
    (S < 2 ^ 25 → Gives (.dueI t f) s
      (held { imm := true, f := f, reg := 0, s := S, d := if f.toNat < S + 2 ^ 25 then f.toNat else 0, at_ := pc })) ∧
    (2 ^ 25 ≤ S → ∃ D : Nat, D % 2 ^ 26 = f.toNat ∧ S ≤ D + 2 ^ 25 ∧ D < S + 2 ^ 25 ∧
      Gives (.dueI t f) s (held { imm := true, f := f, reg := 0, s := S, d := D, at_ := pc })) ∧
    (m.mark t ra = false →
      Gives (.dueR t ra) s (held { imm := false, f := 0, reg := m.reg t ra, s := S, d := (m.reg t ra).toNat, at_ := pc })) ∧
    (m.mark t ra = true → Gives (.dueR t ra) s (ctxFault slot (poisonFault pc t) m))) ∧
  (∀ (c : Instr) (b : Body) (t : ThreadNo) (s : State) (slot : Nat) (m : Module) (d : Due),
    bodyOf c = some b → issuer c = some t → Enters t 4 s slot m → (m.thread t).pfx = some d →
    m.islandStamp t.core < d.d →
    Gives c s (dueAdd slot { d := d.d, at_ := (m.thread t).pc, t := t }
      (m.updThread t fun x => { x with held := some (c, d.d), stall := .due }))) ∧
  (∀ (t : ThreadNo) (s : State) (slot : Nat) (c : Instr) (d : Nat) (b : Body),
    s.mod.on = true → ownerOf s.mod t.core = some slot → (s.mod.thread t).held = some (c, d) →
    bodyOf c = some b → (s.mod.ctx slot).state = .running →
    let p := dueDone slot { d := d, at_ := (s.mod.thread t).pc, t := t }
      (s.mod.updThread t fun x => { x with held := none, stall := .none, pfx := none })
    (s.mod.islandStamp t.core < d → Gives (.dueInstructionLaunch t) s s.mod) ∧
    (d ≤ s.mod.islandStamp t.core → Gives (.dueInstructionLaunch t) s (b slot p)))

/-- 04 R138 to R143, R155, R159: an engine command whose codes are allocated, whose registers carry no mark, and for which
its thread and its engine have room enters the queue of its engine with the values its registers hold; the thread goes
on at the pc plus 8. A chain that comes to the head of its queue launches there, late when its stamp has passed (R158). -/
def Obligations.EngineCommandsEnterTheirQueues : Prop :=
  ∀ (t : ThreadNo) (s : State) (slot : Nat) (m : Module), Enters t 8 s slot m → (m.thread t).outCmds < 16 →
    let g := m.reg t
    let clear := fun (rs : List Reg) => ∀ r ∈ rs, m.mark t r = false
    let enter := fun (fin : Done) (f : Iss → CoreSt → CoreSt) =>
      let i := issOf slot t fin m
      issued slot t i (m.updCore t.core (f i))
    let c := m.core t.core
    let teRoom := c.teQ.length + (c.teRun.filter fun r => !r.done).length + c.tePark.length < 64
    let te := fun (fin : Done) (w : TeWork) => enter fin fun i c => { c with teQ := c.teQ ++ [{ iss := i, work := w }] }
    (∀ f : MmaF, f.wf = true → clear [f.ra, f.rb, f.rt] → c.meQ.length < 32 →
      Gives (.meMma t f) s (enter f.fin fun i c =>
        { c with meQ := c.meQ ++ [{ iss := i, f := f, a := g f.ra, b := g f.rb, tag := (g f.rt).truncate 32 }] })) ∧
    (∀ f : ChainF, f.wf = true → clear [f.ro, f.rc, f.rt] → (f.src = 2 → m.mark t f.rs = false) →
      let q := enter f.fin fun i c =>
        { c with veQ := c.veQ ++ [{ iss := i, f := f, src := g f.rs, out := g f.ro, desc := g f.rc,
                                    tag := (g f.rt).truncate 32, n := (g f.rt).toNat / 2 ^ 32 % 2 ^ 16 + 1 }] }
      Gives (.veChain t f) s (if (s.mod.core t.core).veQ = [] then veHead t.core q else q)) ∧
    (∀ f : CopyF, f.wf = true → clear [f.rs, f.rd, f.rl, f.rt] → teRoom →
      Gives (.teCopy t f) s
        (te f.fin (.copy f (g f.rs) (g f.rd) ((g f.rl).toNat % 2 ^ 32) ((g f.rt).truncate 32)))) ∧
    (∀ f : DescF, clear [f.ra] → teRoom → Gives (.teDesc t f) s (te f.fin (.desc (g f.ra)))) ∧
    (∀ f : ResF, teRoom →
      let mb := (g f.rm).toNat / 2 ^ 16 % 2 ^ 16
      let layer := (g f.rm).toNat % 2 ^ 16
      let len := (g f.rl).toNat % 2 ^ 32
      (clear [f.ra, f.rm, f.rl] →
        Gives (.resPush t f) s (te f.fin (.push f.stage.toNat (g f.ra) mb layer len)) ∧
        Gives (.resPop t f) s (te f.fin (.pop f.stage.toNat (g f.ra) mb layer len))) ∧
      (clear [f.rm] → Gives (.resFree t f) s (te f.fin (.free f.stage.toNat mb layer))))

/-- 04 R124, R159, 08 R279: the same commands where they do not enter: a marked register is consumed, the sixteenth
outstanding command, a full ME queue and full descriptor slots stall the thread, an unallocated code halts it. -/
def Obligations.EngineCommandLimits : Prop :=
  ∀ (t : ThreadNo) (s : State) (slot : Nat) (m : Module), Enters t 8 s slot m →
    let stalls := fun (w : Stall) => m.updThread t fun x => { x with stall := w }
    let eaten := ctxFault slot (poisonFault (m.thread t).pc t) m
    let c := m.core t.core
    (∀ f : MmaF, f.wf = false → Gives (.meMma t f) s (bodyUnallocated t slot m)) ∧
    (∀ f : MmaF, f.wf = true →
      ((∃ r ∈ [f.ra, f.rb, f.rt], m.mark t r = true) → Gives (.meMma t f) s eaten) ∧
      ((∀ r ∈ [f.ra, f.rb, f.rt], m.mark t r = false) →
        (16 ≤ (m.thread t).outCmds → Gives (.meMma t f) s (stalls .commands)) ∧
        ((m.thread t).outCmds < 16 → 32 ≤ c.meQ.length → Gives (.meMma t f) s (stalls .queue)))) ∧
    (∀ f : DescF,
      (m.mark t f.ra = true → Gives (.teDesc t f) s eaten) ∧
      (m.mark t f.ra = false →
        (16 ≤ (m.thread t).outCmds → Gives (.teDesc t f) s (stalls .commands)) ∧
        ((m.thread t).outCmds < 16 → 64 ≤ c.teQ.length + (c.teRun.filter fun r => !r.done).length + c.tePark.length →
          Gives (.teDesc t f) s (stalls .queue))))

/-- 05 R144, R176, R177, R182: the head of the ME queue starts; a step adds its products; an emit copies the accumulator
to the tail of a cart with room. -/
def Obligations.MatrixEngineCommands : Prop :=
  ∀ (core : BitVec 9) (s : State), s.mod.on = true →
    let n := core.toNat
    let m := s.mod
    let c := m.core n
    engHeld c .me = false →
    (∀ k q, c.meQ = k :: q → c.meRun = none → (∀ d, k.iss.due = some d → d ≤ m.islandStamp n) →
      Gives (.meCommandStart core) s
        (countLate k.iss.slot n .me (some k.tag) (launchLate k.iss c.meAt)
          (m.updCore n fun c =>
            { c with meQ := q,
                     meRun := some { cmd := k, rne := (m.ctx k.iss.slot).r.rnd, k := 0, emitting := false } }))) ∧
    (∀ r p, c.meRun = some r → r.emitting = false → r.k ≤ r.cmd.f.kt.toNat → (meStep n r).run m = (.ok (), p) →
      let q := dropBlocks n .me p
      ((r.k < r.cmd.f.kt.toNat ∨ r.cmd.f.emit = true) →
        Gives (.meStepEnd core) s (q.updCore n fun c => { c with meRun := some { r with k := r.k + 1 } })) ∧
      (r.k = r.cmd.f.kt.toNat → r.cmd.f.emit = false →
        Gives (.meStepEnd core) s (complete r.cmd.iss true (meIdle n q)))) ∧
    (∀ r, c.meRun = some r → r.cmd.f.emit = true → r.k = r.cmd.f.kt.toNat + 1 →
      (r.emitting = false → c.cart.length + c.cartBusy < 16 →
        Gives (.meEmit core) s (m.updCore n fun c => { c with meRun := some { r with emitting := true } })) ∧
      (r.emitting = true →
        Gives (.meEmitDone core) s
          (complete r.cmd.iss true (meIdle n (m.updCore n fun c =>
            { c with cart := c.cart ++ [accTile c r.cmd.f.acc.toNat r.cmd.tag] })))))

/-- 02 R51, R54: on the exact path a group of finite products sums exactly, and the accumulator add rounds once. -/
def Obligations.ExactGroupSum : Prop :=
  ∀ (rne : Bool) (acc : W32) (xs : List (FVal × FVal)) (n : Bool) (k : Nat) (e : Int),
    xs ≠ [] → f32 acc = .fin n k e →
    (∀ p ∈ xs, ∃ a i b j c l, p = (FVal.fin a i c, FVal.fin b j l)) →
    let val := fun (v : FVal) => match v with
      | .fin n k e => (if n then -1 else 1) * (k : ℚ) * (2 : ℚ) ^ e
      | _ => 0
    ∃ n' k' e', val (.fin n' k' e') = val (f32 acc) + (xs.map fun p => val p.1 * val p.2).sum ∧
      cellStep 0 false false rne acc xs = arith (if rne then .rne else .trunc) (.fin n' k' e')

/-- 06 R187, R188, R191, R202, R206, R207, R209, R221, R223: a chain leaves its queue when its source is there and the unit
has room, its descriptor read once; the copy of its tile frees the cart slot; a pass that is not the last reads its operands
and counts; the last one of a chain that writes this module alone completes the command, and one with remote writes waits
for them. -/
def Obligations.ChainCommands : Prop :=
  ∀ (core : BitVec 9) (s : State), s.mod.on = true →
    let n := core.toNat
    let m := s.mod
    let c := m.core n
    (∀ k q d p, c.veQ = k :: q → c.chains = [] → engHeld c .ve = false →
      (∀ x, k.iss.due = some x → x ≤ m.islandStamp n) → (readChainDesc k.iss.slot n k.desc).run m = (.ok d, p) →
      let passes := 1 + extraPasses d.width d.stages
      chainAligned k d = true → chainLaps p n k d passes = false →
      let start := fun (tile : Option CartTile) (f : CoreSt → CoreSt) =>
        let p := dropBlocks n .ve p
        popChain n ((newUid p).2.updCore n fun c =>
          { f c with chains := c.chains ++ [{ cmd := k, d := d, src := none, slipErr := [], tile := tile,
                                              copying := tile.isSome, pass := 0, passes := passes, uid := p.fab.uid,
                                              unsettled := 0, ending := false }] })
      (k.f.src ≠ 0 → Gives (.chainStart core) s (start none id)) ∧
      (k.f.src = 0 → ∀ x xs, c.cart = x :: xs → (p.core n).cart = c.cart →
        Gives (.chainStart core) s
          (start (some x) fun c => { c with cart := c.cart.drop 1, cartBusy := c.cartBusy + 1 }))) ∧
    (∀ r, c.chains = [r] → r.copying = true →
      Gives (.cartSlotFree core) s (m.updCore n fun c =>
        { c with cartBusy := c.cartBusy - 1, chains := [{ r with copying := false }] })) ∧
    (∀ i r, c.chains[i]? = some r → r.ending = false → engHeld c .ve = false →
      (r.pass + 1 < r.passes → ∀ x p, (readPass n r).run m = (.ok x, p) →
        Gives (.chainPassEnd core i) s (updChain n r.uid (fun r => { r with pass := r.pass + 1 }) (dropBlocks n .ve p))) ∧
      (r.passes ≤ r.pass + 1 → ∀ k p, (lastPass n r).run m = (.ok (.wrote k), p) →
        (k = 0 → Gives (.chainPassEnd core i) s (complete r.cmd.iss true (dropChain n r.uid (dropBlocks n .ve p)))) ∧
        (k ≠ 0 → Gives (.chainPassEnd core i) s
          (updChain n r.uid (fun r => { r with pass := r.pass + 1, unsettled := k, ending := true }) (dropBlocks n .ve p)))))

/-- 07 R226, R237, R240; 04 R151; 11 R389: a COPY within the module starts once fewer than 16 commands move data, and
completes when its data are written; one between two other modules is dropped with event 0x0511; a parked PUSH restarts
when there is room.

07 R240, Table 7.3: what completing a COPY does: its counter, one command fewer outstanding, the run gone. -/
def Obligations.TransferEngineCommands : Prop :=
  (∀ (core : BitVec 9) (s : State), s.mod.on = true →
    let n := core.toNat
    let m := s.mod
    let c := m.core n
    engHeld c .te = false → (c.teRun.filter fun r => !r.done).length < 16 →
    (∀ k q f src dst len tag, c.teQ = k :: q → k.work = .copy f src dst len tag → 0 < len →
      (∀ x, k.iss.due = some x → x ≤ m.islandStamp n) →
      let pop := fun (p : Module) =>
        countLate k.iss.slot n .te (some tag) (launchLate k.iss (p.core n).teAt)
          (p.updCore n fun c => { c with teQ := c.teQ.drop 1, teAt := p.islandStamp n })
      (isLocal m src = true → isLocal m dst = true →
        Gives (.teCommandStart core) s
          (teTry n m.fab.uid (teLaunched n (TeRun.fresh k m.fab.uid none) (pop (newUid m).2)))) ∧
      (isLocal m src = false → isLocal m dst = false →
        Gives (.teCommandStart core) s
          (complete k.iss true (led 0x0511 sevWarn (atCore m n) [k.iss.at_.toNat, src.toNat, dst.toNat] (pop m))))) ∧
    (∀ i r p, c.teRun[i]? = some r → r.done = false → r.phase = .local_ → (teData n r).run m = (.ok (), p) →
      let r' := { r with phase := .sending }
      Gives (.localTransferComplete core i) s (teFinish n r' (updTe n r.uid (fun _ => r') p))) ∧
    (∀ i k stage call mb layer len r p, c.tePark[i]? = some k → k.work = .push stage call mb layer len →
      rsvFull ((m.ctx k.iss.slot).rsvAt stage) len = false →
      (beginPush k.iss.slot n stage call mb layer len (TeRun.fresh k m.fab.uid none)).run (newUid m).2 = (.ok r, p) →
      Gives (.parkedPushRestart core i) s (teTry n m.fab.uid
        ((p.updCore n fun c => { c with tePark := c.tePark.eraseIdx i }).updCore n fun c =>
          { c with teRun := c.teRun ++ [r] })))) ∧
  (∀ (core : Nat) (r : TeRun) (m : Module) (f : CopyF) (src dst : Word) (len : Nat) (tag : W32),
    r.cmd.work = .copy f src dst len tag → r.expect = 0 → r.tmo = 0 →
    teFinish core r m =
      complete r.cmd.iss true (m.updCore core fun c => { c with teRun := c.teRun.filter fun x => x.uid != r.uid }))

/-- 03 R110, 04 R140: a command of a context that is not in teardown completes: its counter increments modulo 2^32 when
CE is set, its thread has one command fewer outstanding, and the context progresses. -/
def Obligations.EngineCommandCompletes : Prop :=
  ∀ (i : Iss) (m : Module), i.due = none → (m.ctx i.slot).gen.toNat = i.gen → (m.ctx i.slot).state ≠ .teardown →
    let p := complete i true m
    (p.thread i.t).outCmds = (m.thread i.t).outCmds - 1 ∧
    (p.ctx i.slot).ctr i.fin.ctr = (m.ctx i.slot).ctr i.fin.ctr + (if i.fin.ce then 1 else 0) ∧
    (∀ c, c ≠ i.fin.ctr → (p.ctx i.slot).ctr c = (m.ctx i.slot).ctr c) ∧
    (p.ctx i.slot).ovd.lastProgress = m.now

/-- 07 R241 to R243, 10 R329, R334: a waiting transaction takes a free tag with a new incarnation; the choice of a port
leaves it with the next sequence number, and its buffer is free; 2 ms after it left, or held at a port that is not UP, it
times out.

07 R244, R246, Table 7.5: a remote load that times out reads all ones, REMTMO counts, and nothing progresses. -/
def Obligations.TransactionsLeaveAndTimeOut : Prop :=
  (∀ (s : State), s.mod.on = true →
    let m := s.mod
    (∀ (tag : BitVec 16) (f : Flight), nextWaiting m (canGo m) = some f → (m.ctx f.slot).shadow.role = 0 → f.x.kind ≠ .coll →
      (∀ g ∈ m.fab.flights, g.x.tag ≠ tag) →
      let inc := Sparse.get 0 m.fab.tagInc tag.toNat + 1
      let x : Txn := { f.x with tag := tag, inc := inc }
      let p := takeTag tag f m
      Gives (.tagGrant tag) s
        (switchTx x (if f.core = 512 then .unit else .die (f.core / 64)) m.now .flight
          { p with fab := { p.fab with flights := m.fab.flights ++ [{ f with x := x, sent := none }] } }) ∧
      p.fab.waiting = m.fab.waiting.erase f ∧ p.fab.turn = f.core ∧ Sparse.get 0 p.fab.tagInc tag.toNat = inc) ∧
    (∀ (port : PortNo) (i : Nat) (o : OutTx), (m.port port.val).oq[i]? = some o → eligible m port.val i o = true →
      o.own = .fwd → o.x.ttid = 0 →
      Gives (.transactionSend port i) s
        (emitVc port.val o.x.vc.toNat (.tx o.x) (freeBuf o.inp o.x (m.updPort port.val fun p =>
          { p with oq := p.oq.eraseIdx i,
                   clsTurn := Sparse.set 2 p.clsTurn (sendRank m port.val o) (txClass o.x),
                   inTurn := Sparse.set 18 p.inTurn o.x.vc.toNat o.inp.num })))) ∧
    (∀ (tag : BitVec 16) (f : Flight) (t : Nat), (m.fab.flights.find? fun f => f.x.tag == tag) = some f →
      f.sent = some t →
      (m.now < t + 2000000 → Gives (.transactionTimeout tag) s m) ∧
      (t + 2000000 ≤ m.now → Gives (.transactionTimeout tag) s (flightTimedOut f m))) ∧
    (∀ (port : PortNo) (o : OutTx) (q : List OutTx), (m.port port.val).oq = o :: q → (m.port port.val).st ≠ .up →
      o.since + 2000000 ≤ m.now → o.own = .fwd →
      Gives (.heldTrafficDiscard port) s (freeBuf o.inp o.x (m.updPort port.val fun p => { p with oq := q })))) ∧
  (∀ (f : Flight) (m : Module) (t : ThreadNo), f.who = .load t → (m.ctx f.slot).gen.toNat = f.gen →
    ((m.ctx f.slot).state = .running ∨ (m.ctx f.slot).state = .idle ∨ (m.ctx f.slot).state = .faulted) →
    (∀ l, (m.thread t).load = some l → loadParts l = 1) →
    flightTimedOut f m =
      ((dropFlight f m).updCtx f.slot fun x =>
          { x with remtmo := BitVec.ofNat 32 (Nat.min (2 ^ 32 - 1) (x.remtmo.toNat + 1)) }).updThread t fun x =>
        { x with load := x.load.map fun l =>
            { l with value := some (BitVec.allOnes 64, false), timedOut := true } })

/-- 03 R101 to R103, R111; 07 R228, R239; 10 R325, R340: a request that its link passes on and that names this module acts
at its target: a WRITE is in memory before its ACK leaves, with HALF the low nibble of its last byte alone, a READ answers
the bytes, an ATOMIC the old value, each with its marks; a contribution is added into its slot. Its receive buffer is free
again (R328).

14 R460, R461: a WRITE of a deposit lands in slot A or B of the region that its sender and job hold here.

14 R481: a WRITE into a context that has a shadow is asked for once more to the shadow; which module that is, and the form
of the copy, are the model's choice (log 104).

03 R101, 10 R325, R340: a request that the link does not pass on is discarded and asked for again; one for a job
without a live context is answered NACK NO_TARGET; one that fails its check is discarded, FABAUTH counts. -/
def Obligations.RequestsAtTheirTarget : Prop :=
  (∀ (rx : Rx) (y : Txn) (s : State) (slot : Nat), s.mod.on = true →
    let m := s.mod
    let n := rx.port.val
    (m.port n).st = .up → (m.port n).rxq = [] → rx.good = true → rx.seq.toNat = (m.port n).rxSeq →
    y.dst = ownNum m → jobCtx m y.job = some slot → y.keyOk = true →
    let c : Word := (0xFFFF#16) ++ y.addr
    (let x := { y with kind := .write }
      let g := got rx x m
      let ack := fun (p : Module) => left rx x m (answer x .ack .noTarget [] [] p)
      let items := fun (pas : List Nat) => (pas.zip x.payload).zipIdx.map fun e =>
        (e.1.1, ({ v := e.1.2, mask := if x.half && e.2 + 1 == x.payload.length then 0x0F else 0xFF,
                   bad := x.bad.contains (e.2 / 8) } : WByte))
      (∀ pas p, x.lib = .none → c ≠ noteCall → cowPages slot c x.payload.length g = [] →
        remotePas true slot .write c x.payload.length g = (p, .ok pas) → (toMain pas = false ∨ x.bad = []) →
        writeAct p none none ((items pas).map fun e => (e.1, e.2.v)) = none →
        let q := moveSeen slot x (putBytes byContext (items pas) p)
        let q := q.updCtx slot fun y => { y with bm := { y.bm with lastRemote := q.now } }
        Gives (.writeReceive rx y) s (ack (copyToShadow slot x q))) ∧
      (∀ k b off, x.lib = .deposit b off → holdingPart g x.src x.job = some k → x.bad = [] →
        let half := (g.part k).depCount / 2
        let fr := (g.part k).depFirst + (if b then half else 0)
        off + x.payload.length ≤ half * 65536 →
        Gives (.writeReceive rx y) s
          (ack (putBytes byContext (items ((upTo x.payload.length).map fun i => paMain fr (off + i))) g)))) ∧
    (∀ pas p, let x := { y with kind := .read }
      remotePas true slot .read c x.len (got rx x m) = (p, .ok pas) →
      let d := readPas pas p
      Gives (.readReceive rx y) s
        (left rx x m (answer x .readdata .noTarget (d.2.map (·.1)) (badWords (d.2.map (·.2))) d.1))) ∧
    (∀ pas p, let x := { y with kind := .atomic }
      let g := got rx x m
      let k := if x.fn.toNat % 2 = 1 then 8 else 4
      let a := c &&& ~~~(BitVec.ofNat 64 (k - 1))
      let b := BitVec.ofNat 64 (leNat (x.payload.take 8))
      let d := BitVec.ofNat 64 (leNat ((x.payload.drop 8).take 8))
      cowPages slot a k g = [] → remotePas true slot .atomic a k g = (p, .ok pas) → (toMain pas = false ∨ x.bad = []) →
      writeAct p none none (atomItems x.fn.toNat b d pas p) = none →
      let r := atomAt x.fn.toNat b d (!x.bad.isEmpty) pas p
      Gives (.atomicReceive rx y) s
        (left rx x m (answer x .readdata .noTarget (leBytes k r.2.1) (if r.2.2 then [0] else []) r.1))) ∧
    (∀ gr r, let x := { y with kind := .coll }
      let g := got rx x m
      groupOf g slot x.coll.group = some gr → (posIn g slot gr).isSome = true → x.coll.shidx.toNat < gr.members.length →
      x.coll.contrib ≠ 0 → x.det = false → collRun g slot gr.id x.coll.cser.toNat = none →
      let die := unitDie g (ownerMod gr x.coll)
      ((g.pd die).slots.find? fun r => sameSlot r x) = some r → sameShape r.coll x.coll = true →
      r.contrib + x.coll.contrib.toNat < r.expect →
      Gives (.collReceive rx y) s (left rx x m (answer x .ack .noTarget [] [] (g.updPd die fun p =>
        { p with slots := ((g.pd die).slots.filter fun r => !(sameSlot r x)) ++ [slotAdd r x] }))))) ∧
  (∀ (rx : Rx) (y : Txn) (s : State), s.mod.on = true → (s.mod.port rx.port.val).st = .up →
    let m := s.mod
    let n := rx.port.val
    ∀ e ∈ [(Instr.writeReceive rx y, TxKind.write), (.readReceive rx y, .read), (.atomicReceive rx y, .atomic),
           (.collReceive rx y, .coll)],
      let x := { y with kind := e.2 }
      let g := got rx x m
      (rx.good = false ∨ rx.seq.toNat ≠ (m.port n).rxSeq → Gives e.1 s (rxReject rx m)) ∧
      (rx.good = true → rx.seq.toNat = (m.port n).rxSeq → (m.port n).rxq = [] → x.dst = ownNum m →
        (jobCtx m x.job = none → (e.2 = .coll → x.coll.contrib ≠ 0) → Gives e.1 s
          ((answer x .nack .noTarget [] [] (freeBuf (.port n x.vc.toNat (m.port n).era) x g)).updPort n fun p =>
            { p with rxq := [] })) ∧
        (∀ slot, jobCtx m x.job = some slot → x.keyOk = false →
          Gives e.1 s (left rx x m (led 0x0508 sevError (atPort n) [n, x.src.toNat, x.job.toNat]
            (g.updPort n fun p => { p with fabauth := Nat.min (2 ^ 32 - 1) (p.fabauth + 1) }))))))

/-- 07 R239 to R243, 10 R333, R340, R348: a reply whose tag and incarnation match releases its tag and reaches its issuer; one
that matches nothing is discarded with event 0x0507, one that fails its check counts FABAUTH; an acknowledgement of a
combined transaction ends it; a transaction for another module is switched on with its buffer still held. -/
def Obligations.RepliesReachTheirIssuer : Prop :=
  ∀ (rx : Rx) (y : Txn) (s : State), s.mod.on = true →
    let m := s.mod
    let n := rx.port.val
    (m.port n).st = .up → (m.port n).rxq = [] → rx.good = true → rx.seq.toNat = (m.port n).rxSeq →
    (y.dst = ownNum m → y.keyOk = true → y.tagless = none →
      (∀ f, flightOf m y = some f → issuerLive m f = true →
        (∀ t, f.who = .store t →
          let x := { y with kind := .ack }
          Gives (.ackReceive rx y) s
            (left rx x m (settle f.slot (progress f.slot (dropFlight f (got rx x m)))))) ∧
        (∀ t l, f.who = .load t → (m.thread t).load = some l → loadParts l = 1 →
          (let x := { y with kind := .readdata }
            let data := x.payload.zipIdx.map fun e => (e.1, x.bad.contains (e.2 / 8))
            Gives (.readdataReceive rx y) s
              (left rx x m ((progress f.slot (dropFlight f (got rx x m))).updThread t fun z =>
                { z with load := some { l with value := some (BitVec.ofNat 64 (bytesNat data), anyBad data) } }))) ∧
          (let x := { y with kind := .nack }
            let sub := match x.cause with
              | .noTarget => PageSub.noTarget
              | .remoteDenied => .remoteDenied
            Gives (.nackReceive rx y) s
              (left rx x m (loadOver f.slot t ((ctxFault f.slot (pageFault sub (txCall f.x) t)
                (dropFlight f (got rx x m))).updThread t fun z => { z with load := none })))))) ∧
      (flightOf m y = none →
        ∀ e ∈ [(Instr.ackReceive rx y, TxKind.ack), (.nackReceive rx y, .nack), (.readdataReceive rx y, .readdata)],
          let x := { y with kind := e.2 }
          Gives e.1 s (left rx x m
            (led 0x0507 sevInfo (atPort n) [x.tag.toNat, x.inc.toNat, x.src.toNat] (got rx x m))))) ∧
    (y.dst = ownNum m →
      (∀ id, y.keyOk = true → y.tagless = some (id + 1) →
        let x := { y with kind := .ack }
        Gives (.ackReceive rx y) s (left rx x m (combDone id (got rx x m)))) ∧
      (y.keyOk = false →
        ∀ e ∈ [(Instr.ackReceive rx y, TxKind.ack), (.nackReceive rx y, .nack), (.readdataReceive rx y, .readdata)],
          let x := { y with kind := e.2 }
          Gives e.1 s (left rx x m (led 0x0508 sevError (atPort n) [n, x.src.toNat, x.job.toNat]
            ((got rx x m).updPort n fun p => { p with fabauth := Nat.min (2 ^ 32 - 1) (p.fabauth + 1) }))))) ∧
    (y.dst ≠ ownNum m → Gives (.transactionForward rx y) s
      ((switchTx y (.port n y.vc.toNat (m.port n).era) m.now .fwd (got rx y m)).updPort n fun p => { p with rxq := [] }))

/-- 10 R318, R325, R355, R356, R359: what an authenticated control frame does at an UP port once its link passes it on.

10 R325, R342: a control frame out of sequence or damaged is asked for again; one that fails its GMAC is taken by the
link and has no other effect.

10 R325, R326: the eighth request for one sequence number declares the link DOWN with cause 2; a MISWIRE port asks for
nothing (R318). -/
def Obligations.ControlFrames : Prop :=
  (∀ (rx : Rx) (s : State), s.mod.on = true → (s.mod.port rx.port.val).st = .up → rx.good = true →
    rx.seq.toNat = (s.mod.port rx.port.val).rxSeq → rx.auth = true → s.mod.fabKey.isSome = true →
    let n := rx.port.val
    let p := gotCtl rx s.mod
    Gives (.idleReceive rx) s p ∧
    (∀ e : BitVec 16, Gives (.replayReceive rx e) s
      (flushPort n (p.updPort n fun x =>
        { x with resend := x.replay.filter fun f => decide ((f.1 + 65536 - e.toNat) % 65536 < 32768), resendAt := p.now }))) ∧
    (∀ b : StatusB,
      let q := noteInc b (p.updPort n fun x =>
        { x with peerport := b.port.val, peermod := b.modnum, peerInc := b.inc, peerRun := b.pstate == .run })
      (b.pstate = .training → Gives (.statusReceive rx b) s (portDown n 3 q)) ∧
      (b.pstate ≠ .training → peerOk q n b = false → Gives (.statusReceive rx b) s
        (led 0x0503 sevError (atPort n) [n, b.modnum.toNat, b.port.val]
          (dropDetoured n (q.updPort n fun x =>
            { x with st := .miswire, replay := [], resend := [], fq := [], cq := [] })))) ∧
      (b.pstate ≠ .training → peerOk q n b = true →
        ((q.port n).detour = false → Gives (.statusReceive rx b) s q) ∧
        ((q.port n).detour = true → b.pstate = .run → q.boot.lib = true → Gives (.statusReceive rx b) s
          (led 0x0506 sevInfo (atPort n) [n] (q.updPort n fun x => { x with detour := false }))))) ∧
    (∀ b : FaultB,
      let old := p.fab.seen.filter fun e => decide (p.now < e.2.2 + 100000000)
      let known := ∃ e ∈ old, e.1 = b.reporter.toNat ∧ e.2.1 = b.serial.toNat
      (known → Gives (.faultReceive rx b) s { p with fab := { p.fab with seen := old } }) ∧
      (¬known → b.type = .job →
        let q := each ((upPorts p).filter (· != n)) (fun k => emitFault k b)
          { p with fab := { p.fab with seen := old ++ [(b.reporter.toNat, b.serial.toNat, p.now)] } }
        Gives (.faultReceive rx b) s (if q.boot.lib then applyFault b q else q))) ∧
    (∀ b : FencedB,
      Gives (.fencedReceive rx b) s
        (let q := led 0x0504 sevWarn (atPort n) [n, b.modnum.toNat, b.inc.toNat] (dropDetoured n (p.updPort n fun x =>
          { x with st := .peerFenced, replay := [], resend := [], fq := [], cq := [], peerRun := false, lanesUp := false,
                   replayAsked := (0, 0) }))
        sendFault .peerFenced (BitVec.ofNat 16 (farNum q n)) (noteFailed (ownPair q n) q)))) ∧
  (∀ (rx : Rx) (s : State) (e q : BitVec 16) (sb : StatusB) (fb : FaultB) (nb : FencedB) (r : Bool) (x y : Nat),
    s.mod.on = true → (s.mod.port rx.port.val).st = .up →
    ∀ c ∈ [Instr.idleReceive rx, .replayReceive rx e, .statusReceive rx sb, .syncReceive rx q x,
           .followupReceive rx r q x, .delayreqReceive rx q x, .delayrespReceive rx q x y, .faultReceive rx fb,
           .fencedReceive rx nb],
      ((rx.good = false ∨ rx.seq.toNat ≠ (s.mod.port rx.port.val).rxSeq) → Gives c s (rxReject rx s.mod)) ∧
      (rx.good = true → rx.seq.toNat = (s.mod.port rx.port.val).rxSeq → rx.auth = false →
        Gives c s (gotCtl rx s.mod))) ∧
  (∀ (rx : Rx) (m : Module),
    let n := rx.port.val
    let p := m.port n
    let k := if p.replayAsked.1 = p.rxSeq then p.replayAsked.2 + 1 else 1
    (p.st = .miswire → ((rxReject rx m).port n).st = .miswire ∧ (rxReject rx m).out = m.out) ∧
    (p.st ≠ .miswire → ((rxReject rx m).port n).st = (if 8 ≤ k then .down else p.st) ∧
      (k < 8 → ((rxReject rx m).port n).replayAsked = (p.rxSeq, k) ∧ ((rxReject rx m).port n).rxSeq = p.rxSeq)))

/-- 09 R292, R293, R301; 10 R360: the frames of an alignment exchange with the present parent. The request's send stamp t3 is
the one its port kept when it left; a follow-up stands behind the frame it follows, with that frame's send stamp.

09 R288, R294 to R296, Table 9.1: a completed exchange. The first one steps the stamp and leads to COARSE; in COARSE and
HOLDOVER the sixteenth in a row within the bound leads to ALIGNED; an aligned module keeps its stamp's value. The estimate is
within the bound of the role or OUTOFBOUND is set; the rate stays within 244 ppm and is corrected across racks only. How the
rate follows from the estimate is open (log 156). -/
def Obligations.Alignment : Prop :=
  (∀ (rx : Rx) (q : BitVec 16) (x y : Nat) (s : State), s.mod.on = true → (s.mod.port rx.port.val).st = .up →
    rx.good = true → rx.seq.toNat = (s.mod.port rx.port.val).rxSeq → rx.auth = true → s.mod.fabKey.isSome = true →
    let n := rx.port.val
    let p := gotCtl rx s.mod
    Gives (.delayreqReceive rx q x) s (emitCtl n (.delayresp q.toNat x) p) ∧
    (isCandidate s.mod n = false →
      ∀ c ∈ [Instr.syncReceive rx q x, .followupReceive rx true q x, .followupReceive rx false q x,
             .delayrespReceive rx q x y], Gives c s p) ∧
    (∀ (w : Parent), s.mod.topo.parents[s.mod.time.parent]? = some w → w.port = rx.port →
      let h := { p.time with lastHeard := p.now }
      Gives (.syncReceive rx q x) s
        { p with time := { h with seqid := q.toNat, t1 := none, t2 := some x, t4 := none, t5 := none, t6 := none } } ∧
      (p.time.seqid ≠ q.toNat →
        ∀ c ∈ [Instr.followupReceive rx true q x, .followupReceive rx false q x, .delayrespReceive rx q x y],
          Gives c s { p with time := h }) ∧
      (p.time.seqid = q.toNat →
        (p.time.t2.isSome = true → Gives (.followupReceive rx false q x) s
          (emitCtl n (.delayreq q.toNat) { p with time := { h with t1 := some x } })) ∧
        (∀ t1 t2 t3 : Nat, p.time.t1 = some t1 → p.time.t2 = some t2 →
          (p.port n).reqSent = some (q.toNat, t3) →
          (p.time.t5 = none → Gives (.delayrespReceive rx q x y) s
            { p with time := { h with t4 := some x, t6 := some y } }) ∧
          (∀ t4 t6 : Nat, p.time.t4 = some t4 → p.time.t6 = some t6 →
            let d : Int := (((t6 : Int) - t3) - ((x : Int) - t4)) / 2 + (p.port n).linkasym
            Gives (.followupReceive rx true q x) s
              (exchanged ((t2 : Int) - t1 - d)
                { p.updPort n (fun z => { z with linkdelay := d.toNat, reqSent := none }) with
                  time := { h with t1 := none, t2 := none, t4 := none, t5 := none, t6 := none } })))))) ∧
  (∀ (n i x : Nat) (e : BitVec 3) (m : Module),
    let t := 8 * m.now + (Config.stampFrac n m.now).toNat
    ((emit n (.sync i e) m).port n).cq = (m.port n).cq ++ [.followup false i (8 * m.now + e.toNat)] ∧
    ((emit n (.delayresp i x) m).port n).cq = (m.port n).cq ++ [.followup true i t] ∧
    ((emit n (.delayreq i) m).port n).reqSent = some (i, t)) ∧
  (∀ (o8 : Int) (m : Module),
    let b : Nat := match m.topo.parents.head? with
      | some p => if p.sameRack then 16 else 200
      | none => 16
    let q := exchanged o8 m
    (m.time.align = .unaligned → q.time.align = .coarse ∧ q.time.run = 0 ∧
      q.time.slew8 = o8 - 8 * ((o8 + 4) / 8) ∧ (q.now : Int) = Max.max 0 ((m.now : Int) - (o8 + 4) / 8)) ∧
    (m.time.align ≠ .unaligned → q.now = m.now ∧ q.time.slew8 = o8 ∧
      (o8.natAbs ≤ b → q.time.run = Nat.min 255 (m.time.run + 1)) ∧ (b < o8.natAbs → q.time.run = 0) ∧
      (q.time.outOfBound = true ↔ b < o8.natAbs) ∧ q.time.rate8.natAbs ≤ 1998 ∧
      (∀ w : Parent, m.topo.parents[m.time.parent]? = some w → w.sameRack = true → q.time.rate8 = 0)) ∧
    ((m.time.align = .coarse ∨ m.time.align = .holdover) →
      (o8.natAbs ≤ b → 15 ≤ m.time.run → q.time.align = .aligned) ∧
      ((b < o8.natAbs ∨ m.time.run < 15) → q.time.align = m.time.align)) ∧
    (m.time.align = .aligned → q.time.align = .aligned))

/-- 10 R318, R321, R326, R335, R348, R349, R358: link times, training and the port dies' time-outs.

10 R348, R349: a reduction slot expires 2 ms after it opened; a combined transaction's acknowledgement is overdue 2 ms
after it left its module or was discarded there; each leaves its unit, with a ledger entry. -/
def Obligations.LinkAndReductionTimeouts : Prop :=
  (∀ (port : PortNo) (s : State), s.mod.on = true →
    let n := port.val
    let m := s.mod
    let p := m.port n
    let lanes := if n < 2 then 16 else if n < 6 then 8 else 4
    ((p.st = .up ∨ p.st = .miswire) →
      (p.lastRx + 500 ≤ m.now → Gives (.linkSilenceTimeout port) s (portDown n 0 m)) ∧
      (m.now < p.lastRx + 500 → Gives (.linkSilenceTimeout port) s m) ∧
      (∀ lane : BitVec 4, lane.toNat < lanes → Gives (.fecAlignmentLoss port lane) s (portDown n 1 m))) ∧
    ((p.st = .down ∨ p.st = .peerFenced) → axisGet m.topo.lens (n / 2) ≠ 1 →
      Gives (.trainingAttempt port) s (m.updPort n fun p => { p with st := .training, lanesUp := false })) ∧
    (p.st = .training → p.lanesUp = false → ∀ fail : BitVec 16,
      ((∀ k : Nat, k < lanes → fail.getLsbD k = false) → Gives (.trainingEnd port fail) s
        (m.updPort n fun p =>
          { p with lanesUp := true, txSeq := 0, rxSeq := 0, replay := [], resend := [], fq := [], cq := [],
                   replayAsked := (0, 0), credit := (upTo 9).map (fun v => (v, vcCredits n v)), owed := [],
                   era := p.era + 1, lastRx := m.now, lastTx := m.now, reqSent := none, lanefail := 0,
                   firstDone := true })) ∧
      ((∃ k : Nat, k < lanes ∧ fail.getLsbD k = true) → ∃ q, Gives (.trainingEnd port fail) s q ∧
        (q.port n).st = .down ∧ ownPair m n ∈ q.fab.failedPairs ∧
        ∀ k : Nat, k < 16 → (q.port n).lanefail.getLsbD k = (fail.getLsbD k && decide (k < lanes)))) ∧
    (p.st = .up →
      (p.lastTx + 250 ≤ m.now → Gives (.idleSend port) s (emitCtl n .idle m)) ∧
      (m.now < p.lastTx + 250 → Gives (.idleSend port) s m)) ∧
    (∀ ps : PState, ((p.st = .up ∧ ps = .run) ∨ (p.st = .miswire ∧ ps = .miswire) ∨
        (p.st = .training ∧ p.lanesUp = true ∧ ps = .training)) →
      let due := p.statusAt = 0 ∨ p.statusAt + 1000 ≤ m.now + 1 ∨
        (m.now % 16000 < 128 ∧ p.statusAt ≤ m.now - m.now % 16000)
      (due → Gives (.statusSend port) s (emitCtl n (.status
        { pstate := ps, port := port, modnum := BitVec.ofNat 16 m.num, coord := m.topo.coord, inc := m.lease.inc,
          stamp := m.now }) (m.updPort n fun p => { p with statusAt := m.now + 1 }))) ∧
      (¬due → Gives (.statusSend port) s m)) ∧
    (p.st = .fencing →
      let due := (p.lastTx < m.lease.fencedAt ∨ p.lastTx + 1000 ≤ m.now) ∧ 2 ≤ Sparse.get 0 p.credit 6
      (due → Gives (.fencedSend port) s
        (emitVc n 6 (.fenced
          { modnum := BitVec.ofNat 16 m.num, inc := m.lease.inc, fstamp := m.lease.fencedAt }) m)) ∧
      (¬due → Gives (.fencedSend port) s m)) ∧
    (m.boot.lib = true → (p.st = .down ∨ p.st = .peerFenced) → p.detour = false → p.oq = [] →
      axisGet m.topo.lens (n / 2) ≠ 1 →
      Gives (.detourLoad port) s (led 0x0505 sevInfo (atPort n) [n]
        (m.updPort n fun p => { p with detour := true, oq := [] }))) ∧
    (∀ o : OutTx, m.boot.lib = true → (p.st = .down ∨ p.st = .peerFenced) → p.detour = false → p.oq = [o] →
      axisGet m.topo.lens (n / 2) ≠ 1 →
      Gives (.detourLoad port) s (detourTx n o.x o.inp o.since o.own (led 0x0505 sevInfo (atPort n) [n]
        (m.updPort n fun p => { p with detour := true, oq := [] }))))) ∧
  (∀ (pd1 : Bool) (i : Nat) (s : State), s.mod.on = true →
    let m := s.mod
    let d := if pd1 then 1 else 0
    (∀ r : RSlot, (m.pd d).slots[i]? = some r →
      (m.now < r.opened + 2000000 → Gives (.reductionSlotExpire pd1 i) s m) ∧
      (r.opened + 2000000 ≤ m.now → Gives (.reductionSlotExpire pd1 i) s
        (led 0x050A sevWarn (atPort (Config.ledgerNo 0x050A d)) [r.job.toNat, r.coll.group.toNat, r.coll.cser.toNat, r.contrib]
          (m.updPd d fun p => { p with slots := p.slots.eraseIdx i })))) ∧
    (∀ (k : Comb) (t : Nat), (m.pd d).combs[i]? = some k → k.sent = some t →
      (m.now < t + 2000000 → Gives (.combinedAckTimeout pd1 i) s m) ∧
      (t + 2000000 ≤ m.now → Gives (.combinedAckTimeout pd1 i) s
        (led 0x0509 sevWarn (atPort (Config.ledgerNo 0x0509 d)) [k.x.job.toNat, k.x.coll.group.toNat, k.x.coll.cser.toNat, k.x.coll.shidx.toNat]
          (m.updPd d fun p =>
            { p with combs := p.combs.eraseIdx i, unittmo := Nat.min (2 ^ 32 - 1) (p.unittmo + 1) })))))

/-- 09 R289, R291, R292, R296, R311, R312; 10 R315, R342: alignment, the tray controller's messages, the timetable. -/
def Obligations.StampAndTimetable : Prop :=
  ∀ (s : State), s.mod.on = true → s.mod.boot.lib = true →
    let m := s.mod
    (∀ (port : PortNo) (t8 : BitVec 3), (m.port port.val).st = .up →
      let due := (m.port port.val).syncFrame = 0 ∨ (m.port port.val).syncFrame + 64 ≤ m.now / 16000 + 1
      (due → Gives (.alignmentExchange port t8) s
        (emitCtl port.val (.sync (m.port port.val).syncSeq t8) (m.updPort port.val fun p =>
          { p with syncSeq := (p.syncSeq + 1) % 65536, syncFrame := m.now / 16000 + 1 }))) ∧
      (¬due → Gives (.alignmentExchange port t8) s m)) ∧
    (m.time.align = .aligned → m.topo.timekeeper = false → m.time.lastHeard + 8 * 1024000 ≤ m.now →
      ∃ q, Gives .holdoverEntry s q ∧ q.time.align = .holdover ∧ q.time.run = 0 ∧ q.now = m.now) ∧
    (m.time.align = .holdover → m.topo.parents ≠ [] → ∃ q, Gives .parentRetry s q ∧
      q.time.parent = (m.time.parent + 1) % m.topo.parents.length ∧ q.time.run = 0 ∧ q.time.align = .holdover) ∧
    (m.boot.spdm = true →
      (∀ t : BitVec 64, m.topo.timekeeper = true → m.time.align = .unaligned →
        ∃ q, Gives (.tkset t) s q ∧ q.time.align = .aligned ∧ q.now = t.toNat ∧ q.time.everAligned = true) ∧
      (∀ b : TopoB, b.wf = true → ∃ q, Gives (.topo b) s q ∧ q.topo = b ∧ q.threads = m.threads ∧ q.ctxs = m.ctxs) ∧
      (∀ k : BitVec 256, Gives (.fabkey k) s { m with fabKey := some k })) ∧
    (∀ (b : Bool) (f : BitVec 48), hostUp m 0 = true → catOn m 2 = true →
      (∀ w, m.tt.pend = some w → m.now < w.2 * 16000) →
      (b = m.tt.live → m.tt.pend.isSome = true → Gives (.ttsw 0 b f) s { m with tt := { m.tt with pend := none } }) ∧
      ((b ≠ m.tt.live ∨ m.tt.pend = none) → bankFault m b = none → m.now + 32000 ≤ f.toNat * 16000 →
        Gives (.ttsw 0 b f) s { m with tt := { m.tt with pend := some (b, f.toNat), lastFrame := f.toNat } }) ∧
      ((b ≠ m.tt.live ∨ m.tt.pend = none) → bankFault m b = none → f.toNat * 16000 < m.now + 32000 →
        let k := (m.now + 32000 + 15999) / 16000
        Gives (.ttsw 0 b f) s
          (led 0x0604 sevWarn atModule [f.toNat, k] { m with tt := { m.tt with pend := some (b, k), lastFrame := k } })) ∧
      (∀ c n, (b ≠ m.tt.live ∨ m.tt.pend = none) → bankFault m b = some (c, n) →
        Gives (.ttsw 0 b f) s
          (led 0x0603 sevWarn atModule [c, n, f.toNat] { m with tt := { m.tt with cause := c, port := n } }))) ∧
    (∀ b f, m.tt.pend = some (b, f) →
      (f * 16000 ≤ m.now → Gives .timetableSwitch s { m with tt := { m.tt with live := b, pend := none } } ∧
        liveBank m = b) ∧
      (m.now < f * 16000 → Gives .timetableSwitch s m ∧ liveBank m = m.tt.live)) ∧
    (∀ f : Fn, m.boot.perstN = true → hostUp m f.val = true → Gives (.stamploRead f) s
      (hostOut (.stamplo f.val (BitVec.ofNat 32 m.now))
        (m.updFunc f.val fun x => { x with stamphi := BitVec.ofNat 32 (m.now / 2 ^ 32) })))

/-- 01 R22, R24 to R27; 17 R535: power telemetry and decisions, clock changes, PWRCAP, temperatures. -/
def Obligations.PowerAndTemperature : Prop :=
  ∀ (s : State), s.mod.on = true → s.mod.boot.lib = true →
    let m := s.mod
    (∀ w : Nat, Gives (.powerTelemetrySample w) s
      { m with pm := { m.pm with
          samples := (m.pm.samples.filter fun e => decide (m.now < e.1 + 1000000)) ++ [(m.now, w)] } }) ∧
    (m.now < m.pm.lastDec + 100000 → Gives .powerDecision s m) ∧
    (m.pm.lastDec + 100000 ≤ m.now → ∃ q, Gives .powerDecision s q ∧ q.pm.lastDec = m.now ∧
      ∀ c : Nat, c < 512 →
        let x := m.core c
        let z := q.core c
        let low := Nat.min z.capClk z.tempClk
        (1000 * m.pm.cap < avgPower m → z.capClk ≤ x.capClk ∧ x.capClk ≤ z.capClk + 4) ∧
        (avgPower m ≤ 1000 * m.pm.cap → 95 * (1000 * m.pm.cap) ≤ 100 * avgPower m → z.capClk = x.capClk) ∧
        (100 * avgPower m < 95 * (1000 * m.pm.cap) → x.capClk ≤ z.capClk ∧ z.capClk ≤ x.capClk + 1) ∧
        (100 ≤ Sparse.get 0 m.pm.tDie (c / 64) → 10 ≤ x.tempClk →
          10 ≤ z.tempClk ∧ z.tempClk ≤ x.tempClk ∧ x.tempClk ≤ z.tempClk + 4) ∧
        (Sparse.get 0 m.pm.tDie (c / 64) < 100 → x.tempClk ≤ 40 →
          x.tempClk ≤ z.tempClk ∧ z.tempClk ≤ 40 ∧ z.tempClk ≤ x.tempClk + 4) ∧
        z.clk ≤ x.clk ∧ ((z.clk = low ∧ z.clkNext = none) ∨ z.clkNext = some (low, m.now + 2000)) ∧
        { z with capClk := x.capClk, tempClk := x.tempClk, clk := x.clk, clkNext := x.clkNext } = x) ∧
    (∀ (c : BitVec 9) (k t : Nat), (m.core c.toNat).clkNext = some (k, t) → ∃ q, Gives (.clockChangeEffect c) s q ∧
      q.core c.toNat = { m.core c.toNat with clk := k, clkNext := none }) ∧
    (∀ v : Word, hostUp m 0 = true → catOn m 15 = true → v.toNat < 2 ^ 13 →
      Gives (.pwrcapWrite 0 v) s { m with pm := { m.pm with cap := Nat.max 3000 (Nat.min 6000 v.toNat) } }) ∧
    (∀ (d : BitVec 3) (c : Nat),
      let old := Sparse.get 0 m.pm.tDie d.toNat
      let q := { m with pm := { m.pm with tDie := Sparse.set 0 m.pm.tDie d.toNat c } }
      ((c < 100 ∨ 100 ≤ old) → Gives (.temperatureLimit (.computeDie d) c) s q) ∧
      (old < 100 → 100 ≤ c → Gives (.temperatureLimit (.computeDie d) c) s (irq 0 4 q))) ∧
    (∀ c : Nat,
      (m.pm.tLpddr < 85 → 85 ≤ c → Gives (.temperatureLimit .lpddr c) s
        (irq 0 4 { m with pm := { m.pm with tLpddr := c, refresh2x := true } })) ∧
      (85 ≤ m.pm.tLpddr → c < 85 → Gives (.temperatureLimit .lpddr c) s
        { m with pm := { m.pm with tLpddr := c, refresh2x := false } }) ∧
      (m.pm.tPort < 100 → 100 ≤ c → Gives (.temperatureLimit .portDie c) s
        (led 0x0906 sevWarn atModule [Config.ledgerNo 0x0906 1, c, 1]
          (irq 0 4 { m with pm := { m.pm with tPort := c } }))) ∧
      (75 ≤ m.pm.tOptical → c < 75 → Gives (.temperatureLimit .optical c) s
        (led 0x0906 sevWarn atModule [Config.ledgerNo 0x0906 3, c, 0] { m with pm := { m.pm with tOptical := c } })))

/-- 13 R419 to R422: the overdue monitor's check and its window. -/
def Obligations.OverdueMonitor : Prop :=
  ∀ (slot : BitVec 6) (s : State), s.mod.on = true →
    let m := s.mod
    let i := slot.toNat
    let x := m.ctx i
    let next := m.updCtx i fun x => { x with ovd := { x.ovd with nextCheck := m.now + x.ovd.win * 1000000 / 16 } }
    ((x.state ≠ .running ∨ m.now < x.ovd.nextCheck ∨ x.held = true) → Gives (.overdueCheck slot) s m) ∧
    (x.state = .running → x.ovd.nextCheck ≤ m.now → x.held = false →
      ((∀ w ∈ x.ovd.work, m.now ≤ w.d + x.ovd.grace * 1000) →
        (m.now < x.ovd.lastProgress + x.ovd.win * 1000000 → Gives (.overdueCheck slot) s next) ∧
        (x.ovd.lastProgress + x.ovd.win * 1000000 ≤ m.now → x.fault.cause = .none →
          ∃ q, Gives (.overdueCheck slot) s q ∧ (q.ctx i).state = .faulted ∧ (q.ctx i).fault.cause = .overdue ∧
            (q.ctx i).ovd.test = 1 ∧ (q.ctx i).ovd.lastStat = x.ovd.lastProgress)) ∧
      (∀ w, x.ovd.work = [w] → w.d + x.ovd.grace * 1000 < m.now → x.fault.cause = .none →
        ∃ q, Gives (.overdueCheck slot) s q ∧ (q.ctx i).state = .faulted ∧ (q.ctx i).fault.cause = .overdue ∧
          (q.ctx i).ovd.test = 2 ∧ (q.ctx i).fault.addr = w.at_ ∧ (q.ctx i).fault.src = srcOf w.t)) ∧
    (∀ (f : Fn) (v : Word), m.boot.lib = true → hostUp m f.val = true → x.state ≠ .free →
      (f = 0 ∨ ownsSlot m f.val i = true) → v.toNat < 2 ^ 16 →
      Gives (.ovdwinWrite f slot v) s
        (m.updCtx i fun x => { x with ovd := { x.ovd with win := Nat.max 1 (Nat.min 60000 v.toNat) } }))

/-- 03 R79, R81, R84; 18 R557: a creation that passes its checks gives a FREE slot to a CREATED context with the next
generation and the area's registers; one that fails says why; one without a FREE slot waits. -/
def Obligations.ContextCreation : Prop :=
  ∀ (f : Fn) (part : BitVec 3) (pick : BitVec 6) (s : State), s.mod.on = true → s.mod.boot.lib = true →
    let m := s.mod
    let p := part.toNat
    let asked := m.updPart p fun q => { q with area := { q.area with st := .pending, refuse := 0, by_ := f.val } }
    let run := fun (c : Instr) (m0 : Module) =>
      ((∀ i : Nat, i < 64 → (m.ctx i).state ≠ .free) → Gives c s m0) ∧
      (∀ i : Nat, i < 64 → (m.ctx i).state = .free →
        (∀ k, createCheck m0 p (m0.part p).area = some k → ∃ q, Gives c s q ∧ q.ctxs = m.ctxs ∧
          (q.part p).area.st = .refused ∧ (q.part p).area.refuse = k) ∧
        (pick.toNat = i → createCheck m0 p (m0.part p).area = none → ∃ q, Gives c s q ∧ (q.ctx i).state = .created ∧
          (q.ctx i).gen = (m.ctx i).gen + 1 ∧ (q.ctx i).part = p ∧ (q.ctx i).r = (m.part p).area.r ∧
          (q.ctx i).fault.cause = .none ∧ (q.part p).area.st = .done ∧ (q.part p).area.slot = i ∧
          (∀ j : Nat, j ≠ i → q.ctx j = m.ctx j)))
    (hostUp m f.val = true → isBound m f.val p = true → (m.part p).area.st ≠ .pending →
      run (.create f part pick) asked) ∧
    ((m.part p).area.st = .pending → run (.createProceed part pick) m)

/-- 03 R75, R85; 13 R430; 18 R558: START of a CREATED or IDLE context makes it RUNNING or, with no thread started, IDLE;
STOP, DELETE and RESET put a live context into TEARDOWN, with its threads stopped and its waiting writes gone. That a thread
starts at its entry with the two low bits cleared is the model's choice (log 154).

13 R430, 03 R81: a teardown completes once its transactions are settled and its engines have stopped: the slot is FREE
and keeps its generation, and the context's threads, groups and key are gone. -/
def Obligations.ContextCommands : Prop :=
  (∀ (f : Fn) (slot : BitVec 6) (s : State), s.mod.on = true → s.mod.boot.lib = true →
    let m := s.mod
    let i := slot.toNat
    let x := m.ctx i
    hostUp m f.val = true → isBound m f.val x.part = true → x.state ≠ .free →
    ((x.state = .created ∨ x.state = .idle) →
      (x.r.startmask = 0 → anyRunning m i = false → anyFlight m i = false →
        (∀ e ∈ m.cores, x.r.cores.getLsbD e.1 = true → coreWork e.2 = false) →
        ∃ q, Gives (.start f slot) s q ∧ (q.ctx i).state = .idle) ∧
      (∀ t : ThreadNo, x.r.cores.getLsbD (t.toNat / 256) = true → x.r.startmask.getLsbD (t.toNat % 256) = true →
        ∃ q, Gives (.start f slot) s q ∧ (q.ctx i).state = .running ∧ (q.thread t).running = true ∧
          (q.thread t).pc = BitVec.ofNat 64 (x.r.entry.toNat / 4 * 4) ∧ q.reg t 3 = 0)) ∧
    ((x.state = .running ∨ x.state = .faulted ∨ x.state = .teardown) →
      ∃ q, Gives (.start f slot) s q ∧ q.ctxs = m.ctxs ∧ q.threads = m.threads) ∧
    (x.state ≠ .teardown → ∀ e ∈ [(Instr.stop f slot, 2), (.delete f slot, 3), (.reset f slot, 4)],
      let q := startTeardown i e.2 m
      Gives e.1 s q ∧ (q.ctx i).state = .teardown ∧ (q.ctx i).tdAt = m.now ∧ (q.ctx i).tdCmd = e.2 ∧
        (q.ctx i).tdKeep = x.r.keep ∧ (q.ctx i).gen = x.gen ∧ (∀ w ∈ q.writes, w.slot ≠ i) ∧
        (∀ w ∈ q.fab.waiting, w.slot ≠ i) ∧ (∀ w ∈ q.fab.flights, w.slot = i → w.sent.isSome = true) ∧
        (∀ e ∈ q.threads, x.r.cores.getLsbD (e.1 / 256) = true → e.2.running = false ∧ e.2.load = none)) ∧
    (x.state = .teardown → ∀ c ∈ [Instr.stop f slot, .delete f slot, .reset f slot],
      ∃ q, Gives c s q ∧ q.ctxs = m.ctxs)) ∧
  (∀ (slot : BitVec 6) (s : State), s.mod.on = true → s.mod.boot.lib = true →
    let m := s.mod
    let i := slot.toNat
    let x := m.ctx i
    (∀ p : Nat, (m.part p).st ≠ .closing ∧ (m.part p).closeRec = none) → (∀ f : Nat, (m.func f).flr = none) →
    (teardownReady m i = false → Gives (.teardownComplete slot) s m) ∧
    (teardownReady m i = true → ∃ q, Gives (.teardownComplete slot) s q ∧ (q.ctx i).state = .free ∧
      (q.ctx i).gen = x.gen ∧ (∀ j : Nat, j ≠ i → q.ctx j = m.ctx j) ∧ (∀ g ∈ q.fab.groups, g.slot ≠ i) ∧
      (∀ k ∈ q.fab.jobKeys, k.1 ≠ x.r.job) ∧
      (∀ e ∈ q.threads, x.r.cores.getLsbD (e.1 / 256) = false)))

/-- 13 R426, Table 13.1; 18 Table 18.2: engine resets, what begins them and what ends them.

13 R427, Table 13.1: partition resets: what begins one, its phases, and the module reset it grows into. -/
def Obligations.EngineAndPartitionResets : Prop :=
  (∀ (core : BitVec 9) (e : Engine) (s : State), s.mod.on = true → s.mod.boot.lib = true →
    let n := core.toNat
    let m := s.mod
    let q := engineReset n e m
    (hostUp m 0 = true → Gives (.engrst 0 core (BitVec.ofNat 2 e.num)) s q) ∧
    Gives (.engineInternalCheck core e) s q ∧
    (∀ t, (m.core n).engStop.find? (fun x => x.1 == e) = some (e, t) →
      (t + 1000000 ≤ m.now → Gives (.engineStopTimeout core e) s q) ∧
      (m.now < t + 1000000 → Gives (.engineStopTimeout core e) s m)) ∧
    ((e, m.now) ∈ (q.core n).engRst ∧
      (e = .me → (q.core n).meQ = [] ∧ (q.core n).meRun = none ∧ (q.core n).cart = [] ∧ (q.core n).acc = []) ∧
      (e = .ve → (q.core n).veQ = [] ∧ (q.core n).chains = []) ∧
      (e = .te → (q.core n).teQ = [] ∧ (q.core n).teRun = [] ∧ (q.core n).tePark = [])) ∧
    (∀ i, ownerOf m n = some i → (m.ctx i).fault.cause = .none → (m.ctx i).state ≠ .free → (m.ctx i).state ≠ .teardown →
      (q.ctx i).state = .faulted ∧ (q.ctx i).fault.cause = .escalated) ∧
    ((∃ t, (e, t) ∈ (m.core n).engRst) → Gives (.engineResetDone core e) s
      (led 0x0202 sevWarn (atCore m n) [e.num, m.now]
        (m.updCore n fun k => { k with engRst := k.engRst.filter fun x => x.1 != e }))) ∧
    (∀ t, (m.core n).engRst.find? (fun x => x.1 == e) = some (e, t) →
      (t + 5000000 ≤ m.now → Gives (.engineResetTimeout core e) s (partReset (partOfCore m n) 0 m)) ∧
      (m.now < t + 5000000 → Gives (.engineResetTimeout core e) s m))) ∧
  (∀ (part : BitVec 3) (s : State), s.mod.on = true → s.mod.boot.lib = true →
    let p := part.toNat
    let m := s.mod
    (isPart m p = true → (m.part p).rst = 0 →
      (∀ f : Fn, hostUp m f.val = true → (f = 0 ∨ isBound m f.val p = true) →
        Gives (.partrst f part) s (partReset p 3 m)) ∧
      Gives (.uncorrectableControlError part) s (partReset p 1 m) ∧
      (∀ k : Nat, let q := partReset p k m
        (q.part p).rst = 1 ∧ (q.part p).rstAt = m.now ∧ (q.part p).rstTrig = k ∧
          ∀ i : Nat, (m.ctx i).state ≠ .free → (m.ctx i).part = p → (q.ctx i).state = .teardown)) ∧
    ((∀ k : Nat, (m.part k).st ≠ .closing ∧ (m.part k).closeRec = none) → (∀ f : Nat, (m.func f).flr = none) →
      (m.part p).rst = 1 → (∀ i : Nat, anyFlight m i = false) →
      ∃ q, Gives (.partitionResetIslands part) s q ∧ (q.part p).rst = 3 ∧
        (∀ i : Nat, (m.ctx i).part = p → (q.ctx i).state = .free) ∧
        (∀ c : Nat, c < 512 → partOfCore m c = p → q.core c = CoreSt.init)) ∧
    ((m.part p).rst = 3 → Gives (.partitionReady part) s
      (led 0x0203 sevWarn (atPart p) [Config.ledgerNo 0x0203 (m.part p).rstTrig, m.now] (m.updPart p fun q => { q with rst := 0 }))) ∧
    ((m.part p).rst ≠ 0 →
      ((m.part p).rstAt + 40000000 ≤ m.now → Gives (.partitionResetTimeout part) s (moduleReset 0 m)) ∧
      (m.now < (m.part p).rstAt + 40000000 → Gives (.partitionResetTimeout part) s m)))

/-- 13 R428; 17 R538, R539: what begins a module reset, how the pins hold it, and how it ends.

13 R428: what a module reset leaves: no thread, context, transaction or byte of memory; ports DOWN, the stamp and the
catalogue afresh; the image store is kept. -/
def Obligations.ModuleResets : Prop :=
  (∀ (s : State), let m := s.mod
    (m.on = true →
      (m.boot.lib = true →
        (hostUp m 0 = true → Gives (.modrst 0) s (moduleReset 3 m)) ∧ Gives .librarianWatchdog s (moduleReset 1 m)) ∧
      (∀ pd1 : Bool, Gives (.portDieUncorrectableError pd1) s (moduleReset 2 m))) ∧
    (m.boot.rails = true →
      Gives .rstNAssert s (moduleReset 4 { m with boot := { m.boot with rstN := false } }) ∧
      (moduleReset 4 { m with boot := { m.boot with rstN := false } }).on = false ∧
      Gives .refclkLoss s (moduleReset 5 { m with boot := { m.boot with refclk := false } }) ∧
      (moduleReset 5 { m with boot := { m.boot with refclk := false } }).on = false) ∧
    (m.boot.rails = true → m.boot.inReset = true → m.boot.store = [] →
      (m.boot.refclk = true → Gives .rstNRelease s
        { m with boot := { m.boot with rstN := true, inReset := false, st := .window } }) ∧
      (m.boot.rstN = true → Gives .refclkReturn s
        { m with boot := { m.boot with refclk := true, inReset := false, st := .window } }))) ∧
  (∀ (k : Nat) (m : Module), let q := moduleReset k m
    q.threads = [] ∧ q.cores = [] ∧ q.ctxs = [] ∧ q.mem = [] ∧ q.valid = [] ∧ q.fab = Fab.init ∧
    (∀ n : Nat, (q.port n).st = .down) ∧ q.time = Time.init ∧ q.lease.st = .none ∧
    q.lease.resets = m.lease.resets + 1 ∧ q.pm.cap = 6000 ∧ q.cat = Cat.init ∧ q.boot.ready = false ∧
    q.boot.store = m.boot.store ∧ q.boot.rails = m.boot.rails)

/-- 17 R533 to R535, R538: the power entry. Rails start with PWR_EN and PWR_GOOD; PWR_EN low, the loss of 72 V and a thermal
trip open them, and image and ledger are lost; below 66 V the spec calls behaviour undefined. -/
def Obligations.PowerEntry : Prop :=
  ∀ (s : State), let m := s.mod
    let gone := fun (q : Module) => q.boot.rails = false ∧ q.boot.store = [] ∧ q.ledger.entries = [] ∧ q.ctxs = [] ∧ q.mem = []
    (m.boot.rails = false → s.meter.powered = true →
      (∃ q, Gives (.pwrEnAssert true) s q ∧ q.boot.rails = true ∧ q.boot.trip = false) ∧
      Gives (.pwrEnAssert false) s { m with boot := { m.boot with pwrEn := true, pwrGood := false } }) ∧
    (m.boot.rails = true →
      (∃ q, Gives .pwrEnDeassert s q ∧ gone q ∧ q.boot.pwrEn = false) ∧
      (∀ x : Sensor, ∃ q, Gives (.thermalTrip x) s q ∧ gone q ∧ q.boot.trip = true) ∧
      (∃ q, exec .powerLoss s = .next { s with mod := q, meter := { s.meter with powered := false }, toMeter := [], fromMeter := [] } ∧
        gone q)) ∧
    (∃ t, exec .supplySag s = .next t ∧ t.mod.boot.rails = m.boot.rails ∧
      (m.boot.rails = false → t.mod = { m with draw := m.draw + 9 }) ∧
      (s.meter.powered = false → t.meter = s.meter) ∧
      { t.meter with entry := s.meter.entry, dies := s.meter.dies } = s.meter ∧
      t = { s with mod := t.mod, meter := t.meter })

/-- 13 R433, R434; 17 R522, R523, R530: Function Level Resets, the disabling of functions and its backstop, SR-IOV, D3hot
and PERST#. A refused NumVFs writes the entry of 17 R547 (0x0901). -/
def Obligations.FunctionResets : Prop :=
  ∀ (f : Fn) (s : State), s.mod.on = true →
    let m := s.mod
    let k := f.val
    let drained := fun (ps : Nat → Prop) (q : Module) =>
      ∀ i : Nat, (m.ctx i).state ≠ .free → ps (m.ctx i).part → (q.ctx i).state = .teardown
    (m.boot.perstN = true → hasFn m k = true →
      Gives (.flr f) s (flr k m) ∧ (f ≠ 0 → Gives (.vfDisable f) s (flr k m)) ∧
      ∀ b : Bool, Gives (.d3hotTransition f b) s (m.updFunc k fun x => { x with d3hot := b })) ∧
    (m.boot.perstN = false ∨ hasFn m k = false →
      Gives (.flr f) s m ∧ Gives (.vfDisable f) s m ∧ ∀ b : Bool, Gives (.d3hotTransition f b) s m) ∧
    Gives (.vfDisable 0) s m ∧
    ((m.func k).flr.isSome = true → flr k m = m) ∧
    ((m.func k).flr = none →
      ((∀ p ∈ flrParts m k, hasCtx m p = false) →
        (flr k m).func k = { Func.init with ide := (m.func k).ide } ∧ (flr k m).ctxs = m.ctxs) ∧
      ((∃ p ∈ flrParts m k, hasCtx m p = true) →
        ((flr k m).func k).flr = some m.now ∧ drained (fun p => p ∈ flrParts m k) (flr k m))) ∧
    (m.boot.lib = true → ∀ n : BitVec 4,
      (m.boot.perstN = true → m.boot.ready = true → n.toNat ≤ 8 →
        Gives (.sriovEnable n) s (if catOn m 1
          then { m with boot := { m.boot with numvfs := n.toNat, sriovOff := none } }
          else led 0x0901 sevWarn atModule [0, 1, 0] m)) ∧
      (m.boot.perstN = false ∨ m.boot.ready = false ∨ 8 < n.toNat → Gives (.sriovEnable n) s m)) ∧
    (m.boot.perstN = true → Gives .sriovDisable s (sriovDisable m)) ∧
    (m.boot.perstN = false → Gives .sriovDisable s m) ∧
    (m.boot.numvfs = 0 → sriovDisable m = m) ∧
    (m.boot.numvfs ≠ 0 → (sriovDisable m).boot.numvfs = 0 ∧ (sriovDisable m).boot.sriovOff = some m.now ∧
      (∀ n : Nat, 1 ≤ n → n ≤ 8 → (sriovDisable m).func n = Func.init) ∧ drained (fun p => p < 8) (sriovDisable m)) ∧
    (m.boot.lib = true →
      (drainingSince m k = none → Gives (.flrBackstop f) s m) ∧
      ∀ t : Nat, drainingSince m k = some t →
        (m.now < t + 90000000 → Gives (.flrBackstop f) s m) ∧
        (t + 90000000 ≤ m.now →
          let q := each ((flrParts m k).filter fun p => hasCtx m p) (fun p => partReset p 2) m
          Gives (.flrBackstop f) s
            (if (q.func k).flr.isNone then { q with boot := { q.boot with sriovOff := none } } else q) ∧
          ∀ p ∈ flrParts m k, hasCtx m p = true → (m.part p).rst = 0 → (q.part p).rst = 1)) ∧
    (∃ q, Gives .perstAssert s q ∧ q.boot.perstN = false ∧ q.boot.numvfs = 0 ∧ q.boot.store = m.boot.store ∧
      q.time = m.time ∧ q.tt = m.tt ∧ (∀ p : Nat, (q.part p).st = (m.part p).st) ∧
      (∀ n : Nat, n ≤ 8 → (q.func n).ide = false ∧ (q.func n).queues = []) ∧
      ((m.func 0).flr = none → drained (fun p => p ∈ flrParts m 0) q)) ∧
    ∀ u : State,
      (u.mod.on = false → Gives .perstAssert u { u.mod with boot := { u.mod.boot with perstN := false } }) ∧
      (u.mod.boot.perstN = true → Gives .perstDeassert u u.mod) ∧
      (u.mod.boot.perstN = false →
        Gives .perstDeassert u (linkUp { u.mod with boot := { u.mod.boot with perstN := true } }))

/-- 13 R438 to R442: renewals, the lease, lapse notices and the declaration that a peer is dead. -/
def Obligations.LeaseAndPeers : Prop :=
  ∀ (s : State), s.mod.on = true →
    let m := s.mod
    let l := m.lease
    let fences := fun (c : Instr) => ∃ t, exec c s = .next t ∧ t.mod.lease.st = .fenced ∧ t.mod.fab.jobKeys = [] ∧
      t.mod.bms = [] ∧ (∀ n : Nat, n < 10 → (t.mod.port n).st = .fencing ∧ (t.mod.port n).oq = []) ∧
      (∀ i : Nat, (m.ctx i).state ≠ .free → (t.mod.ctx i).state = .teardown)
    (m.boot.lib = true → m.boot.spdm = true →
      (l.st ≠ .fenced → (l.seq = 0 ∨ l.last + 50000000 ≤ m.now) → Gives .renewalSend s
        { m with lease := { l with seq := l.seq + 1, last := m.now, sent := l.sent ++ [(l.seq + 1, m.now)] },
                 out := { m.out with tray := m.out.tray ++ [.renew (l.seq + 1) (BitVec.ofNat 16 m.num) l.inc m.now] } }) ∧
      (∀ n t : Nat, l.sent.find? (fun e => e.1 == n) = some (n, t) → l.st ≠ .fenced →
        Gives (.renewalAccept n) s
          { m with lease := { l with st := .held, s := Nat.max l.s t, sent := l.sent.filter fun x => x.1 != n },
                   boot := { m.boot with renewed := true } } ∧
        fences (.renewalRefuse n)) ∧
      (∀ (a : BitVec 16) (b : BitVec 32) (t : Nat), Gives (.lapseNotice a b t) s
        { m with lease := { l with
            notices := (l.notices.filter fun n => !(n.1 == a && n.2.1 == b)) ++ [(a, b, t)] } })) ∧
    (l.st = .held → l.s + 150000000 ≤ m.now → fences .leaseExpiry) ∧
    (m.boot.lib = true → ∀ (a : BitVec 16) (b : BitVec 32) (t : Nat), (∃ g ∈ m.fab.groups, a ∈ g.members) →
      l.notices = [(a, b, t)] →
      (m.now < t + 300000000 → Gives (.peerDeadDeclare a) s m) ∧
      (t + 300000000 ≤ m.now → (a, b) ∉ l.dead → ∃ q, Gives (.peerDeadDeclare a) s q ∧ (a, b) ∈ q.lease.dead ∧
        q.lease.lastDead = a ∧ q.lease.deadCount = Nat.min (2 ^ 32 - 1) (l.deadCount + 1)))

/-- 15 R488, R489, R491: opening a loan: the record that is sent, the answers of the meter, and its silence. -/
def Obligations.LoanOpening : Prop :=
  ∀ (part : BitVec 3) (s : State), s.mod.on = true → s.mod.boot.lib = true → isPart s.mod part.toNat = true →
    let p := part.toNat
    let m := s.mod
    (hostUp m 0 = true → m.boot.ready = true → m.boot.identity = true → (m.part p).st = .closed →
      ∃ t r, exec (.loanOpen 0 part 0 false) s = .next t ∧ (t.mod.part p).st = .opening ∧
        (t.mod.part p).openRec = some r ∧ t.toMeter = s.toMeter ++ [.record r] ∧ t.meter = s.meter ∧ r.isOpen = true ∧
        r.loanid = (m.part p).loanid ∧ r.tenant = (m.part p).tenant ∧ r.part = part ∧ r.dies = diesMask m p ∧
        r.stamp = m.now ∧ (t.mod.part p).openAt = m.now) ∧
    (∀ (c : Cosigned) (q : List MAnswer), s.fromMeter = .cosigned c :: q → c.lr.isOpen = true →
      openingOf m c.lr = some p → m.lease.st ≠ .fenced → (m.part p).closeReq = false →
      (∀ k : Nat, (m.part k).closeRec = none) →
      ∃ t, exec .meterOpenAnswer s = .next t ∧ t.fromMeter = q ∧ t.toMeter = s.toMeter ∧ (t.mod.part p).st = .open_ ∧
        (t.mod.part p).loanrec = some c ∧ (t.mod.part p).keyNo = some m.att.transport ∧
        t.mod.att.transport = m.att.transport + 1) ∧
    (∀ (r : LoanRec) (k : Nat) (q : List MAnswer), s.fromMeter = .refused r k :: q → r.isOpen = true →
      openingOf m r = some p →
      ∃ t, exec .meterOpenAnswer s = .next t ∧ t.fromMeter = q ∧ (t.mod.part p).st = .closed ∧
        (t.mod.part p).refuse = 2 ∧ (t.mod.part p).metercode = k ∧ (t.mod.part p).openRec = none) ∧
    (∀ r : LoanRec, (m.part p).openRec = some r → (m.part p).st = .opening →
      m.now < (m.part p).openAt + 100000000 → (∀ k : Nat, (m.part k).closeRec = none) →
      Gives (.meterTimeout part) s m) ∧
    (∀ r : LoanRec, (m.part p).openRec = some r → (m.part p).st = .opening →
      (m.part p).openAt + 100000000 ≤ m.now →
      ∃ t c, exec (.meterTimeout part) s = .next t ∧ (t.mod.part p).st = .closing ∧ (t.mod.part p).refuse = 1 ∧
        (t.mod.part p).closeRec = some c ∧ c.isOpen = false ∧ c.cause = 4 ∧ c.loanid = r.loanid ∧
        .record c ∈ t.toMeter)

/-- 15 R484 to R486, R490 to R492: closing a loan, and the partition layout and binding. -/
def Obligations.LoanClosing : Prop :=
  ∀ (part : BitVec 3) (s : State), s.mod.on = true → s.mod.boot.lib = true → isPart s.mod part.toNat = true →
    let p := part.toNat
    let m := s.mod
    (hostUp m 0 = true → (m.part p).st = .open_ →
      ∃ t, exec (.loanClose 0 part) s = .next t ∧ (t.mod.part p).st = .closing ∧ (t.mod.part p).closecause = 0 ∧
        ∀ i : Nat, (m.ctx i).state ≠ .free → (m.ctx i).part = p → (t.mod.ctx i).state = .teardown) ∧
    (∀ (c : Cosigned) (r : LoanRec) (q : List MAnswer), s.fromMeter = .cosigned c :: q → c.lr.isOpen = false →
      c.lr.part = part → (m.part p).closeRec = some r → r.loanid = c.lr.loanid → (m.part p).st = .closing →
      ∃ t, exec .meterCloseCosign s = .next t ∧ t.fromMeter = q ∧ (t.mod.part p).st = .closed ∧
        (t.mod.part p).loanrec = some c ∧ (t.mod.part p).closeRec = none ∧ (t.mod.part p).secure = false) ∧
    (∀ r : LoanRec, (m.part p).closeRec = some r → (m.part p).closeSent ≠ 0 →
      (m.part p).closeSent + 100000000 ≤ m.now + 1 →
      ∃ t, exec (.closeResend part) s = .next t ∧ .record r ∈ t.toMeter ∧ (t.mod.part p).closeSent = m.now + 1) ∧
    (∀ r : LoanRec, (m.part p).closeRec = some r →
      (m.part p).closeAt + ((m.part p).closeLogged + 1) * 1000000000 ≤ m.now →
      Gives (.closeDelayLedger part) s
        (led 0x0805 sevWarn (atPart p) [r.loanid.toNat, (m.part p).closeLogged + 1]
          (m.updPart p fun q => { q with closeLogged := q.closeLogged + 1 }))) ∧
    (m.boot.restartClose = true →
      (s.fromMeter = [] → .list ∉ s.toMeter →
        exec .restartLoanClose s = .next { s with toMeter := s.toMeter ++ [.list] }) ∧
      (∀ (c : Cosigned) (q : List MAnswer), s.fromMeter = .list [c] :: q →
        ∃ t r, exec .restartLoanClose s = .next t ∧ t.mod.boot.restartClose = false ∧ t.fromMeter = q ∧
          .record r ∈ t.toMeter ∧ r.isOpen = false ∧ r.loanid = c.lr.loanid ∧ r.dies = c.lr.dies)) ∧
    (∀ v : BitVec 24, hostUp m 0 = true → layoutOk v = true →
      (∀ k ∈ changedParts m v, (m.part k).st = .closed ∧ hasCtx m k = false) →
      ∃ q, Gives (.partlayoutWrite 0 v) s q ∧ q.layout = v ∧ q.ctxs = m.ctxs) ∧
    (∀ v : BitVec 4, hostUp m 0 = true → (m.part p).st = .closed → (v = 0 ∨ v = 15) →
      Gives (.partbindWrite 0 part v) s (m.updPart p fun q => { q with bind := v }))

/-- 16 R503, R505, R506, R513, R515 to R520: the meter's measurement, its clock, its commits and its port.

16 R516, 17 R529: a function's meter request and its answer. -/
def Obligations.MeterCommands : Prop :=
  (∀ (s : State), s.meter.powered = true →
    let x := s.meter
    let does := fun (c : Instr) (y : Meter) => exec c s = .next { s with meter := y }
    let tell := fun (y : Meter) (r : MReply) => { y with replies := y.replies ++ [r] }
    (∀ (e : Nat) (d : List Nat), does (.meterSample e d)
      { x with entry := e, dies := d, accEntry := x.accEntry + e,
               accDies := (upTo 8).map fun i => x.accDies.getD i 0 + d.getD i 0 }) ∧
    does .meterCommit x.commit ∧
    does .readId (tell x (.id Config.meterId Config.lrVer Config.lrDigest Config.meterPub)) ∧
    (∀ n : Nat, does (.readLog n) (tell x (.log (x.log.find? fun c => c.mseq == n)))) ∧
    (∀ n : Nat, does (.ackLog n) (tell { x with log := x.log.filter fun c => decide (n < c.mseq) } .ok)) ∧
    (∀ i : Nat, does (.readEvents i) (tell x (.event x.events[i]?))) ∧
    (∃ y d, does .readSnapshot (tell y (.snap (.snapshot d))) ∧ d.mseq = x.mseq + 1 ∧ y.mseq = x.mseq + 1 ∧
      d.total = ((x.newest.map (·.total)).getD 0) / 8000 ∧ d.tampered = (x.newest.map (·.tampered)).getD false ∧
      d.loans.length = ((x.newest.map (·.loans.length)).getD 0)) ∧
    (x.events.length < 1024 →
      (∀ (k : BitVec 256) (a : Byte),
        (x.loans = [] → does (.pair true k a)
          (tell { x with paired := true, idpub := k, address := a, events := x.events ++ [.paired] } .ok)) ∧
        (x.loans ≠ [] → does (.pair true k a) (tell x .refused)) ∧ does (.pair false k a) (tell x .refused)) ∧
      (∀ t : Nat,
        let y := { x with events := x.events ++ [.timeSet] }
        let moved := (t - x.mtime) + (x.mtime - t)
        let recent := x.sets.filter fun e => decide (x.ticks < e.1 + 3600000)
        (x.firstSet = false → ((x.newest.map (·.mtime)).getD 0 ≤ t →
            does (.setTime t) (tell { y with mtime := t, unsynced := false, firstSet := true } .ok)) ∧
          (t < (x.newest.map (·.mtime)).getD 0 → does (.setTime t) (tell y .refused))) ∧
        (x.firstSet = true →
          ((recent.map (·.2)).sum + moved ≤ 1000 →
            does (.setTime t) (tell { y with mtime := t, sets := recent ++ [(x.ticks, moved)] } .ok)) ∧
          (1000 < (recent.map (·.2)).sum + moved → does (.setTime t) (tell y .refused)))) ∧
      (∃ y, does .caseSwitchOpen y ∧ y.tampered = true ∧ (y.newest.map (·.tampered)) = some true ∧
        y.events = x.events ++ [.tamper])) ∧
    (∀ u : State, u.meter.powered = false →
      ∃ y, exec .meterPowerUp u = .next { u with meter := y, toMeter := [], fromMeter := [] } ∧ y.powered = true ∧
        y.unsynced = true ∧ y.mtime = (u.meter.newest.map (·.mtime)).getD 0 ∧ (∀ l ∈ y.loans, l.suspended = true))) ∧
  (∀ (f : Fn) (s : State), s.mod.on = true → s.mod.boot.lib = true →
    let m := s.mod
    let ask := fun (r : Nat × Nat) => m.updFunc f.val fun x => { x with mtrReq := some r }
    (hostUp m f.val = true → seesFn m f = true →
      Gives (.mtrSnapshot f) s (ask (1, 0)) ∧
      (∀ n : BitVec 32, (f = 0 → Gives (.mtrLogEntry f n) s (ask (2, n.toNat))) ∧
        (f ≠ 0 → ∃ q, Gives (.mtrLogEntry f n) s q ∧ q.funs = m.funs))) ∧
    (s.meter.powered = true →
      (∀ n : Nat, (m.func f.val).mtrReq = some (2, n) → Gives (.mtrAnswerReady f) s
        (irq f.val 2 (m.updFunc f.val fun x =>
          { x with mtrReq := none, mtrdata := .logEntry (s.meter.log.find? fun c => c.mseq == n) }))) ∧
      (∀ n : Nat, (m.func f.val).mtrReq = some (1, n) → ∃ y d, exec (.mtrAnswerReady f) s =
          .next { s with meter := y, mod := irq f.val 2 (m.updFunc f.val fun x =>
            { x with mtrReq := none, mtrdata := .snapshot d }) } ∧
        d.mseq = s.meter.mseq + 1 ∧ (f ≠ 0 → d.total = 0 ∧ ∀ l ∈ d.loans, l.part.toNat = (partOfFn m f.val).getD 8))))

/-- 16 R505: apportioning adds all measured energy to the total, a die's own and an eighth of the common energy for each of
its dies to an open loan, and the rest to no loan; nothing is lost. -/
def Obligations.EnergyIsConserved : Prop :=
  ∀ (s : State), s.meter.powered = true → s.meter.accDies.length = 8 →
    let x := s.meter
    ∃ y, exec .meterApportion s = .next { s with meter := y } ∧ y.total = x.total + 8 * x.accEntry ∧
      y.accEntry = 0 ∧ y.accDies = List.replicate 8 0 ∧ y.loans.length = x.loans.length ∧
      (∀ (i : Nat) (a b : MLoan), x.loans[i]? = some a → y.loans[i]? = some b →
        b.energy = a.energy + (if a.suspended then 0 else
          (((List.range 8).filter fun k => a.co.lr.dies.getLsbD k).map fun k =>
            8 * x.accDies.getD k 0 + (x.accEntry - x.accDies.sum)).sum)) ∧
      (LoansOk x.loans → x.accDies.sum ≤ x.accEntry →
        (y.loans.map (·.energy)).sum + y.unattr = (x.loans.map (·.energy)).sum + x.unattr + 8 * x.accEntry)

/-- 16 R508 to R511: the meter's handling of the loan records that the Librarian sends. -/
def Obligations.MeterLoanRecords : Prop :=
  ∀ (s : State), s.meter.powered = true → s.meter.queue = [] →
    let x := s.meter
    (∀ (r : LoanRec), s.toMeter = [.record r] →
      (r.isOpen = true →
        (∀ k, Meter.refuseOpen x r = some k → exec .meterOpenRecord s =
          .next { s with toMeter := [], fromMeter := s.fromMeter ++ [.refused r k] }) ∧
        (Meter.refuseOpen x r = none → ∃ y c, exec .meterOpenRecord s =
            .next { s with meter := y, toMeter := [], fromMeter := s.fromMeter ++ [.cosigned c] } ∧
          c.lr = r ∧ c.mseq = x.mseq + 1 ∧ y.mseq = x.mseq + 1 ∧ c.mtime = x.mtime ∧
          y.loans.length = x.loans.length + 1 ∧ r.loanid ∈ y.opened ∧ (y.newest.map (·.loans)) = some y.loans)) ∧
      (r.isOpen = false →
        (∀ k, Meter.refuseAny x r = some k → exec .meterCloseRecord s =
          .next { s with toMeter := [], fromMeter := s.fromMeter ++ [.refused r k] }) ∧
        (Meter.refuseAny x r = none → ∃ y c, exec .meterCloseRecord s =
            .next { s with meter := y, toMeter := [], fromMeter := s.fromMeter ++ [.cosigned c] } ∧
          ((∃ l ∈ x.loans, l.co.lr.loanid = r.loanid) → c.lr = r ∧ c.mseq = x.mseq + 1 ∧ c.notopen = false ∧
            (∀ l ∈ y.loans, l.co.lr.loanid ≠ r.loanid) ∧ c ∈ y.log) ∧
          ((∀ l ∈ x.loans, l.co.lr.loanid ≠ r.loanid) → (∀ d ∈ x.closed, d.lr.loanid ≠ r.loanid) →
            c.notopen = true ∧ c.energy = 0)))) ∧
    (s.toMeter = [.list] → exec .meterListOpen s =
      .next { s with toMeter := [], fromMeter := s.fromMeter ++ [.list (x.loans.map (·.co))] }) ∧
    (∀ (u : State) (r : LoanRec), u.meter.powered = true → u.meter.queue.length = 8 → u.toMeter = [.record r] →
      exec .meterRecordDrop u = .next { u with toMeter := [] })

/-- 08 R262 to R264, R276; 15 R498, R499: patrol scrub, retirement of a channel, and the KV windows.

15 R493; 17 R525, R543: the BAR4 window, and the image store's window before the Librarian runs. -/
def Obligations.MemoryAndBar4 : Prop :=
  (∀ (s : State), s.mod.on = true → s.mod.boot.lib = true →
    let m := s.mod
    (∀ (die : BitVec 3) (st : BitVec 2),
      let k := 4 * die.toNat + st.toNat
      let pos := (m.stripe k).scrub
      let g := k / 4 * 2 ^ 33 + 4 * pos + k % 4
      Gives (.patrolScrub die st) s
        ((readGran g 1 m).updStripe k fun x => { x with scrub := (pos + 1) % (4394531 * 64) }) ∧
      (hiddenGran g = false →
        (dieHasLoan m (dieOfGran g) = false → readGran g 1 m = m) ∧
        (Sparse.get 0 m.sramErr (sumPa g / 8) = 0 → NatSet.has m.valid g = false → readGran g 1 m = m)) ∧
      (∀ ch : BitVec 4, ch.toNat < 10 → hostUp m 0 = true →
        ((m.stripe k).retired = none → ∃ q, Gives (.memretRetire 0 die st ch) s q ∧ (q.stripe k).retired = some ch.toNat) ∧
        (∀ r, (m.stripe k).retired = some r → r ≠ ch.toNat → ∃ q, Gives (.memretRetire 0 die st ch) s q ∧
          (q.stripe k).retired = some r ∧ (q.stripe k).degraded = true ∧ (q.stripe k).second = ch.toNat))) ∧
    (∀ g : Nat, (hiddenGran g = true ∨ (dieHasLoan m (dieOfGran g) = true ∧ m.sumLost g = false ∧
        Sparse.get 0 m.sramErr (sumPa g / 8) = 0 ∧ NatSet.has m.valid g = true)) → NatSet.has m.bad g = false →
      decodeGran (m.stripe (stripeOf g)).retired (errsOf m g) = .lost →
      NatSet.has (readGran g 0 m).bad g = true ∧
        ((readGran g 0 m).stripe (stripeOf g)).memue = Nat.min (2 ^ 32 - 1) ((m.stripe (stripeOf g)).memue + 1)) ∧
    (∀ (f : Option Fn) (slot : BitVec 6) (c : CtrNo) (fr : BitVec 28), reaches m f = true →
      seesCtx m f slot.toNat = true → (m.ctx slot.toNat).state ≠ .free → catOn m 13 = true →
      frameOk m (m.ctx slot.toNat).part fr.toNat = true →
      Gives (.kvfree f slot c fr) s (addCtr slot.toNat c 1 (clearFrame fr.toNat m))) ∧
    (∀ (f : Fn) (slot : BitVec 6) (w : BitVec 2) (v : Word), hostUp m f.val = true →
      seesCtx m (some f) slot.toNat = true → (m.ctx slot.toNat).state ≠ .free → catOn m 13 = true →
      (m.part (m.ctx slot.toNat).part).role = 1 → v.toNat < 2 ^ 44 →
      let put := fun (g : Kv → Kv) => m.updCtx slot.toNat fun x =>
        { x with kv := Sparse.upd { base := 0, len := 0, table := 0 } x.kv w.toNat g }
      Gives (.kvwinWrite f slot w 0 v) s (put fun k => { k with base := v.toNat / 65536 * 65536 }) ∧
      Gives (.kvwinWrite f slot w 1 v) s (put fun k => { k with len := v.toNat / 65536 * 65536 }) ∧
      Gives (.kvwinWrite f slot w 2 v) s (put fun k => { k with table := v }))) ∧
  (∀ (f : Fn) (off : BitVec 36) (n : Nat) (d : List Byte) (ep ide : Bool) (s : State), s.mod.on = true →
    s.mod.boot.perstN = true →
    let m := s.mod
    let ur := hostOut (.unsupported f.val) m
    (m.boot.lib = true → hostUp m f.val = true → ideRefused m f ide = false →
      (bar4Bytes m f off.toNat n = none → Gives (.bar4Read f off n ide) s ur) ∧
      (∀ pas, bar4Bytes m f off.toNat n = some pas →
        let r := readPas pas m
        (anyBad r.2 = false → Gives (.bar4Read f off n ide) s (hostOut (.data f.val (r.2.map (·.1)) false) r.1)) ∧
        (anyBad r.2 = true → Gives (.bar4Read f off n ide) s
          (hostOut (.aer f.val false) (hostOut (.data f.val [] true) r.1)))) ∧
      (bar4Bytes m f off.toNat d.length = none → Gives (.bar4Write f off d ep ide) s ur) ∧
      (∀ pas, bar4Bytes m f off.toNat d.length = some pas →
        (ep = true → Gives (.bar4Write f off d ep ide) s
          (led 0x0904 sevWarn atModule [f.val, off.toNat] (hostOut (.aer f.val true) m))) ∧
        (ep = false → writeAct m none none (pas.zip d) = none →
          Gives (.bar4Write f off d ep ide) s (putPas f.val (pas.zip d) false m)) ∧
        (ep = false → (writeAct m none none (pas.zip d)).isSome = true →
          Gives (.bar4Write f off d ep ide) s (undefFn f.val (putPas f.val (pas.zip d) false m))))) ∧
    (m.boot.lib = true → hostUp m f.val = true → ideRefused m f ide = true →
      Gives (.bar4Read f off n ide) s ur ∧ Gives (.bar4Write f off d ep ide) s ur) ∧
    (m.boot.lib = false →
      (f = 0 → off.toNat + n ≤ 2 ^ 26 → Gives (.bar4Read f off n ide) s
        (hostOut (.data f.val ((upTo n).map fun i => Sparse.get 0 m.boot.store (off.toNat + i)) false) m)) ∧
      (f = 0 → off.toNat + d.length ≤ 2 ^ 26 → ep = false → m.boot.st = .window →
        ∃ q, Gives (.bar4Write f off d ep ide) s q ∧
          ∀ i : Nat, i < d.length → Sparse.get 0 q.boot.store (off.toNat + i) = d.getD i 0)))

/-- 13 R445; 14 R450 to R458, R460, R463, R470, R472, R483: bookmarks, their copies, deposits, fills, collation and shadows.
COW_COPY_DONE ends one wait; a copy takes a frame of the pool, and an empty pool makes the bookmark LOST. -/
def Obligations.BookmarksAndDeposits : Prop :=
  ∀ (f : Fn) (slot : BitVec 6) (s : State), s.mod.on = true → s.mod.boot.lib = true → hostUp s.mod f.val = true →
    let m := s.mod
    let i := slot.toNat
    let x := m.ctx i
    (∀ w ∈ [none, some f], seesCtx m w i = true → x.state ≠ .free → catOn m 9 = true → ∀ n : BitVec 32,
      (x.sched.mode = 0 → Gives (.bmtake w slot n) s (takeBookmark i n.toNat (shadowBoundary i m))) ∧
      (x.sched.mode ≠ 0 → Gives (.bmtake w slot n) s (ctxRefused w i offBmtake n.toNat m))) ∧
    (bmOf m x.r.job = none → x.dep.k = 0 → ∀ n : Nat, ∃ b ∈ (takeBookmark i n (shadowBoundary i m)).bms,
      b.job = x.r.job ∧ b.step = n ∧ b.copies = [] ∧ b.lost = false ∧ b.rsv = x.rsv ∧ b.tensors = x.tensors ∧
      b.sched = x.sched ∧ b.stepnum = x.stepnum ∧ b.ctrs = x.ctrs) ∧
    (∀ k : Nat, m.cows[k]? = none → Gives (.cowCopyDone k) s m) ∧
    (∀ (k : Nat) (w : CowWait), m.cows[k]? = some w →
      let p := { m with cows := m.cows.eraseIdx k }
      Gives (.cowCopyDone k) s (copyPage w.slot w.vpn p) ∧
      ∀ (b : Bookmark) (e : Nat × Nat), bmOf p (p.ctx w.slot).r.job = some b → leafOf w.slot w.vpn p = some e →
        b.lost = false →
        let r := popPool w.slot p
        (r.2 = none → copyPage w.slot w.vpn p = uncow w.slot w.vpn (loseBm w.slot b r.1)) ∧
        (∀ fr : Nat, r.2 = some fr → copyPage w.slot w.vpn p = uncow w.slot w.vpn
          (updBm b.job (fun b => { b with copies := b.copies ++ [(w.vpn, fr)] }) (copyFrame (pteFrame e.2) fr r.1)))) ∧
    (∀ n : BitVec 32, seesCtx m (some f) i = true → catOn m 9 = true → x.state = .created →
      let caused := fun (c : Nat) => m.updCtx i fun y => { y with bm := { y.bm with cause := c } }
      (bmOf m x.r.job = none → Gives (.bmrestore f slot n) s (caused 3)) ∧
      (∀ b, bmOf m x.r.job = some b → b.ptbase ≠ x.r.ptbase →
        Gives (.bmrestore f slot n) s (ctxRefused (some f) i offBmrestore n.toNat m)) ∧
      (∀ b, bmOf m x.r.job = some b → b.ptbase = x.r.ptbase →
        (b.lost = true → Gives (.bmrestore f slot n) s (caused 1)) ∧
        (b.lost = false → b.mixed = true → Gives (.bmrestore f slot n) s (caused 2)) ∧
        (b.lost = false → b.mixed = false → b.step ≠ n.toNat → Gives (.bmrestore f slot n) s (caused 4)) ∧
        (b.lost = false → b.mixed = false → b.step = n.toNat →
          Gives (.bmrestore f slot n) s (restoreBm i b (caused 0)) ∧
          (let q := restoreBm i b (caused 0)
           (q.ctx i).stepnum = b.stepnum ∧ (q.ctx i).ctrs = b.ctrs ∧
            (b.regions = [] → b.copies = [] → (q.ctx i).bm.cause = 0 ∧ (q.ctx i).state = .created))))) ∧
    (∀ (p : BitVec 3) (a b : BitVec 16), isBound m f.val p.toNat = true →
      let set := fun (q : Part → Part) => m.updPart p.toNat q
      (catOn m 10 = true →
        Gives (.depholdWrite f p a b 0 0) s (set fun q => { q with depmod := 0, depjob := 0, depFirst := 0, depCount := 0 }) ∧
        ∀ n c : BitVec 28, c ≠ 0 → c.toNat % 2 = 0 →
          (∀ j : Nat, j < c.toNat → softFrame (n.toNat + j) = true ∧ partOfDie m (dieOfFrame (n.toNat + j)) = p.toNat) →
          Gives (.depholdWrite f p a b n c) s
            (set fun q => { q with depmod := a, depjob := b, depFirst := n.toNat, depCount := c.toNat })) ∧
      (∀ n c : BitVec 28, c.toNat % 2 = 1 →
        Gives (.depholdWrite f p a b n c) s (refused (some f) (atPart p.toNat) (partOff p.toNat 0x48) c.toNat m)) ∧
      (∀ n : BitVec 32, Gives (.fillcmd f p a b 3 n) s
        (refused (some f) (atPart p.toNat) (partOff p.toNat 0x58) n.toNat m)) ∧
      (∀ (k : BitVec 2) (n : BitVec 32), k ≠ 3 →
        let c := fillCause m p.toNat b k.toNat n.toNat
        (c ≠ 0 → Gives (.fillcmd f p a b k n) s (set fun q => { q with fillCause := c, fillSt := 0 })) ∧
        (c = 0 →
          let fs := fillFlights m p.toNat m.fab.uid a b k.toNat n.toNat
          Gives (.fillcmd f p a b k n) s (fs.foldl (fun q g => request g q) ((newUid m).2.updPart p.toNat fun q =>
            { q with fillSpare := a, fillJob := b, fillKind := k.toNat, fillStep := n.toNat, fillPages := 0,
                     fillCause := 0, fillSt := 1, fillUid := m.fab.uid, fillLeft := fs.length })))) ∧
      (((m.part p.toNat).fillSt ≠ 1 ∨ (m.part p.toNat).fillLeft ≠ 0) → Gives (.fillEnd p) s m) ∧
      ((m.part p.toNat).fillSt = 1 → (m.part p.toNat).fillLeft = 0 → Gives (.fillEnd p) s
        (irq3 p.toNat (set fun q => { q with fillPages := fillCount m p.toNat, fillSt := 2 })))) ∧
    (∀ j : BitVec 16, (bmOf m j = none ∨ jobCtx m j = none → Gives (.depositCommit j) s m) ∧
      ∀ (b : Bookmark) (k : Nat), bmOf m j = some b → jobCtx m j = some k →
        (b.dep = none → Gives (.depositCommit j) s m) ∧
        ∀ r : DepRun, b.dep = some r →
          (r.left ≠ 0 → Gives (.depositCommit j) s m) ∧
          (r.left = 0 → ∃ q, Gives (.depositCommit j) s q ∧ (q.ctx k).dep.newestB = r.b ∧
            (q.ctx k).dep.stepNew = b.step ∧ (q.ctx k).dep.abandoned = false ∧ (r.b = true → (q.ctx k).dep.slotB = 2) ∧
            (r.b = false → (q.ctx k).dep.slotA = 2) ∧ q.fab.waiting = m.fab.waiting ++ r.head)) ∧
    (∀ (ps : List (Nat × List Byte)) (r : Bool), (x.state = .free ∨ bmOf m x.r.job = none → Gives (.collationEnd slot ps r) s m) ∧
      ∀ b : Bookmark, bmOf m x.r.job = some b → x.state ≠ .free →
        let c := colPages m i b ps ColSum.zero
        ∃ q, Gives (.collationEnd slot ps r) s q ∧ (q.ctx i).col.compared = c.compared ∧
          (q.ctx i).col.mismatch = c.mismatch ∧ (q.ctx i).col.failed = c.failed ∧ (q.ctx i).col.firstFailed = c.first ∧
          (q.ctx i).col.clean = (decide (c.failed = 0) && decide (c.mismatch ≤ x.col.fbmax))) ∧
    (seesCtx m (some f) i = true → x.state ≠ .free → catOn m 11 = true → x.shadow.role < 4 →
      (8 ≤ x.shadow.clean → x.shadow.role ≠ 0 →
        Gives (.shadowAdmit f slot) s (m.updCtx i fun y => { y with shadow := { y.shadow with admitted := true } })) ∧
      (x.shadow.clean < 8 ∨ x.shadow.role = 0 →
        Gives (.shadowAdmit f slot) s (ctxRefused (some f) i offShadowcfg (admitWord x).toNat m)))

/-- 11 R380 to R400; 14 R453: dispatch, completion of units, the start of a step, modes and variants. -/
def Obligations.Scheduling : Prop :=
  ∀ (slot : BitVec 6) (s : State), s.mod.on = true → s.mod.boot.lib = true →
    let m := s.mod
    let i := slot.toNat
    let x := m.ctx i
    (∀ (g : BitVec 4) (plan : List Machine.PUnit) (p r : Module) (u : Machine.PUnit), mayDispatch x = true →
      (planM i).run m = (.ok plan, p) → (∀ k : Nat, k < 16 → turns (p.ctx i) plan k = none) → choices (p.ctx i) plan g.toNat = [u] →
      keeps (p.ctx i) u = false → u.tens = [] → u.kind ≠ 0 →
      (writeLocal i noCore none
        (((p.ctx i).stage u.stage).cfg0 + BitVec.ofNat 64 (8 * (((p.ctx i).stage u.stage).count % 16)))
        ((leBytes 8 (u.idx * 2 ^ 52)).map fun b => wb b false)).run p = (.ok (), r) →
      ∃ q, Gives (.unitDispatch slot g) s q ∧ ((q.ctx i).stage u.stage).running = some (u.idx, r.now) ∧
        ((q.ctx i).stage u.stage).count = ((r.ctx i).stage u.stage).count + 1 ∧ unitSt (q.ctx i) u = .running ∧
        (∀ v : Machine.PUnit, v.idx ≠ u.idx → unitSt (q.ctx i) v = unitSt (r.ctx i) v)) ∧
    (mayDispatch x = false → ∀ g : BitVec 4, Gives (.unitDispatch slot g) s m) ∧
    (∀ (w : Option Fn) (k : BitVec 12) (g t0 : Nat) (plan : List Machine.PUnit) (p : Module) (u v : Machine.PUnit),
      reaches m w = true → seesCtx m w i = true → x.state ≠ .free → runningStage x k.toNat = some (g, t0) →
      (planM i).run m = (.ok plan, p) → plan.find? (fun u => u.idx == k.toNat) = some u → u.kind = 2 → u.tens = [] →
      (∀ y ∈ plan, y.norm = false) → v ∈ plan → v.idx ≠ u.idx → unitSt (p.ctx i) v = .waiting →
      ∃ q, Gives (.unitdone w slot k) s q ∧ unitSt (q.ctx i) u = .done ∧ ((q.ctx i).stage u.stage).running = none ∧
        (q.ctx i).stepnum = (p.ctx i).stepnum) ∧
    (x.state = .running → x.held = true → x.bm.hold = false →
      x.sched.stept0 + x.stepnum.toNat * x.sched.stepper ≤ m.now →
      Gives (.stepStart slot) s (progress i (m.updCtx i fun y => { y with sched := { y.sched with started := true } }))) ∧
    (∀ (f : Fn) (v : BitVec 2), hostUp m f.val = true → seesCtx m (some f) i = true →
      (x.state = .created ∨ x.state = .idle) →
      Gives (.varcurWrite f slot v) s (m.updCtx i fun y => { y with sched :=
        if v.toNat = y.sched.varcur then y.sched
        else { y.sched with varcur := v.toNat,
                            stages := y.sched.stages.map fun e => (e.1, { e.2 with fwd := [], bwd := [] }) } }) ∧
      (v ≠ 3 → (v = 1 → catOn m 5 = true) → (v = 2 → catOn m 6 = true) →
        Gives (.schedmodeWrite f slot v) s (m.updCtx i fun y => { y with sched := { y.sched with mode := v.toNat } }))) ∧
    (∀ (bs : List (Byte × Bool)) (p : Module), x.state = .running → x.sched.mode ≠ 0 → catOn m 7 = true →
      x.sched.coordArea ≠ 0 → isLocal m x.sched.coordArea = true → x.sched.evald ≠ x.stepnum.toNat + 1 →
      x.sched.note = none → x.sched.notices = [] → jobMembers m i ≠ [] →
      (readLocal i noCore none x.sched.coordArea (256 * (jobMembers m i).length)).run m = (.ok bs, p) →
      let rs := parseReports (jobMembers m i).length (bs.map (·.1))
      (∀ r ∈ rs, r.step + 1 = (p.ctx i).stepnum.toNat) → stragglers (p.ctx i) rs = [] → chooseVariant (p.ctx i) rs = none →
      Gives (.variantEvaluate slot) s
        (p.updCtx i fun y => { y with sched := { y.sched with evald := (p.ctx i).stepnum.toNat + 1 } })) ∧
    (∀ (v : BitVec 2) (n : BitVec 32) (fr : Word), jobCtx m x.r.job = some i →
      Gives (.varnoteReceive x.r.job v n fr) s (ttswitch (!m.tt.live) fr.toNat (m.updCtx i fun y =>
        { y with sched := { y.sched with note := some (v.toNat, n.toNat, fr.toNat) } }))) ∧
    (∀ (k : BitVec 16) (t : Nat) (n : Nat × Nat × Nat), x.sched.notices = [(k.toNat, t)] → x.sched.note = some n →
      t + 2000000 ≤ m.now → m.fab.waiting = [] → m.fab.flights = [] →
      ∃ q fl, Gives (.varnoteResend slot k) s q ∧ q.fab.waiting = [fl] ∧ fl.who = .notice k ∧ fl.x.dst = k ∧
        fl.x.kind = .write ∧ (q.ctx i).sched.notices = [(k.toNat, m.now)])

/-- 11 R362, R372 to R379: bindings, claims, publications, and the bounds of the Reserves. -/
def Obligations.EditionsAndReserves : Prop :=
  ∀ (slot : BitVec 6) (s : State), s.mod.on = true → s.mod.boot.lib = true →
    let m := s.mod
    let i := slot.toNat
    let x := m.ctx i
    let upd := fun (k : Nat) (g : Tensor → Tensor) (m : Module) => m.updCtx i fun y =>
      { y with tensors := Sparse.upd Tensor.unbound y.tensors k g }
    x.state ≠ .free →
    (∀ (w : Option Fn) (k : BitVec 10), reaches m w = true → seesCtx m w i = true →
      let t := x.tensor k.toNat
      (∀ (p : Module) (bs : List (Byte × Bool)), t.busy = false → edEntry i k.toNat m = (p, bs) →
        (edValid bs = false → Gives (.edbind w slot k) s (upd k.toNat (fun _ => Tensor.unbound) p)) ∧
        (edValid bs = true →
          bindingsOf (p.ctx i) k.toNat (Tensor.unbound.placed bs).stage (Tensor.unbound.placed bs).layer < 8 →
          Gives (.edbind w slot k) s (upd k.toNat (fun _ => Tensor.unbound.placed bs) p))) ∧
      (t.busy = true → Gives (.edbind w slot k) s (led 0x0702 sevWarn (atCtx m i) [k.toNat, 2] m)) ∧
      (x.sched.mode = 0 →
        (∀ c : CtrNo,
          (t.claimable = true → t.waiting = [] → Gives (.edclaim w slot c k) s
            (addCtr i c 1 (upd k.toNat (fun t => { t with claimed := true }) m))) ∧
          ((t.claimable = false ∨ t.waiting ≠ []) → Gives (.edclaim w slot c k) s
            (upd k.toNat (fun t => { t with waiting := t.waiting ++ [c] }) m))) ∧
        (t.claimed = true → Gives (.edpub w slot k) s
          (upd k.toNat (fun t => { t with cur := !t.cur, edition := t.edition + 1, claimed := false }) m)) ∧
        (t.claimed = false → Gives (.edpub w slot k) s (led 0x0703 sevWarn (atCtx m i) [k.toNat] m)))) ∧
    (∀ (k : BitVec 10) (c : CtrNo) (cs : List CtrNo), (x.tensor k.toNat).waiting = c :: cs →
      ((x.tensor k.toNat).claimable = true → Gives (.claimGrant slot k) s
        (addCtr i c 1 (upd k.toNat (fun t => { t with claimed := true, waiting := cs }) m))) ∧
      ((x.tensor k.toNat).claimable = false → Gives (.claimGrant slot k) s m)) ∧
    (∀ (f : Fn) (g : BitVec 4) (v : Word), hostUp m f.val = true → seesCtx m (some f) i = true → v.toNat < 2 ^ 44 →
      let n := v.toNat / 65536 * 65536
      let set := fun (h : Rsv → Rsv) => m.updCtx i fun y => { y with rsv := Sparse.upd Rsv.init y.rsv g.toNat h }
      ((x.rsvAt g.toNat).dir = [] →
        Gives (.rsvboundWrite f slot g false v) s (set fun r => { r with base := n, top := n }) ∧
        Gives (.rsvboundWrite f slot g true v) s (set fun r => { r with lim := n })) ∧
      ((x.rsvAt g.toNat).dir ≠ [] → ∀ b : Bool,
        Gives (.rsvboundWrite f slot g b v) s (led 0x0701 sevWarn (atCtx m i) [g.toNat, v.toNat] m)) ∧
      ∀ w ∈ [none, some f], ((x.rsvAt g.toNat).hwm < 2 ^ 44 →
        Gives (.rsvhwmClear w slot g) s (set fun r => { r with hwm := 0 })))

/-- 10 R343; 12 R405, R409 to R412, R415: the global norm's partial, its contribution and the updates it skips, and the
binding of groups. -/
def Obligations.GlobalNormAndGroups : Prop :=
  ∀ (slot : BitVec 6) (s : State), s.mod.on = true → s.mod.boot.lib = true →
    let m := s.mod
    let i := slot.toNat
    let x := m.ctx i
    (∀ (w : Option Fn) (n : BitVec 32), reaches m w = true → seesCtx m w i = true → x.state ≠ .free →
      (x.sched.mode = 0 → n = x.stepnum → Gives (.gngo w slot n) s (gnForm i m)) ∧
      (x.sched.mode ≠ 0 ∨ n ≠ x.stepnum → Gives (.gngo w slot n) s (ctxRefused w i offGngo n.toNat m))) ∧
    (x.gn.en = false → gnForm i m = m) ∧
    (x.gn.en = true → x.gn.part = none → x.gn.done = false → ∀ p : Module,
      ((gnFormM i).run m = (.ok (), p) → gnForm i m = p) ∧
      (∀ (sub : Option PageSub) (c : Word), (gnFormM i).run m = (.error (.deny sub c), p) →
        gnForm i m = denyFault i sub c 0 p)) ∧
    (x.gn.part = none ∨ x.gn.sent = true ∨ x.live = false ∨ groupOf m i x.gn.group = none →
      Gives (.gnLaunch slot) s m) ∧
    (∀ (a : W32 × Bool × Nat) (g : Group), x.gn.part = some a → x.gn.sent = false → x.live = true →
      groupOf m i x.gn.group = some g →
      let due := x.sched.stept0 + a.2.2 * x.sched.stepper + x.gn.off
      let S := m.islandStamp ((coresOf x.r.cores).headD 0)
      (S < due → Gives (.gnLaunch slot) s m) ∧
      (due ≤ S → ∃ q fl, Gives (.gnLaunch slot) s q ∧ (q.ctx i).gn.sent = true ∧
        (q.ctx i).gn.late = (x.gn.late || decide (due < S)) ∧ q.fab.waiting = m.fab.waiting ++ [fl] ∧ fl.who = .gn ∧
        fl.x.kind = .coll ∧ fl.x.coll.contrib = 1)) ∧
    (∀ (sum : W32) (bad : Bool),
      let q := gnArrive i sum bad m
      let y := q.ctx i
      let skips := y.gn.skip && y.gn.done && y.gn.nonfinite && y.gn.step == y.stepnum.toNat && y.sched.mode != 0
      (skips = false → gnTaken i sum bad m = q) ∧
      (skips = true → ∀ (plan : List Machine.PUnit) (p : Module), (planM i).run q = (.ok plan, p) →
        gnTaken i sum bad m = stepEnd i plan (skipUpdates i plan p))) ∧
    (∀ plan : List Machine.PUnit, let q := skipUpdates i plan m
      (q.ctx i).gn.skipped = true ∧ (q.ctx i).tensors = x.tensors ∧
      (∀ u ∈ plan, u.kind = 2 → isWaiting x u = true → unitSt (q.ctx i) u = .skipped) ∧
      (∀ u : Machine.PUnit, (∀ v ∈ plan, v.idx = u.idx → v.kind ≠ 2) → unitSt (q.ctx i) u = unitSt x u)) ∧
    (∀ (f : Fn) (id : BitVec 12), hostUp m f.val = true → isBound m f.val x.part = true → x.state ≠ .free →
      catOn m 3 = true →
      let others := m.fab.groups.filter fun g => !(g.slot == i && g.id == id)
      (∀ n : BitVec 15,
        let full := 256 ≤ others.length ∨ 1048576 < (others.map fun g => g.members.length).sum + (n.toNat + 1)
        (full → Gives (.grpbind f slot id n) s (grpRefuse i id 1 m)) ∧
        (¬full → ∀ p : Module,
          (∀ c : Nat, memberList i (n.toNat + 1) m = (p, .error c) →
            Gives (.grpbind f slot id n) s (grpRefuse i id c p)) ∧
          (∀ ms : List (BitVec 16), memberList i (n.toNat + 1) m = (p, .ok ms) →
            Gives (.grpbind f slot id n) s
              (Module.updCtx { p with fab := { p.fab with
                  groups := others ++ [{ slot := i, job := x.r.job, id := id, members := ms, cser := 0 }] } } i
                fun y => { y with grpDone := true, grpRefused := false })))) ∧
      Gives (.grpunbind f slot id) s
        (Module.updCtx { m with fab := { m.fab with groups := others } } i fun y =>
          { y with grpDone := true, grpRefused := false }))

/-- 17 R526 to R529; 18 R556: host queues: the doorbell, copies, counters, completions and configuration. -/
def Obligations.HostQueues : Prop :=
  ∀ (f : Fn) (q : BitVec 4) (s : State), s.mod.on = true → s.mod.boot.lib = true → hostUp s.mod f.val = true →
    let m := s.mod
    let h := hq m f.val q.toNat
    let upd := fun (g : HQ → HQ) (m : Module) => m.updFunc f.val fun x =>
      { x with queues := Sparse.upd HQ.init x.queues q.toNat g }
    let mark := fun (i st sub : Nat) => upd fun h =>
      { h with fetched := h.fetched.modify i fun e => (e.1, e.2.1, some (st, sub)) }
    (∀ (tail : BitVec 32) (es : List QEntry) (ide : Bool), ideRefused m f ide = false → h.en = true →
      let n := (tail.toNat + 2 ^ h.log2 - h.head) % 2 ^ h.log2
      es.length = n →
      Gives (.doorbell f q tail es ide) s (upd (fun h =>
        { h with tail := tail.toNat % 2 ^ h.log2, head := (h.head + n) % 2 ^ h.log2,
                 fetched := h.fetched ++ es.zipIdx.map fun e => ((h.head + e.2) % 2 ^ h.log2, e.1, none) }) m)) ∧
    (∀ (i k : Nat) (e : QEntry), h.fetched[i]? = some (k, e, none) →
      let slot := e.slot.toNat
      (ownsSlot m f.val slot = false →
        (mayStart h i = true →
          (e.op = 1 → ∀ d, Gives (.copyIn f q i d) s (mark i 2 0 m)) ∧
          (e.op = 2 → ∀ b, Gives (.copyOut f q i b) s (mark i 2 0 m))) ∧
        (e.op = 3 → i = 0 → Gives (.queueCinc f q i) s (mark i 2 0 m))) ∧
      (ownsSlot m f.val slot = true → (m.ctx slot).live = true →
        (mayStart h i = true →
          (∀ (p : Module) (pas : List Nat) (d : List Byte), e.op = 1 → d.length = e.len.toNat →
            copyBytes slot .write e.call e.len.toNat m = (p, .ok pas) → cowPages slot e.call e.len.toNat p = [] →
            Gives (.copyIn f q i (some d)) s (mark i 0 0 (bumpCtr slot e.ce e.ctr
              (if (writeAct p none none (pas.zip d)).isSome then undefFn f.val (putPas f.val (pas.zip d) false p)
               else putPas f.val (pas.zip d) false p))) ∧
            Gives (.copyIn f q i none) s (mark i 3 0 (bumpCtr slot e.ce e.ctr p))) ∧
          (∀ (p : Module) (pas : List Nat), e.op = 2 → copyBytes slot .read e.call e.len.toNat m = (p, .ok pas) →
            let r := readPas pas p
            Gives (.copyOut f q i true) s
              (mark i 0 0 (bumpCtr slot e.ce e.ctr
                (hostOut (.dma f.val e.hostaddr (r.2.map (·.1)) (anyBad r.2)) r.1))))) ∧
        (e.op = 3 → i = 0 → Gives (.queueCinc f q i) s (mark i 0 0 (bumpCtr slot e.ce e.ctr m))))) ∧
    (∀ (i k st sub : Nat) (e : QEntry), h.fetched[i]? = some (k, e, some (st, sub)) → (e.op = 1 ∨ e.op = 2 ∨ e.op = 3) →
      h.ien = true →
      Gives (.queueCompletion f q i) s
        (irq f.val (16 + q.toNat) (hostOut (.completion f.val q.toNat e.cmdid h.head st sub (h.written / 2 ^ h.log2 % 2 == 0))
          (upd (fun h => { h with fetched := h.fetched.eraseIdx i, written := h.written + 1 }) m)))) ∧
    (seesFn m f = true → catOn m 0 = true → h.en = false →
      (∀ v : Word, Gives (.qcfgWrite f q 0 v) s (upd (fun h => { h with sub := v }) m) ∧
        Gives (.qcfgWrite f q 1 v) s (upd (fun h => { h with comp := v }) m)) ∧
      (∀ k : BitVec 5, Gives (.qcfgWrite f q 2 (BitVec.ofNat 64 (512 + k.toNat))) s
        (upd (fun h => { h with en := true, ien := false, log2 := k.toNat, head := 0, tail := 0, written := 0 }) m)))

/-- 02 R67; 03 R100; 13 R435; 15 R500 to R502; 17 R531, R540 to R546: attestation, the catalogue, boot, and registers with
commands of their own. -/
def Obligations.BootCatalogueAndRegisters : Prop :=
  ∀ (f : Fn) (slot : BitVec 6) (s : State), s.mod.on = true → s.mod.boot.perstN = true →
    let m := s.mod
    let i := slot.toNat
    let x := m.ctx i
    (∀ w : BitVec 6, Gives (.fencePtComplete w) s (endFences w.toNat m)) ∧
    (m.boot.lib = false → m.boot.st = .window → (∃ c, imageCheck m = some c) →
      ∃ q, Gives (.bootgo 0) s q ∧ q.boot.lib = false ∧ q.boot.st = .window ∧ some q.boot.cause = imageCheck m ∧
        q.boot.attempts = Nat.min (2 ^ 32 - 1) (m.boot.attempts + 1)) ∧
    (m.boot.lib = false → m.boot.st = .window → imageCheck m = none →
      ∃ q, Gives (.bootgo 0) s q ∧ q.boot.lib = true ∧ q.boot.st = .running) ∧
    (m.boot.lib = true →
      Gives .spdmSessionOpen s { m with boot := { m.boot with spdm := true } } ∧
      (m.boot.ready = false → portsTrained m = true → m.time.everAligned = true → m.boot.renewed = true →
        m.boot.catalogue = true → m.boot.spdm = true → Gives .ready s
          (irq 0 4 { m with boot := { m.boot with ready := true, trained := true },
                            out := { m.out with tray := m.out.tray ++ [.ready] } })) ∧
      (m.cat.published = false → ∀ v : BitVec 256, ∃ q, Gives (.catpubPublish v) s q ∧ q.cat.published = true ∧
        (∀ k : Nat, k < 256 → q.cat.pub.getLsbD k = (v.getLsbD k && decide (k < 16)))) ∧
      (m.boot.identity = true → Gives (.ideKm f) s (m.updFunc f.val fun y => { y with ide := true })) ∧
      (hostUp m f.val = true →
        (∀ (c : BitVec 256) (p : BitVec 3), seesFn m f = true → ∃ q u, Gives (.attchal f c p) s q ∧
          (q.func f.val).quote = some u ∧ u.chal = c ∧ u.stamp = m.now ∧ u.logdig = m.att.running ∧
          u.loglen = m.att.log.length ∧ u.inc = m.lease.inc ∧ (f = 0 → u.loandig = loanDig m p.toNat)) ∧
        (∀ v : BitVec 256, f = 0 → m.cat.accepted = false →
          (v &&& ~~~m.cat.pub = 0 → ∃ q, Gives (.cataccept f v) s q ∧ q.cat.en = v ∧ q.cat.accepted = true ∧
            q.boot.catalogue = true) ∧
          (v &&& ~~~m.cat.pub ≠ 0 → Gives (.cataccept f v) s (undefFn 0 m))) ∧
        (∀ v : Word, f = 0 → isPart m 0 = true →
          Gives (.registerWrite f 0x20020 8 v) s (m.updPart 0 fun p => { p with loanid := v })) ∧
        (seesCtx m (some f) i = true → x.state ≠ .free →
          (∀ (ce : Bool) (c : CtrNo), isBound m f.val x.part = true → Gives (.ptinv f slot ce c) s
            (endFences i (startFence i none (if ce then some c else none) m))) ∧
          (∀ (k : BitVec 4), ∃ q, Gives (.errclr (some f) slot k) s q ∧
            ∀ a b : Nat, a < 4 → b < 6 → (q.ctx i).errsum.getLsbD (8 * a + b) =
              (x.errsum.getLsbD (8 * a + b) && !k.getLsbD a)) ∧
          (∀ v : Word, v.toNat < 8 → catOn m 4 = true → catOn m 14 = true → x.state = .created →
            ∃ q, Gives (.ctxctlWrite f slot v) s q ∧ (q.ctx i).r.abort = v.getLsbD 2 ∧ (q.ctx i).r.keep = v.getLsbD 1 ∧
              (q.ctx i).r.rnd = v.getLsbD 0))))

/-- 17 R543, R547; 18 R550: register writes that act on nothing: before the Librarian runs, through a virtual function that
does not see the register, and on a register whose catalogue bit is clear. -/
def Obligations.RegisterWritesWithoutEffect : Prop :=
  ∀ (f : Fn) (slot : BitVec 6) (s : State) (e : BitVec 2) (core : BitVec 9) (bank : Bool) (frame : BitVec 48)
    (v : Word) (lay : BitVec 24) (die : BitVec 3) (st : BitVec 2) (ch : BitVec 4) (n : BitVec 32) (fr : BitVec 28)
    (ctr : CtrNo) (g : BitVec 12) (g1 : BitVec 15) (b4 : BitVec 4) (u : BitVec 12) (cat : BitVec 256), s.mod.on = true →
    let m := s.mod
    let i := slot.toNat
    (m.boot.lib = false → ∀ c ∈ [Instr.engrst f core e, .modrst f, .ttsw f bank frame, .pwrcapWrite f v,
        .partlayoutWrite f lay, .memretRetire f die st ch, .start f slot, .stop f slot, .delete f slot, .reset f slot,
        .bmtake (some f) slot n, .kvfree (some f) slot ctr fr, .grpbind f slot g g1, .grpunbind f slot g,
        .errclr (some f) slot b4, .unitdone (some f) slot u, .cataccept f cat, .ctxctlWrite f slot v], Gives c s m) ∧
    (f ≠ 0 → ∀ c ∈ [Instr.engrst f core e, .modrst f, .ttsw f bank frame, .pwrcapWrite f v, .partlayoutWrite f lay,
        .memretRetire f die st ch, .cataccept f cat], Gives c s m) ∧
    (ownsSlot m f.val i = false → f ≠ 0 → ∀ c ∈ [Instr.start f slot, .stop f slot, .delete f slot, .reset f slot,
        .bmtake (some f) slot n, .kvfree (some f) slot ctr fr, .grpbind f slot g g1, .grpunbind f slot g,
        .errclr (some f) slot b4, .unitdone (some f) slot u, .ctxctlWrite f slot v], Gives c s m) ∧
    (m.boot.lib = true → hostUp m 0 = true →
      let gate := fun (c : Instr) (k off : Nat) => catOn m k = false →
        Gives c s (led 0x0901 sevWarn atModule [off, k, 0] m)
      gate (.ttsw 0 bank frame) 2 0x98 ∧
      (v.toNat < 2 ^ 13 → gate (.pwrcapWrite 0 v) 15 0x20) ∧
      gate (.grpbind 0 slot g g1) 3 (0x400208 + 0x10000 * i) ∧ gate (.grpunbind 0 slot g) 3 (0x400208 + 0x10000 * i) ∧
      gate (.bmtake (some 0) slot n) 9 (0x4004A0 + 0x10000 * i) ∧ gate (.bmrestore 0 slot n) 9 (0x4004A8 + 0x10000 * i) ∧
      gate (.kvfree (some 0) slot ctr fr) 13 (0x400680 + 0x10000 * i) ∧
      gate (.shadowAdmit 0 slot) 11 (0x400548 + 0x10000 * i))

/-- The model's choice (log 1): on an empty queue a step is one nanosecond of stamp time, and changes nothing of the module
but its stamp, frames that wait at its ports, what they take of the links, and what waits in receive buffers. 09 R288: the
stamp advances by one count, or by none or two when alignment withholds or adds one, at most once in 4,096 ns. -/
def Obligations.EmptyQueueLetsTimePass : Prop :=
  (∀ s : State, s.pending = [] → ∃ t, step s = .next t ∧ t.pending = [] ∧ t.meter = tickMeter s.meter ∧
    (s.mod.on = true → (∀ n : Nat, n < 10 → (s.mod.port n).rxq = []) →
      t.mod.threads = s.mod.threads ∧ t.mod.ctxs = s.mod.ctxs ∧ t.mod.cores = s.mod.cores ∧ t.mod.mem = s.mod.mem ∧
      t.mod.boot = s.mod.boot ∧ t.mod.fab = s.mod.fab ∧ t.mod.time = tickTime s.mod.time) ∧
    (s.mod.on = false → t.mod = s.mod)) ∧
  (∀ t : Time, let u := tickTime t
    (u.now = t.now ∨ u.now = t.now + 1 ∨ u.now = t.now + 2) ∧
    (u.now ≠ t.now + 1 → t.slewWait = 0 ∧ u.slewWait = 4095) ∧
    (t.slewWait ≠ 0 → u.now = t.now + 1 ∧ u.slewWait = t.slewWait - 1) ∧
    (t.slewWait = 0 → (16 ≤ t.slew8 → u.now = t.now) ∧ (t.slew8 ≤ -16 → u.now = t.now + 2)) ∧
    (t.rate8 = 0 → t.rateAcc.natAbs < 8192000 → t.slew8.natAbs < 8 → u.now = t.now + 1 ∧ u.slew8 = t.slew8))

/-- What State.reset holds of the values the spec gives (01 Table 1.2, R22; 13 R419; 15 R486; 16 R519; 18 Tables 18.2 to
18.13); log 7: the module right after a module reset, powered. -/
def Obligations.ResetState : Prop :=
  let m := State.reset.mod
  State.reset.pending = [] ∧ m.on = true ∧ m.boot.lib = false ∧ m.boot.ready = false ∧ m.pm.cap = 6000 ∧
  m.lease.st = .none ∧ m.time.align = .unaligned ∧ m.now = 0 ∧ m.layout = 0 ∧ m.ledger.entries = [] ∧
  (∀ c : Nat, (m.core c).clk = 40 ∧ (m.core c).meQ = [] ∧ (m.core c).teQ = []) ∧
  (∀ t : ThreadNo, (m.thread t).running = false ∧ ∀ r : Reg, m.reg t r = 0 ∧ m.mark t r = false) ∧
  (∀ i : Nat, (m.ctx i).state = .free ∧ (m.ctx i).ovd.win = 200 ∧ (m.ctx i).gn.scale = 0x3F800000#32) ∧
  ((m.part 0).bind = 0 ∧ ∀ p : Nat, p ≠ 0 → (m.part p).bind = 15) ∧ (∀ p : Nat, (m.part p).st = .closed) ∧
  (∀ n : Nat, (m.port n).st = .down) ∧ (∀ k : Nat, (m.stripe k).thr = 4096 ∧ (m.stripe k).retired = none) ∧
  (∀ a : Nat, m.byte a = 0 ∧ m.isBad a = false) ∧ Memory.wf m.mem = true ∧
  State.reset.meter.paired = false ∧ State.reset.meter.tampered = false ∧ State.reset.meter.unsynced = true

/-- 04 R122 to R124, Tables 4.1 to 4.15: words of several formats, written out from the tables, decode to their
instructions. -/
def Obligations.GelgaWords : Prop :=
  ∀ t : ThreadNo,
    decodeGelga t 0x00308515#32 0 = .divu t 3 2 5 ∧ decodeGelga t 0x0417FFFF#32 0 = .addi t 1 31 (-1) ∧
    decodeGelga t 0xFC300000#32 0 = .dueR t 3 ∧ decodeGelga t 0x00108300#32 0 = .add t 1 2 3 ∧
    decodeGelga t 0x20414607#32 0 = .fmadd t 4 5 6 ∧ decodeGelga t 0x6C723FF8#32 0 = .st64 t 7 8 (-8) ∧
    decodeGelga t 0x70928B04#32 0 = .acas32 t 9 10 11 ∧ decodeGelga t 0x84108004#32 0 = .bne t 1 2 4 ∧
    decodeGelga t 0x981FFFFF#32 0 = .jal t 1 (-1) ∧ decodeGelga t 0xA4302800#32 0 = .wait t 3 5 ∧
    decodeGelga t 0x1C26FBBC#32 0 = .movi t 2 1 0xBEEF ∧ decodeGelga t 0x1C26FBBE#32 0 = .movk t 2 1 0xBEEF ∧
    decodeGelga t 0x1810B03F#32 0 = .shiRor t 1 2 63 ∧ decodeGelga t 0xA0000001#32 0 = .fenceG t ∧
    decodeGelga t 0xC8071140#32 0 = .teDesc t { fin := { ctr := 3, ce := true }, ra := 5 } ∧
    decodeGelga t 0xCC002F05#32 0x20C00000#32 =
      .resFree t { fin := { ctr := 0, ce := false }, stage := 15, ra := 1, rm := 18, rl := 3 } ∧
    decodeGelga t 0xF4000000#32 0 = .unallocatedEncoding t ∧
    ∃ f : MmaF, decodeGelga t 0xC0293044#32 0xA2CF0700#32 = .meMma t f ∧ f.kt = 7 ∧ f.ra = 10 ∧ f.rb = 11 ∧ f.rt = 15

/-- 04 Tables 4.1 to 4.15: decoding the words of a well-formed instruction, prefix or engine command gives it back. -/
def Obligations.GelgaRoundTrip : Prop :=
  ∀ (c : Instr) (t : ThreadNo) (w0 w1 : W32), c.wf = true → issuer c = some t → encodeGelga c = some (w0, w1) →
    decodeGelga t w0 w1 = c

/-- 16 R508 to R510, R515, R520: every step keeps the meter within its bounds. -/
def Obligations.MeterStaysWithinBounds : Prop :=
  ∀ s t : State, MeterOk s.meter → step s = .next t → MeterOk t.meter

/-- The meter is within its bounds at reset. -/
def Obligations.MeterWithinBoundsAtReset : Prop := MeterOk State.reset.meter ∧ TamperKept State.reset.meter

/-- 16 R518: the case switch sets TAMPERED and writes the event. TAMPERED, once set, is set for good: in every step the
committed mark keeps it, through losses of power. From then on opens are refused, and closes co-signed with TAMPERED set. -/
def Obligations.TamperedIsPermanent : Prop :=
  (∀ s t : State, TamperKept s.meter → step s = .next t →
    TamperKept t.meter ∧ (s.meter.tampered = true → t.meter.tampered = true)) ∧
  (∀ s : State, s.meter.powered = true → ∃ y, exec .caseSwitchOpen s = .next { s with meter := y } ∧
    y.tampered = true ∧ (y.newest.map (·.tampered)) = some true ∧
    (s.meter.events.length < 1024 → y.events = s.meter.events ++ [.tamper])) ∧
  (∀ (x : Meter) (r : LoanRec), x.tampered = true →
    Meter.refuseOpen x r ≠ none ∧
    (Meter.refuseAny x r = none → (∃ l ∈ x.loans, l.co.lr.loanid = r.loanid) →
      ∃ c, (Meter.closeRecord r x).2 = .cosigned c ∧ c.lr = r ∧ c.tampered = true))

/-- 17 R534: with the rails off no command but those of the power entry and the pins changes the module. -/
def Obligations.UnpoweredModuleDoesNothing : Prop :=
  ∀ (c : Instr) (s : State), s.mod.boot.rails = false →
    (c ∈ [Instr.supplySag, .pwrEnDeassert, .pwrEnAssert true, .pwrEnAssert false, .perstAssert, .perstDeassert,
          .rstNAssert, .rstNRelease, .refclkLoss, .refclkReturn] ∨
      ∃ t, exec c s = .next t ∧ t.mod = s.mod)

/-- Every command answers a next state and leaves the queue of those that wait behind it as it is, and the commands of the module leave the
Circulation Meter as it is (16 R504). -/
def Obligations.CommandsKeepTheirPlace : Prop :=
  ∀ (c : Instr) (s : State), ∃ t, exec c s = .next t ∧ t.pending = s.pending ∧
      (c ≠ .supplySag → (∀ f, c ≠ .mtrAnswerReady f) → c ≠ .powerLoss → c ≠ .meterPowerUp → c ≠ .meterApportion → c ≠ .meterCommit →
        c ≠ .meterOpenRecord → c ≠ .meterCloseRecord → c ≠ .meterListOpen → c ≠ .meterRecordDrop →
        c ≠ .caseSwitchOpen → c ≠ .readId → c ≠ .readSnapshot → (∀ e d, c ≠ .meterSample e d) → (∀ n, c ≠ .readLog n) →
        (∀ n, c ≠ .ackLog n) → (∀ n, c ≠ .setTime n) → (∀ a b d, c ≠ .pair a b d) → (∀ n, c ≠ .readEvents n) →
        t.meter = s.meter)

/-- Frame of the instructions that write a register: the fetch of an instruction changes no register, context, port, part
or clock of the module, and the write none but its register, the pc, the progress stamp and the prefix. -/
def Obligations.RegisterInstructionsFrame : Prop :=
  (∀ (slot n : Nat) (t : ThreadNo) (m p : Module), fetchCheck slot n t m = (p, none) →
    p.threads = m.threads ∧ p.ctxs = m.ctxs ∧ p.parts = m.parts ∧ p.ports = m.ports ∧ p.fab = m.fab ∧
      p.time = m.time ∧ p.writes = m.writes) ∧
  (∀ (slot : Nat) (t : ThreadNo) (rd : Reg) (v : Word) (bad : Bool) (m : Module),
    let q := wrote slot t rd v bad m
    (rd ≠ 0 → q.reg t rd = v ∧ q.mark t rd = bad) ∧
    (∀ r : Reg, (r ≠ rd ∨ r = 0) → q.reg t r = m.reg t r ∧ q.mark t r = m.mark t r) ∧
    (q.thread t).pc = (m.thread t).pc + 4 ∧ (q.thread t).running = (m.thread t).running ∧
    (∀ u : ThreadNo, u ≠ t → q.thread u = m.thread u) ∧ (∀ k : Nat, k ≠ slot → q.ctx k = m.ctx k) ∧
    q.ctx slot = { m.ctx slot with ovd := { (m.ctx slot).ovd with lastProgress := m.now } } ∧
    q.mem = m.mem ∧ q.bad = m.bad ∧ q.cores = m.cores ∧ q.fab = m.fab ∧ q.ports = m.ports ∧ q.time = m.time ∧
    q.writes = m.writes ∧ q.ledger = m.ledger)

/-- 08 R265, R268, R270, R277: a byte that is written reads back, with the mark of an SRAM write; a write into a granule of
main memory whose valid bit is clear leaves zero in its other bytes; no other byte changes. -/
def Obligations.WrittenBytesReadBack : Prop :=
  ∀ (pa : Nat) (v : Byte) (mark : Bool) (m : Module),
    let q := writePas byContext [(pa, v)] mark m
    (isMain pa = false → Sparse.get 0 m.sramErr (pa / 8) = 0 →
      q.byte pa = v ∧ (mark = true → q.isBad pa = true) ∧ ∀ a : Nat, a ≠ pa → q.byte a = m.byte a) ∧
    (isMain pa = true → dieHasLoan m (dieOfGran (pa / 256)) = true → m.sumLost (pa / 256) = false →
      Sparse.get 0 m.sramErr (sumPa (pa / 256) / 8) = 0 →
      (NatSet.has m.valid (pa / 256) = false →
        q.byte pa = v ∧ (∀ a : Nat, a / 256 = pa / 256 → a ≠ pa → q.byte a = 0) ∧
        (∀ a : Nat, a / 256 ≠ pa / 256 → q.byte a = m.byte a)) ∧
      (NatSet.has m.valid (pa / 256) = true → NatSet.has m.bad (pa / 256) = false → errsOf m (pa / 256) = [] →
        q.byte pa = v ∧ ∀ a : Nat, a ≠ pa → q.byte a = m.byte a)) ∧
    (isMain pa = true → dieHasLoan m (dieOfGran (pa / 256)) = false → ∀ a : Nat, q.byte a = m.byte a)

/-- 13 R447, R448; 15 R497: a word of the ledger window through each function. PART counts where SCOPE is 1, 2, 3 or 5, as
Table 13.7 gives it. -/
def Obligations.LedgerWindow : Prop :=
  ∀ (s : State) (f : Fn) (i j : Nat) (e : Entry), i < 65536 → j < 8 → hostUp s.mod f.val = true → s.mod.boot.lib = true →
    s.mod.ledger.entries.find? (fun e => e.seq % 65536 == i) = some e →
    let m := s.mod
    let reads := fun (w : Word) => readHost s f (0xC00000 + 64 * i + 8 * j) 8 = some w.toNat
    let word := wordOf (entryBytes e) (8 * j)
    (f = 0 → reads word) ∧
    (f ≠ 0 → partOfFn m f.val = none → reads 0) ∧
    (f ≠ 0 → ∀ p : Nat, partOfFn m f.val = some p →
      let q := m.part p
      let shown := (e.part = p ∧ e.scope ∈ [1, 2, 3, 5]) ∨ (e.scope = 0 ∧ e.code / 256 = 3)
      (q.st = .closed ∨ q.st = .opening → reads 0) ∧
      (q.st = .open_ ∨ q.st = .closing →
        (e.stamp < q.openedAt → reads 0) ∧ (¬shown → reads 0) ∧ (q.openedAt ≤ e.stamp → shown → reads word)))
end

