-- ==== Sys2Proof/Laws/Sparse.lean ====
section
/-! SUPPORT. The laws of sparse data: what reads back after a write, and that every operation keeps the canonical form. -/

namespace Sys2Proof.Machine

namespace Sparse

variable {β : Type}

@[simp] theorem get_nil (d : β) (k : Nat) : get d [] k = d := rfl

theorem get_cons (d : β) (j : Nat) (v : β) (m : Sparse β) (k : Nat) :
    get d ((j, v) :: m) k = if k = j then v else get d m k := rfl

theorem get_drop (d : β) (m : Sparse β) (j k : Nat) : get d (drop m j) k = if k = j then d else get d m k := by
  induction m with
  | nil => simp [drop]
  | cons e m ih =>
    obtain ⟨a, v⟩ := e
    simp only [drop]
    by_cases h : j = a
    · subst h; simp only [if_true, ih, get_cons]; split <;> rfl
    · simp only [h, if_false, get_cons, ih]
      by_cases h1 : k = a
      · subst h1; simp [Ne.symm h]
      · simp [h1]

theorem get_put (d : β) (m : Sparse β) (j k : Nat) (x : β) : get d (put m j x) k = if k = j then x else get d m k := by
  induction m with
  | nil => simp [put, get_cons]
  | cons e m ih =>
    obtain ⟨a, v⟩ := e
    simp only [put]
    by_cases h : j = a
    · subst h; simp only [if_true, get_cons]; split <;> rfl
    · by_cases h2 : j < a
      · simp [h, h2, get_cons]
      · simp only [h, h2, if_false, get_cons, ih]
        by_cases h1 : k = a
        · subst h1; simp [Ne.symm h]
        · simp [h1]

/-- Read after write, whatever the list: the written key reads as written, every other key as before. -/
@[simp] theorem get_set [DecidableEq β] (d : β) (m : Sparse β) (j k : Nat) (x : β) :
    get d (set d m j x) k = if k = j then x else get d m k := by
  unfold set
  by_cases h : x = d
  · subst h; simp [get_drop]
  · simp [h, get_put]

@[simp] theorem get_upd [DecidableEq β] (d : β) (m : Sparse β) (j k : Nat) (f : β → β) :
    get d (upd d m j f) k = if k = j then f (get d m j) else get d m k := by
  simp [upd]

/-- Writing a key twice leaves the second value. -/
theorem put_put (m : Sparse β) (k : Nat) (x y : β) : put (put m k x) k y = put m k y := by
  induction m with
  | nil => simp [put]
  | cons e m ih =>
    obtain ⟨a, v⟩ := e
    by_cases h : k = a
    · simp [put, h]
    · by_cases h2 : k < a
      · simp [put, h, h2]
      · simp [put, h, h2, ih]

/-! The canonical form -/

variable [DecidableEq β]

theorem okFrom_mono (d : β) (m : Sparse β) {a b : Nat} (h : a ≤ b) (hb : okFrom d b m = true) :
    okFrom d a m = true := by
  cases m with
  | nil => rfl
  | cons e m =>
    obtain ⟨j, v⟩ := e
    simp only [okFrom, Bool.and_eq_true, decide_eq_true_eq] at hb ⊢
    exact ⟨⟨by omega, hb.1.2⟩, hb.2⟩

theorem okFrom_drop (d : β) (m : Sparse β) (k a : Nat) (h : okFrom d a m = true) : okFrom d a (drop m k) = true := by
  induction m generalizing a with
  | nil => rfl
  | cons e m ih =>
    obtain ⟨j, v⟩ := e
    simp only [okFrom, Bool.and_eq_true, decide_eq_true_eq] at h
    simp only [drop]
    by_cases hk : k = j
    · simp only [hk, if_true]
      have := ih (j + 1) h.2
      rw [hk] at this
      exact okFrom_mono d _ (by omega) this
    · simp only [hk, if_false, okFrom, Bool.and_eq_true, decide_eq_true_eq]
      exact ⟨h.1, ih _ h.2⟩

theorem okFrom_put (d : β) (m : Sparse β) (k : Nat) (x : β) (a : Nat) (hx : x ≠ d) (ha : a ≤ k)
    (h : okFrom d a m = true) : okFrom d a (put m k x) = true := by
  induction m generalizing a with
  | nil => simp [put, okFrom, hx, ha]
  | cons e m ih =>
    obtain ⟨j, v⟩ := e
    simp only [okFrom, Bool.and_eq_true, decide_eq_true_eq] at h
    simp only [put]
    by_cases hk : k = j
    · subst hk
      simp only [if_true, okFrom, Bool.and_eq_true, decide_eq_true_eq]
      exact ⟨⟨ha, hx⟩, h.2⟩
    · by_cases h2 : k < j
      · simp only [hk, h2, if_false, if_true, okFrom, Bool.and_eq_true, decide_eq_true_eq]
        exact ⟨⟨ha, hx⟩, ⟨by omega, h.1.2⟩, h.2⟩
      · simp only [hk, h2, if_false, okFrom, Bool.and_eq_true, decide_eq_true_eq]
        exact ⟨h.1, ih _ (by omega) h.2⟩

/-- A write keeps the canonical form. -/
theorem ok_set (d : β) (m : Sparse β) (k : Nat) (x : β) (h : ok d m = true) : ok d (set d m k x) = true := by
  unfold set ok at *
  split
  · exact okFrom_drop d m k 0 h
  · exact okFrom_put d m k x 0 ‹_› (by omega) h

theorem ok_upd (d : β) (m : Sparse β) (k : Nat) (f : β → β) (h : ok d m = true) : ok d (upd d m k f) = true :=
  ok_set d m k _ h

theorem okFrom_keep (d : β) (p : Nat → Bool) (m : Sparse β) (a : Nat) (h : okFrom d a m = true) :
    okFrom d a (keep p m) = true := by
  induction m generalizing a with
  | nil => rfl
  | cons e m ih =>
    obtain ⟨j, v⟩ := e
    simp only [okFrom, Bool.and_eq_true, decide_eq_true_eq] at h
    by_cases hp : p j = true
    · simp only [keep, List.filter_cons_of_pos (p := fun e : Nat × β => p e.1) (a := (j, v)) (l := m) hp, okFrom,
        Bool.and_eq_true, decide_eq_true_eq]
      exact ⟨h.1, ih _ h.2⟩
    · simp only [keep, List.filter_cons_of_neg (p := fun e : Nat × β => p e.1) (a := (j, v)) (l := m) hp]
      exact okFrom_mono d _ (by omega) (ih _ h.2)

/-- So does dropping the keys that a test names. -/
theorem ok_keep (d : β) (p : Nat → Bool) (m : Sparse β) (h : ok d m = true) : ok d (keep p m) = true :=
  okFrom_keep d p m 0 h

theorem get_keep (d : β) (p : Nat → Bool) (m : Sparse β) (k : Nat) :
    get d (keep p m) k = if p k = true then get d m k else d := by
  induction m with
  | nil => simp [keep]
  | cons e m ih =>
    obtain ⟨j, v⟩ := e
    simp only [keep] at ih
    by_cases hp : p j = true
    · simp only [keep, List.filter_cons_of_pos (p := fun e : Nat × β => p e.1) (a := (j, v)) (l := m) hp, get_cons, ih]
      by_cases hk : k = j
      · subst hk; simp [hp]
      · simp [hk]
    · simp only [keep, List.filter_cons_of_neg (p := fun e : Nat × β => p e.1) (a := (j, v)) (l := m) hp, ih, get_cons]
      by_cases hk : k = j
      · subst hk; simp [hp]
      · simp [hk]

end Sparse

namespace NatSet

@[simp] theorem has_nil (k : Nat) : has [] k = false := rfl

theorem has_cons (j : Nat) (m : NatSet) (k : Nat) : has (j :: m) k = if k = j then true else has m k := rfl

theorem has_iff (m : NatSet) (k : Nat) : has m k = true ↔ k ∈ m := by
  induction m with
  | nil => simp
  | cons j m ih => simp only [has_cons, List.mem_cons]; by_cases h : k = j <;> simp [h, ih]

@[simp] theorem has_add (m : NatSet) (j k : Nat) : has (add m j) k = (decide (k = j) || has m k) := by
  induction m with
  | nil => simp [add, has_cons]
  | cons a m ih =>
    simp only [add]
    by_cases h : j = a
    · subst h; simp only [if_true, has_cons]; by_cases hk : k = j <;> simp [hk]
    · by_cases h2 : j < a
      · simp only [h, h2, if_false, if_true, has_cons]; by_cases hk : k = j <;> simp [hk]
      · simp only [h, h2, if_false, has_cons, ih]; by_cases hk : k = a <;> simp [hk]

@[simp] theorem has_del (m : NatSet) (j k : Nat) : has (del m j) k = (decide (k ≠ j) && has m k) := by
  induction m with
  | nil => simp [del]
  | cons a m ih =>
    simp only [del]
    by_cases h : j = a
    · subst h; simp only [if_true, ih, has_cons]; by_cases hk : k = j <;> simp [hk]
    · simp only [h, if_false, has_cons, ih]
      by_cases hk : k = a
      · subst hk; simp [Ne.symm h]
      · simp [hk]

@[simp] theorem has_put (m : NatSet) (j k : Nat) (b : Bool) :
    has (put m j b) k = if k = j then b else has m k := by
  cases b <;> by_cases h : k = j <;> simp [put, h]

theorem has_filter (p : Nat → Bool) (m : NatSet) (k : Nat) : has (m.filter p) k = (p k && has m k) := by
  rw [Bool.eq_iff_iff, Bool.and_eq_true, has_iff, has_iff, List.mem_filter]
  exact and_comm

end NatSet

end Sys2Proof.Machine
end

