-- ==== Sys2Proof/Laws/State.lean ====
section
/-! SUPPORT. What reading a part of the module gives after another part, or the same one, was written. -/

namespace Sys2Proof.Machine

namespace Module

/-! Changing a part is setting it to what the change gives. -/

@[simp] theorem updThread_eq (m : Module) (t : ThreadNo) (f : Thread → Thread) : m.updThread t f = m.setThread t (f (m.thread t)) := rfl
@[simp] theorem updCore_eq (m : Module) (t : Nat) (f : CoreSt → CoreSt) : m.updCore t f = m.setCore t (f (m.core t)) := rfl
@[simp] theorem updCtx_eq (m : Module) (t : Nat) (f : Ctx → Ctx) : m.updCtx t f = m.setCtx t (f (m.ctx t)) := rfl
@[simp] theorem updPart_eq (m : Module) (t : Nat) (f : Part → Part) : m.updPart t f = m.setPart t (f (m.part t)) := rfl
@[simp] theorem updFunc_eq (m : Module) (t : Nat) (f : Func → Func) : m.updFunc t f = m.setFunc t (f (m.func t)) := rfl
@[simp] theorem updPort_eq (m : Module) (t : Nat) (f : Port → Port) : m.updPort t f = m.setPort t (f (m.port t)) := rfl

/-! setThread -/

@[simp] theorem setThread_boot (m : Module) (t : ThreadNo) (x : Thread) : (m.setThread t x).boot = m.boot := rfl
@[simp] theorem setThread_time (m : Module) (t : ThreadNo) (x : Thread) : (m.setThread t x).time = m.time := rfl
@[simp] theorem setThread_topo (m : Module) (t : ThreadNo) (x : Thread) : (m.setThread t x).topo = m.topo := rfl
@[simp] theorem setThread_fabKey (m : Module) (t : ThreadNo) (x : Thread) : (m.setThread t x).fabKey = m.fabKey := rfl
@[simp] theorem setThread_cores (m : Module) (t : ThreadNo) (x : Thread) : (m.setThread t x).cores = m.cores := rfl
@[simp] theorem setThread_csce (m : Module) (t : ThreadNo) (x : Thread) : (m.setThread t x).csce = m.csce := rfl
@[simp] theorem setThread_ctxs (m : Module) (t : ThreadNo) (x : Thread) : (m.setThread t x).ctxs = m.ctxs := rfl
@[simp] theorem setThread_parts (m : Module) (t : ThreadNo) (x : Thread) : (m.setThread t x).parts = m.parts := rfl
@[simp] theorem setThread_layout (m : Module) (t : ThreadNo) (x : Thread) : (m.setThread t x).layout = m.layout := rfl
@[simp] theorem setThread_funs (m : Module) (t : ThreadNo) (x : Thread) : (m.setThread t x).funs = m.funs := rfl
@[simp] theorem setThread_ports (m : Module) (t : ThreadNo) (x : Thread) : (m.setThread t x).ports = m.ports := rfl
@[simp] theorem setThread_pds (m : Module) (t : ThreadNo) (x : Thread) : (m.setThread t x).pds = m.pds := rfl
@[simp] theorem setThread_fab (m : Module) (t : ThreadNo) (x : Thread) : (m.setThread t x).fab = m.fab := rfl
@[simp] theorem setThread_stripes (m : Module) (t : ThreadNo) (x : Thread) : (m.setThread t x).stripes = m.stripes := rfl
@[simp] theorem setThread_mem (m : Module) (t : ThreadNo) (x : Thread) : (m.setThread t x).mem = m.mem := rfl
@[simp] theorem setThread_valid (m : Module) (t : ThreadNo) (x : Thread) : (m.setThread t x).valid = m.valid := rfl
@[simp] theorem setThread_summary (m : Module) (t : ThreadNo) (x : Thread) : (m.setThread t x).summary = m.summary := rfl
@[simp] theorem setThread_sumBad (m : Module) (t : ThreadNo) (x : Thread) : (m.setThread t x).sumBad = m.sumBad := rfl
@[simp] theorem setThread_bad (m : Module) (t : ThreadNo) (x : Thread) : (m.setThread t x).bad = m.bad := rfl
@[simp] theorem setThread_dramErr (m : Module) (t : ThreadNo) (x : Thread) : (m.setThread t x).dramErr = m.dramErr := rfl
@[simp] theorem setThread_chanErr (m : Module) (t : ThreadNo) (x : Thread) : (m.setThread t x).chanErr = m.chanErr := rfl
@[simp] theorem setThread_sramErr (m : Module) (t : ThreadNo) (x : Thread) : (m.setThread t x).sramErr = m.sramErr := rfl
@[simp] theorem setThread_trainBad (m : Module) (t : ThreadNo) (x : Thread) : (m.setThread t x).trainBad = m.trainBad := rfl
@[simp] theorem setThread_hidKey (m : Module) (t : ThreadNo) (x : Thread) : (m.setThread t x).hidKey = m.hidKey := rfl
@[simp] theorem setThread_tlb (m : Module) (t : ThreadNo) (x : Thread) : (m.setThread t x).tlb = m.tlb := rfl
@[simp] theorem setThread_writes (m : Module) (t : ThreadNo) (x : Thread) : (m.setThread t x).writes = m.writes := rfl
@[simp] theorem setThread_cows (m : Module) (t : ThreadNo) (x : Thread) : (m.setThread t x).cows = m.cows := rfl
@[simp] theorem setThread_ledger (m : Module) (t : ThreadNo) (x : Thread) : (m.setThread t x).ledger = m.ledger := rfl
@[simp] theorem setThread_lease (m : Module) (t : ThreadNo) (x : Thread) : (m.setThread t x).lease = m.lease := rfl
@[simp] theorem setThread_cat (m : Module) (t : ThreadNo) (x : Thread) : (m.setThread t x).cat = m.cat := rfl
@[simp] theorem setThread_tt (m : Module) (t : ThreadNo) (x : Thread) : (m.setThread t x).tt = m.tt := rfl
@[simp] theorem setThread_pm (m : Module) (t : ThreadNo) (x : Thread) : (m.setThread t x).pm = m.pm := rfl
@[simp] theorem setThread_att (m : Module) (t : ThreadNo) (x : Thread) : (m.setThread t x).att = m.att := rfl
@[simp] theorem setThread_bms (m : Module) (t : ThreadNo) (x : Thread) : (m.setThread t x).bms = m.bms := rfl
@[simp] theorem setThread_out (m : Module) (t : ThreadNo) (x : Thread) : (m.setThread t x).out = m.out := rfl
@[simp] theorem setThread_draw (m : Module) (t : ThreadNo) (x : Thread) : (m.setThread t x).draw = m.draw := rfl
@[simp] theorem setThread_core (m : Module) (t : ThreadNo) (x : Thread) (j : Nat) : (m.setThread t x).core j = m.core j := rfl
@[simp] theorem setThread_ctx (m : Module) (t : ThreadNo) (x : Thread) (j : Nat) : (m.setThread t x).ctx j = m.ctx j := rfl
@[simp] theorem setThread_part (m : Module) (t : ThreadNo) (x : Thread) (j : Nat) : (m.setThread t x).part j = m.part j := rfl
@[simp] theorem setThread_func (m : Module) (t : ThreadNo) (x : Thread) (j : Nat) : (m.setThread t x).func j = m.func j := rfl
@[simp] theorem setThread_port (m : Module) (t : ThreadNo) (x : Thread) (j : Nat) : (m.setThread t x).port j = m.port j := rfl
@[simp] theorem setThread_pd (m : Module) (t : ThreadNo) (x : Thread) (j : Nat) : (m.setThread t x).pd j = m.pd j := rfl
@[simp] theorem setThread_stripe (m : Module) (t : ThreadNo) (x : Thread) (j : Nat) : (m.setThread t x).stripe j = m.stripe j := rfl
@[simp] theorem setThread_thread (m : Module) (t : ThreadNo) (x : Thread) (u : ThreadNo) :
    (m.setThread t x).thread u = if u = t then x else m.thread u := by
  simp [setThread, thread, ← BitVec.toNat_inj]

/-! setCore -/

@[simp] theorem setCore_boot (m : Module) (c : Nat) (x : CoreSt) : (m.setCore c x).boot = m.boot := rfl
@[simp] theorem setCore_time (m : Module) (c : Nat) (x : CoreSt) : (m.setCore c x).time = m.time := rfl
@[simp] theorem setCore_topo (m : Module) (c : Nat) (x : CoreSt) : (m.setCore c x).topo = m.topo := rfl
@[simp] theorem setCore_fabKey (m : Module) (c : Nat) (x : CoreSt) : (m.setCore c x).fabKey = m.fabKey := rfl
@[simp] theorem setCore_threads (m : Module) (c : Nat) (x : CoreSt) : (m.setCore c x).threads = m.threads := rfl
@[simp] theorem setCore_csce (m : Module) (c : Nat) (x : CoreSt) : (m.setCore c x).csce = m.csce := rfl
@[simp] theorem setCore_ctxs (m : Module) (c : Nat) (x : CoreSt) : (m.setCore c x).ctxs = m.ctxs := rfl
@[simp] theorem setCore_parts (m : Module) (c : Nat) (x : CoreSt) : (m.setCore c x).parts = m.parts := rfl
@[simp] theorem setCore_layout (m : Module) (c : Nat) (x : CoreSt) : (m.setCore c x).layout = m.layout := rfl
@[simp] theorem setCore_funs (m : Module) (c : Nat) (x : CoreSt) : (m.setCore c x).funs = m.funs := rfl
@[simp] theorem setCore_ports (m : Module) (c : Nat) (x : CoreSt) : (m.setCore c x).ports = m.ports := rfl
@[simp] theorem setCore_pds (m : Module) (c : Nat) (x : CoreSt) : (m.setCore c x).pds = m.pds := rfl
@[simp] theorem setCore_fab (m : Module) (c : Nat) (x : CoreSt) : (m.setCore c x).fab = m.fab := rfl
@[simp] theorem setCore_stripes (m : Module) (c : Nat) (x : CoreSt) : (m.setCore c x).stripes = m.stripes := rfl
@[simp] theorem setCore_mem (m : Module) (c : Nat) (x : CoreSt) : (m.setCore c x).mem = m.mem := rfl
@[simp] theorem setCore_valid (m : Module) (c : Nat) (x : CoreSt) : (m.setCore c x).valid = m.valid := rfl
@[simp] theorem setCore_summary (m : Module) (c : Nat) (x : CoreSt) : (m.setCore c x).summary = m.summary := rfl
@[simp] theorem setCore_sumBad (m : Module) (c : Nat) (x : CoreSt) : (m.setCore c x).sumBad = m.sumBad := rfl
@[simp] theorem setCore_bad (m : Module) (c : Nat) (x : CoreSt) : (m.setCore c x).bad = m.bad := rfl
@[simp] theorem setCore_dramErr (m : Module) (c : Nat) (x : CoreSt) : (m.setCore c x).dramErr = m.dramErr := rfl
@[simp] theorem setCore_chanErr (m : Module) (c : Nat) (x : CoreSt) : (m.setCore c x).chanErr = m.chanErr := rfl
@[simp] theorem setCore_sramErr (m : Module) (c : Nat) (x : CoreSt) : (m.setCore c x).sramErr = m.sramErr := rfl
@[simp] theorem setCore_trainBad (m : Module) (c : Nat) (x : CoreSt) : (m.setCore c x).trainBad = m.trainBad := rfl
@[simp] theorem setCore_hidKey (m : Module) (c : Nat) (x : CoreSt) : (m.setCore c x).hidKey = m.hidKey := rfl
@[simp] theorem setCore_tlb (m : Module) (c : Nat) (x : CoreSt) : (m.setCore c x).tlb = m.tlb := rfl
@[simp] theorem setCore_writes (m : Module) (c : Nat) (x : CoreSt) : (m.setCore c x).writes = m.writes := rfl
@[simp] theorem setCore_cows (m : Module) (c : Nat) (x : CoreSt) : (m.setCore c x).cows = m.cows := rfl
@[simp] theorem setCore_ledger (m : Module) (c : Nat) (x : CoreSt) : (m.setCore c x).ledger = m.ledger := rfl
@[simp] theorem setCore_lease (m : Module) (c : Nat) (x : CoreSt) : (m.setCore c x).lease = m.lease := rfl
@[simp] theorem setCore_cat (m : Module) (c : Nat) (x : CoreSt) : (m.setCore c x).cat = m.cat := rfl
@[simp] theorem setCore_tt (m : Module) (c : Nat) (x : CoreSt) : (m.setCore c x).tt = m.tt := rfl
@[simp] theorem setCore_pm (m : Module) (c : Nat) (x : CoreSt) : (m.setCore c x).pm = m.pm := rfl
@[simp] theorem setCore_att (m : Module) (c : Nat) (x : CoreSt) : (m.setCore c x).att = m.att := rfl
@[simp] theorem setCore_bms (m : Module) (c : Nat) (x : CoreSt) : (m.setCore c x).bms = m.bms := rfl
@[simp] theorem setCore_out (m : Module) (c : Nat) (x : CoreSt) : (m.setCore c x).out = m.out := rfl
@[simp] theorem setCore_draw (m : Module) (c : Nat) (x : CoreSt) : (m.setCore c x).draw = m.draw := rfl
@[simp] theorem setCore_thread (m : Module) (c : Nat) (x : CoreSt) (j : ThreadNo) : (m.setCore c x).thread j = m.thread j := rfl
@[simp] theorem setCore_ctx (m : Module) (c : Nat) (x : CoreSt) (j : Nat) : (m.setCore c x).ctx j = m.ctx j := rfl
@[simp] theorem setCore_part (m : Module) (c : Nat) (x : CoreSt) (j : Nat) : (m.setCore c x).part j = m.part j := rfl
@[simp] theorem setCore_func (m : Module) (c : Nat) (x : CoreSt) (j : Nat) : (m.setCore c x).func j = m.func j := rfl
@[simp] theorem setCore_port (m : Module) (c : Nat) (x : CoreSt) (j : Nat) : (m.setCore c x).port j = m.port j := rfl
@[simp] theorem setCore_pd (m : Module) (c : Nat) (x : CoreSt) (j : Nat) : (m.setCore c x).pd j = m.pd j := rfl
@[simp] theorem setCore_stripe (m : Module) (c : Nat) (x : CoreSt) (j : Nat) : (m.setCore c x).stripe j = m.stripe j := rfl
@[simp] theorem setCore_core (m : Module) (c : Nat) (x : CoreSt) (j : Nat) :
    (m.setCore c x).core j = if j = c then x else m.core j := by
  simp [setCore, core]

/-! setCtx -/

@[simp] theorem setCtx_boot (m : Module) (i : Nat) (x : Ctx) : (m.setCtx i x).boot = m.boot := rfl
@[simp] theorem setCtx_time (m : Module) (i : Nat) (x : Ctx) : (m.setCtx i x).time = m.time := rfl
@[simp] theorem setCtx_topo (m : Module) (i : Nat) (x : Ctx) : (m.setCtx i x).topo = m.topo := rfl
@[simp] theorem setCtx_fabKey (m : Module) (i : Nat) (x : Ctx) : (m.setCtx i x).fabKey = m.fabKey := rfl
@[simp] theorem setCtx_threads (m : Module) (i : Nat) (x : Ctx) : (m.setCtx i x).threads = m.threads := rfl
@[simp] theorem setCtx_cores (m : Module) (i : Nat) (x : Ctx) : (m.setCtx i x).cores = m.cores := rfl
@[simp] theorem setCtx_csce (m : Module) (i : Nat) (x : Ctx) : (m.setCtx i x).csce = m.csce := rfl
@[simp] theorem setCtx_parts (m : Module) (i : Nat) (x : Ctx) : (m.setCtx i x).parts = m.parts := rfl
@[simp] theorem setCtx_layout (m : Module) (i : Nat) (x : Ctx) : (m.setCtx i x).layout = m.layout := rfl
@[simp] theorem setCtx_funs (m : Module) (i : Nat) (x : Ctx) : (m.setCtx i x).funs = m.funs := rfl
@[simp] theorem setCtx_ports (m : Module) (i : Nat) (x : Ctx) : (m.setCtx i x).ports = m.ports := rfl
@[simp] theorem setCtx_pds (m : Module) (i : Nat) (x : Ctx) : (m.setCtx i x).pds = m.pds := rfl
@[simp] theorem setCtx_fab (m : Module) (i : Nat) (x : Ctx) : (m.setCtx i x).fab = m.fab := rfl
@[simp] theorem setCtx_stripes (m : Module) (i : Nat) (x : Ctx) : (m.setCtx i x).stripes = m.stripes := rfl
@[simp] theorem setCtx_mem (m : Module) (i : Nat) (x : Ctx) : (m.setCtx i x).mem = m.mem := rfl
@[simp] theorem setCtx_valid (m : Module) (i : Nat) (x : Ctx) : (m.setCtx i x).valid = m.valid := rfl
@[simp] theorem setCtx_summary (m : Module) (i : Nat) (x : Ctx) : (m.setCtx i x).summary = m.summary := rfl
@[simp] theorem setCtx_sumBad (m : Module) (i : Nat) (x : Ctx) : (m.setCtx i x).sumBad = m.sumBad := rfl
@[simp] theorem setCtx_bad (m : Module) (i : Nat) (x : Ctx) : (m.setCtx i x).bad = m.bad := rfl
@[simp] theorem setCtx_dramErr (m : Module) (i : Nat) (x : Ctx) : (m.setCtx i x).dramErr = m.dramErr := rfl
@[simp] theorem setCtx_chanErr (m : Module) (i : Nat) (x : Ctx) : (m.setCtx i x).chanErr = m.chanErr := rfl
@[simp] theorem setCtx_sramErr (m : Module) (i : Nat) (x : Ctx) : (m.setCtx i x).sramErr = m.sramErr := rfl
@[simp] theorem setCtx_trainBad (m : Module) (i : Nat) (x : Ctx) : (m.setCtx i x).trainBad = m.trainBad := rfl
@[simp] theorem setCtx_hidKey (m : Module) (i : Nat) (x : Ctx) : (m.setCtx i x).hidKey = m.hidKey := rfl
@[simp] theorem setCtx_tlb (m : Module) (i : Nat) (x : Ctx) : (m.setCtx i x).tlb = m.tlb := rfl
@[simp] theorem setCtx_writes (m : Module) (i : Nat) (x : Ctx) : (m.setCtx i x).writes = m.writes := rfl
@[simp] theorem setCtx_cows (m : Module) (i : Nat) (x : Ctx) : (m.setCtx i x).cows = m.cows := rfl
@[simp] theorem setCtx_ledger (m : Module) (i : Nat) (x : Ctx) : (m.setCtx i x).ledger = m.ledger := rfl
@[simp] theorem setCtx_lease (m : Module) (i : Nat) (x : Ctx) : (m.setCtx i x).lease = m.lease := rfl
@[simp] theorem setCtx_cat (m : Module) (i : Nat) (x : Ctx) : (m.setCtx i x).cat = m.cat := rfl
@[simp] theorem setCtx_tt (m : Module) (i : Nat) (x : Ctx) : (m.setCtx i x).tt = m.tt := rfl
@[simp] theorem setCtx_pm (m : Module) (i : Nat) (x : Ctx) : (m.setCtx i x).pm = m.pm := rfl
@[simp] theorem setCtx_att (m : Module) (i : Nat) (x : Ctx) : (m.setCtx i x).att = m.att := rfl
@[simp] theorem setCtx_bms (m : Module) (i : Nat) (x : Ctx) : (m.setCtx i x).bms = m.bms := rfl
@[simp] theorem setCtx_out (m : Module) (i : Nat) (x : Ctx) : (m.setCtx i x).out = m.out := rfl
@[simp] theorem setCtx_draw (m : Module) (i : Nat) (x : Ctx) : (m.setCtx i x).draw = m.draw := rfl
@[simp] theorem setCtx_thread (m : Module) (i : Nat) (x : Ctx) (j : ThreadNo) : (m.setCtx i x).thread j = m.thread j := rfl
@[simp] theorem setCtx_core (m : Module) (i : Nat) (x : Ctx) (j : Nat) : (m.setCtx i x).core j = m.core j := rfl
@[simp] theorem setCtx_part (m : Module) (i : Nat) (x : Ctx) (j : Nat) : (m.setCtx i x).part j = m.part j := rfl
@[simp] theorem setCtx_func (m : Module) (i : Nat) (x : Ctx) (j : Nat) : (m.setCtx i x).func j = m.func j := rfl
@[simp] theorem setCtx_port (m : Module) (i : Nat) (x : Ctx) (j : Nat) : (m.setCtx i x).port j = m.port j := rfl
@[simp] theorem setCtx_pd (m : Module) (i : Nat) (x : Ctx) (j : Nat) : (m.setCtx i x).pd j = m.pd j := rfl
@[simp] theorem setCtx_stripe (m : Module) (i : Nat) (x : Ctx) (j : Nat) : (m.setCtx i x).stripe j = m.stripe j := rfl
@[simp] theorem setCtx_ctx (m : Module) (i : Nat) (x : Ctx) (j : Nat) :
    (m.setCtx i x).ctx j = if j = i then x else m.ctx j := by
  simp [setCtx, ctx]

/-! setPart -/

@[simp] theorem setPart_boot (m : Module) (p : Nat) (x : Part) : (m.setPart p x).boot = m.boot := rfl
@[simp] theorem setPart_time (m : Module) (p : Nat) (x : Part) : (m.setPart p x).time = m.time := rfl
@[simp] theorem setPart_topo (m : Module) (p : Nat) (x : Part) : (m.setPart p x).topo = m.topo := rfl
@[simp] theorem setPart_fabKey (m : Module) (p : Nat) (x : Part) : (m.setPart p x).fabKey = m.fabKey := rfl
@[simp] theorem setPart_threads (m : Module) (p : Nat) (x : Part) : (m.setPart p x).threads = m.threads := rfl
@[simp] theorem setPart_cores (m : Module) (p : Nat) (x : Part) : (m.setPart p x).cores = m.cores := rfl
@[simp] theorem setPart_csce (m : Module) (p : Nat) (x : Part) : (m.setPart p x).csce = m.csce := rfl
@[simp] theorem setPart_ctxs (m : Module) (p : Nat) (x : Part) : (m.setPart p x).ctxs = m.ctxs := rfl
@[simp] theorem setPart_layout (m : Module) (p : Nat) (x : Part) : (m.setPart p x).layout = m.layout := rfl
@[simp] theorem setPart_funs (m : Module) (p : Nat) (x : Part) : (m.setPart p x).funs = m.funs := rfl
@[simp] theorem setPart_ports (m : Module) (p : Nat) (x : Part) : (m.setPart p x).ports = m.ports := rfl
@[simp] theorem setPart_pds (m : Module) (p : Nat) (x : Part) : (m.setPart p x).pds = m.pds := rfl
@[simp] theorem setPart_fab (m : Module) (p : Nat) (x : Part) : (m.setPart p x).fab = m.fab := rfl
@[simp] theorem setPart_stripes (m : Module) (p : Nat) (x : Part) : (m.setPart p x).stripes = m.stripes := rfl
@[simp] theorem setPart_mem (m : Module) (p : Nat) (x : Part) : (m.setPart p x).mem = m.mem := rfl
@[simp] theorem setPart_valid (m : Module) (p : Nat) (x : Part) : (m.setPart p x).valid = m.valid := rfl
@[simp] theorem setPart_summary (m : Module) (p : Nat) (x : Part) : (m.setPart p x).summary = m.summary := rfl
@[simp] theorem setPart_sumBad (m : Module) (p : Nat) (x : Part) : (m.setPart p x).sumBad = m.sumBad := rfl
@[simp] theorem setPart_bad (m : Module) (p : Nat) (x : Part) : (m.setPart p x).bad = m.bad := rfl
@[simp] theorem setPart_dramErr (m : Module) (p : Nat) (x : Part) : (m.setPart p x).dramErr = m.dramErr := rfl
@[simp] theorem setPart_chanErr (m : Module) (p : Nat) (x : Part) : (m.setPart p x).chanErr = m.chanErr := rfl
@[simp] theorem setPart_sramErr (m : Module) (p : Nat) (x : Part) : (m.setPart p x).sramErr = m.sramErr := rfl
@[simp] theorem setPart_trainBad (m : Module) (p : Nat) (x : Part) : (m.setPart p x).trainBad = m.trainBad := rfl
@[simp] theorem setPart_hidKey (m : Module) (p : Nat) (x : Part) : (m.setPart p x).hidKey = m.hidKey := rfl
@[simp] theorem setPart_tlb (m : Module) (p : Nat) (x : Part) : (m.setPart p x).tlb = m.tlb := rfl
@[simp] theorem setPart_writes (m : Module) (p : Nat) (x : Part) : (m.setPart p x).writes = m.writes := rfl
@[simp] theorem setPart_cows (m : Module) (p : Nat) (x : Part) : (m.setPart p x).cows = m.cows := rfl
@[simp] theorem setPart_ledger (m : Module) (p : Nat) (x : Part) : (m.setPart p x).ledger = m.ledger := rfl
@[simp] theorem setPart_lease (m : Module) (p : Nat) (x : Part) : (m.setPart p x).lease = m.lease := rfl
@[simp] theorem setPart_cat (m : Module) (p : Nat) (x : Part) : (m.setPart p x).cat = m.cat := rfl
@[simp] theorem setPart_tt (m : Module) (p : Nat) (x : Part) : (m.setPart p x).tt = m.tt := rfl
@[simp] theorem setPart_pm (m : Module) (p : Nat) (x : Part) : (m.setPart p x).pm = m.pm := rfl
@[simp] theorem setPart_att (m : Module) (p : Nat) (x : Part) : (m.setPart p x).att = m.att := rfl
@[simp] theorem setPart_bms (m : Module) (p : Nat) (x : Part) : (m.setPart p x).bms = m.bms := rfl
@[simp] theorem setPart_out (m : Module) (p : Nat) (x : Part) : (m.setPart p x).out = m.out := rfl
@[simp] theorem setPart_draw (m : Module) (p : Nat) (x : Part) : (m.setPart p x).draw = m.draw := rfl
@[simp] theorem setPart_thread (m : Module) (p : Nat) (x : Part) (j : ThreadNo) : (m.setPart p x).thread j = m.thread j := rfl
@[simp] theorem setPart_core (m : Module) (p : Nat) (x : Part) (j : Nat) : (m.setPart p x).core j = m.core j := rfl
@[simp] theorem setPart_ctx (m : Module) (p : Nat) (x : Part) (j : Nat) : (m.setPart p x).ctx j = m.ctx j := rfl
@[simp] theorem setPart_func (m : Module) (p : Nat) (x : Part) (j : Nat) : (m.setPart p x).func j = m.func j := rfl
@[simp] theorem setPart_port (m : Module) (p : Nat) (x : Part) (j : Nat) : (m.setPart p x).port j = m.port j := rfl
@[simp] theorem setPart_pd (m : Module) (p : Nat) (x : Part) (j : Nat) : (m.setPart p x).pd j = m.pd j := rfl
@[simp] theorem setPart_stripe (m : Module) (p : Nat) (x : Part) (j : Nat) : (m.setPart p x).stripe j = m.stripe j := rfl
@[simp] theorem setPart_part (m : Module) (p : Nat) (x : Part) (j : Nat) :
    (m.setPart p x).part j = if j = p then x else m.part j := by
  simp [setPart, part]

/-! setFunc -/

@[simp] theorem setFunc_boot (m : Module) (f : Nat) (x : Func) : (m.setFunc f x).boot = m.boot := rfl
@[simp] theorem setFunc_time (m : Module) (f : Nat) (x : Func) : (m.setFunc f x).time = m.time := rfl
@[simp] theorem setFunc_topo (m : Module) (f : Nat) (x : Func) : (m.setFunc f x).topo = m.topo := rfl
@[simp] theorem setFunc_fabKey (m : Module) (f : Nat) (x : Func) : (m.setFunc f x).fabKey = m.fabKey := rfl
@[simp] theorem setFunc_threads (m : Module) (f : Nat) (x : Func) : (m.setFunc f x).threads = m.threads := rfl
@[simp] theorem setFunc_cores (m : Module) (f : Nat) (x : Func) : (m.setFunc f x).cores = m.cores := rfl
@[simp] theorem setFunc_csce (m : Module) (f : Nat) (x : Func) : (m.setFunc f x).csce = m.csce := rfl
@[simp] theorem setFunc_ctxs (m : Module) (f : Nat) (x : Func) : (m.setFunc f x).ctxs = m.ctxs := rfl
@[simp] theorem setFunc_parts (m : Module) (f : Nat) (x : Func) : (m.setFunc f x).parts = m.parts := rfl
@[simp] theorem setFunc_layout (m : Module) (f : Nat) (x : Func) : (m.setFunc f x).layout = m.layout := rfl
@[simp] theorem setFunc_ports (m : Module) (f : Nat) (x : Func) : (m.setFunc f x).ports = m.ports := rfl
@[simp] theorem setFunc_pds (m : Module) (f : Nat) (x : Func) : (m.setFunc f x).pds = m.pds := rfl
@[simp] theorem setFunc_fab (m : Module) (f : Nat) (x : Func) : (m.setFunc f x).fab = m.fab := rfl
@[simp] theorem setFunc_stripes (m : Module) (f : Nat) (x : Func) : (m.setFunc f x).stripes = m.stripes := rfl
@[simp] theorem setFunc_mem (m : Module) (f : Nat) (x : Func) : (m.setFunc f x).mem = m.mem := rfl
@[simp] theorem setFunc_valid (m : Module) (f : Nat) (x : Func) : (m.setFunc f x).valid = m.valid := rfl
@[simp] theorem setFunc_summary (m : Module) (f : Nat) (x : Func) : (m.setFunc f x).summary = m.summary := rfl
@[simp] theorem setFunc_sumBad (m : Module) (f : Nat) (x : Func) : (m.setFunc f x).sumBad = m.sumBad := rfl
@[simp] theorem setFunc_bad (m : Module) (f : Nat) (x : Func) : (m.setFunc f x).bad = m.bad := rfl
@[simp] theorem setFunc_dramErr (m : Module) (f : Nat) (x : Func) : (m.setFunc f x).dramErr = m.dramErr := rfl
@[simp] theorem setFunc_chanErr (m : Module) (f : Nat) (x : Func) : (m.setFunc f x).chanErr = m.chanErr := rfl
@[simp] theorem setFunc_sramErr (m : Module) (f : Nat) (x : Func) : (m.setFunc f x).sramErr = m.sramErr := rfl
@[simp] theorem setFunc_trainBad (m : Module) (f : Nat) (x : Func) : (m.setFunc f x).trainBad = m.trainBad := rfl
@[simp] theorem setFunc_hidKey (m : Module) (f : Nat) (x : Func) : (m.setFunc f x).hidKey = m.hidKey := rfl
@[simp] theorem setFunc_tlb (m : Module) (f : Nat) (x : Func) : (m.setFunc f x).tlb = m.tlb := rfl
@[simp] theorem setFunc_writes (m : Module) (f : Nat) (x : Func) : (m.setFunc f x).writes = m.writes := rfl
@[simp] theorem setFunc_cows (m : Module) (f : Nat) (x : Func) : (m.setFunc f x).cows = m.cows := rfl
@[simp] theorem setFunc_ledger (m : Module) (f : Nat) (x : Func) : (m.setFunc f x).ledger = m.ledger := rfl
@[simp] theorem setFunc_lease (m : Module) (f : Nat) (x : Func) : (m.setFunc f x).lease = m.lease := rfl
@[simp] theorem setFunc_cat (m : Module) (f : Nat) (x : Func) : (m.setFunc f x).cat = m.cat := rfl
@[simp] theorem setFunc_tt (m : Module) (f : Nat) (x : Func) : (m.setFunc f x).tt = m.tt := rfl
@[simp] theorem setFunc_pm (m : Module) (f : Nat) (x : Func) : (m.setFunc f x).pm = m.pm := rfl
@[simp] theorem setFunc_att (m : Module) (f : Nat) (x : Func) : (m.setFunc f x).att = m.att := rfl
@[simp] theorem setFunc_bms (m : Module) (f : Nat) (x : Func) : (m.setFunc f x).bms = m.bms := rfl
@[simp] theorem setFunc_out (m : Module) (f : Nat) (x : Func) : (m.setFunc f x).out = m.out := rfl
@[simp] theorem setFunc_draw (m : Module) (f : Nat) (x : Func) : (m.setFunc f x).draw = m.draw := rfl
@[simp] theorem setFunc_thread (m : Module) (f : Nat) (x : Func) (j : ThreadNo) : (m.setFunc f x).thread j = m.thread j := rfl
@[simp] theorem setFunc_core (m : Module) (f : Nat) (x : Func) (j : Nat) : (m.setFunc f x).core j = m.core j := rfl
@[simp] theorem setFunc_ctx (m : Module) (f : Nat) (x : Func) (j : Nat) : (m.setFunc f x).ctx j = m.ctx j := rfl
@[simp] theorem setFunc_part (m : Module) (f : Nat) (x : Func) (j : Nat) : (m.setFunc f x).part j = m.part j := rfl
@[simp] theorem setFunc_port (m : Module) (f : Nat) (x : Func) (j : Nat) : (m.setFunc f x).port j = m.port j := rfl
@[simp] theorem setFunc_pd (m : Module) (f : Nat) (x : Func) (j : Nat) : (m.setFunc f x).pd j = m.pd j := rfl
@[simp] theorem setFunc_stripe (m : Module) (f : Nat) (x : Func) (j : Nat) : (m.setFunc f x).stripe j = m.stripe j := rfl
@[simp] theorem setFunc_func (m : Module) (f : Nat) (x : Func) (j : Nat) :
    (m.setFunc f x).func j = if j = f then x else m.func j := by
  simp [setFunc, func]

/-! setPort -/

@[simp] theorem setPort_boot (m : Module) (n : Nat) (x : Port) : (m.setPort n x).boot = m.boot := rfl
@[simp] theorem setPort_time (m : Module) (n : Nat) (x : Port) : (m.setPort n x).time = m.time := rfl
@[simp] theorem setPort_topo (m : Module) (n : Nat) (x : Port) : (m.setPort n x).topo = m.topo := rfl
@[simp] theorem setPort_fabKey (m : Module) (n : Nat) (x : Port) : (m.setPort n x).fabKey = m.fabKey := rfl
@[simp] theorem setPort_threads (m : Module) (n : Nat) (x : Port) : (m.setPort n x).threads = m.threads := rfl
@[simp] theorem setPort_cores (m : Module) (n : Nat) (x : Port) : (m.setPort n x).cores = m.cores := rfl
@[simp] theorem setPort_csce (m : Module) (n : Nat) (x : Port) : (m.setPort n x).csce = m.csce := rfl
@[simp] theorem setPort_ctxs (m : Module) (n : Nat) (x : Port) : (m.setPort n x).ctxs = m.ctxs := rfl
@[simp] theorem setPort_parts (m : Module) (n : Nat) (x : Port) : (m.setPort n x).parts = m.parts := rfl
@[simp] theorem setPort_layout (m : Module) (n : Nat) (x : Port) : (m.setPort n x).layout = m.layout := rfl
@[simp] theorem setPort_funs (m : Module) (n : Nat) (x : Port) : (m.setPort n x).funs = m.funs := rfl
@[simp] theorem setPort_pds (m : Module) (n : Nat) (x : Port) : (m.setPort n x).pds = m.pds := rfl
@[simp] theorem setPort_fab (m : Module) (n : Nat) (x : Port) : (m.setPort n x).fab = m.fab := rfl
@[simp] theorem setPort_stripes (m : Module) (n : Nat) (x : Port) : (m.setPort n x).stripes = m.stripes := rfl
@[simp] theorem setPort_mem (m : Module) (n : Nat) (x : Port) : (m.setPort n x).mem = m.mem := rfl
@[simp] theorem setPort_valid (m : Module) (n : Nat) (x : Port) : (m.setPort n x).valid = m.valid := rfl
@[simp] theorem setPort_summary (m : Module) (n : Nat) (x : Port) : (m.setPort n x).summary = m.summary := rfl
@[simp] theorem setPort_sumBad (m : Module) (n : Nat) (x : Port) : (m.setPort n x).sumBad = m.sumBad := rfl
@[simp] theorem setPort_bad (m : Module) (n : Nat) (x : Port) : (m.setPort n x).bad = m.bad := rfl
@[simp] theorem setPort_dramErr (m : Module) (n : Nat) (x : Port) : (m.setPort n x).dramErr = m.dramErr := rfl
@[simp] theorem setPort_chanErr (m : Module) (n : Nat) (x : Port) : (m.setPort n x).chanErr = m.chanErr := rfl
@[simp] theorem setPort_sramErr (m : Module) (n : Nat) (x : Port) : (m.setPort n x).sramErr = m.sramErr := rfl
@[simp] theorem setPort_trainBad (m : Module) (n : Nat) (x : Port) : (m.setPort n x).trainBad = m.trainBad := rfl
@[simp] theorem setPort_hidKey (m : Module) (n : Nat) (x : Port) : (m.setPort n x).hidKey = m.hidKey := rfl
@[simp] theorem setPort_tlb (m : Module) (n : Nat) (x : Port) : (m.setPort n x).tlb = m.tlb := rfl
@[simp] theorem setPort_writes (m : Module) (n : Nat) (x : Port) : (m.setPort n x).writes = m.writes := rfl
@[simp] theorem setPort_cows (m : Module) (n : Nat) (x : Port) : (m.setPort n x).cows = m.cows := rfl
@[simp] theorem setPort_ledger (m : Module) (n : Nat) (x : Port) : (m.setPort n x).ledger = m.ledger := rfl
@[simp] theorem setPort_lease (m : Module) (n : Nat) (x : Port) : (m.setPort n x).lease = m.lease := rfl
@[simp] theorem setPort_cat (m : Module) (n : Nat) (x : Port) : (m.setPort n x).cat = m.cat := rfl
@[simp] theorem setPort_tt (m : Module) (n : Nat) (x : Port) : (m.setPort n x).tt = m.tt := rfl
@[simp] theorem setPort_pm (m : Module) (n : Nat) (x : Port) : (m.setPort n x).pm = m.pm := rfl
@[simp] theorem setPort_att (m : Module) (n : Nat) (x : Port) : (m.setPort n x).att = m.att := rfl
@[simp] theorem setPort_bms (m : Module) (n : Nat) (x : Port) : (m.setPort n x).bms = m.bms := rfl
@[simp] theorem setPort_out (m : Module) (n : Nat) (x : Port) : (m.setPort n x).out = m.out := rfl
@[simp] theorem setPort_draw (m : Module) (n : Nat) (x : Port) : (m.setPort n x).draw = m.draw := rfl
@[simp] theorem setPort_thread (m : Module) (n : Nat) (x : Port) (j : ThreadNo) : (m.setPort n x).thread j = m.thread j := rfl
@[simp] theorem setPort_core (m : Module) (n : Nat) (x : Port) (j : Nat) : (m.setPort n x).core j = m.core j := rfl
@[simp] theorem setPort_ctx (m : Module) (n : Nat) (x : Port) (j : Nat) : (m.setPort n x).ctx j = m.ctx j := rfl
@[simp] theorem setPort_part (m : Module) (n : Nat) (x : Port) (j : Nat) : (m.setPort n x).part j = m.part j := rfl
@[simp] theorem setPort_func (m : Module) (n : Nat) (x : Port) (j : Nat) : (m.setPort n x).func j = m.func j := rfl
@[simp] theorem setPort_pd (m : Module) (n : Nat) (x : Port) (j : Nat) : (m.setPort n x).pd j = m.pd j := rfl
@[simp] theorem setPort_stripe (m : Module) (n : Nat) (x : Port) (j : Nat) : (m.setPort n x).stripe j = m.stripe j := rfl
@[simp] theorem setPort_port (m : Module) (n : Nat) (x : Port) (j : Nat) :
    (m.setPort n x).port j = if j = n then x else m.port j := by
  simp [setPort, port]

/-! updPd -/

@[simp] theorem updPd_boot (m : Module) (n : Nat) (g : PortDie → PortDie) : (m.updPd n g).boot = m.boot := rfl
@[simp] theorem updPd_time (m : Module) (n : Nat) (g : PortDie → PortDie) : (m.updPd n g).time = m.time := rfl
@[simp] theorem updPd_topo (m : Module) (n : Nat) (g : PortDie → PortDie) : (m.updPd n g).topo = m.topo := rfl
@[simp] theorem updPd_fabKey (m : Module) (n : Nat) (g : PortDie → PortDie) : (m.updPd n g).fabKey = m.fabKey := rfl
@[simp] theorem updPd_threads (m : Module) (n : Nat) (g : PortDie → PortDie) : (m.updPd n g).threads = m.threads := rfl
@[simp] theorem updPd_cores (m : Module) (n : Nat) (g : PortDie → PortDie) : (m.updPd n g).cores = m.cores := rfl
@[simp] theorem updPd_csce (m : Module) (n : Nat) (g : PortDie → PortDie) : (m.updPd n g).csce = m.csce := rfl
@[simp] theorem updPd_ctxs (m : Module) (n : Nat) (g : PortDie → PortDie) : (m.updPd n g).ctxs = m.ctxs := rfl
@[simp] theorem updPd_parts (m : Module) (n : Nat) (g : PortDie → PortDie) : (m.updPd n g).parts = m.parts := rfl
@[simp] theorem updPd_layout (m : Module) (n : Nat) (g : PortDie → PortDie) : (m.updPd n g).layout = m.layout := rfl
@[simp] theorem updPd_funs (m : Module) (n : Nat) (g : PortDie → PortDie) : (m.updPd n g).funs = m.funs := rfl
@[simp] theorem updPd_ports (m : Module) (n : Nat) (g : PortDie → PortDie) : (m.updPd n g).ports = m.ports := rfl
@[simp] theorem updPd_fab (m : Module) (n : Nat) (g : PortDie → PortDie) : (m.updPd n g).fab = m.fab := rfl
@[simp] theorem updPd_stripes (m : Module) (n : Nat) (g : PortDie → PortDie) : (m.updPd n g).stripes = m.stripes := rfl
@[simp] theorem updPd_mem (m : Module) (n : Nat) (g : PortDie → PortDie) : (m.updPd n g).mem = m.mem := rfl
@[simp] theorem updPd_valid (m : Module) (n : Nat) (g : PortDie → PortDie) : (m.updPd n g).valid = m.valid := rfl
@[simp] theorem updPd_summary (m : Module) (n : Nat) (g : PortDie → PortDie) : (m.updPd n g).summary = m.summary := rfl
@[simp] theorem updPd_sumBad (m : Module) (n : Nat) (g : PortDie → PortDie) : (m.updPd n g).sumBad = m.sumBad := rfl
@[simp] theorem updPd_bad (m : Module) (n : Nat) (g : PortDie → PortDie) : (m.updPd n g).bad = m.bad := rfl
@[simp] theorem updPd_dramErr (m : Module) (n : Nat) (g : PortDie → PortDie) : (m.updPd n g).dramErr = m.dramErr := rfl
@[simp] theorem updPd_chanErr (m : Module) (n : Nat) (g : PortDie → PortDie) : (m.updPd n g).chanErr = m.chanErr := rfl
@[simp] theorem updPd_sramErr (m : Module) (n : Nat) (g : PortDie → PortDie) : (m.updPd n g).sramErr = m.sramErr := rfl
@[simp] theorem updPd_trainBad (m : Module) (n : Nat) (g : PortDie → PortDie) : (m.updPd n g).trainBad = m.trainBad := rfl
@[simp] theorem updPd_hidKey (m : Module) (n : Nat) (g : PortDie → PortDie) : (m.updPd n g).hidKey = m.hidKey := rfl
@[simp] theorem updPd_tlb (m : Module) (n : Nat) (g : PortDie → PortDie) : (m.updPd n g).tlb = m.tlb := rfl
@[simp] theorem updPd_writes (m : Module) (n : Nat) (g : PortDie → PortDie) : (m.updPd n g).writes = m.writes := rfl
@[simp] theorem updPd_cows (m : Module) (n : Nat) (g : PortDie → PortDie) : (m.updPd n g).cows = m.cows := rfl
@[simp] theorem updPd_ledger (m : Module) (n : Nat) (g : PortDie → PortDie) : (m.updPd n g).ledger = m.ledger := rfl
@[simp] theorem updPd_lease (m : Module) (n : Nat) (g : PortDie → PortDie) : (m.updPd n g).lease = m.lease := rfl
@[simp] theorem updPd_cat (m : Module) (n : Nat) (g : PortDie → PortDie) : (m.updPd n g).cat = m.cat := rfl
@[simp] theorem updPd_tt (m : Module) (n : Nat) (g : PortDie → PortDie) : (m.updPd n g).tt = m.tt := rfl
@[simp] theorem updPd_pm (m : Module) (n : Nat) (g : PortDie → PortDie) : (m.updPd n g).pm = m.pm := rfl
@[simp] theorem updPd_att (m : Module) (n : Nat) (g : PortDie → PortDie) : (m.updPd n g).att = m.att := rfl
@[simp] theorem updPd_bms (m : Module) (n : Nat) (g : PortDie → PortDie) : (m.updPd n g).bms = m.bms := rfl
@[simp] theorem updPd_out (m : Module) (n : Nat) (g : PortDie → PortDie) : (m.updPd n g).out = m.out := rfl
@[simp] theorem updPd_draw (m : Module) (n : Nat) (g : PortDie → PortDie) : (m.updPd n g).draw = m.draw := rfl
@[simp] theorem updPd_thread (m : Module) (n : Nat) (g : PortDie → PortDie) (j : ThreadNo) : (m.updPd n g).thread j = m.thread j := rfl
@[simp] theorem updPd_core (m : Module) (n : Nat) (g : PortDie → PortDie) (j : Nat) : (m.updPd n g).core j = m.core j := rfl
@[simp] theorem updPd_ctx (m : Module) (n : Nat) (g : PortDie → PortDie) (j : Nat) : (m.updPd n g).ctx j = m.ctx j := rfl
@[simp] theorem updPd_part (m : Module) (n : Nat) (g : PortDie → PortDie) (j : Nat) : (m.updPd n g).part j = m.part j := rfl
@[simp] theorem updPd_func (m : Module) (n : Nat) (g : PortDie → PortDie) (j : Nat) : (m.updPd n g).func j = m.func j := rfl
@[simp] theorem updPd_port (m : Module) (n : Nat) (g : PortDie → PortDie) (j : Nat) : (m.updPd n g).port j = m.port j := rfl
@[simp] theorem updPd_stripe (m : Module) (n : Nat) (g : PortDie → PortDie) (j : Nat) : (m.updPd n g).stripe j = m.stripe j := rfl
@[simp] theorem updPd_pd (m : Module) (n : Nat) (g : PortDie → PortDie) (j : Nat) :
    (m.updPd n g).pd j = if j = n then g (m.pd n) else m.pd j := by
  simp [updPd, pd]

/-! updStripe -/

@[simp] theorem updStripe_boot (m : Module) (k : Nat) (g : Stripe → Stripe) : (m.updStripe k g).boot = m.boot := rfl
@[simp] theorem updStripe_time (m : Module) (k : Nat) (g : Stripe → Stripe) : (m.updStripe k g).time = m.time := rfl
@[simp] theorem updStripe_topo (m : Module) (k : Nat) (g : Stripe → Stripe) : (m.updStripe k g).topo = m.topo := rfl
@[simp] theorem updStripe_fabKey (m : Module) (k : Nat) (g : Stripe → Stripe) : (m.updStripe k g).fabKey = m.fabKey := rfl
@[simp] theorem updStripe_threads (m : Module) (k : Nat) (g : Stripe → Stripe) : (m.updStripe k g).threads = m.threads := rfl
@[simp] theorem updStripe_cores (m : Module) (k : Nat) (g : Stripe → Stripe) : (m.updStripe k g).cores = m.cores := rfl
@[simp] theorem updStripe_csce (m : Module) (k : Nat) (g : Stripe → Stripe) : (m.updStripe k g).csce = m.csce := rfl
@[simp] theorem updStripe_ctxs (m : Module) (k : Nat) (g : Stripe → Stripe) : (m.updStripe k g).ctxs = m.ctxs := rfl
@[simp] theorem updStripe_parts (m : Module) (k : Nat) (g : Stripe → Stripe) : (m.updStripe k g).parts = m.parts := rfl
@[simp] theorem updStripe_layout (m : Module) (k : Nat) (g : Stripe → Stripe) : (m.updStripe k g).layout = m.layout := rfl
@[simp] theorem updStripe_funs (m : Module) (k : Nat) (g : Stripe → Stripe) : (m.updStripe k g).funs = m.funs := rfl
@[simp] theorem updStripe_ports (m : Module) (k : Nat) (g : Stripe → Stripe) : (m.updStripe k g).ports = m.ports := rfl
@[simp] theorem updStripe_pds (m : Module) (k : Nat) (g : Stripe → Stripe) : (m.updStripe k g).pds = m.pds := rfl
@[simp] theorem updStripe_fab (m : Module) (k : Nat) (g : Stripe → Stripe) : (m.updStripe k g).fab = m.fab := rfl
@[simp] theorem updStripe_mem (m : Module) (k : Nat) (g : Stripe → Stripe) : (m.updStripe k g).mem = m.mem := rfl
@[simp] theorem updStripe_valid (m : Module) (k : Nat) (g : Stripe → Stripe) : (m.updStripe k g).valid = m.valid := rfl
@[simp] theorem updStripe_summary (m : Module) (k : Nat) (g : Stripe → Stripe) : (m.updStripe k g).summary = m.summary := rfl
@[simp] theorem updStripe_sumBad (m : Module) (k : Nat) (g : Stripe → Stripe) : (m.updStripe k g).sumBad = m.sumBad := rfl
@[simp] theorem updStripe_bad (m : Module) (k : Nat) (g : Stripe → Stripe) : (m.updStripe k g).bad = m.bad := rfl
@[simp] theorem updStripe_dramErr (m : Module) (k : Nat) (g : Stripe → Stripe) : (m.updStripe k g).dramErr = m.dramErr := rfl
@[simp] theorem updStripe_chanErr (m : Module) (k : Nat) (g : Stripe → Stripe) : (m.updStripe k g).chanErr = m.chanErr := rfl
@[simp] theorem updStripe_sramErr (m : Module) (k : Nat) (g : Stripe → Stripe) : (m.updStripe k g).sramErr = m.sramErr := rfl
@[simp] theorem updStripe_trainBad (m : Module) (k : Nat) (g : Stripe → Stripe) : (m.updStripe k g).trainBad = m.trainBad := rfl
@[simp] theorem updStripe_hidKey (m : Module) (k : Nat) (g : Stripe → Stripe) : (m.updStripe k g).hidKey = m.hidKey := rfl
@[simp] theorem updStripe_tlb (m : Module) (k : Nat) (g : Stripe → Stripe) : (m.updStripe k g).tlb = m.tlb := rfl
@[simp] theorem updStripe_writes (m : Module) (k : Nat) (g : Stripe → Stripe) : (m.updStripe k g).writes = m.writes := rfl
@[simp] theorem updStripe_cows (m : Module) (k : Nat) (g : Stripe → Stripe) : (m.updStripe k g).cows = m.cows := rfl
@[simp] theorem updStripe_ledger (m : Module) (k : Nat) (g : Stripe → Stripe) : (m.updStripe k g).ledger = m.ledger := rfl
@[simp] theorem updStripe_lease (m : Module) (k : Nat) (g : Stripe → Stripe) : (m.updStripe k g).lease = m.lease := rfl
@[simp] theorem updStripe_cat (m : Module) (k : Nat) (g : Stripe → Stripe) : (m.updStripe k g).cat = m.cat := rfl
@[simp] theorem updStripe_tt (m : Module) (k : Nat) (g : Stripe → Stripe) : (m.updStripe k g).tt = m.tt := rfl
@[simp] theorem updStripe_pm (m : Module) (k : Nat) (g : Stripe → Stripe) : (m.updStripe k g).pm = m.pm := rfl
@[simp] theorem updStripe_att (m : Module) (k : Nat) (g : Stripe → Stripe) : (m.updStripe k g).att = m.att := rfl
@[simp] theorem updStripe_bms (m : Module) (k : Nat) (g : Stripe → Stripe) : (m.updStripe k g).bms = m.bms := rfl
@[simp] theorem updStripe_out (m : Module) (k : Nat) (g : Stripe → Stripe) : (m.updStripe k g).out = m.out := rfl
@[simp] theorem updStripe_draw (m : Module) (k : Nat) (g : Stripe → Stripe) : (m.updStripe k g).draw = m.draw := rfl
@[simp] theorem updStripe_thread (m : Module) (k : Nat) (g : Stripe → Stripe) (j : ThreadNo) : (m.updStripe k g).thread j = m.thread j := rfl
@[simp] theorem updStripe_core (m : Module) (k : Nat) (g : Stripe → Stripe) (j : Nat) : (m.updStripe k g).core j = m.core j := rfl
@[simp] theorem updStripe_ctx (m : Module) (k : Nat) (g : Stripe → Stripe) (j : Nat) : (m.updStripe k g).ctx j = m.ctx j := rfl
@[simp] theorem updStripe_part (m : Module) (k : Nat) (g : Stripe → Stripe) (j : Nat) : (m.updStripe k g).part j = m.part j := rfl
@[simp] theorem updStripe_func (m : Module) (k : Nat) (g : Stripe → Stripe) (j : Nat) : (m.updStripe k g).func j = m.func j := rfl
@[simp] theorem updStripe_port (m : Module) (k : Nat) (g : Stripe → Stripe) (j : Nat) : (m.updStripe k g).port j = m.port j := rfl
@[simp] theorem updStripe_pd (m : Module) (k : Nat) (g : Stripe → Stripe) (j : Nat) : (m.updStripe k g).pd j = m.pd j := rfl
@[simp] theorem updStripe_stripe (m : Module) (k : Nat) (g : Stripe → Stripe) (j : Nat) :
    (m.updStripe k g).stripe j = if j = k then g (m.stripe k) else m.stripe j := by
  simp [updStripe, stripe]


/-! The stamp, the queue of the Librarian and what depends on few fields -/

@[simp] theorem setThread_now (m : Module) (t : ThreadNo) (x : Thread) : (m.setThread t x).now = m.now := rfl
@[simp] theorem setThread_on (m : Module) (t : ThreadNo) (x : Thread) : (m.setThread t x).on = m.on := rfl
@[simp] theorem setThread_islandStamp (m : Module) (t : ThreadNo) (x : Thread) (j : Nat) : (m.setThread t x).islandStamp j = m.islandStamp j := rfl
@[simp] theorem setThread_num (m : Module) (t : ThreadNo) (x : Thread) : (m.setThread t x).num = m.num := rfl
@[simp] theorem setCore_now (m : Module) (c : Nat) (x : CoreSt) : (m.setCore c x).now = m.now := rfl
@[simp] theorem setCore_on (m : Module) (c : Nat) (x : CoreSt) : (m.setCore c x).on = m.on := rfl
@[simp] theorem setCore_islandStamp (m : Module) (c : Nat) (x : CoreSt) (j : Nat) : (m.setCore c x).islandStamp j = m.islandStamp j := rfl
@[simp] theorem setCore_num (m : Module) (c : Nat) (x : CoreSt) : (m.setCore c x).num = m.num := rfl
@[simp] theorem setCtx_now (m : Module) (i : Nat) (x : Ctx) : (m.setCtx i x).now = m.now := rfl
@[simp] theorem setCtx_on (m : Module) (i : Nat) (x : Ctx) : (m.setCtx i x).on = m.on := rfl
@[simp] theorem setCtx_islandStamp (m : Module) (i : Nat) (x : Ctx) (j : Nat) : (m.setCtx i x).islandStamp j = m.islandStamp j := rfl
@[simp] theorem setCtx_num (m : Module) (i : Nat) (x : Ctx) : (m.setCtx i x).num = m.num := rfl
@[simp] theorem setPart_now (m : Module) (p : Nat) (x : Part) : (m.setPart p x).now = m.now := rfl
@[simp] theorem setPart_on (m : Module) (p : Nat) (x : Part) : (m.setPart p x).on = m.on := rfl
@[simp] theorem setPart_islandStamp (m : Module) (p : Nat) (x : Part) (j : Nat) : (m.setPart p x).islandStamp j = m.islandStamp j := rfl
@[simp] theorem setPart_num (m : Module) (p : Nat) (x : Part) : (m.setPart p x).num = m.num := rfl
@[simp] theorem setFunc_now (m : Module) (f : Nat) (x : Func) : (m.setFunc f x).now = m.now := rfl
@[simp] theorem setFunc_on (m : Module) (f : Nat) (x : Func) : (m.setFunc f x).on = m.on := rfl
@[simp] theorem setFunc_islandStamp (m : Module) (f : Nat) (x : Func) (j : Nat) : (m.setFunc f x).islandStamp j = m.islandStamp j := rfl
@[simp] theorem setFunc_num (m : Module) (f : Nat) (x : Func) : (m.setFunc f x).num = m.num := rfl
@[simp] theorem setPort_now (m : Module) (n : Nat) (x : Port) : (m.setPort n x).now = m.now := rfl
@[simp] theorem setPort_on (m : Module) (n : Nat) (x : Port) : (m.setPort n x).on = m.on := rfl
@[simp] theorem setPort_islandStamp (m : Module) (n : Nat) (x : Port) (j : Nat) : (m.setPort n x).islandStamp j = m.islandStamp j := rfl
@[simp] theorem setPort_num (m : Module) (n : Nat) (x : Port) : (m.setPort n x).num = m.num := rfl
@[simp] theorem updPd_now (m : Module) (n : Nat) (g : PortDie → PortDie) : (m.updPd n g).now = m.now := rfl
@[simp] theorem updPd_on (m : Module) (n : Nat) (g : PortDie → PortDie) : (m.updPd n g).on = m.on := rfl
@[simp] theorem updPd_islandStamp (m : Module) (n : Nat) (g : PortDie → PortDie) (j : Nat) : (m.updPd n g).islandStamp j = m.islandStamp j := rfl
@[simp] theorem updPd_num (m : Module) (n : Nat) (g : PortDie → PortDie) : (m.updPd n g).num = m.num := rfl
@[simp] theorem updStripe_now (m : Module) (k : Nat) (g : Stripe → Stripe) : (m.updStripe k g).now = m.now := rfl
@[simp] theorem updStripe_on (m : Module) (k : Nat) (g : Stripe → Stripe) : (m.updStripe k g).on = m.on := rfl
@[simp] theorem updStripe_islandStamp (m : Module) (k : Nat) (g : Stripe → Stripe) (j : Nat) : (m.updStripe k g).islandStamp j = m.islandStamp j := rfl
@[simp] theorem updStripe_num (m : Module) (k : Nat) (g : Stripe → Stripe) : (m.updStripe k g).num = m.num := rfl

end Module

/-! General registers -/

@[simp] theorem Thread.reg_zero (x : Thread) : x.reg 0 = 0 := rfl

@[simp] theorem Thread.mark_zero (x : Thread) : x.mark 0 = false := rfl

theorem Thread.setReg_reg (x : Thread) (r q : Reg) (v : Word) (bad : Bool) :
    (x.setReg r v bad).reg q = if q = r ∧ q ≠ 0 then v else x.reg q := by
  by_cases hr : r = 0
  · subst hr; by_cases hq : q = 0 <;> simp [Thread.setReg, Thread.reg, hq]
  · by_cases hq : q = 0
    · simp [Thread.reg, hq]
    · simp only [Thread.setReg, if_neg hr, Thread.reg, if_neg hq, Sparse.get_set, BitVec.toNat_inj]
      have hr' : ¬r = 0#6 := hr
      by_cases hqr : q = r <;> simp [hqr, hr']

theorem Thread.setReg_mark (x : Thread) (r q : Reg) (v : Word) (bad : Bool) :
    (x.setReg r v bad).mark q = if q = r ∧ q ≠ 0 then bad else x.mark q := by
  by_cases hr : r = 0
  · subst hr; by_cases hq : q = 0 <;> simp [Thread.setReg, Thread.mark, hq]
  · by_cases hq : q = 0
    · simp [Thread.mark, hq]
    · simp only [Thread.setReg, if_neg hr, Thread.mark, NatSet.has_put, BitVec.toNat_inj]
      have hr' : ¬r = 0#6 := hr
      by_cases hqr : q = r <;> simp [hqr, hr']

@[simp] theorem Thread.setReg_running (x : Thread) (r : Reg) (v : Word) (bad : Bool) : (x.setReg r v bad).running = x.running := by
  unfold Thread.setReg; split <;> rfl
@[simp] theorem Thread.setReg_pc (x : Thread) (r : Reg) (v : Word) (bad : Bool) : (x.setReg r v bad).pc = x.pc := by
  unfold Thread.setReg; split <;> rfl
@[simp] theorem Thread.setReg_pfx (x : Thread) (r : Reg) (v : Word) (bad : Bool) : (x.setReg r v bad).pfx = x.pfx := by
  unfold Thread.setReg; split <;> rfl
@[simp] theorem Thread.setReg_held (x : Thread) (r : Reg) (v : Word) (bad : Bool) : (x.setReg r v bad).held = x.held := by
  unfold Thread.setReg; split <;> rfl
@[simp] theorem Thread.setReg_load (x : Thread) (r : Reg) (v : Word) (bad : Bool) : (x.setReg r v bad).load = x.load := by
  unfold Thread.setReg; split <;> rfl
@[simp] theorem Thread.setReg_outCmds (x : Thread) (r : Reg) (v : Word) (bad : Bool) : (x.setReg r v bad).outCmds = x.outCmds := by
  unfold Thread.setReg; split <;> rfl
@[simp] theorem Thread.setReg_stall (x : Thread) (r : Reg) (v : Word) (bad : Bool) : (x.setReg r v bad).stall = x.stall := by
  unfold Thread.setReg; split <;> rfl

end Sys2Proof.Machine
end

