-- ==== Sys2Proof/Laws/Frames.lean ====
section
/-! SUPPORT. What the shared operations leave alone: each is the module it is given with a few fields changed, and every
other field reads as before. -/

namespace Sys2Proof.Machine

variable {m : Module}

/-- The second module is the first after reads of the memories: errors met, marks, counters and entries. -/
def ReadOf (m x : Module) : Prop :=
  ∃ a b c d e f g h i j k, x =
    { m with
      mem := a, bad := b, dramErr := c, stripes := d, cores := e, csce := f, sramErr := g, sumBad := h, draw := i,
      ledger := j, out := k }

/-- A loop of steps that change only the ports and what is sent changes only those. -/
theorem foldl_wires {α : Type} (f : Module → α → Module)
    (h : ∀ m a, ∃ p o, f m a = { m with ports := p, out := o }) (l : List α) (m : Module) :
    ∃ p o, l.foldl f m = { m with ports := p, out := o } := by
  induction l generalizing m with
  | nil => exact ⟨m.ports, m.out, rfl⟩
  | cons a l ih =>
    obtain ⟨p, o, e⟩ := h m a
    obtain ⟨p', o', e'⟩ := ih (f m a)
    rw [List.foldl_cons, e', e]; exact ⟨p', o', rfl⟩

theorem irq_frame (f v : Nat) :
    ∃ y0, irq f v m = { m with out := y0 } := ⟨_, rfl⟩

@[simp] theorem irq_same (f v : Nat) :
    (irq f v m).boot = m.boot ∧ (irq f v m).time = m.time ∧ (irq f v m).topo = m.topo ∧
    (irq f v m).fabKey = m.fabKey ∧ (irq f v m).threads = m.threads ∧ (irq f v m).cores = m.cores ∧
    (irq f v m).csce = m.csce ∧ (irq f v m).ctxs = m.ctxs ∧ (irq f v m).parts = m.parts ∧
    (irq f v m).layout = m.layout ∧ (irq f v m).funs = m.funs ∧ (irq f v m).ports = m.ports ∧
    (irq f v m).pds = m.pds ∧ (irq f v m).fab = m.fab ∧ (irq f v m).stripes = m.stripes ∧ (irq f v m).mem = m.mem ∧
    (irq f v m).valid = m.valid ∧ (irq f v m).summary = m.summary ∧ (irq f v m).sumBad = m.sumBad ∧
    (irq f v m).bad = m.bad ∧ (irq f v m).dramErr = m.dramErr ∧ (irq f v m).chanErr = m.chanErr ∧
    (irq f v m).sramErr = m.sramErr ∧ (irq f v m).trainBad = m.trainBad ∧ (irq f v m).hidKey = m.hidKey ∧
    (irq f v m).tlb = m.tlb ∧ (irq f v m).writes = m.writes ∧ (irq f v m).cows = m.cows ∧
    (irq f v m).ledger = m.ledger ∧ (irq f v m).lease = m.lease ∧ (irq f v m).cat = m.cat ∧ (irq f v m).tt = m.tt ∧
    (irq f v m).pm = m.pm ∧ (irq f v m).att = m.att ∧ (irq f v m).bms = m.bms ∧ (irq f v m).draw = m.draw := by
  obtain ⟨_, h⟩ := irq_frame (m := m) f v
  simp only [h, and_self]

@[simp] theorem irq_parts (f v : Nat) :
    (∀ j, (irq f v m).thread j = m.thread j) ∧ (∀ j, (irq f v m).core j = m.core j) ∧
    (∀ j, (irq f v m).ctx j = m.ctx j) ∧ (∀ j, (irq f v m).part j = m.part j) ∧
    (∀ j, (irq f v m).func j = m.func j) ∧ (∀ j, (irq f v m).port j = m.port j) ∧ (∀ j, (irq f v m).pd j = m.pd j) ∧
    (∀ j, (irq f v m).stripe j = m.stripe j) ∧ (irq f v m).now = m.now ∧ (irq f v m).on = m.on := by
  obtain ⟨_, h⟩ := irq_frame (m := m) f v
  rw [h]
  exact ⟨fun _ => rfl, fun _ => rfl, fun _ => rfl, fun _ => rfl, fun _ => rfl, fun _ => rfl, fun _ => rfl, fun _ => rfl, rfl, rfl⟩

theorem hostOut_frame (h : HostOut) :
    ∃ y0, hostOut h m = { m with out := y0 } := ⟨_, rfl⟩

@[simp] theorem hostOut_same (h : HostOut) :
    (hostOut h m).boot = m.boot ∧ (hostOut h m).time = m.time ∧ (hostOut h m).topo = m.topo ∧
    (hostOut h m).fabKey = m.fabKey ∧ (hostOut h m).threads = m.threads ∧ (hostOut h m).cores = m.cores ∧
    (hostOut h m).csce = m.csce ∧ (hostOut h m).ctxs = m.ctxs ∧ (hostOut h m).parts = m.parts ∧
    (hostOut h m).layout = m.layout ∧ (hostOut h m).funs = m.funs ∧ (hostOut h m).ports = m.ports ∧
    (hostOut h m).pds = m.pds ∧ (hostOut h m).fab = m.fab ∧ (hostOut h m).stripes = m.stripes ∧
    (hostOut h m).mem = m.mem ∧ (hostOut h m).valid = m.valid ∧ (hostOut h m).summary = m.summary ∧
    (hostOut h m).sumBad = m.sumBad ∧ (hostOut h m).bad = m.bad ∧ (hostOut h m).dramErr = m.dramErr ∧
    (hostOut h m).chanErr = m.chanErr ∧ (hostOut h m).sramErr = m.sramErr ∧ (hostOut h m).trainBad = m.trainBad ∧
    (hostOut h m).hidKey = m.hidKey ∧ (hostOut h m).tlb = m.tlb ∧ (hostOut h m).writes = m.writes ∧
    (hostOut h m).cows = m.cows ∧ (hostOut h m).ledger = m.ledger ∧ (hostOut h m).lease = m.lease ∧
    (hostOut h m).cat = m.cat ∧ (hostOut h m).tt = m.tt ∧ (hostOut h m).pm = m.pm ∧ (hostOut h m).att = m.att ∧
    (hostOut h m).bms = m.bms ∧ (hostOut h m).draw = m.draw := by
  obtain ⟨_, h⟩ := hostOut_frame (m := m) h
  simp only [h, and_self]

@[simp] theorem hostOut_parts (h : HostOut) :
    (∀ j, (hostOut h m).thread j = m.thread j) ∧ (∀ j, (hostOut h m).core j = m.core j) ∧
    (∀ j, (hostOut h m).ctx j = m.ctx j) ∧ (∀ j, (hostOut h m).part j = m.part j) ∧
    (∀ j, (hostOut h m).func j = m.func j) ∧ (∀ j, (hostOut h m).port j = m.port j) ∧
    (∀ j, (hostOut h m).pd j = m.pd j) ∧ (∀ j, (hostOut h m).stripe j = m.stripe j) ∧ (hostOut h m).now = m.now ∧
    (hostOut h m).on = m.on := by
  obtain ⟨_, h⟩ := hostOut_frame (m := m) h
  rw [h]
  exact ⟨fun _ => rfl, fun _ => rfl, fun _ => rfl, fun _ => rfl, fun _ => rfl, fun _ => rfl, fun _ => rfl, fun _ => rfl, rfl, rfl⟩

theorem toTray_frame (t : Tray) :
    ∃ y0, toTray t m = { m with out := y0 } := by
  unfold toTray; split
  · exact ⟨_, rfl⟩
  · exact ⟨m.out, rfl⟩

@[simp] theorem toTray_same (t : Tray) :
    (toTray t m).boot = m.boot ∧ (toTray t m).time = m.time ∧ (toTray t m).topo = m.topo ∧
    (toTray t m).fabKey = m.fabKey ∧ (toTray t m).threads = m.threads ∧ (toTray t m).cores = m.cores ∧
    (toTray t m).csce = m.csce ∧ (toTray t m).ctxs = m.ctxs ∧ (toTray t m).parts = m.parts ∧
    (toTray t m).layout = m.layout ∧ (toTray t m).funs = m.funs ∧ (toTray t m).ports = m.ports ∧
    (toTray t m).pds = m.pds ∧ (toTray t m).fab = m.fab ∧ (toTray t m).stripes = m.stripes ∧
    (toTray t m).mem = m.mem ∧ (toTray t m).valid = m.valid ∧ (toTray t m).summary = m.summary ∧
    (toTray t m).sumBad = m.sumBad ∧ (toTray t m).bad = m.bad ∧ (toTray t m).dramErr = m.dramErr ∧
    (toTray t m).chanErr = m.chanErr ∧ (toTray t m).sramErr = m.sramErr ∧ (toTray t m).trainBad = m.trainBad ∧
    (toTray t m).hidKey = m.hidKey ∧ (toTray t m).tlb = m.tlb ∧ (toTray t m).writes = m.writes ∧
    (toTray t m).cows = m.cows ∧ (toTray t m).ledger = m.ledger ∧ (toTray t m).lease = m.lease ∧
    (toTray t m).cat = m.cat ∧ (toTray t m).tt = m.tt ∧ (toTray t m).pm = m.pm ∧ (toTray t m).att = m.att ∧
    (toTray t m).bms = m.bms ∧ (toTray t m).draw = m.draw := by
  obtain ⟨_, h⟩ := toTray_frame (m := m) t
  simp only [h, and_self]

@[simp] theorem toTray_parts (t : Tray) :
    (∀ j, (toTray t m).thread j = m.thread j) ∧ (∀ j, (toTray t m).core j = m.core j) ∧
    (∀ j, (toTray t m).ctx j = m.ctx j) ∧ (∀ j, (toTray t m).part j = m.part j) ∧
    (∀ j, (toTray t m).func j = m.func j) ∧ (∀ j, (toTray t m).port j = m.port j) ∧
    (∀ j, (toTray t m).pd j = m.pd j) ∧ (∀ j, (toTray t m).stripe j = m.stripe j) ∧ (toTray t m).now = m.now ∧
    (toTray t m).on = m.on := by
  obtain ⟨_, h⟩ := toTray_frame (m := m) t
  rw [h]
  exact ⟨fun _ => rfl, fun _ => rfl, fun _ => rfl, fun _ => rfl, fun _ => rfl, fun _ => rfl, fun _ => rfl, fun _ => rfl, rfl, rfl⟩

/-! The ledger, and the messages and interrupts that follow an entry. -/

theorem led_frame (code sev : Nat) (pl : Place) (data : List Nat) :
    ∃ y0 y1, led code sev pl data m = { m with ledger := y0, out := y1 } := by
  unfold led; split
  · dsimp only; split
    · obtain ⟨o, h⟩ := toTray_frame (m := { m with ledger := m.ledger.push _ }) (.log _)
      rw [h]; exact ⟨_, _, rfl⟩
    · exact ⟨_, m.out, rfl⟩
  · exact ⟨m.ledger, m.out, rfl⟩

@[simp] theorem led_same (code sev : Nat) (pl : Place) (data : List Nat) :
    (led code sev pl data m).boot = m.boot ∧ (led code sev pl data m).time = m.time ∧
    (led code sev pl data m).topo = m.topo ∧ (led code sev pl data m).fabKey = m.fabKey ∧
    (led code sev pl data m).threads = m.threads ∧ (led code sev pl data m).cores = m.cores ∧
    (led code sev pl data m).csce = m.csce ∧ (led code sev pl data m).ctxs = m.ctxs ∧
    (led code sev pl data m).parts = m.parts ∧ (led code sev pl data m).layout = m.layout ∧
    (led code sev pl data m).funs = m.funs ∧ (led code sev pl data m).ports = m.ports ∧
    (led code sev pl data m).pds = m.pds ∧ (led code sev pl data m).fab = m.fab ∧
    (led code sev pl data m).stripes = m.stripes ∧ (led code sev pl data m).mem = m.mem ∧
    (led code sev pl data m).valid = m.valid ∧ (led code sev pl data m).summary = m.summary ∧
    (led code sev pl data m).sumBad = m.sumBad ∧ (led code sev pl data m).bad = m.bad ∧
    (led code sev pl data m).dramErr = m.dramErr ∧ (led code sev pl data m).chanErr = m.chanErr ∧
    (led code sev pl data m).sramErr = m.sramErr ∧ (led code sev pl data m).trainBad = m.trainBad ∧
    (led code sev pl data m).hidKey = m.hidKey ∧ (led code sev pl data m).tlb = m.tlb ∧
    (led code sev pl data m).writes = m.writes ∧ (led code sev pl data m).cows = m.cows ∧
    (led code sev pl data m).lease = m.lease ∧ (led code sev pl data m).cat = m.cat ∧
    (led code sev pl data m).tt = m.tt ∧ (led code sev pl data m).pm = m.pm ∧ (led code sev pl data m).att = m.att ∧
    (led code sev pl data m).bms = m.bms ∧ (led code sev pl data m).draw = m.draw := by
  obtain ⟨_, _, h⟩ := led_frame (m := m) code sev pl data
  simp only [h, and_self]

@[simp] theorem led_parts (code sev : Nat) (pl : Place) (data : List Nat) :
    (∀ j, (led code sev pl data m).thread j = m.thread j) ∧ (∀ j, (led code sev pl data m).core j = m.core j) ∧
    (∀ j, (led code sev pl data m).ctx j = m.ctx j) ∧ (∀ j, (led code sev pl data m).part j = m.part j) ∧
    (∀ j, (led code sev pl data m).func j = m.func j) ∧ (∀ j, (led code sev pl data m).port j = m.port j) ∧
    (∀ j, (led code sev pl data m).pd j = m.pd j) ∧ (∀ j, (led code sev pl data m).stripe j = m.stripe j) ∧
    (led code sev pl data m).now = m.now ∧ (led code sev pl data m).on = m.on := by
  obtain ⟨_, _, h⟩ := led_frame (m := m) code sev pl data
  rw [h]
  exact ⟨fun _ => rfl, fun _ => rfl, fun _ => rfl, fun _ => rfl, fun _ => rfl, fun _ => rfl, fun _ => rfl, fun _ => rfl, rfl, rfl⟩

theorem addCtr_frame (slot : Nat) (c : CtrNo) (v : W32) :
    ∃ y0, addCtr slot c v m = { m with ctxs := y0 } := ⟨_, rfl⟩

@[simp] theorem addCtr_same (slot : Nat) (c : CtrNo) (v : W32) :
    (addCtr slot c v m).boot = m.boot ∧ (addCtr slot c v m).time = m.time ∧ (addCtr slot c v m).topo = m.topo ∧
    (addCtr slot c v m).fabKey = m.fabKey ∧ (addCtr slot c v m).threads = m.threads ∧
    (addCtr slot c v m).cores = m.cores ∧ (addCtr slot c v m).csce = m.csce ∧ (addCtr slot c v m).parts = m.parts ∧
    (addCtr slot c v m).layout = m.layout ∧ (addCtr slot c v m).funs = m.funs ∧ (addCtr slot c v m).ports = m.ports ∧
    (addCtr slot c v m).pds = m.pds ∧ (addCtr slot c v m).fab = m.fab ∧ (addCtr slot c v m).stripes = m.stripes ∧
    (addCtr slot c v m).mem = m.mem ∧ (addCtr slot c v m).valid = m.valid ∧ (addCtr slot c v m).summary = m.summary ∧
    (addCtr slot c v m).sumBad = m.sumBad ∧ (addCtr slot c v m).bad = m.bad ∧
    (addCtr slot c v m).dramErr = m.dramErr ∧ (addCtr slot c v m).chanErr = m.chanErr ∧
    (addCtr slot c v m).sramErr = m.sramErr ∧ (addCtr slot c v m).trainBad = m.trainBad ∧
    (addCtr slot c v m).hidKey = m.hidKey ∧ (addCtr slot c v m).tlb = m.tlb ∧ (addCtr slot c v m).writes = m.writes ∧
    (addCtr slot c v m).cows = m.cows ∧ (addCtr slot c v m).ledger = m.ledger ∧ (addCtr slot c v m).lease = m.lease ∧
    (addCtr slot c v m).cat = m.cat ∧ (addCtr slot c v m).tt = m.tt ∧ (addCtr slot c v m).pm = m.pm ∧
    (addCtr slot c v m).att = m.att ∧ (addCtr slot c v m).bms = m.bms ∧ (addCtr slot c v m).out = m.out ∧
    (addCtr slot c v m).draw = m.draw := by
  obtain ⟨_, h⟩ := addCtr_frame (m := m) slot c v
  simp only [h, and_self]

@[simp] theorem addCtr_parts (slot : Nat) (c : CtrNo) (v : W32) :
    (∀ j, (addCtr slot c v m).thread j = m.thread j) ∧ (∀ j, (addCtr slot c v m).core j = m.core j) ∧
    (∀ j, (addCtr slot c v m).part j = m.part j) ∧ (∀ j, (addCtr slot c v m).func j = m.func j) ∧
    (∀ j, (addCtr slot c v m).port j = m.port j) ∧ (∀ j, (addCtr slot c v m).pd j = m.pd j) ∧
    (∀ j, (addCtr slot c v m).stripe j = m.stripe j) ∧ (addCtr slot c v m).now = m.now ∧
    (addCtr slot c v m).on = m.on := by
  obtain ⟨_, h⟩ := addCtr_frame (m := m) slot c v
  rw [h]
  exact ⟨fun _ => rfl, fun _ => rfl, fun _ => rfl, fun _ => rfl, fun _ => rfl, fun _ => rfl, fun _ => rfl, rfl, rfl⟩

theorem bumpCtr_frame (slot : Nat) (en : Bool) (c : CtrNo) :
    ∃ y0, bumpCtr slot en c m = { m with ctxs := y0 } := by
  unfold bumpCtr; split
  · exact ⟨_, rfl⟩
  · exact ⟨m.ctxs, rfl⟩

@[simp] theorem bumpCtr_same (slot : Nat) (en : Bool) (c : CtrNo) :
    (bumpCtr slot en c m).boot = m.boot ∧ (bumpCtr slot en c m).time = m.time ∧ (bumpCtr slot en c m).topo = m.topo ∧
    (bumpCtr slot en c m).fabKey = m.fabKey ∧ (bumpCtr slot en c m).threads = m.threads ∧
    (bumpCtr slot en c m).cores = m.cores ∧ (bumpCtr slot en c m).csce = m.csce ∧
    (bumpCtr slot en c m).parts = m.parts ∧ (bumpCtr slot en c m).layout = m.layout ∧
    (bumpCtr slot en c m).funs = m.funs ∧ (bumpCtr slot en c m).ports = m.ports ∧ (bumpCtr slot en c m).pds = m.pds ∧
    (bumpCtr slot en c m).fab = m.fab ∧ (bumpCtr slot en c m).stripes = m.stripes ∧
    (bumpCtr slot en c m).mem = m.mem ∧ (bumpCtr slot en c m).valid = m.valid ∧
    (bumpCtr slot en c m).summary = m.summary ∧ (bumpCtr slot en c m).sumBad = m.sumBad ∧
    (bumpCtr slot en c m).bad = m.bad ∧ (bumpCtr slot en c m).dramErr = m.dramErr ∧
    (bumpCtr slot en c m).chanErr = m.chanErr ∧ (bumpCtr slot en c m).sramErr = m.sramErr ∧
    (bumpCtr slot en c m).trainBad = m.trainBad ∧ (bumpCtr slot en c m).hidKey = m.hidKey ∧
    (bumpCtr slot en c m).tlb = m.tlb ∧ (bumpCtr slot en c m).writes = m.writes ∧
    (bumpCtr slot en c m).cows = m.cows ∧ (bumpCtr slot en c m).ledger = m.ledger ∧
    (bumpCtr slot en c m).lease = m.lease ∧ (bumpCtr slot en c m).cat = m.cat ∧ (bumpCtr slot en c m).tt = m.tt ∧
    (bumpCtr slot en c m).pm = m.pm ∧ (bumpCtr slot en c m).att = m.att ∧ (bumpCtr slot en c m).bms = m.bms ∧
    (bumpCtr slot en c m).out = m.out ∧ (bumpCtr slot en c m).draw = m.draw := by
  obtain ⟨_, h⟩ := bumpCtr_frame (m := m) slot en c
  simp only [h, and_self]

@[simp] theorem bumpCtr_parts (slot : Nat) (en : Bool) (c : CtrNo) :
    (∀ j, (bumpCtr slot en c m).thread j = m.thread j) ∧ (∀ j, (bumpCtr slot en c m).core j = m.core j) ∧
    (∀ j, (bumpCtr slot en c m).part j = m.part j) ∧ (∀ j, (bumpCtr slot en c m).func j = m.func j) ∧
    (∀ j, (bumpCtr slot en c m).port j = m.port j) ∧ (∀ j, (bumpCtr slot en c m).pd j = m.pd j) ∧
    (∀ j, (bumpCtr slot en c m).stripe j = m.stripe j) ∧ (bumpCtr slot en c m).now = m.now ∧
    (bumpCtr slot en c m).on = m.on := by
  obtain ⟨_, h⟩ := bumpCtr_frame (m := m) slot en c
  rw [h]
  exact ⟨fun _ => rfl, fun _ => rfl, fun _ => rfl, fun _ => rfl, fun _ => rfl, fun _ => rfl, fun _ => rfl, rfl, rfl⟩

theorem progress_frame (slot : Nat) :
    ∃ y0, progress slot m = { m with ctxs := y0 } := ⟨_, rfl⟩

@[simp] theorem progress_same (slot : Nat) :
    (progress slot m).boot = m.boot ∧ (progress slot m).time = m.time ∧ (progress slot m).topo = m.topo ∧
    (progress slot m).fabKey = m.fabKey ∧ (progress slot m).threads = m.threads ∧ (progress slot m).cores = m.cores ∧
    (progress slot m).csce = m.csce ∧ (progress slot m).parts = m.parts ∧ (progress slot m).layout = m.layout ∧
    (progress slot m).funs = m.funs ∧ (progress slot m).ports = m.ports ∧ (progress slot m).pds = m.pds ∧
    (progress slot m).fab = m.fab ∧ (progress slot m).stripes = m.stripes ∧ (progress slot m).mem = m.mem ∧
    (progress slot m).valid = m.valid ∧ (progress slot m).summary = m.summary ∧ (progress slot m).sumBad = m.sumBad ∧
    (progress slot m).bad = m.bad ∧ (progress slot m).dramErr = m.dramErr ∧ (progress slot m).chanErr = m.chanErr ∧
    (progress slot m).sramErr = m.sramErr ∧ (progress slot m).trainBad = m.trainBad ∧
    (progress slot m).hidKey = m.hidKey ∧ (progress slot m).tlb = m.tlb ∧ (progress slot m).writes = m.writes ∧
    (progress slot m).cows = m.cows ∧ (progress slot m).ledger = m.ledger ∧ (progress slot m).lease = m.lease ∧
    (progress slot m).cat = m.cat ∧ (progress slot m).tt = m.tt ∧ (progress slot m).pm = m.pm ∧
    (progress slot m).att = m.att ∧ (progress slot m).bms = m.bms ∧ (progress slot m).out = m.out ∧
    (progress slot m).draw = m.draw := by
  obtain ⟨_, h⟩ := progress_frame (m := m) slot
  simp only [h, and_self]

@[simp] theorem progress_parts (slot : Nat) :
    (∀ j, (progress slot m).thread j = m.thread j) ∧ (∀ j, (progress slot m).core j = m.core j) ∧
    (∀ j, (progress slot m).part j = m.part j) ∧ (∀ j, (progress slot m).func j = m.func j) ∧
    (∀ j, (progress slot m).port j = m.port j) ∧ (∀ j, (progress slot m).pd j = m.pd j) ∧
    (∀ j, (progress slot m).stripe j = m.stripe j) ∧ (progress slot m).now = m.now ∧
    (progress slot m).on = m.on := by
  obtain ⟨_, h⟩ := progress_frame (m := m) slot
  rw [h]
  exact ⟨fun _ => rfl, fun _ => rfl, fun _ => rfl, fun _ => rfl, fun _ => rfl, fun _ => rfl, fun _ => rfl, rfl, rfl⟩

theorem dueAdd_frame (slot : Nat) (w : DueWork) :
    ∃ y0, dueAdd slot w m = { m with ctxs := y0 } := ⟨_, rfl⟩

@[simp] theorem dueAdd_same (slot : Nat) (w : DueWork) :
    (dueAdd slot w m).boot = m.boot ∧ (dueAdd slot w m).time = m.time ∧ (dueAdd slot w m).topo = m.topo ∧
    (dueAdd slot w m).fabKey = m.fabKey ∧ (dueAdd slot w m).threads = m.threads ∧ (dueAdd slot w m).cores = m.cores ∧
    (dueAdd slot w m).csce = m.csce ∧ (dueAdd slot w m).parts = m.parts ∧ (dueAdd slot w m).layout = m.layout ∧
    (dueAdd slot w m).funs = m.funs ∧ (dueAdd slot w m).ports = m.ports ∧ (dueAdd slot w m).pds = m.pds ∧
    (dueAdd slot w m).fab = m.fab ∧ (dueAdd slot w m).stripes = m.stripes ∧ (dueAdd slot w m).mem = m.mem ∧
    (dueAdd slot w m).valid = m.valid ∧ (dueAdd slot w m).summary = m.summary ∧ (dueAdd slot w m).sumBad = m.sumBad ∧
    (dueAdd slot w m).bad = m.bad ∧ (dueAdd slot w m).dramErr = m.dramErr ∧ (dueAdd slot w m).chanErr = m.chanErr ∧
    (dueAdd slot w m).sramErr = m.sramErr ∧ (dueAdd slot w m).trainBad = m.trainBad ∧
    (dueAdd slot w m).hidKey = m.hidKey ∧ (dueAdd slot w m).tlb = m.tlb ∧ (dueAdd slot w m).writes = m.writes ∧
    (dueAdd slot w m).cows = m.cows ∧ (dueAdd slot w m).ledger = m.ledger ∧ (dueAdd slot w m).lease = m.lease ∧
    (dueAdd slot w m).cat = m.cat ∧ (dueAdd slot w m).tt = m.tt ∧ (dueAdd slot w m).pm = m.pm ∧
    (dueAdd slot w m).att = m.att ∧ (dueAdd slot w m).bms = m.bms ∧ (dueAdd slot w m).out = m.out ∧
    (dueAdd slot w m).draw = m.draw := by
  obtain ⟨_, h⟩ := dueAdd_frame (m := m) slot w
  simp only [h, and_self]

@[simp] theorem dueAdd_parts (slot : Nat) (w : DueWork) :
    (∀ j, (dueAdd slot w m).thread j = m.thread j) ∧ (∀ j, (dueAdd slot w m).core j = m.core j) ∧
    (∀ j, (dueAdd slot w m).part j = m.part j) ∧ (∀ j, (dueAdd slot w m).func j = m.func j) ∧
    (∀ j, (dueAdd slot w m).port j = m.port j) ∧ (∀ j, (dueAdd slot w m).pd j = m.pd j) ∧
    (∀ j, (dueAdd slot w m).stripe j = m.stripe j) ∧ (dueAdd slot w m).now = m.now ∧
    (dueAdd slot w m).on = m.on := by
  obtain ⟨_, h⟩ := dueAdd_frame (m := m) slot w
  rw [h]
  exact ⟨fun _ => rfl, fun _ => rfl, fun _ => rfl, fun _ => rfl, fun _ => rfl, fun _ => rfl, fun _ => rfl, rfl, rfl⟩

theorem dueDone_frame (slot : Nat) (w : DueWork) :
    ∃ y0, dueDone slot w m = { m with ctxs := y0 } := ⟨_, rfl⟩

@[simp] theorem dueDone_same (slot : Nat) (w : DueWork) :
    (dueDone slot w m).boot = m.boot ∧ (dueDone slot w m).time = m.time ∧ (dueDone slot w m).topo = m.topo ∧
    (dueDone slot w m).fabKey = m.fabKey ∧ (dueDone slot w m).threads = m.threads ∧
    (dueDone slot w m).cores = m.cores ∧ (dueDone slot w m).csce = m.csce ∧ (dueDone slot w m).parts = m.parts ∧
    (dueDone slot w m).layout = m.layout ∧ (dueDone slot w m).funs = m.funs ∧ (dueDone slot w m).ports = m.ports ∧
    (dueDone slot w m).pds = m.pds ∧ (dueDone slot w m).fab = m.fab ∧ (dueDone slot w m).stripes = m.stripes ∧
    (dueDone slot w m).mem = m.mem ∧ (dueDone slot w m).valid = m.valid ∧ (dueDone slot w m).summary = m.summary ∧
    (dueDone slot w m).sumBad = m.sumBad ∧ (dueDone slot w m).bad = m.bad ∧ (dueDone slot w m).dramErr = m.dramErr ∧
    (dueDone slot w m).chanErr = m.chanErr ∧ (dueDone slot w m).sramErr = m.sramErr ∧
    (dueDone slot w m).trainBad = m.trainBad ∧ (dueDone slot w m).hidKey = m.hidKey ∧
    (dueDone slot w m).tlb = m.tlb ∧ (dueDone slot w m).writes = m.writes ∧ (dueDone slot w m).cows = m.cows ∧
    (dueDone slot w m).ledger = m.ledger ∧ (dueDone slot w m).lease = m.lease ∧ (dueDone slot w m).cat = m.cat ∧
    (dueDone slot w m).tt = m.tt ∧ (dueDone slot w m).pm = m.pm ∧ (dueDone slot w m).att = m.att ∧
    (dueDone slot w m).bms = m.bms ∧ (dueDone slot w m).out = m.out ∧ (dueDone slot w m).draw = m.draw := by
  obtain ⟨_, h⟩ := dueDone_frame (m := m) slot w
  simp only [h, and_self]

@[simp] theorem dueDone_parts (slot : Nat) (w : DueWork) :
    (∀ j, (dueDone slot w m).thread j = m.thread j) ∧ (∀ j, (dueDone slot w m).core j = m.core j) ∧
    (∀ j, (dueDone slot w m).part j = m.part j) ∧ (∀ j, (dueDone slot w m).func j = m.func j) ∧
    (∀ j, (dueDone slot w m).port j = m.port j) ∧ (∀ j, (dueDone slot w m).pd j = m.pd j) ∧
    (∀ j, (dueDone slot w m).stripe j = m.stripe j) ∧ (dueDone slot w m).now = m.now ∧
    (dueDone slot w m).on = m.on := by
  obtain ⟨_, h⟩ := dueDone_frame (m := m) slot w
  rw [h]
  exact ⟨fun _ => rfl, fun _ => rfl, fun _ => rfl, fun _ => rfl, fun _ => rfl, fun _ => rfl, fun _ => rfl, rfl, rfl⟩

theorem settle_frame (slot : Nat) :
    ∃ y0, settle slot m = { m with ctxs := y0 } := by
  unfold settle; dsimp only; split
  · exact ⟨_, rfl⟩
  · exact ⟨m.ctxs, rfl⟩

@[simp] theorem settle_same (slot : Nat) :
    (settle slot m).boot = m.boot ∧ (settle slot m).time = m.time ∧ (settle slot m).topo = m.topo ∧
    (settle slot m).fabKey = m.fabKey ∧ (settle slot m).threads = m.threads ∧ (settle slot m).cores = m.cores ∧
    (settle slot m).csce = m.csce ∧ (settle slot m).parts = m.parts ∧ (settle slot m).layout = m.layout ∧
    (settle slot m).funs = m.funs ∧ (settle slot m).ports = m.ports ∧ (settle slot m).pds = m.pds ∧
    (settle slot m).fab = m.fab ∧ (settle slot m).stripes = m.stripes ∧ (settle slot m).mem = m.mem ∧
    (settle slot m).valid = m.valid ∧ (settle slot m).summary = m.summary ∧ (settle slot m).sumBad = m.sumBad ∧
    (settle slot m).bad = m.bad ∧ (settle slot m).dramErr = m.dramErr ∧ (settle slot m).chanErr = m.chanErr ∧
    (settle slot m).sramErr = m.sramErr ∧ (settle slot m).trainBad = m.trainBad ∧ (settle slot m).hidKey = m.hidKey ∧
    (settle slot m).tlb = m.tlb ∧ (settle slot m).writes = m.writes ∧ (settle slot m).cows = m.cows ∧
    (settle slot m).ledger = m.ledger ∧ (settle slot m).lease = m.lease ∧ (settle slot m).cat = m.cat ∧
    (settle slot m).tt = m.tt ∧ (settle slot m).pm = m.pm ∧ (settle slot m).att = m.att ∧
    (settle slot m).bms = m.bms ∧ (settle slot m).out = m.out ∧ (settle slot m).draw = m.draw := by
  obtain ⟨_, h⟩ := settle_frame (m := m) slot
  simp only [h, and_self]

@[simp] theorem settle_parts (slot : Nat) :
    (∀ j, (settle slot m).thread j = m.thread j) ∧ (∀ j, (settle slot m).core j = m.core j) ∧
    (∀ j, (settle slot m).part j = m.part j) ∧ (∀ j, (settle slot m).func j = m.func j) ∧
    (∀ j, (settle slot m).port j = m.port j) ∧ (∀ j, (settle slot m).pd j = m.pd j) ∧
    (∀ j, (settle slot m).stripe j = m.stripe j) ∧ (settle slot m).now = m.now ∧ (settle slot m).on = m.on := by
  obtain ⟨_, h⟩ := settle_frame (m := m) slot
  rw [h]
  exact ⟨fun _ => rfl, fun _ => rfl, fun _ => rfl, fun _ => rfl, fun _ => rfl, fun _ => rfl, fun _ => rfl, rfl, rfl⟩

theorem countEv_frame (slot core : Nat) (e : Engine) (tag : Option W32) (n : Nat) (ev : Ev) :
    ∃ y0 y1, countEv slot core e tag n ev m = { m with cores := y0, ctxs := y1 } := ⟨_, _, rfl⟩

@[simp] theorem countEv_same (slot core : Nat) (e : Engine) (tag : Option W32) (n : Nat) (ev : Ev) :
    (countEv slot core e tag n ev m).boot = m.boot ∧ (countEv slot core e tag n ev m).time = m.time ∧
    (countEv slot core e tag n ev m).topo = m.topo ∧ (countEv slot core e tag n ev m).fabKey = m.fabKey ∧
    (countEv slot core e tag n ev m).threads = m.threads ∧ (countEv slot core e tag n ev m).csce = m.csce ∧
    (countEv slot core e tag n ev m).parts = m.parts ∧ (countEv slot core e tag n ev m).layout = m.layout ∧
    (countEv slot core e tag n ev m).funs = m.funs ∧ (countEv slot core e tag n ev m).ports = m.ports ∧
    (countEv slot core e tag n ev m).pds = m.pds ∧ (countEv slot core e tag n ev m).fab = m.fab ∧
    (countEv slot core e tag n ev m).stripes = m.stripes ∧ (countEv slot core e tag n ev m).mem = m.mem ∧
    (countEv slot core e tag n ev m).valid = m.valid ∧ (countEv slot core e tag n ev m).summary = m.summary ∧
    (countEv slot core e tag n ev m).sumBad = m.sumBad ∧ (countEv slot core e tag n ev m).bad = m.bad ∧
    (countEv slot core e tag n ev m).dramErr = m.dramErr ∧ (countEv slot core e tag n ev m).chanErr = m.chanErr ∧
    (countEv slot core e tag n ev m).sramErr = m.sramErr ∧ (countEv slot core e tag n ev m).trainBad = m.trainBad ∧
    (countEv slot core e tag n ev m).hidKey = m.hidKey ∧ (countEv slot core e tag n ev m).tlb = m.tlb ∧
    (countEv slot core e tag n ev m).writes = m.writes ∧ (countEv slot core e tag n ev m).cows = m.cows ∧
    (countEv slot core e tag n ev m).ledger = m.ledger ∧ (countEv slot core e tag n ev m).lease = m.lease ∧
    (countEv slot core e tag n ev m).cat = m.cat ∧ (countEv slot core e tag n ev m).tt = m.tt ∧
    (countEv slot core e tag n ev m).pm = m.pm ∧ (countEv slot core e tag n ev m).att = m.att ∧
    (countEv slot core e tag n ev m).bms = m.bms ∧ (countEv slot core e tag n ev m).out = m.out ∧
    (countEv slot core e tag n ev m).draw = m.draw := by
  obtain ⟨_, _, h⟩ := countEv_frame (m := m) slot core e tag n ev
  simp only [h, and_self]

@[simp] theorem countEv_parts (slot core : Nat) (e : Engine) (tag : Option W32) (n : Nat) (ev : Ev) :
    (∀ j, (countEv slot core e tag n ev m).thread j = m.thread j) ∧
    (∀ j, (countEv slot core e tag n ev m).part j = m.part j) ∧
    (∀ j, (countEv slot core e tag n ev m).func j = m.func j) ∧
    (∀ j, (countEv slot core e tag n ev m).port j = m.port j) ∧
    (∀ j, (countEv slot core e tag n ev m).pd j = m.pd j) ∧
    (∀ j, (countEv slot core e tag n ev m).stripe j = m.stripe j) ∧ (countEv slot core e tag n ev m).now = m.now ∧
    (countEv slot core e tag n ev m).on = m.on := by
  obtain ⟨_, _, h⟩ := countEv_frame (m := m) slot core e tag n ev
  rw [h]
  exact ⟨fun _ => rfl, fun _ => rfl, fun _ => rfl, fun _ => rfl, fun _ => rfl, fun _ => rfl, rfl, rfl⟩

theorem countEvs_frame (slot core : Nat) (e : Engine) (tag : Option W32) (evs : List Ev) :
    ∃ y0 y1, countEvs slot core e tag evs m = { m with cores := y0, ctxs := y1 } := by
  unfold countEvs
  induction evs generalizing m with
  | nil => exact ⟨m.cores, m.ctxs, rfl⟩
  | cons a l ih =>
    obtain ⟨c, x, h⟩ := countEv_frame (m := m) slot core e tag 1 a
    obtain ⟨c2, x2, h2⟩ := ih (m := countEv slot core e tag 1 a m)
    rw [List.foldl_cons, h2, h]; exact ⟨_, _, rfl⟩

@[simp] theorem countEvs_same (slot core : Nat) (e : Engine) (tag : Option W32) (evs : List Ev) :
    (countEvs slot core e tag evs m).boot = m.boot ∧ (countEvs slot core e tag evs m).time = m.time ∧
    (countEvs slot core e tag evs m).topo = m.topo ∧ (countEvs slot core e tag evs m).fabKey = m.fabKey ∧
    (countEvs slot core e tag evs m).threads = m.threads ∧ (countEvs slot core e tag evs m).csce = m.csce ∧
    (countEvs slot core e tag evs m).parts = m.parts ∧ (countEvs slot core e tag evs m).layout = m.layout ∧
    (countEvs slot core e tag evs m).funs = m.funs ∧ (countEvs slot core e tag evs m).ports = m.ports ∧
    (countEvs slot core e tag evs m).pds = m.pds ∧ (countEvs slot core e tag evs m).fab = m.fab ∧
    (countEvs slot core e tag evs m).stripes = m.stripes ∧ (countEvs slot core e tag evs m).mem = m.mem ∧
    (countEvs slot core e tag evs m).valid = m.valid ∧ (countEvs slot core e tag evs m).summary = m.summary ∧
    (countEvs slot core e tag evs m).sumBad = m.sumBad ∧ (countEvs slot core e tag evs m).bad = m.bad ∧
    (countEvs slot core e tag evs m).dramErr = m.dramErr ∧ (countEvs slot core e tag evs m).chanErr = m.chanErr ∧
    (countEvs slot core e tag evs m).sramErr = m.sramErr ∧ (countEvs slot core e tag evs m).trainBad = m.trainBad ∧
    (countEvs slot core e tag evs m).hidKey = m.hidKey ∧ (countEvs slot core e tag evs m).tlb = m.tlb ∧
    (countEvs slot core e tag evs m).writes = m.writes ∧ (countEvs slot core e tag evs m).cows = m.cows ∧
    (countEvs slot core e tag evs m).ledger = m.ledger ∧ (countEvs slot core e tag evs m).lease = m.lease ∧
    (countEvs slot core e tag evs m).cat = m.cat ∧ (countEvs slot core e tag evs m).tt = m.tt ∧
    (countEvs slot core e tag evs m).pm = m.pm ∧ (countEvs slot core e tag evs m).att = m.att ∧
    (countEvs slot core e tag evs m).bms = m.bms ∧ (countEvs slot core e tag evs m).out = m.out ∧
    (countEvs slot core e tag evs m).draw = m.draw := by
  obtain ⟨_, _, h⟩ := countEvs_frame (m := m) slot core e tag evs
  simp only [h, and_self]

@[simp] theorem countEvs_parts (slot core : Nat) (e : Engine) (tag : Option W32) (evs : List Ev) :
    (∀ j, (countEvs slot core e tag evs m).thread j = m.thread j) ∧
    (∀ j, (countEvs slot core e tag evs m).part j = m.part j) ∧
    (∀ j, (countEvs slot core e tag evs m).func j = m.func j) ∧
    (∀ j, (countEvs slot core e tag evs m).port j = m.port j) ∧
    (∀ j, (countEvs slot core e tag evs m).pd j = m.pd j) ∧
    (∀ j, (countEvs slot core e tag evs m).stripe j = m.stripe j) ∧ (countEvs slot core e tag evs m).now = m.now ∧
    (countEvs slot core e tag evs m).on = m.on := by
  obtain ⟨_, _, h⟩ := countEvs_frame (m := m) slot core e tag evs
  rw [h]
  exact ⟨fun _ => rfl, fun _ => rfl, fun _ => rfl, fun _ => rfl, fun _ => rfl, fun _ => rfl, rfl, rfl⟩

theorem countLate_frame (slot core : Nat) (e : Engine) (tag : Option W32) (late : Bool) :
    ∃ y0 y1, countLate slot core e tag late m = { m with cores := y0, ctxs := y1 } := by
  unfold countLate; split
  · exact countEv_frame ..
  · exact ⟨m.cores, m.ctxs, rfl⟩

@[simp] theorem countLate_same (slot core : Nat) (e : Engine) (tag : Option W32) (late : Bool) :
    (countLate slot core e tag late m).boot = m.boot ∧ (countLate slot core e tag late m).time = m.time ∧
    (countLate slot core e tag late m).topo = m.topo ∧ (countLate slot core e tag late m).fabKey = m.fabKey ∧
    (countLate slot core e tag late m).threads = m.threads ∧ (countLate slot core e tag late m).csce = m.csce ∧
    (countLate slot core e tag late m).parts = m.parts ∧ (countLate slot core e tag late m).layout = m.layout ∧
    (countLate slot core e tag late m).funs = m.funs ∧ (countLate slot core e tag late m).ports = m.ports ∧
    (countLate slot core e tag late m).pds = m.pds ∧ (countLate slot core e tag late m).fab = m.fab ∧
    (countLate slot core e tag late m).stripes = m.stripes ∧ (countLate slot core e tag late m).mem = m.mem ∧
    (countLate slot core e tag late m).valid = m.valid ∧ (countLate slot core e tag late m).summary = m.summary ∧
    (countLate slot core e tag late m).sumBad = m.sumBad ∧ (countLate slot core e tag late m).bad = m.bad ∧
    (countLate slot core e tag late m).dramErr = m.dramErr ∧ (countLate slot core e tag late m).chanErr = m.chanErr ∧
    (countLate slot core e tag late m).sramErr = m.sramErr ∧
    (countLate slot core e tag late m).trainBad = m.trainBad ∧ (countLate slot core e tag late m).hidKey = m.hidKey ∧
    (countLate slot core e tag late m).tlb = m.tlb ∧ (countLate slot core e tag late m).writes = m.writes ∧
    (countLate slot core e tag late m).cows = m.cows ∧ (countLate slot core e tag late m).ledger = m.ledger ∧
    (countLate slot core e tag late m).lease = m.lease ∧ (countLate slot core e tag late m).cat = m.cat ∧
    (countLate slot core e tag late m).tt = m.tt ∧ (countLate slot core e tag late m).pm = m.pm ∧
    (countLate slot core e tag late m).att = m.att ∧ (countLate slot core e tag late m).bms = m.bms ∧
    (countLate slot core e tag late m).out = m.out ∧ (countLate slot core e tag late m).draw = m.draw := by
  obtain ⟨_, _, h⟩ := countLate_frame (m := m) slot core e tag late
  simp only [h, and_self]

@[simp] theorem countLate_parts (slot core : Nat) (e : Engine) (tag : Option W32) (late : Bool) :
    (∀ j, (countLate slot core e tag late m).thread j = m.thread j) ∧
    (∀ j, (countLate slot core e tag late m).part j = m.part j) ∧
    (∀ j, (countLate slot core e tag late m).func j = m.func j) ∧
    (∀ j, (countLate slot core e tag late m).port j = m.port j) ∧
    (∀ j, (countLate slot core e tag late m).pd j = m.pd j) ∧
    (∀ j, (countLate slot core e tag late m).stripe j = m.stripe j) ∧
    (countLate slot core e tag late m).now = m.now ∧ (countLate slot core e tag late m).on = m.on := by
  obtain ⟨_, _, h⟩ := countLate_frame (m := m) slot core e tag late
  rw [h]
  exact ⟨fun _ => rfl, fun _ => rfl, fun _ => rfl, fun _ => rfl, fun _ => rfl, fun _ => rfl, rfl, rfl⟩

/-! The wires: ports and what has been sent. -/

theorem putFrame_frame (n q : Nat) (f : Frame) :
    ∃ y0 y1, putFrame n q f m = { m with ports := y0, out := y1 } := ⟨_, _, rfl⟩

@[simp] theorem putFrame_same (n q : Nat) (f : Frame) :
    (putFrame n q f m).boot = m.boot ∧ (putFrame n q f m).time = m.time ∧ (putFrame n q f m).topo = m.topo ∧
    (putFrame n q f m).fabKey = m.fabKey ∧ (putFrame n q f m).threads = m.threads ∧
    (putFrame n q f m).cores = m.cores ∧ (putFrame n q f m).csce = m.csce ∧ (putFrame n q f m).ctxs = m.ctxs ∧
    (putFrame n q f m).parts = m.parts ∧ (putFrame n q f m).layout = m.layout ∧ (putFrame n q f m).funs = m.funs ∧
    (putFrame n q f m).pds = m.pds ∧ (putFrame n q f m).fab = m.fab ∧ (putFrame n q f m).stripes = m.stripes ∧
    (putFrame n q f m).mem = m.mem ∧ (putFrame n q f m).valid = m.valid ∧ (putFrame n q f m).summary = m.summary ∧
    (putFrame n q f m).sumBad = m.sumBad ∧ (putFrame n q f m).bad = m.bad ∧ (putFrame n q f m).dramErr = m.dramErr ∧
    (putFrame n q f m).chanErr = m.chanErr ∧ (putFrame n q f m).sramErr = m.sramErr ∧
    (putFrame n q f m).trainBad = m.trainBad ∧ (putFrame n q f m).hidKey = m.hidKey ∧
    (putFrame n q f m).tlb = m.tlb ∧ (putFrame n q f m).writes = m.writes ∧ (putFrame n q f m).cows = m.cows ∧
    (putFrame n q f m).ledger = m.ledger ∧ (putFrame n q f m).lease = m.lease ∧ (putFrame n q f m).cat = m.cat ∧
    (putFrame n q f m).tt = m.tt ∧ (putFrame n q f m).pm = m.pm ∧ (putFrame n q f m).att = m.att ∧
    (putFrame n q f m).bms = m.bms ∧ (putFrame n q f m).draw = m.draw := by
  obtain ⟨_, _, h⟩ := putFrame_frame (m := m) n q f
  simp only [h, and_self]

@[simp] theorem putFrame_parts (n q : Nat) (f : Frame) :
    (∀ j, (putFrame n q f m).thread j = m.thread j) ∧ (∀ j, (putFrame n q f m).core j = m.core j) ∧
    (∀ j, (putFrame n q f m).ctx j = m.ctx j) ∧ (∀ j, (putFrame n q f m).part j = m.part j) ∧
    (∀ j, (putFrame n q f m).func j = m.func j) ∧ (∀ j, (putFrame n q f m).pd j = m.pd j) ∧
    (∀ j, (putFrame n q f m).stripe j = m.stripe j) ∧ (putFrame n q f m).now = m.now ∧
    (putFrame n q f m).on = m.on := by
  obtain ⟨_, _, h⟩ := putFrame_frame (m := m) n q f
  rw [h]
  exact ⟨fun _ => rfl, fun _ => rfl, fun _ => rfl, fun _ => rfl, fun _ => rfl, fun _ => rfl, fun _ => rfl, rfl, rfl⟩

theorem emit_frame (n : Nat) (f : Frame) :
    ∃ y0 y1, emit n f m = { m with ports := y0, out := y1 } := by
  unfold emit; dsimp only
  obtain ⟨p, o, h⟩ := putFrame_frame (m := m) n (m.port n).txSeq f
  rw [h]; exact ⟨_, _, rfl⟩

@[simp] theorem emit_same (n : Nat) (f : Frame) :
    (emit n f m).boot = m.boot ∧ (emit n f m).time = m.time ∧ (emit n f m).topo = m.topo ∧
    (emit n f m).fabKey = m.fabKey ∧ (emit n f m).threads = m.threads ∧ (emit n f m).cores = m.cores ∧
    (emit n f m).csce = m.csce ∧ (emit n f m).ctxs = m.ctxs ∧ (emit n f m).parts = m.parts ∧
    (emit n f m).layout = m.layout ∧ (emit n f m).funs = m.funs ∧ (emit n f m).pds = m.pds ∧
    (emit n f m).fab = m.fab ∧ (emit n f m).stripes = m.stripes ∧ (emit n f m).mem = m.mem ∧
    (emit n f m).valid = m.valid ∧ (emit n f m).summary = m.summary ∧ (emit n f m).sumBad = m.sumBad ∧
    (emit n f m).bad = m.bad ∧ (emit n f m).dramErr = m.dramErr ∧ (emit n f m).chanErr = m.chanErr ∧
    (emit n f m).sramErr = m.sramErr ∧ (emit n f m).trainBad = m.trainBad ∧ (emit n f m).hidKey = m.hidKey ∧
    (emit n f m).tlb = m.tlb ∧ (emit n f m).writes = m.writes ∧ (emit n f m).cows = m.cows ∧
    (emit n f m).ledger = m.ledger ∧ (emit n f m).lease = m.lease ∧ (emit n f m).cat = m.cat ∧
    (emit n f m).tt = m.tt ∧ (emit n f m).pm = m.pm ∧ (emit n f m).att = m.att ∧ (emit n f m).bms = m.bms ∧
    (emit n f m).draw = m.draw := by
  obtain ⟨_, _, h⟩ := emit_frame (m := m) n f
  simp only [h, and_self]

@[simp] theorem emit_parts (n : Nat) (f : Frame) :
    (∀ j, (emit n f m).thread j = m.thread j) ∧ (∀ j, (emit n f m).core j = m.core j) ∧
    (∀ j, (emit n f m).ctx j = m.ctx j) ∧ (∀ j, (emit n f m).part j = m.part j) ∧
    (∀ j, (emit n f m).func j = m.func j) ∧ (∀ j, (emit n f m).pd j = m.pd j) ∧
    (∀ j, (emit n f m).stripe j = m.stripe j) ∧ (emit n f m).now = m.now ∧ (emit n f m).on = m.on := by
  obtain ⟨_, _, h⟩ := emit_frame (m := m) n f
  rw [h]
  exact ⟨fun _ => rfl, fun _ => rfl, fun _ => rfl, fun _ => rfl, fun _ => rfl, fun _ => rfl, fun _ => rfl, rfl, rfl⟩

theorem emitVc_frame (n vc : Nat) (f : Frame) :
    ∃ y0 y1, emitVc n vc f m = { m with ports := y0, out := y1 } := by
  unfold emitVc
  obtain ⟨p, o, h⟩ := emit_frame (m := m.updPort n fun p => { p with credit := Sparse.upd 0 p.credit vc (· - creditsOf f) }) n f
  rw [h]; exact ⟨_, _, rfl⟩

@[simp] theorem emitVc_same (n vc : Nat) (f : Frame) :
    (emitVc n vc f m).boot = m.boot ∧ (emitVc n vc f m).time = m.time ∧ (emitVc n vc f m).topo = m.topo ∧
    (emitVc n vc f m).fabKey = m.fabKey ∧ (emitVc n vc f m).threads = m.threads ∧ (emitVc n vc f m).cores = m.cores ∧
    (emitVc n vc f m).csce = m.csce ∧ (emitVc n vc f m).ctxs = m.ctxs ∧ (emitVc n vc f m).parts = m.parts ∧
    (emitVc n vc f m).layout = m.layout ∧ (emitVc n vc f m).funs = m.funs ∧ (emitVc n vc f m).pds = m.pds ∧
    (emitVc n vc f m).fab = m.fab ∧ (emitVc n vc f m).stripes = m.stripes ∧ (emitVc n vc f m).mem = m.mem ∧
    (emitVc n vc f m).valid = m.valid ∧ (emitVc n vc f m).summary = m.summary ∧ (emitVc n vc f m).sumBad = m.sumBad ∧
    (emitVc n vc f m).bad = m.bad ∧ (emitVc n vc f m).dramErr = m.dramErr ∧ (emitVc n vc f m).chanErr = m.chanErr ∧
    (emitVc n vc f m).sramErr = m.sramErr ∧ (emitVc n vc f m).trainBad = m.trainBad ∧
    (emitVc n vc f m).hidKey = m.hidKey ∧ (emitVc n vc f m).tlb = m.tlb ∧ (emitVc n vc f m).writes = m.writes ∧
    (emitVc n vc f m).cows = m.cows ∧ (emitVc n vc f m).ledger = m.ledger ∧ (emitVc n vc f m).lease = m.lease ∧
    (emitVc n vc f m).cat = m.cat ∧ (emitVc n vc f m).tt = m.tt ∧ (emitVc n vc f m).pm = m.pm ∧
    (emitVc n vc f m).att = m.att ∧ (emitVc n vc f m).bms = m.bms ∧ (emitVc n vc f m).draw = m.draw := by
  obtain ⟨_, _, h⟩ := emitVc_frame (m := m) n vc f
  simp only [h, and_self]

@[simp] theorem emitVc_parts (n vc : Nat) (f : Frame) :
    (∀ j, (emitVc n vc f m).thread j = m.thread j) ∧ (∀ j, (emitVc n vc f m).core j = m.core j) ∧
    (∀ j, (emitVc n vc f m).ctx j = m.ctx j) ∧ (∀ j, (emitVc n vc f m).part j = m.part j) ∧
    (∀ j, (emitVc n vc f m).func j = m.func j) ∧ (∀ j, (emitVc n vc f m).pd j = m.pd j) ∧
    (∀ j, (emitVc n vc f m).stripe j = m.stripe j) ∧ (emitVc n vc f m).now = m.now ∧
    (emitVc n vc f m).on = m.on := by
  obtain ⟨_, _, h⟩ := emitVc_frame (m := m) n vc f
  rw [h]
  exact ⟨fun _ => rfl, fun _ => rfl, fun _ => rfl, fun _ => rfl, fun _ => rfl, fun _ => rfl, fun _ => rfl, rfl, rfl⟩

theorem flushCtl_frame (n : Nat) :
    ∃ y0 y1, flushCtl n m = { m with ports := y0, out := y1 } := by
  refine foldl_wires _ (fun m f => ?_) _ m
  split
  · obtain ⟨p, o, h⟩ := emitVc_frame (m := m.updPort n fun p => { p with cq := p.cq.erase f }) n 6 f
    rw [h]; exact ⟨_, _, rfl⟩
  · exact ⟨m.ports, m.out, rfl⟩

@[simp] theorem flushCtl_same (n : Nat) :
    (flushCtl n m).boot = m.boot ∧ (flushCtl n m).time = m.time ∧ (flushCtl n m).topo = m.topo ∧
    (flushCtl n m).fabKey = m.fabKey ∧ (flushCtl n m).threads = m.threads ∧ (flushCtl n m).cores = m.cores ∧
    (flushCtl n m).csce = m.csce ∧ (flushCtl n m).ctxs = m.ctxs ∧ (flushCtl n m).parts = m.parts ∧
    (flushCtl n m).layout = m.layout ∧ (flushCtl n m).funs = m.funs ∧ (flushCtl n m).pds = m.pds ∧
    (flushCtl n m).fab = m.fab ∧ (flushCtl n m).stripes = m.stripes ∧ (flushCtl n m).mem = m.mem ∧
    (flushCtl n m).valid = m.valid ∧ (flushCtl n m).summary = m.summary ∧ (flushCtl n m).sumBad = m.sumBad ∧
    (flushCtl n m).bad = m.bad ∧ (flushCtl n m).dramErr = m.dramErr ∧ (flushCtl n m).chanErr = m.chanErr ∧
    (flushCtl n m).sramErr = m.sramErr ∧ (flushCtl n m).trainBad = m.trainBad ∧ (flushCtl n m).hidKey = m.hidKey ∧
    (flushCtl n m).tlb = m.tlb ∧ (flushCtl n m).writes = m.writes ∧ (flushCtl n m).cows = m.cows ∧
    (flushCtl n m).ledger = m.ledger ∧ (flushCtl n m).lease = m.lease ∧ (flushCtl n m).cat = m.cat ∧
    (flushCtl n m).tt = m.tt ∧ (flushCtl n m).pm = m.pm ∧ (flushCtl n m).att = m.att ∧ (flushCtl n m).bms = m.bms ∧
    (flushCtl n m).draw = m.draw := by
  obtain ⟨_, _, h⟩ := flushCtl_frame (m := m) n
  simp only [h, and_self]

@[simp] theorem flushCtl_parts (n : Nat) :
    (∀ j, (flushCtl n m).thread j = m.thread j) ∧ (∀ j, (flushCtl n m).core j = m.core j) ∧
    (∀ j, (flushCtl n m).ctx j = m.ctx j) ∧ (∀ j, (flushCtl n m).part j = m.part j) ∧
    (∀ j, (flushCtl n m).func j = m.func j) ∧ (∀ j, (flushCtl n m).pd j = m.pd j) ∧
    (∀ j, (flushCtl n m).stripe j = m.stripe j) ∧ (flushCtl n m).now = m.now ∧ (flushCtl n m).on = m.on := by
  obtain ⟨_, _, h⟩ := flushCtl_frame (m := m) n
  rw [h]
  exact ⟨fun _ => rfl, fun _ => rfl, fun _ => rfl, fun _ => rfl, fun _ => rfl, fun _ => rfl, fun _ => rfl, rfl, rfl⟩

theorem flushFault_frame (n : Nat) :
    ∃ y0 y1, flushFault n m = { m with ports := y0, out := y1 } := by
  refine foldl_wires _ (fun m f => ?_) _ m
  split
  · obtain ⟨p, o, h⟩ := emitVc_frame (m := m.updPort n fun p => { p with fq := p.fq.erase f }) n 6 (.fault f)
    rw [h]; exact ⟨_, _, rfl⟩
  · exact ⟨m.ports, m.out, rfl⟩

@[simp] theorem flushFault_same (n : Nat) :
    (flushFault n m).boot = m.boot ∧ (flushFault n m).time = m.time ∧ (flushFault n m).topo = m.topo ∧
    (flushFault n m).fabKey = m.fabKey ∧ (flushFault n m).threads = m.threads ∧ (flushFault n m).cores = m.cores ∧
    (flushFault n m).csce = m.csce ∧ (flushFault n m).ctxs = m.ctxs ∧ (flushFault n m).parts = m.parts ∧
    (flushFault n m).layout = m.layout ∧ (flushFault n m).funs = m.funs ∧ (flushFault n m).pds = m.pds ∧
    (flushFault n m).fab = m.fab ∧ (flushFault n m).stripes = m.stripes ∧ (flushFault n m).mem = m.mem ∧
    (flushFault n m).valid = m.valid ∧ (flushFault n m).summary = m.summary ∧ (flushFault n m).sumBad = m.sumBad ∧
    (flushFault n m).bad = m.bad ∧ (flushFault n m).dramErr = m.dramErr ∧ (flushFault n m).chanErr = m.chanErr ∧
    (flushFault n m).sramErr = m.sramErr ∧ (flushFault n m).trainBad = m.trainBad ∧
    (flushFault n m).hidKey = m.hidKey ∧ (flushFault n m).tlb = m.tlb ∧ (flushFault n m).writes = m.writes ∧
    (flushFault n m).cows = m.cows ∧ (flushFault n m).ledger = m.ledger ∧ (flushFault n m).lease = m.lease ∧
    (flushFault n m).cat = m.cat ∧ (flushFault n m).tt = m.tt ∧ (flushFault n m).pm = m.pm ∧
    (flushFault n m).att = m.att ∧ (flushFault n m).bms = m.bms ∧ (flushFault n m).draw = m.draw := by
  obtain ⟨_, _, h⟩ := flushFault_frame (m := m) n
  simp only [h, and_self]

@[simp] theorem flushFault_parts (n : Nat) :
    (∀ j, (flushFault n m).thread j = m.thread j) ∧ (∀ j, (flushFault n m).core j = m.core j) ∧
    (∀ j, (flushFault n m).ctx j = m.ctx j) ∧ (∀ j, (flushFault n m).part j = m.part j) ∧
    (∀ j, (flushFault n m).func j = m.func j) ∧ (∀ j, (flushFault n m).pd j = m.pd j) ∧
    (∀ j, (flushFault n m).stripe j = m.stripe j) ∧ (flushFault n m).now = m.now ∧ (flushFault n m).on = m.on := by
  obtain ⟨_, _, h⟩ := flushFault_frame (m := m) n
  rw [h]
  exact ⟨fun _ => rfl, fun _ => rfl, fun _ => rfl, fun _ => rfl, fun _ => rfl, fun _ => rfl, fun _ => rfl, rfl, rfl⟩

theorem flushAgain_frame (n : Nat) :
    ∃ y0 y1, flushAgain n m = { m with ports := y0, out := y1 } := by
  refine foldl_wires _ (fun m f => ?_) _ m
  split
  · generalize hg : Module.updPort m n _ = g
    obtain ⟨p, o, h⟩ := putFrame_frame (m := g) n f.1 f.2
    rw [h, ← hg]; exact ⟨_, _, rfl⟩
  · exact ⟨m.ports, m.out, rfl⟩

@[simp] theorem flushAgain_same (n : Nat) :
    (flushAgain n m).boot = m.boot ∧ (flushAgain n m).time = m.time ∧ (flushAgain n m).topo = m.topo ∧
    (flushAgain n m).fabKey = m.fabKey ∧ (flushAgain n m).threads = m.threads ∧ (flushAgain n m).cores = m.cores ∧
    (flushAgain n m).csce = m.csce ∧ (flushAgain n m).ctxs = m.ctxs ∧ (flushAgain n m).parts = m.parts ∧
    (flushAgain n m).layout = m.layout ∧ (flushAgain n m).funs = m.funs ∧ (flushAgain n m).pds = m.pds ∧
    (flushAgain n m).fab = m.fab ∧ (flushAgain n m).stripes = m.stripes ∧ (flushAgain n m).mem = m.mem ∧
    (flushAgain n m).valid = m.valid ∧ (flushAgain n m).summary = m.summary ∧ (flushAgain n m).sumBad = m.sumBad ∧
    (flushAgain n m).bad = m.bad ∧ (flushAgain n m).dramErr = m.dramErr ∧ (flushAgain n m).chanErr = m.chanErr ∧
    (flushAgain n m).sramErr = m.sramErr ∧ (flushAgain n m).trainBad = m.trainBad ∧
    (flushAgain n m).hidKey = m.hidKey ∧ (flushAgain n m).tlb = m.tlb ∧ (flushAgain n m).writes = m.writes ∧
    (flushAgain n m).cows = m.cows ∧ (flushAgain n m).ledger = m.ledger ∧ (flushAgain n m).lease = m.lease ∧
    (flushAgain n m).cat = m.cat ∧ (flushAgain n m).tt = m.tt ∧ (flushAgain n m).pm = m.pm ∧
    (flushAgain n m).att = m.att ∧ (flushAgain n m).bms = m.bms ∧ (flushAgain n m).draw = m.draw := by
  obtain ⟨_, _, h⟩ := flushAgain_frame (m := m) n
  simp only [h, and_self]

@[simp] theorem flushAgain_parts (n : Nat) :
    (∀ j, (flushAgain n m).thread j = m.thread j) ∧ (∀ j, (flushAgain n m).core j = m.core j) ∧
    (∀ j, (flushAgain n m).ctx j = m.ctx j) ∧ (∀ j, (flushAgain n m).part j = m.part j) ∧
    (∀ j, (flushAgain n m).func j = m.func j) ∧ (∀ j, (flushAgain n m).pd j = m.pd j) ∧
    (∀ j, (flushAgain n m).stripe j = m.stripe j) ∧ (flushAgain n m).now = m.now ∧ (flushAgain n m).on = m.on := by
  obtain ⟨_, _, h⟩ := flushAgain_frame (m := m) n
  rw [h]
  exact ⟨fun _ => rfl, fun _ => rfl, fun _ => rfl, fun _ => rfl, fun _ => rfl, fun _ => rfl, fun _ => rfl, rfl, rfl⟩

theorem flushPort_frame (n : Nat) :
    ∃ y0 y1, flushPort n m = { m with ports := y0, out := y1 } := by
  unfold flushPort
  obtain ⟨p, o, h⟩ := flushFault_frame (m := m) n
  obtain ⟨p2, o2, h2⟩ := flushAgain_frame (m := flushFault n m) n
  obtain ⟨p3, o3, h3⟩ := flushCtl_frame (m := flushAgain n (flushFault n m)) n
  rw [h3, h2, h]; exact ⟨_, _, rfl⟩

@[simp] theorem flushPort_same (n : Nat) :
    (flushPort n m).boot = m.boot ∧ (flushPort n m).time = m.time ∧ (flushPort n m).topo = m.topo ∧
    (flushPort n m).fabKey = m.fabKey ∧ (flushPort n m).threads = m.threads ∧ (flushPort n m).cores = m.cores ∧
    (flushPort n m).csce = m.csce ∧ (flushPort n m).ctxs = m.ctxs ∧ (flushPort n m).parts = m.parts ∧
    (flushPort n m).layout = m.layout ∧ (flushPort n m).funs = m.funs ∧ (flushPort n m).pds = m.pds ∧
    (flushPort n m).fab = m.fab ∧ (flushPort n m).stripes = m.stripes ∧ (flushPort n m).mem = m.mem ∧
    (flushPort n m).valid = m.valid ∧ (flushPort n m).summary = m.summary ∧ (flushPort n m).sumBad = m.sumBad ∧
    (flushPort n m).bad = m.bad ∧ (flushPort n m).dramErr = m.dramErr ∧ (flushPort n m).chanErr = m.chanErr ∧
    (flushPort n m).sramErr = m.sramErr ∧ (flushPort n m).trainBad = m.trainBad ∧ (flushPort n m).hidKey = m.hidKey ∧
    (flushPort n m).tlb = m.tlb ∧ (flushPort n m).writes = m.writes ∧ (flushPort n m).cows = m.cows ∧
    (flushPort n m).ledger = m.ledger ∧ (flushPort n m).lease = m.lease ∧ (flushPort n m).cat = m.cat ∧
    (flushPort n m).tt = m.tt ∧ (flushPort n m).pm = m.pm ∧ (flushPort n m).att = m.att ∧
    (flushPort n m).bms = m.bms ∧ (flushPort n m).draw = m.draw := by
  obtain ⟨_, _, h⟩ := flushPort_frame (m := m) n
  simp only [h, and_self]

@[simp] theorem flushPort_parts (n : Nat) :
    (∀ j, (flushPort n m).thread j = m.thread j) ∧ (∀ j, (flushPort n m).core j = m.core j) ∧
    (∀ j, (flushPort n m).ctx j = m.ctx j) ∧ (∀ j, (flushPort n m).part j = m.part j) ∧
    (∀ j, (flushPort n m).func j = m.func j) ∧ (∀ j, (flushPort n m).pd j = m.pd j) ∧
    (∀ j, (flushPort n m).stripe j = m.stripe j) ∧ (flushPort n m).now = m.now ∧ (flushPort n m).on = m.on := by
  obtain ⟨_, _, h⟩ := flushPort_frame (m := m) n
  rw [h]
  exact ⟨fun _ => rfl, fun _ => rfl, fun _ => rfl, fun _ => rfl, fun _ => rfl, fun _ => rfl, fun _ => rfl, rfl, rfl⟩

theorem emitCtl_frame (n : Nat) (f : Frame) :
    ∃ y0 y1, emitCtl n f m = { m with ports := y0, out := y1 } := by
  unfold emitCtl
  obtain ⟨p, o, h⟩ := flushPort_frame (m := m.updPort n fun p => { p with cq := p.cq ++ [f] }) n
  rw [h]; exact ⟨_, _, rfl⟩

@[simp] theorem emitCtl_same (n : Nat) (f : Frame) :
    (emitCtl n f m).boot = m.boot ∧ (emitCtl n f m).time = m.time ∧ (emitCtl n f m).topo = m.topo ∧
    (emitCtl n f m).fabKey = m.fabKey ∧ (emitCtl n f m).threads = m.threads ∧ (emitCtl n f m).cores = m.cores ∧
    (emitCtl n f m).csce = m.csce ∧ (emitCtl n f m).ctxs = m.ctxs ∧ (emitCtl n f m).parts = m.parts ∧
    (emitCtl n f m).layout = m.layout ∧ (emitCtl n f m).funs = m.funs ∧ (emitCtl n f m).pds = m.pds ∧
    (emitCtl n f m).fab = m.fab ∧ (emitCtl n f m).stripes = m.stripes ∧ (emitCtl n f m).mem = m.mem ∧
    (emitCtl n f m).valid = m.valid ∧ (emitCtl n f m).summary = m.summary ∧ (emitCtl n f m).sumBad = m.sumBad ∧
    (emitCtl n f m).bad = m.bad ∧ (emitCtl n f m).dramErr = m.dramErr ∧ (emitCtl n f m).chanErr = m.chanErr ∧
    (emitCtl n f m).sramErr = m.sramErr ∧ (emitCtl n f m).trainBad = m.trainBad ∧ (emitCtl n f m).hidKey = m.hidKey ∧
    (emitCtl n f m).tlb = m.tlb ∧ (emitCtl n f m).writes = m.writes ∧ (emitCtl n f m).cows = m.cows ∧
    (emitCtl n f m).ledger = m.ledger ∧ (emitCtl n f m).lease = m.lease ∧ (emitCtl n f m).cat = m.cat ∧
    (emitCtl n f m).tt = m.tt ∧ (emitCtl n f m).pm = m.pm ∧ (emitCtl n f m).att = m.att ∧
    (emitCtl n f m).bms = m.bms ∧ (emitCtl n f m).draw = m.draw := by
  obtain ⟨_, _, h⟩ := emitCtl_frame (m := m) n f
  simp only [h, and_self]

@[simp] theorem emitCtl_parts (n : Nat) (f : Frame) :
    (∀ j, (emitCtl n f m).thread j = m.thread j) ∧ (∀ j, (emitCtl n f m).core j = m.core j) ∧
    (∀ j, (emitCtl n f m).ctx j = m.ctx j) ∧ (∀ j, (emitCtl n f m).part j = m.part j) ∧
    (∀ j, (emitCtl n f m).func j = m.func j) ∧ (∀ j, (emitCtl n f m).pd j = m.pd j) ∧
    (∀ j, (emitCtl n f m).stripe j = m.stripe j) ∧ (emitCtl n f m).now = m.now ∧ (emitCtl n f m).on = m.on := by
  obtain ⟨_, _, h⟩ := emitCtl_frame (m := m) n f
  rw [h]
  exact ⟨fun _ => rfl, fun _ => rfl, fun _ => rfl, fun _ => rfl, fun _ => rfl, fun _ => rfl, fun _ => rfl, rfl, rfl⟩

theorem emitFault_frame (n : Nat) (b : FaultB) :
    ∃ y0 y1, emitFault n b m = { m with ports := y0, out := y1 } := by
  unfold emitFault
  obtain ⟨p, o, h⟩ := flushFault_frame (m := m.updPort n fun p => { p with fq := p.fq ++ [b] }) n
  rw [h]; exact ⟨_, _, rfl⟩

@[simp] theorem emitFault_same (n : Nat) (b : FaultB) :
    (emitFault n b m).boot = m.boot ∧ (emitFault n b m).time = m.time ∧ (emitFault n b m).topo = m.topo ∧
    (emitFault n b m).fabKey = m.fabKey ∧ (emitFault n b m).threads = m.threads ∧ (emitFault n b m).cores = m.cores ∧
    (emitFault n b m).csce = m.csce ∧ (emitFault n b m).ctxs = m.ctxs ∧ (emitFault n b m).parts = m.parts ∧
    (emitFault n b m).layout = m.layout ∧ (emitFault n b m).funs = m.funs ∧ (emitFault n b m).pds = m.pds ∧
    (emitFault n b m).fab = m.fab ∧ (emitFault n b m).stripes = m.stripes ∧ (emitFault n b m).mem = m.mem ∧
    (emitFault n b m).valid = m.valid ∧ (emitFault n b m).summary = m.summary ∧ (emitFault n b m).sumBad = m.sumBad ∧
    (emitFault n b m).bad = m.bad ∧ (emitFault n b m).dramErr = m.dramErr ∧ (emitFault n b m).chanErr = m.chanErr ∧
    (emitFault n b m).sramErr = m.sramErr ∧ (emitFault n b m).trainBad = m.trainBad ∧
    (emitFault n b m).hidKey = m.hidKey ∧ (emitFault n b m).tlb = m.tlb ∧ (emitFault n b m).writes = m.writes ∧
    (emitFault n b m).cows = m.cows ∧ (emitFault n b m).ledger = m.ledger ∧ (emitFault n b m).lease = m.lease ∧
    (emitFault n b m).cat = m.cat ∧ (emitFault n b m).tt = m.tt ∧ (emitFault n b m).pm = m.pm ∧
    (emitFault n b m).att = m.att ∧ (emitFault n b m).bms = m.bms ∧ (emitFault n b m).draw = m.draw := by
  obtain ⟨_, _, h⟩ := emitFault_frame (m := m) n b
  simp only [h, and_self]

@[simp] theorem emitFault_parts (n : Nat) (b : FaultB) :
    (∀ j, (emitFault n b m).thread j = m.thread j) ∧ (∀ j, (emitFault n b m).core j = m.core j) ∧
    (∀ j, (emitFault n b m).ctx j = m.ctx j) ∧ (∀ j, (emitFault n b m).part j = m.part j) ∧
    (∀ j, (emitFault n b m).func j = m.func j) ∧ (∀ j, (emitFault n b m).pd j = m.pd j) ∧
    (∀ j, (emitFault n b m).stripe j = m.stripe j) ∧ (emitFault n b m).now = m.now ∧
    (emitFault n b m).on = m.on := by
  obtain ⟨_, _, h⟩ := emitFault_frame (m := m) n b
  rw [h]
  exact ⟨fun _ => rfl, fun _ => rfl, fun _ => rfl, fun _ => rfl, fun _ => rfl, fun _ => rfl, fun _ => rfl, rfl, rfl⟩

/-! The switch. -/

theorem freeBuf_frame (i : Inp) (x : Txn) :
    ∃ y0, freeBuf i x m = { m with ports := y0 } := by
  unfold freeBuf; split
  · split
    · exact ⟨_, rfl⟩
    · exact ⟨m.ports, rfl⟩
  · exact ⟨m.ports, rfl⟩

@[simp] theorem freeBuf_same (i : Inp) (x : Txn) :
    (freeBuf i x m).boot = m.boot ∧ (freeBuf i x m).time = m.time ∧ (freeBuf i x m).topo = m.topo ∧
    (freeBuf i x m).fabKey = m.fabKey ∧ (freeBuf i x m).threads = m.threads ∧ (freeBuf i x m).cores = m.cores ∧
    (freeBuf i x m).csce = m.csce ∧ (freeBuf i x m).ctxs = m.ctxs ∧ (freeBuf i x m).parts = m.parts ∧
    (freeBuf i x m).layout = m.layout ∧ (freeBuf i x m).funs = m.funs ∧ (freeBuf i x m).pds = m.pds ∧
    (freeBuf i x m).fab = m.fab ∧ (freeBuf i x m).stripes = m.stripes ∧ (freeBuf i x m).mem = m.mem ∧
    (freeBuf i x m).valid = m.valid ∧ (freeBuf i x m).summary = m.summary ∧ (freeBuf i x m).sumBad = m.sumBad ∧
    (freeBuf i x m).bad = m.bad ∧ (freeBuf i x m).dramErr = m.dramErr ∧ (freeBuf i x m).chanErr = m.chanErr ∧
    (freeBuf i x m).sramErr = m.sramErr ∧ (freeBuf i x m).trainBad = m.trainBad ∧ (freeBuf i x m).hidKey = m.hidKey ∧
    (freeBuf i x m).tlb = m.tlb ∧ (freeBuf i x m).writes = m.writes ∧ (freeBuf i x m).cows = m.cows ∧
    (freeBuf i x m).ledger = m.ledger ∧ (freeBuf i x m).lease = m.lease ∧ (freeBuf i x m).cat = m.cat ∧
    (freeBuf i x m).tt = m.tt ∧ (freeBuf i x m).pm = m.pm ∧ (freeBuf i x m).att = m.att ∧
    (freeBuf i x m).bms = m.bms ∧ (freeBuf i x m).out = m.out ∧ (freeBuf i x m).draw = m.draw := by
  obtain ⟨_, h⟩ := freeBuf_frame (m := m) i x
  simp only [h, and_self]

@[simp] theorem freeBuf_parts (i : Inp) (x : Txn) :
    (∀ j, (freeBuf i x m).thread j = m.thread j) ∧ (∀ j, (freeBuf i x m).core j = m.core j) ∧
    (∀ j, (freeBuf i x m).ctx j = m.ctx j) ∧ (∀ j, (freeBuf i x m).part j = m.part j) ∧
    (∀ j, (freeBuf i x m).func j = m.func j) ∧ (∀ j, (freeBuf i x m).pd j = m.pd j) ∧
    (∀ j, (freeBuf i x m).stripe j = m.stripe j) ∧ (freeBuf i x m).now = m.now ∧ (freeBuf i x m).on = m.on := by
  obtain ⟨_, h⟩ := freeBuf_frame (m := m) i x
  rw [h]
  exact ⟨fun _ => rfl, fun _ => rfl, fun _ => rfl, fun _ => rfl, fun _ => rfl, fun _ => rfl, fun _ => rfl, rfl, rfl⟩

theorem enq_frame (n : Nat) (x : Txn) (inp : Inp) (since : Nat) (own : OutOwn) :
    ∃ y0, enq n x inp since own m = { m with ports := y0 } := ⟨_, rfl⟩

@[simp] theorem enq_same (n : Nat) (x : Txn) (inp : Inp) (since : Nat) (own : OutOwn) :
    (enq n x inp since own m).boot = m.boot ∧ (enq n x inp since own m).time = m.time ∧
    (enq n x inp since own m).topo = m.topo ∧ (enq n x inp since own m).fabKey = m.fabKey ∧
    (enq n x inp since own m).threads = m.threads ∧ (enq n x inp since own m).cores = m.cores ∧
    (enq n x inp since own m).csce = m.csce ∧ (enq n x inp since own m).ctxs = m.ctxs ∧
    (enq n x inp since own m).parts = m.parts ∧ (enq n x inp since own m).layout = m.layout ∧
    (enq n x inp since own m).funs = m.funs ∧ (enq n x inp since own m).pds = m.pds ∧
    (enq n x inp since own m).fab = m.fab ∧ (enq n x inp since own m).stripes = m.stripes ∧
    (enq n x inp since own m).mem = m.mem ∧ (enq n x inp since own m).valid = m.valid ∧
    (enq n x inp since own m).summary = m.summary ∧ (enq n x inp since own m).sumBad = m.sumBad ∧
    (enq n x inp since own m).bad = m.bad ∧ (enq n x inp since own m).dramErr = m.dramErr ∧
    (enq n x inp since own m).chanErr = m.chanErr ∧ (enq n x inp since own m).sramErr = m.sramErr ∧
    (enq n x inp since own m).trainBad = m.trainBad ∧ (enq n x inp since own m).hidKey = m.hidKey ∧
    (enq n x inp since own m).tlb = m.tlb ∧ (enq n x inp since own m).writes = m.writes ∧
    (enq n x inp since own m).cows = m.cows ∧ (enq n x inp since own m).ledger = m.ledger ∧
    (enq n x inp since own m).lease = m.lease ∧ (enq n x inp since own m).cat = m.cat ∧
    (enq n x inp since own m).tt = m.tt ∧ (enq n x inp since own m).pm = m.pm ∧
    (enq n x inp since own m).att = m.att ∧ (enq n x inp since own m).bms = m.bms ∧
    (enq n x inp since own m).out = m.out ∧ (enq n x inp since own m).draw = m.draw := by
  obtain ⟨_, h⟩ := enq_frame (m := m) n x inp since own
  simp only [h, and_self]

@[simp] theorem enq_parts (n : Nat) (x : Txn) (inp : Inp) (since : Nat) (own : OutOwn) :
    (∀ j, (enq n x inp since own m).thread j = m.thread j) ∧ (∀ j, (enq n x inp since own m).core j = m.core j) ∧
    (∀ j, (enq n x inp since own m).ctx j = m.ctx j) ∧ (∀ j, (enq n x inp since own m).part j = m.part j) ∧
    (∀ j, (enq n x inp since own m).func j = m.func j) ∧ (∀ j, (enq n x inp since own m).pd j = m.pd j) ∧
    (∀ j, (enq n x inp since own m).stripe j = m.stripe j) ∧ (enq n x inp since own m).now = m.now ∧
    (enq n x inp since own m).on = m.on := by
  obtain ⟨_, h⟩ := enq_frame (m := m) n x inp since own
  rw [h]
  exact ⟨fun _ => rfl, fun _ => rfl, fun _ => rfl, fun _ => rfl, fun _ => rfl, fun _ => rfl, fun _ => rfl, rfl, rfl⟩

theorem markGone_frame (x : Txn) (own : OutOwn) :
    ∃ y0 y1, markGone x own m = { m with fab := y0, pds := y1 } := by
  unfold markGone; split
  · exact ⟨_, m.pds, rfl⟩
  · exact ⟨m.fab, _, rfl⟩
  · exact ⟨m.fab, m.pds, rfl⟩

@[simp] theorem markGone_same (x : Txn) (own : OutOwn) :
    (markGone x own m).boot = m.boot ∧ (markGone x own m).time = m.time ∧ (markGone x own m).topo = m.topo ∧
    (markGone x own m).fabKey = m.fabKey ∧ (markGone x own m).threads = m.threads ∧
    (markGone x own m).cores = m.cores ∧ (markGone x own m).csce = m.csce ∧ (markGone x own m).ctxs = m.ctxs ∧
    (markGone x own m).parts = m.parts ∧ (markGone x own m).layout = m.layout ∧ (markGone x own m).funs = m.funs ∧
    (markGone x own m).ports = m.ports ∧ (markGone x own m).stripes = m.stripes ∧ (markGone x own m).mem = m.mem ∧
    (markGone x own m).valid = m.valid ∧ (markGone x own m).summary = m.summary ∧
    (markGone x own m).sumBad = m.sumBad ∧ (markGone x own m).bad = m.bad ∧ (markGone x own m).dramErr = m.dramErr ∧
    (markGone x own m).chanErr = m.chanErr ∧ (markGone x own m).sramErr = m.sramErr ∧
    (markGone x own m).trainBad = m.trainBad ∧ (markGone x own m).hidKey = m.hidKey ∧
    (markGone x own m).tlb = m.tlb ∧ (markGone x own m).writes = m.writes ∧ (markGone x own m).cows = m.cows ∧
    (markGone x own m).ledger = m.ledger ∧ (markGone x own m).lease = m.lease ∧ (markGone x own m).cat = m.cat ∧
    (markGone x own m).tt = m.tt ∧ (markGone x own m).pm = m.pm ∧ (markGone x own m).att = m.att ∧
    (markGone x own m).bms = m.bms ∧ (markGone x own m).out = m.out ∧ (markGone x own m).draw = m.draw := by
  obtain ⟨_, _, h⟩ := markGone_frame (m := m) x own
  simp only [h, and_self]

@[simp] theorem markGone_parts (x : Txn) (own : OutOwn) :
    (∀ j, (markGone x own m).thread j = m.thread j) ∧ (∀ j, (markGone x own m).core j = m.core j) ∧
    (∀ j, (markGone x own m).ctx j = m.ctx j) ∧ (∀ j, (markGone x own m).part j = m.part j) ∧
    (∀ j, (markGone x own m).func j = m.func j) ∧ (∀ j, (markGone x own m).port j = m.port j) ∧
    (∀ j, (markGone x own m).stripe j = m.stripe j) ∧ (markGone x own m).now = m.now ∧
    (markGone x own m).on = m.on := by
  obtain ⟨_, _, h⟩ := markGone_frame (m := m) x own
  rw [h]
  exact ⟨fun _ => rfl, fun _ => rfl, fun _ => rfl, fun _ => rfl, fun _ => rfl, fun _ => rfl, fun _ => rfl, rfl, rfl⟩

theorem dropTx_frame (x : Txn) (inp : Inp) (own : OutOwn) :
    ∃ y0 y1 y2, dropTx x inp own m = { m with ports := y0, fab := y1, pds := y2 } := by
  unfold dropTx
  obtain ⟨f, d, h⟩ := markGone_frame (m := m) x own
  obtain ⟨p, h2⟩ := freeBuf_frame (m := markGone x own m) inp x
  rw [h2, h]; exact ⟨_, _, _, rfl⟩

@[simp] theorem dropTx_same (x : Txn) (inp : Inp) (own : OutOwn) :
    (dropTx x inp own m).boot = m.boot ∧ (dropTx x inp own m).time = m.time ∧ (dropTx x inp own m).topo = m.topo ∧
    (dropTx x inp own m).fabKey = m.fabKey ∧ (dropTx x inp own m).threads = m.threads ∧
    (dropTx x inp own m).cores = m.cores ∧ (dropTx x inp own m).csce = m.csce ∧ (dropTx x inp own m).ctxs = m.ctxs ∧
    (dropTx x inp own m).parts = m.parts ∧ (dropTx x inp own m).layout = m.layout ∧
    (dropTx x inp own m).funs = m.funs ∧ (dropTx x inp own m).stripes = m.stripes ∧
    (dropTx x inp own m).mem = m.mem ∧ (dropTx x inp own m).valid = m.valid ∧
    (dropTx x inp own m).summary = m.summary ∧ (dropTx x inp own m).sumBad = m.sumBad ∧
    (dropTx x inp own m).bad = m.bad ∧ (dropTx x inp own m).dramErr = m.dramErr ∧
    (dropTx x inp own m).chanErr = m.chanErr ∧ (dropTx x inp own m).sramErr = m.sramErr ∧
    (dropTx x inp own m).trainBad = m.trainBad ∧ (dropTx x inp own m).hidKey = m.hidKey ∧
    (dropTx x inp own m).tlb = m.tlb ∧ (dropTx x inp own m).writes = m.writes ∧ (dropTx x inp own m).cows = m.cows ∧
    (dropTx x inp own m).ledger = m.ledger ∧ (dropTx x inp own m).lease = m.lease ∧
    (dropTx x inp own m).cat = m.cat ∧ (dropTx x inp own m).tt = m.tt ∧ (dropTx x inp own m).pm = m.pm ∧
    (dropTx x inp own m).att = m.att ∧ (dropTx x inp own m).bms = m.bms ∧ (dropTx x inp own m).out = m.out ∧
    (dropTx x inp own m).draw = m.draw := by
  obtain ⟨_, _, _, h⟩ := dropTx_frame (m := m) x inp own
  simp only [h, and_self]

@[simp] theorem dropTx_parts (x : Txn) (inp : Inp) (own : OutOwn) :
    (∀ j, (dropTx x inp own m).thread j = m.thread j) ∧ (∀ j, (dropTx x inp own m).core j = m.core j) ∧
    (∀ j, (dropTx x inp own m).ctx j = m.ctx j) ∧ (∀ j, (dropTx x inp own m).part j = m.part j) ∧
    (∀ j, (dropTx x inp own m).func j = m.func j) ∧ (∀ j, (dropTx x inp own m).stripe j = m.stripe j) ∧
    (dropTx x inp own m).now = m.now ∧ (dropTx x inp own m).on = m.on := by
  obtain ⟨_, _, _, h⟩ := dropTx_frame (m := m) x inp own
  rw [h]
  exact ⟨fun _ => rfl, fun _ => rfl, fun _ => rfl, fun _ => rfl, fun _ => rfl, fun _ => rfl, rfl, rfl⟩

theorem detDrop_frame (n : Nat) (x : Txn) (inp : Inp) (own : OutOwn) :
    ∃ y0 y1 y2, detDrop n x inp own m = { m with ports := y0, fab := y1, pds := y2 } := by
  unfold detDrop
  obtain ⟨p, f, d, h⟩ := dropTx_frame (m := m.updPd (pdOf n) fun d => { d with detdrop := satAdd 32 d.detdrop 1 }) x inp own
  rw [h]; exact ⟨_, _, _, rfl⟩

@[simp] theorem detDrop_same (n : Nat) (x : Txn) (inp : Inp) (own : OutOwn) :
    (detDrop n x inp own m).boot = m.boot ∧ (detDrop n x inp own m).time = m.time ∧
    (detDrop n x inp own m).topo = m.topo ∧ (detDrop n x inp own m).fabKey = m.fabKey ∧
    (detDrop n x inp own m).threads = m.threads ∧ (detDrop n x inp own m).cores = m.cores ∧
    (detDrop n x inp own m).csce = m.csce ∧ (detDrop n x inp own m).ctxs = m.ctxs ∧
    (detDrop n x inp own m).parts = m.parts ∧ (detDrop n x inp own m).layout = m.layout ∧
    (detDrop n x inp own m).funs = m.funs ∧ (detDrop n x inp own m).stripes = m.stripes ∧
    (detDrop n x inp own m).mem = m.mem ∧ (detDrop n x inp own m).valid = m.valid ∧
    (detDrop n x inp own m).summary = m.summary ∧ (detDrop n x inp own m).sumBad = m.sumBad ∧
    (detDrop n x inp own m).bad = m.bad ∧ (detDrop n x inp own m).dramErr = m.dramErr ∧
    (detDrop n x inp own m).chanErr = m.chanErr ∧ (detDrop n x inp own m).sramErr = m.sramErr ∧
    (detDrop n x inp own m).trainBad = m.trainBad ∧ (detDrop n x inp own m).hidKey = m.hidKey ∧
    (detDrop n x inp own m).tlb = m.tlb ∧ (detDrop n x inp own m).writes = m.writes ∧
    (detDrop n x inp own m).cows = m.cows ∧ (detDrop n x inp own m).ledger = m.ledger ∧
    (detDrop n x inp own m).lease = m.lease ∧ (detDrop n x inp own m).cat = m.cat ∧
    (detDrop n x inp own m).tt = m.tt ∧ (detDrop n x inp own m).pm = m.pm ∧ (detDrop n x inp own m).att = m.att ∧
    (detDrop n x inp own m).bms = m.bms ∧ (detDrop n x inp own m).out = m.out ∧
    (detDrop n x inp own m).draw = m.draw := by
  obtain ⟨_, _, _, h⟩ := detDrop_frame (m := m) n x inp own
  simp only [h, and_self]

@[simp] theorem detDrop_parts (n : Nat) (x : Txn) (inp : Inp) (own : OutOwn) :
    (∀ j, (detDrop n x inp own m).thread j = m.thread j) ∧ (∀ j, (detDrop n x inp own m).core j = m.core j) ∧
    (∀ j, (detDrop n x inp own m).ctx j = m.ctx j) ∧ (∀ j, (detDrop n x inp own m).part j = m.part j) ∧
    (∀ j, (detDrop n x inp own m).func j = m.func j) ∧ (∀ j, (detDrop n x inp own m).stripe j = m.stripe j) ∧
    (detDrop n x inp own m).now = m.now ∧ (detDrop n x inp own m).on = m.on := by
  obtain ⟨_, _, _, h⟩ := detDrop_frame (m := m) n x inp own
  rw [h]
  exact ⟨fun _ => rfl, fun _ => rfl, fun _ => rfl, fun _ => rfl, fun _ => rfl, fun _ => rfl, rfl, rfl⟩

theorem detourTx_frame (n : Nat) (x : Txn) (inp : Inp) (since : Nat) (own : OutOwn) :
    ∃ y0 y1 y2, detourTx n x inp since own m = { m with ports := y0, fab := y1, pds := y2 } := by
  unfold detourTx; dsimp only; split
  · exact ⟨_, m.fab, m.pds, rfl⟩
  · exact detDrop_frame ..

@[simp] theorem detourTx_same (n : Nat) (x : Txn) (inp : Inp) (since : Nat) (own : OutOwn) :
    (detourTx n x inp since own m).boot = m.boot ∧ (detourTx n x inp since own m).time = m.time ∧
    (detourTx n x inp since own m).topo = m.topo ∧ (detourTx n x inp since own m).fabKey = m.fabKey ∧
    (detourTx n x inp since own m).threads = m.threads ∧ (detourTx n x inp since own m).cores = m.cores ∧
    (detourTx n x inp since own m).csce = m.csce ∧ (detourTx n x inp since own m).ctxs = m.ctxs ∧
    (detourTx n x inp since own m).parts = m.parts ∧ (detourTx n x inp since own m).layout = m.layout ∧
    (detourTx n x inp since own m).funs = m.funs ∧ (detourTx n x inp since own m).stripes = m.stripes ∧
    (detourTx n x inp since own m).mem = m.mem ∧ (detourTx n x inp since own m).valid = m.valid ∧
    (detourTx n x inp since own m).summary = m.summary ∧ (detourTx n x inp since own m).sumBad = m.sumBad ∧
    (detourTx n x inp since own m).bad = m.bad ∧ (detourTx n x inp since own m).dramErr = m.dramErr ∧
    (detourTx n x inp since own m).chanErr = m.chanErr ∧ (detourTx n x inp since own m).sramErr = m.sramErr ∧
    (detourTx n x inp since own m).trainBad = m.trainBad ∧ (detourTx n x inp since own m).hidKey = m.hidKey ∧
    (detourTx n x inp since own m).tlb = m.tlb ∧ (detourTx n x inp since own m).writes = m.writes ∧
    (detourTx n x inp since own m).cows = m.cows ∧ (detourTx n x inp since own m).ledger = m.ledger ∧
    (detourTx n x inp since own m).lease = m.lease ∧ (detourTx n x inp since own m).cat = m.cat ∧
    (detourTx n x inp since own m).tt = m.tt ∧ (detourTx n x inp since own m).pm = m.pm ∧
    (detourTx n x inp since own m).att = m.att ∧ (detourTx n x inp since own m).bms = m.bms ∧
    (detourTx n x inp since own m).out = m.out ∧ (detourTx n x inp since own m).draw = m.draw := by
  obtain ⟨_, _, _, h⟩ := detourTx_frame (m := m) n x inp since own
  simp only [h, and_self]

@[simp] theorem detourTx_parts (n : Nat) (x : Txn) (inp : Inp) (since : Nat) (own : OutOwn) :
    (∀ j, (detourTx n x inp since own m).thread j = m.thread j) ∧
    (∀ j, (detourTx n x inp since own m).core j = m.core j) ∧ (∀ j, (detourTx n x inp since own m).ctx j = m.ctx j) ∧
    (∀ j, (detourTx n x inp since own m).part j = m.part j) ∧
    (∀ j, (detourTx n x inp since own m).func j = m.func j) ∧
    (∀ j, (detourTx n x inp since own m).stripe j = m.stripe j) ∧ (detourTx n x inp since own m).now = m.now ∧
    (detourTx n x inp since own m).on = m.on := by
  obtain ⟨_, _, _, h⟩ := detourTx_frame (m := m) n x inp since own
  rw [h]
  exact ⟨fun _ => rfl, fun _ => rfl, fun _ => rfl, fun _ => rfl, fun _ => rfl, fun _ => rfl, rfl, rfl⟩

theorem switchTx_frame (x : Txn) (inp : Inp) (since : Nat) (own : OutOwn) :
    ∃ y0 y1 y2, switchTx x inp since own m = { m with ports := y0, fab := y1, pds := y2 } := by
  unfold switchTx
  split
  · exact dropTx_frame ..
  · split
    · split
      · exact ⟨_, m.fab, m.pds, rfl⟩
      · exact detDrop_frame ..
    · split
      · exact detourTx_frame ..
      · exact ⟨_, m.fab, m.pds, rfl⟩

@[simp] theorem switchTx_same (x : Txn) (inp : Inp) (since : Nat) (own : OutOwn) :
    (switchTx x inp since own m).boot = m.boot ∧ (switchTx x inp since own m).time = m.time ∧
    (switchTx x inp since own m).topo = m.topo ∧ (switchTx x inp since own m).fabKey = m.fabKey ∧
    (switchTx x inp since own m).threads = m.threads ∧ (switchTx x inp since own m).cores = m.cores ∧
    (switchTx x inp since own m).csce = m.csce ∧ (switchTx x inp since own m).ctxs = m.ctxs ∧
    (switchTx x inp since own m).parts = m.parts ∧ (switchTx x inp since own m).layout = m.layout ∧
    (switchTx x inp since own m).funs = m.funs ∧ (switchTx x inp since own m).stripes = m.stripes ∧
    (switchTx x inp since own m).mem = m.mem ∧ (switchTx x inp since own m).valid = m.valid ∧
    (switchTx x inp since own m).summary = m.summary ∧ (switchTx x inp since own m).sumBad = m.sumBad ∧
    (switchTx x inp since own m).bad = m.bad ∧ (switchTx x inp since own m).dramErr = m.dramErr ∧
    (switchTx x inp since own m).chanErr = m.chanErr ∧ (switchTx x inp since own m).sramErr = m.sramErr ∧
    (switchTx x inp since own m).trainBad = m.trainBad ∧ (switchTx x inp since own m).hidKey = m.hidKey ∧
    (switchTx x inp since own m).tlb = m.tlb ∧ (switchTx x inp since own m).writes = m.writes ∧
    (switchTx x inp since own m).cows = m.cows ∧ (switchTx x inp since own m).ledger = m.ledger ∧
    (switchTx x inp since own m).lease = m.lease ∧ (switchTx x inp since own m).cat = m.cat ∧
    (switchTx x inp since own m).tt = m.tt ∧ (switchTx x inp since own m).pm = m.pm ∧
    (switchTx x inp since own m).att = m.att ∧ (switchTx x inp since own m).bms = m.bms ∧
    (switchTx x inp since own m).out = m.out ∧ (switchTx x inp since own m).draw = m.draw := by
  obtain ⟨_, _, _, h⟩ := switchTx_frame (m := m) x inp since own
  simp only [h, and_self]

@[simp] theorem switchTx_parts (x : Txn) (inp : Inp) (since : Nat) (own : OutOwn) :
    (∀ j, (switchTx x inp since own m).thread j = m.thread j) ∧
    (∀ j, (switchTx x inp since own m).core j = m.core j) ∧ (∀ j, (switchTx x inp since own m).ctx j = m.ctx j) ∧
    (∀ j, (switchTx x inp since own m).part j = m.part j) ∧ (∀ j, (switchTx x inp since own m).func j = m.func j) ∧
    (∀ j, (switchTx x inp since own m).stripe j = m.stripe j) ∧ (switchTx x inp since own m).now = m.now ∧
    (switchTx x inp since own m).on = m.on := by
  obtain ⟨_, _, _, h⟩ := switchTx_frame (m := m) x inp since own
  rw [h]
  exact ⟨fun _ => rfl, fun _ => rfl, fun _ => rfl, fun _ => rfl, fun _ => rfl, fun _ => rfl, rfl, rfl⟩

theorem answer_frame (x : Txn) (k : TxKind) (c : NackCause) (d : List Byte) (b : List Nat) :
    ∃ y0 y1 y2, answer x k c d b m = { m with ports := y0, fab := y1, pds := y2 } := switchTx_frame ..

@[simp] theorem answer_same (x : Txn) (k : TxKind) (c : NackCause) (d : List Byte) (b : List Nat) :
    (answer x k c d b m).boot = m.boot ∧ (answer x k c d b m).time = m.time ∧ (answer x k c d b m).topo = m.topo ∧
    (answer x k c d b m).fabKey = m.fabKey ∧ (answer x k c d b m).threads = m.threads ∧
    (answer x k c d b m).cores = m.cores ∧ (answer x k c d b m).csce = m.csce ∧ (answer x k c d b m).ctxs = m.ctxs ∧
    (answer x k c d b m).parts = m.parts ∧ (answer x k c d b m).layout = m.layout ∧
    (answer x k c d b m).funs = m.funs ∧ (answer x k c d b m).stripes = m.stripes ∧
    (answer x k c d b m).mem = m.mem ∧ (answer x k c d b m).valid = m.valid ∧
    (answer x k c d b m).summary = m.summary ∧ (answer x k c d b m).sumBad = m.sumBad ∧
    (answer x k c d b m).bad = m.bad ∧ (answer x k c d b m).dramErr = m.dramErr ∧
    (answer x k c d b m).chanErr = m.chanErr ∧ (answer x k c d b m).sramErr = m.sramErr ∧
    (answer x k c d b m).trainBad = m.trainBad ∧ (answer x k c d b m).hidKey = m.hidKey ∧
    (answer x k c d b m).tlb = m.tlb ∧ (answer x k c d b m).writes = m.writes ∧ (answer x k c d b m).cows = m.cows ∧
    (answer x k c d b m).ledger = m.ledger ∧ (answer x k c d b m).lease = m.lease ∧
    (answer x k c d b m).cat = m.cat ∧ (answer x k c d b m).tt = m.tt ∧ (answer x k c d b m).pm = m.pm ∧
    (answer x k c d b m).att = m.att ∧ (answer x k c d b m).bms = m.bms ∧ (answer x k c d b m).out = m.out ∧
    (answer x k c d b m).draw = m.draw := by
  obtain ⟨_, _, _, h⟩ := answer_frame (m := m) x k c d b
  simp only [h, and_self]

@[simp] theorem answer_parts (x : Txn) (k : TxKind) (c : NackCause) (d : List Byte) (b : List Nat) :
    (∀ j, (answer x k c d b m).thread j = m.thread j) ∧ (∀ j, (answer x k c d b m).core j = m.core j) ∧
    (∀ j, (answer x k c d b m).ctx j = m.ctx j) ∧ (∀ j, (answer x k c d b m).part j = m.part j) ∧
    (∀ j, (answer x k c d b m).func j = m.func j) ∧ (∀ j, (answer x k c d b m).stripe j = m.stripe j) ∧
    (answer x k c d b m).now = m.now ∧ (answer x k c d b m).on = m.on := by
  obtain ⟨_, _, _, h⟩ := answer_frame (m := m) x k c d b
  rw [h]
  exact ⟨fun _ => rfl, fun _ => rfl, fun _ => rfl, fun _ => rfl, fun _ => rfl, fun _ => rfl, rfl, rfl⟩

theorem request_frame (f : Flight) :
    ∃ y0, request f m = { m with fab := y0 } := ⟨_, rfl⟩

@[simp] theorem request_same (f : Flight) :
    (request f m).boot = m.boot ∧ (request f m).time = m.time ∧ (request f m).topo = m.topo ∧
    (request f m).fabKey = m.fabKey ∧ (request f m).threads = m.threads ∧ (request f m).cores = m.cores ∧
    (request f m).csce = m.csce ∧ (request f m).ctxs = m.ctxs ∧ (request f m).parts = m.parts ∧
    (request f m).layout = m.layout ∧ (request f m).funs = m.funs ∧ (request f m).ports = m.ports ∧
    (request f m).pds = m.pds ∧ (request f m).stripes = m.stripes ∧ (request f m).mem = m.mem ∧
    (request f m).valid = m.valid ∧ (request f m).summary = m.summary ∧ (request f m).sumBad = m.sumBad ∧
    (request f m).bad = m.bad ∧ (request f m).dramErr = m.dramErr ∧ (request f m).chanErr = m.chanErr ∧
    (request f m).sramErr = m.sramErr ∧ (request f m).trainBad = m.trainBad ∧ (request f m).hidKey = m.hidKey ∧
    (request f m).tlb = m.tlb ∧ (request f m).writes = m.writes ∧ (request f m).cows = m.cows ∧
    (request f m).ledger = m.ledger ∧ (request f m).lease = m.lease ∧ (request f m).cat = m.cat ∧
    (request f m).tt = m.tt ∧ (request f m).pm = m.pm ∧ (request f m).att = m.att ∧ (request f m).bms = m.bms ∧
    (request f m).out = m.out ∧ (request f m).draw = m.draw := by
  obtain ⟨_, h⟩ := request_frame (m := m) f
  simp only [h, and_self]

@[simp] theorem request_parts (f : Flight) :
    (∀ j, (request f m).thread j = m.thread j) ∧ (∀ j, (request f m).core j = m.core j) ∧
    (∀ j, (request f m).ctx j = m.ctx j) ∧ (∀ j, (request f m).part j = m.part j) ∧
    (∀ j, (request f m).func j = m.func j) ∧ (∀ j, (request f m).port j = m.port j) ∧
    (∀ j, (request f m).pd j = m.pd j) ∧ (∀ j, (request f m).stripe j = m.stripe j) ∧ (request f m).now = m.now ∧
    (request f m).on = m.on := by
  obtain ⟨_, h⟩ := request_frame (m := m) f
  rw [h]
  exact ⟨fun _ => rfl, fun _ => rfl, fun _ => rfl, fun _ => rfl, fun _ => rfl, fun _ => rfl, fun _ => rfl, fun _ => rfl, rfl, rfl⟩

theorem dropFlight_frame (f : Flight) :
    ∃ y0, dropFlight f m = { m with fab := y0 } := ⟨_, rfl⟩

@[simp] theorem dropFlight_same (f : Flight) :
    (dropFlight f m).boot = m.boot ∧ (dropFlight f m).time = m.time ∧ (dropFlight f m).topo = m.topo ∧
    (dropFlight f m).fabKey = m.fabKey ∧ (dropFlight f m).threads = m.threads ∧ (dropFlight f m).cores = m.cores ∧
    (dropFlight f m).csce = m.csce ∧ (dropFlight f m).ctxs = m.ctxs ∧ (dropFlight f m).parts = m.parts ∧
    (dropFlight f m).layout = m.layout ∧ (dropFlight f m).funs = m.funs ∧ (dropFlight f m).ports = m.ports ∧
    (dropFlight f m).pds = m.pds ∧ (dropFlight f m).stripes = m.stripes ∧ (dropFlight f m).mem = m.mem ∧
    (dropFlight f m).valid = m.valid ∧ (dropFlight f m).summary = m.summary ∧ (dropFlight f m).sumBad = m.sumBad ∧
    (dropFlight f m).bad = m.bad ∧ (dropFlight f m).dramErr = m.dramErr ∧ (dropFlight f m).chanErr = m.chanErr ∧
    (dropFlight f m).sramErr = m.sramErr ∧ (dropFlight f m).trainBad = m.trainBad ∧
    (dropFlight f m).hidKey = m.hidKey ∧ (dropFlight f m).tlb = m.tlb ∧ (dropFlight f m).writes = m.writes ∧
    (dropFlight f m).cows = m.cows ∧ (dropFlight f m).ledger = m.ledger ∧ (dropFlight f m).lease = m.lease ∧
    (dropFlight f m).cat = m.cat ∧ (dropFlight f m).tt = m.tt ∧ (dropFlight f m).pm = m.pm ∧
    (dropFlight f m).att = m.att ∧ (dropFlight f m).bms = m.bms ∧ (dropFlight f m).out = m.out ∧
    (dropFlight f m).draw = m.draw := by
  obtain ⟨_, h⟩ := dropFlight_frame (m := m) f
  simp only [h, and_self]

@[simp] theorem dropFlight_parts (f : Flight) :
    (∀ j, (dropFlight f m).thread j = m.thread j) ∧ (∀ j, (dropFlight f m).core j = m.core j) ∧
    (∀ j, (dropFlight f m).ctx j = m.ctx j) ∧ (∀ j, (dropFlight f m).part j = m.part j) ∧
    (∀ j, (dropFlight f m).func j = m.func j) ∧ (∀ j, (dropFlight f m).port j = m.port j) ∧
    (∀ j, (dropFlight f m).pd j = m.pd j) ∧ (∀ j, (dropFlight f m).stripe j = m.stripe j) ∧
    (dropFlight f m).now = m.now ∧ (dropFlight f m).on = m.on := by
  obtain ⟨_, h⟩ := dropFlight_frame (m := m) f
  rw [h]
  exact ⟨fun _ => rfl, fun _ => rfl, fun _ => rfl, fun _ => rfl, fun _ => rfl, fun _ => rfl, fun _ => rfl, fun _ => rfl, rfl, rfl⟩

/-! Faults of a context. -/

theorem latch_frame (slot : Nat) (f : FaultInfo) :
    ∃ y0 y1 y2, latch slot f m = { m with ctxs := y0, ledger := y1, out := y2 } := by
  unfold latch; dsimp only; split
  · exact ⟨m.ctxs, m.ledger, m.out, rfl⟩
  · split
    · exact ⟨_, m.ledger, m.out, rfl⟩
    · split
      · rename_i g _
        obtain ⟨l, o, h⟩ := led_frame (m := m.updCtx slot fun x =>
          { x with state := if x.state = .teardown then .teardown else .faulted,
                   fault := { cause := f.cause, sub := f.sub, count := 0, addr := f.addr, src := f.src } })
          (0x0100 + f.cause.code) (if f.cause = .poisonConsumed then sevError else sevWarn) _
          [f.addr.toNat, f.src.toNat, f.sub.code, f.tag]
        rw [h]; exact ⟨_, _, _, rfl⟩
      · obtain ⟨l, o, h⟩ := led_frame (m := m.updCtx slot fun x =>
          { x with state := if x.state = .teardown then .teardown else .faulted,
                   fault := { cause := f.cause, sub := f.sub, count := 0, addr := f.addr, src := f.src } })
          (0x0100 + f.cause.code) (if f.cause = .poisonConsumed then sevError else sevWarn) _
          [f.addr.toNat, f.src.toNat, f.sub.code, f.tag]
        rw [h]; exact ⟨_, _, _, rfl⟩

@[simp] theorem latch_same (slot : Nat) (f : FaultInfo) :
    (latch slot f m).boot = m.boot ∧ (latch slot f m).time = m.time ∧ (latch slot f m).topo = m.topo ∧
    (latch slot f m).fabKey = m.fabKey ∧ (latch slot f m).threads = m.threads ∧ (latch slot f m).cores = m.cores ∧
    (latch slot f m).csce = m.csce ∧ (latch slot f m).parts = m.parts ∧ (latch slot f m).layout = m.layout ∧
    (latch slot f m).funs = m.funs ∧ (latch slot f m).ports = m.ports ∧ (latch slot f m).pds = m.pds ∧
    (latch slot f m).fab = m.fab ∧ (latch slot f m).stripes = m.stripes ∧ (latch slot f m).mem = m.mem ∧
    (latch slot f m).valid = m.valid ∧ (latch slot f m).summary = m.summary ∧ (latch slot f m).sumBad = m.sumBad ∧
    (latch slot f m).bad = m.bad ∧ (latch slot f m).dramErr = m.dramErr ∧ (latch slot f m).chanErr = m.chanErr ∧
    (latch slot f m).sramErr = m.sramErr ∧ (latch slot f m).trainBad = m.trainBad ∧
    (latch slot f m).hidKey = m.hidKey ∧ (latch slot f m).tlb = m.tlb ∧ (latch slot f m).writes = m.writes ∧
    (latch slot f m).cows = m.cows ∧ (latch slot f m).lease = m.lease ∧ (latch slot f m).cat = m.cat ∧
    (latch slot f m).tt = m.tt ∧ (latch slot f m).pm = m.pm ∧ (latch slot f m).att = m.att ∧
    (latch slot f m).bms = m.bms ∧ (latch slot f m).draw = m.draw := by
  obtain ⟨_, _, _, h⟩ := latch_frame (m := m) slot f
  simp only [h, and_self]

@[simp] theorem latch_parts (slot : Nat) (f : FaultInfo) :
    (∀ j, (latch slot f m).thread j = m.thread j) ∧ (∀ j, (latch slot f m).core j = m.core j) ∧
    (∀ j, (latch slot f m).part j = m.part j) ∧ (∀ j, (latch slot f m).func j = m.func j) ∧
    (∀ j, (latch slot f m).port j = m.port j) ∧ (∀ j, (latch slot f m).pd j = m.pd j) ∧
    (∀ j, (latch slot f m).stripe j = m.stripe j) ∧ (latch slot f m).now = m.now ∧ (latch slot f m).on = m.on := by
  obtain ⟨_, _, _, h⟩ := latch_frame (m := m) slot f
  rw [h]
  exact ⟨fun _ => rfl, fun _ => rfl, fun _ => rfl, fun _ => rfl, fun _ => rfl, fun _ => rfl, fun _ => rfl, rfl, rfl⟩

theorem applyFault_frame (b : FaultB) :
    ∃ y0 y1 y2, applyFault b m = { m with ctxs := y0, ledger := y1, out := y2 } := by
  have fold : ∀ (l : List Nat) (g : FaultInfo) (m : Module), ∃ c k o,
      each l (fun i => latch i g) m = { m with ctxs := c, ledger := k, out := o } := by
    intro l g
    induction l with
    | nil => intro m; exact ⟨m.ctxs, m.ledger, m.out, rfl⟩
    | cons i l ih =>
      intro m
      obtain ⟨c, k, o, h⟩ := latch_frame (m := m) i g
      obtain ⟨c2, k2, o2, h2⟩ := ih (latch i g m)
      refine ⟨c2, k2, o2, ?_⟩
      show each l (fun i => latch i g) (latch i g m) = _
      rw [h2, h]
  unfold applyFault; dsimp only
  obtain ⟨c, k, o, h⟩ := fold (((slotsWhere m Ctx.live).filter (concerns m b)).filter fun i => (m.ctx i).r.abort)
    (outerFault .jobAbort 0 0) m
  rw [h]
  split
  · exact (led_frame ..).elim fun _ h => h.elim fun _ h => ⟨_, _, _, h⟩
  · exact ⟨_, _, _, rfl⟩

@[simp] theorem applyFault_same (b : FaultB) :
    (applyFault b m).boot = m.boot ∧ (applyFault b m).time = m.time ∧ (applyFault b m).topo = m.topo ∧
    (applyFault b m).fabKey = m.fabKey ∧ (applyFault b m).threads = m.threads ∧ (applyFault b m).cores = m.cores ∧
    (applyFault b m).csce = m.csce ∧ (applyFault b m).parts = m.parts ∧ (applyFault b m).layout = m.layout ∧
    (applyFault b m).funs = m.funs ∧ (applyFault b m).ports = m.ports ∧ (applyFault b m).pds = m.pds ∧
    (applyFault b m).fab = m.fab ∧ (applyFault b m).stripes = m.stripes ∧ (applyFault b m).mem = m.mem ∧
    (applyFault b m).valid = m.valid ∧ (applyFault b m).summary = m.summary ∧ (applyFault b m).sumBad = m.sumBad ∧
    (applyFault b m).bad = m.bad ∧ (applyFault b m).dramErr = m.dramErr ∧ (applyFault b m).chanErr = m.chanErr ∧
    (applyFault b m).sramErr = m.sramErr ∧ (applyFault b m).trainBad = m.trainBad ∧
    (applyFault b m).hidKey = m.hidKey ∧ (applyFault b m).tlb = m.tlb ∧ (applyFault b m).writes = m.writes ∧
    (applyFault b m).cows = m.cows ∧ (applyFault b m).lease = m.lease ∧ (applyFault b m).cat = m.cat ∧
    (applyFault b m).tt = m.tt ∧ (applyFault b m).pm = m.pm ∧ (applyFault b m).att = m.att ∧
    (applyFault b m).bms = m.bms ∧ (applyFault b m).draw = m.draw := by
  obtain ⟨_, _, _, h⟩ := applyFault_frame (m := m) b
  simp only [h, and_self]

@[simp] theorem applyFault_parts (b : FaultB) :
    (∀ j, (applyFault b m).thread j = m.thread j) ∧ (∀ j, (applyFault b m).core j = m.core j) ∧
    (∀ j, (applyFault b m).part j = m.part j) ∧ (∀ j, (applyFault b m).func j = m.func j) ∧
    (∀ j, (applyFault b m).port j = m.port j) ∧ (∀ j, (applyFault b m).pd j = m.pd j) ∧
    (∀ j, (applyFault b m).stripe j = m.stripe j) ∧ (applyFault b m).now = m.now ∧ (applyFault b m).on = m.on := by
  obtain ⟨_, _, _, h⟩ := applyFault_frame (m := m) b
  rw [h]
  exact ⟨fun _ => rfl, fun _ => rfl, fun _ => rfl, fun _ => rfl, fun _ => rfl, fun _ => rfl, fun _ => rfl, rfl, rfl⟩

theorem sendFault_frame (ty : FaultType) (subject : BitVec 16) :
    ∃ y0 y1 y2 y3 y4, sendFault ty subject m = { m with fab := y0, ports := y1, ctxs := y2, ledger := y3, out := y4 } := by
  have fold : ∀ (l : List Nat) (b : FaultB) (m : Module), ∃ p o,
      each l (fun n => emitFault n b) m = { m with ports := p, out := o } := by
    intro l b
    induction l with
    | nil => intro m; exact ⟨m.ports, m.out, rfl⟩
    | cons i l ih =>
      intro m
      obtain ⟨p, o, h⟩ := emitFault_frame (m := m) i b
      obtain ⟨p2, o2, h2⟩ := ih (emitFault i b m)
      refine ⟨p2, o2, ?_⟩
      show each l (fun n => emitFault n b) (emitFault i b m) = _
      rw [h2, h]
  unfold sendFault; dsimp only
  obtain ⟨c, k, o, h⟩ := applyFault_frame (m := each (upPorts { m with fab := _ }) (fun n => emitFault n _) { m with fab := _ })
    { type := ty, reporter := BitVec.ofNat 16 m.num, subject := subject, serial := BitVec.ofNat 32 m.fab.serial,
      dstamp := m.now }
  rw [h]
  obtain ⟨p, o2, h2⟩ := fold (upPorts { m with fab := _ }) _ { m with fab := _ }
  rw [h2]; exact ⟨_, _, _, _, _, rfl⟩

@[simp] theorem sendFault_same (ty : FaultType) (subject : BitVec 16) :
    (sendFault ty subject m).boot = m.boot ∧ (sendFault ty subject m).time = m.time ∧
    (sendFault ty subject m).topo = m.topo ∧ (sendFault ty subject m).fabKey = m.fabKey ∧
    (sendFault ty subject m).threads = m.threads ∧ (sendFault ty subject m).cores = m.cores ∧
    (sendFault ty subject m).csce = m.csce ∧ (sendFault ty subject m).parts = m.parts ∧
    (sendFault ty subject m).layout = m.layout ∧ (sendFault ty subject m).funs = m.funs ∧
    (sendFault ty subject m).pds = m.pds ∧ (sendFault ty subject m).stripes = m.stripes ∧
    (sendFault ty subject m).mem = m.mem ∧ (sendFault ty subject m).valid = m.valid ∧
    (sendFault ty subject m).summary = m.summary ∧ (sendFault ty subject m).sumBad = m.sumBad ∧
    (sendFault ty subject m).bad = m.bad ∧ (sendFault ty subject m).dramErr = m.dramErr ∧
    (sendFault ty subject m).chanErr = m.chanErr ∧ (sendFault ty subject m).sramErr = m.sramErr ∧
    (sendFault ty subject m).trainBad = m.trainBad ∧ (sendFault ty subject m).hidKey = m.hidKey ∧
    (sendFault ty subject m).tlb = m.tlb ∧ (sendFault ty subject m).writes = m.writes ∧
    (sendFault ty subject m).cows = m.cows ∧ (sendFault ty subject m).lease = m.lease ∧
    (sendFault ty subject m).cat = m.cat ∧ (sendFault ty subject m).tt = m.tt ∧ (sendFault ty subject m).pm = m.pm ∧
    (sendFault ty subject m).att = m.att ∧ (sendFault ty subject m).bms = m.bms ∧
    (sendFault ty subject m).draw = m.draw := by
  obtain ⟨_, _, _, _, _, h⟩ := sendFault_frame (m := m) ty subject
  simp only [h, and_self]

@[simp] theorem sendFault_parts (ty : FaultType) (subject : BitVec 16) :
    (∀ j, (sendFault ty subject m).thread j = m.thread j) ∧ (∀ j, (sendFault ty subject m).core j = m.core j) ∧
    (∀ j, (sendFault ty subject m).part j = m.part j) ∧ (∀ j, (sendFault ty subject m).func j = m.func j) ∧
    (∀ j, (sendFault ty subject m).pd j = m.pd j) ∧ (∀ j, (sendFault ty subject m).stripe j = m.stripe j) ∧
    (sendFault ty subject m).now = m.now ∧ (sendFault ty subject m).on = m.on := by
  obtain ⟨_, _, _, _, _, h⟩ := sendFault_frame (m := m) ty subject
  rw [h]
  exact ⟨fun _ => rfl, fun _ => rfl, fun _ => rfl, fun _ => rfl, fun _ => rfl, fun _ => rfl, rfl, rfl⟩

theorem ctxFault_frame (slot : Nat) (f : FaultInfo) :
    ∃ y0 y1 y2 y3 y4, ctxFault slot f m = { m with fab := y0, ports := y1, ctxs := y2, ledger := y3, out := y4 } := by
  unfold ctxFault; dsimp only
  obtain ⟨c, l, o, h⟩ := latch_frame (m := m) slot f
  split
  · obtain ⟨a, p, c2, l2, o2, h2⟩ := sendFault_frame
      (m := led 0x0304 sevWarn (atCtx (latch slot f m) slot) [(m.ctx slot).r.job.toNat, (latch slot f m).fab.serial]
        (latch slot f m)) .job (m.ctx slot).r.job
    rw [h2]
    obtain ⟨l3, o3, h3⟩ := led_frame (m := latch slot f m) 0x0304 sevWarn (atCtx (latch slot f m) slot)
      [(m.ctx slot).r.job.toNat, (latch slot f m).fab.serial]
    rw [h3, h]; exact ⟨_, _, _, _, _, rfl⟩
  · rw [h]; exact ⟨m.fab, m.ports, _, _, _, rfl⟩

@[simp] theorem ctxFault_same (slot : Nat) (f : FaultInfo) :
    (ctxFault slot f m).boot = m.boot ∧ (ctxFault slot f m).time = m.time ∧ (ctxFault slot f m).topo = m.topo ∧
    (ctxFault slot f m).fabKey = m.fabKey ∧ (ctxFault slot f m).threads = m.threads ∧
    (ctxFault slot f m).cores = m.cores ∧ (ctxFault slot f m).csce = m.csce ∧ (ctxFault slot f m).parts = m.parts ∧
    (ctxFault slot f m).layout = m.layout ∧ (ctxFault slot f m).funs = m.funs ∧ (ctxFault slot f m).pds = m.pds ∧
    (ctxFault slot f m).stripes = m.stripes ∧ (ctxFault slot f m).mem = m.mem ∧ (ctxFault slot f m).valid = m.valid ∧
    (ctxFault slot f m).summary = m.summary ∧ (ctxFault slot f m).sumBad = m.sumBad ∧
    (ctxFault slot f m).bad = m.bad ∧ (ctxFault slot f m).dramErr = m.dramErr ∧
    (ctxFault slot f m).chanErr = m.chanErr ∧ (ctxFault slot f m).sramErr = m.sramErr ∧
    (ctxFault slot f m).trainBad = m.trainBad ∧ (ctxFault slot f m).hidKey = m.hidKey ∧
    (ctxFault slot f m).tlb = m.tlb ∧ (ctxFault slot f m).writes = m.writes ∧ (ctxFault slot f m).cows = m.cows ∧
    (ctxFault slot f m).lease = m.lease ∧ (ctxFault slot f m).cat = m.cat ∧ (ctxFault slot f m).tt = m.tt ∧
    (ctxFault slot f m).pm = m.pm ∧ (ctxFault slot f m).att = m.att ∧ (ctxFault slot f m).bms = m.bms ∧
    (ctxFault slot f m).draw = m.draw := by
  obtain ⟨_, _, _, _, _, h⟩ := ctxFault_frame (m := m) slot f
  simp only [h, and_self]

@[simp] theorem ctxFault_parts (slot : Nat) (f : FaultInfo) :
    (∀ j, (ctxFault slot f m).thread j = m.thread j) ∧ (∀ j, (ctxFault slot f m).core j = m.core j) ∧
    (∀ j, (ctxFault slot f m).part j = m.part j) ∧ (∀ j, (ctxFault slot f m).func j = m.func j) ∧
    (∀ j, (ctxFault slot f m).pd j = m.pd j) ∧ (∀ j, (ctxFault slot f m).stripe j = m.stripe j) ∧
    (ctxFault slot f m).now = m.now ∧ (ctxFault slot f m).on = m.on := by
  obtain ⟨_, _, _, _, _, h⟩ := ctxFault_frame (m := m) slot f
  rw [h]
  exact ⟨fun _ => rfl, fun _ => rfl, fun _ => rfl, fun _ => rfl, fun _ => rfl, fun _ => rfl, rfl, rfl⟩

theorem complete_frame (i : Iss) (prog : Bool) :
    ∃ y0 y1, complete i prog m = { m with ctxs := y0, threads := y1 } := by
  unfold complete; split
  · dsimp only
    obtain ⟨c, h⟩ := bumpCtr_frame (m := m) i.slot i.fin.ce i.fin.ctr
    rw [h]
    cases i.due <;> cases prog <;>
      exact (settle_frame ..).elim fun _ h => ⟨_, _, h⟩
  · exact ⟨m.ctxs, m.threads, rfl⟩

@[simp] theorem complete_same (i : Iss) (prog : Bool) :
    (complete i prog m).boot = m.boot ∧ (complete i prog m).time = m.time ∧ (complete i prog m).topo = m.topo ∧
    (complete i prog m).fabKey = m.fabKey ∧ (complete i prog m).cores = m.cores ∧ (complete i prog m).csce = m.csce ∧
    (complete i prog m).parts = m.parts ∧ (complete i prog m).layout = m.layout ∧ (complete i prog m).funs = m.funs ∧
    (complete i prog m).ports = m.ports ∧ (complete i prog m).pds = m.pds ∧ (complete i prog m).fab = m.fab ∧
    (complete i prog m).stripes = m.stripes ∧ (complete i prog m).mem = m.mem ∧ (complete i prog m).valid = m.valid ∧
    (complete i prog m).summary = m.summary ∧ (complete i prog m).sumBad = m.sumBad ∧
    (complete i prog m).bad = m.bad ∧ (complete i prog m).dramErr = m.dramErr ∧
    (complete i prog m).chanErr = m.chanErr ∧ (complete i prog m).sramErr = m.sramErr ∧
    (complete i prog m).trainBad = m.trainBad ∧ (complete i prog m).hidKey = m.hidKey ∧
    (complete i prog m).tlb = m.tlb ∧ (complete i prog m).writes = m.writes ∧ (complete i prog m).cows = m.cows ∧
    (complete i prog m).ledger = m.ledger ∧ (complete i prog m).lease = m.lease ∧ (complete i prog m).cat = m.cat ∧
    (complete i prog m).tt = m.tt ∧ (complete i prog m).pm = m.pm ∧ (complete i prog m).att = m.att ∧
    (complete i prog m).bms = m.bms ∧ (complete i prog m).out = m.out ∧ (complete i prog m).draw = m.draw := by
  obtain ⟨_, _, h⟩ := complete_frame (m := m) i prog
  simp only [h, and_self]

@[simp] theorem complete_parts (i : Iss) (prog : Bool) :
    (∀ j, (complete i prog m).core j = m.core j) ∧ (∀ j, (complete i prog m).part j = m.part j) ∧
    (∀ j, (complete i prog m).func j = m.func j) ∧ (∀ j, (complete i prog m).port j = m.port j) ∧
    (∀ j, (complete i prog m).pd j = m.pd j) ∧ (∀ j, (complete i prog m).stripe j = m.stripe j) ∧
    (complete i prog m).now = m.now ∧ (complete i prog m).on = m.on := by
  obtain ⟨_, _, h⟩ := complete_frame (m := m) i prog
  rw [h]
  exact ⟨fun _ => rfl, fun _ => rfl, fun _ => rfl, fun _ => rfl, fun _ => rfl, fun _ => rfl, rfl, rfl⟩

/-! Retirement of an instruction. -/

theorem retireTo_frame (slot : Nat) (t : ThreadNo) (pc : Word) :
    ∃ y0 y1, retireTo slot t pc m = { m with ctxs := y0, threads := y1 } := ⟨_, _, rfl⟩

@[simp] theorem retireTo_same (slot : Nat) (t : ThreadNo) (pc : Word) :
    (retireTo slot t pc m).boot = m.boot ∧ (retireTo slot t pc m).time = m.time ∧
    (retireTo slot t pc m).topo = m.topo ∧ (retireTo slot t pc m).fabKey = m.fabKey ∧
    (retireTo slot t pc m).cores = m.cores ∧ (retireTo slot t pc m).csce = m.csce ∧
    (retireTo slot t pc m).parts = m.parts ∧ (retireTo slot t pc m).layout = m.layout ∧
    (retireTo slot t pc m).funs = m.funs ∧ (retireTo slot t pc m).ports = m.ports ∧
    (retireTo slot t pc m).pds = m.pds ∧ (retireTo slot t pc m).fab = m.fab ∧
    (retireTo slot t pc m).stripes = m.stripes ∧ (retireTo slot t pc m).mem = m.mem ∧
    (retireTo slot t pc m).valid = m.valid ∧ (retireTo slot t pc m).summary = m.summary ∧
    (retireTo slot t pc m).sumBad = m.sumBad ∧ (retireTo slot t pc m).bad = m.bad ∧
    (retireTo slot t pc m).dramErr = m.dramErr ∧ (retireTo slot t pc m).chanErr = m.chanErr ∧
    (retireTo slot t pc m).sramErr = m.sramErr ∧ (retireTo slot t pc m).trainBad = m.trainBad ∧
    (retireTo slot t pc m).hidKey = m.hidKey ∧ (retireTo slot t pc m).tlb = m.tlb ∧
    (retireTo slot t pc m).writes = m.writes ∧ (retireTo slot t pc m).cows = m.cows ∧
    (retireTo slot t pc m).ledger = m.ledger ∧ (retireTo slot t pc m).lease = m.lease ∧
    (retireTo slot t pc m).cat = m.cat ∧ (retireTo slot t pc m).tt = m.tt ∧ (retireTo slot t pc m).pm = m.pm ∧
    (retireTo slot t pc m).att = m.att ∧ (retireTo slot t pc m).bms = m.bms ∧ (retireTo slot t pc m).out = m.out ∧
    (retireTo slot t pc m).draw = m.draw := by
  obtain ⟨_, _, h⟩ := retireTo_frame (m := m) slot t pc
  simp only [h, and_self]

@[simp] theorem retireTo_parts (slot : Nat) (t : ThreadNo) (pc : Word) :
    (∀ j, (retireTo slot t pc m).core j = m.core j) ∧ (∀ j, (retireTo slot t pc m).part j = m.part j) ∧
    (∀ j, (retireTo slot t pc m).func j = m.func j) ∧ (∀ j, (retireTo slot t pc m).port j = m.port j) ∧
    (∀ j, (retireTo slot t pc m).pd j = m.pd j) ∧ (∀ j, (retireTo slot t pc m).stripe j = m.stripe j) ∧
    (retireTo slot t pc m).now = m.now ∧ (retireTo slot t pc m).on = m.on := by
  obtain ⟨_, _, h⟩ := retireTo_frame (m := m) slot t pc
  rw [h]
  exact ⟨fun _ => rfl, fun _ => rfl, fun _ => rfl, fun _ => rfl, fun _ => rfl, fun _ => rfl, rfl, rfl⟩

theorem retireI_frame (slot : Nat) (t : ThreadNo) :
    ∃ y0 y1, retireI slot t m = { m with ctxs := y0, threads := y1 } := ⟨_, _, rfl⟩

@[simp] theorem retireI_same (slot : Nat) (t : ThreadNo) :
    (retireI slot t m).boot = m.boot ∧ (retireI slot t m).time = m.time ∧ (retireI slot t m).topo = m.topo ∧
    (retireI slot t m).fabKey = m.fabKey ∧ (retireI slot t m).cores = m.cores ∧ (retireI slot t m).csce = m.csce ∧
    (retireI slot t m).parts = m.parts ∧ (retireI slot t m).layout = m.layout ∧ (retireI slot t m).funs = m.funs ∧
    (retireI slot t m).ports = m.ports ∧ (retireI slot t m).pds = m.pds ∧ (retireI slot t m).fab = m.fab ∧
    (retireI slot t m).stripes = m.stripes ∧ (retireI slot t m).mem = m.mem ∧ (retireI slot t m).valid = m.valid ∧
    (retireI slot t m).summary = m.summary ∧ (retireI slot t m).sumBad = m.sumBad ∧ (retireI slot t m).bad = m.bad ∧
    (retireI slot t m).dramErr = m.dramErr ∧ (retireI slot t m).chanErr = m.chanErr ∧
    (retireI slot t m).sramErr = m.sramErr ∧ (retireI slot t m).trainBad = m.trainBad ∧
    (retireI slot t m).hidKey = m.hidKey ∧ (retireI slot t m).tlb = m.tlb ∧ (retireI slot t m).writes = m.writes ∧
    (retireI slot t m).cows = m.cows ∧ (retireI slot t m).ledger = m.ledger ∧ (retireI slot t m).lease = m.lease ∧
    (retireI slot t m).cat = m.cat ∧ (retireI slot t m).tt = m.tt ∧ (retireI slot t m).pm = m.pm ∧
    (retireI slot t m).att = m.att ∧ (retireI slot t m).bms = m.bms ∧ (retireI slot t m).out = m.out ∧
    (retireI slot t m).draw = m.draw := by
  obtain ⟨_, _, h⟩ := retireI_frame (m := m) slot t
  simp only [h, and_self]

@[simp] theorem retireI_parts (slot : Nat) (t : ThreadNo) :
    (∀ j, (retireI slot t m).core j = m.core j) ∧ (∀ j, (retireI slot t m).part j = m.part j) ∧
    (∀ j, (retireI slot t m).func j = m.func j) ∧ (∀ j, (retireI slot t m).port j = m.port j) ∧
    (∀ j, (retireI slot t m).pd j = m.pd j) ∧ (∀ j, (retireI slot t m).stripe j = m.stripe j) ∧
    (retireI slot t m).now = m.now ∧ (retireI slot t m).on = m.on := by
  obtain ⟨_, _, h⟩ := retireI_frame (m := m) slot t
  rw [h]
  exact ⟨fun _ => rfl, fun _ => rfl, fun _ => rfl, fun _ => rfl, fun _ => rfl, fun _ => rfl, rfl, rfl⟩

theorem stallOn_frame (t : ThreadNo) (w : Stall) :
    ∃ y0, stallOn t w m = { m with threads := y0 } := ⟨_, rfl⟩

@[simp] theorem stallOn_same (t : ThreadNo) (w : Stall) :
    (stallOn t w m).boot = m.boot ∧ (stallOn t w m).time = m.time ∧ (stallOn t w m).topo = m.topo ∧
    (stallOn t w m).fabKey = m.fabKey ∧ (stallOn t w m).cores = m.cores ∧ (stallOn t w m).csce = m.csce ∧
    (stallOn t w m).ctxs = m.ctxs ∧ (stallOn t w m).parts = m.parts ∧ (stallOn t w m).layout = m.layout ∧
    (stallOn t w m).funs = m.funs ∧ (stallOn t w m).ports = m.ports ∧ (stallOn t w m).pds = m.pds ∧
    (stallOn t w m).fab = m.fab ∧ (stallOn t w m).stripes = m.stripes ∧ (stallOn t w m).mem = m.mem ∧
    (stallOn t w m).valid = m.valid ∧ (stallOn t w m).summary = m.summary ∧ (stallOn t w m).sumBad = m.sumBad ∧
    (stallOn t w m).bad = m.bad ∧ (stallOn t w m).dramErr = m.dramErr ∧ (stallOn t w m).chanErr = m.chanErr ∧
    (stallOn t w m).sramErr = m.sramErr ∧ (stallOn t w m).trainBad = m.trainBad ∧ (stallOn t w m).hidKey = m.hidKey ∧
    (stallOn t w m).tlb = m.tlb ∧ (stallOn t w m).writes = m.writes ∧ (stallOn t w m).cows = m.cows ∧
    (stallOn t w m).ledger = m.ledger ∧ (stallOn t w m).lease = m.lease ∧ (stallOn t w m).cat = m.cat ∧
    (stallOn t w m).tt = m.tt ∧ (stallOn t w m).pm = m.pm ∧ (stallOn t w m).att = m.att ∧
    (stallOn t w m).bms = m.bms ∧ (stallOn t w m).out = m.out ∧ (stallOn t w m).draw = m.draw := by
  obtain ⟨_, h⟩ := stallOn_frame (m := m) t w
  simp only [h, and_self]

@[simp] theorem stallOn_parts (t : ThreadNo) (w : Stall) :
    (∀ j, (stallOn t w m).core j = m.core j) ∧ (∀ j, (stallOn t w m).ctx j = m.ctx j) ∧
    (∀ j, (stallOn t w m).part j = m.part j) ∧ (∀ j, (stallOn t w m).func j = m.func j) ∧
    (∀ j, (stallOn t w m).port j = m.port j) ∧ (∀ j, (stallOn t w m).pd j = m.pd j) ∧
    (∀ j, (stallOn t w m).stripe j = m.stripe j) ∧ (stallOn t w m).now = m.now ∧ (stallOn t w m).on = m.on := by
  obtain ⟨_, h⟩ := stallOn_frame (m := m) t w
  rw [h]
  exact ⟨fun _ => rfl, fun _ => rfl, fun _ => rfl, fun _ => rfl, fun _ => rfl, fun _ => rfl, fun _ => rfl, rfl, rfl⟩

theorem startThread_frame (slot : Nat) (t : ThreadNo) (entry arg : Word) :
    ∃ y0, startThread slot t entry arg m = { m with threads := y0 } := ⟨_, rfl⟩

@[simp] theorem startThread_same (slot : Nat) (t : ThreadNo) (entry arg : Word) :
    (startThread slot t entry arg m).boot = m.boot ∧ (startThread slot t entry arg m).time = m.time ∧
    (startThread slot t entry arg m).topo = m.topo ∧ (startThread slot t entry arg m).fabKey = m.fabKey ∧
    (startThread slot t entry arg m).cores = m.cores ∧ (startThread slot t entry arg m).csce = m.csce ∧
    (startThread slot t entry arg m).ctxs = m.ctxs ∧ (startThread slot t entry arg m).parts = m.parts ∧
    (startThread slot t entry arg m).layout = m.layout ∧ (startThread slot t entry arg m).funs = m.funs ∧
    (startThread slot t entry arg m).ports = m.ports ∧ (startThread slot t entry arg m).pds = m.pds ∧
    (startThread slot t entry arg m).fab = m.fab ∧ (startThread slot t entry arg m).stripes = m.stripes ∧
    (startThread slot t entry arg m).mem = m.mem ∧ (startThread slot t entry arg m).valid = m.valid ∧
    (startThread slot t entry arg m).summary = m.summary ∧ (startThread slot t entry arg m).sumBad = m.sumBad ∧
    (startThread slot t entry arg m).bad = m.bad ∧ (startThread slot t entry arg m).dramErr = m.dramErr ∧
    (startThread slot t entry arg m).chanErr = m.chanErr ∧ (startThread slot t entry arg m).sramErr = m.sramErr ∧
    (startThread slot t entry arg m).trainBad = m.trainBad ∧ (startThread slot t entry arg m).hidKey = m.hidKey ∧
    (startThread slot t entry arg m).tlb = m.tlb ∧ (startThread slot t entry arg m).writes = m.writes ∧
    (startThread slot t entry arg m).cows = m.cows ∧ (startThread slot t entry arg m).ledger = m.ledger ∧
    (startThread slot t entry arg m).lease = m.lease ∧ (startThread slot t entry arg m).cat = m.cat ∧
    (startThread slot t entry arg m).tt = m.tt ∧ (startThread slot t entry arg m).pm = m.pm ∧
    (startThread slot t entry arg m).att = m.att ∧ (startThread slot t entry arg m).bms = m.bms ∧
    (startThread slot t entry arg m).out = m.out ∧ (startThread slot t entry arg m).draw = m.draw := by
  obtain ⟨_, h⟩ := startThread_frame (m := m) slot t entry arg
  simp only [h, and_self]

@[simp] theorem startThread_parts (slot : Nat) (t : ThreadNo) (entry arg : Word) :
    (∀ j, (startThread slot t entry arg m).core j = m.core j) ∧
    (∀ j, (startThread slot t entry arg m).ctx j = m.ctx j) ∧
    (∀ j, (startThread slot t entry arg m).part j = m.part j) ∧
    (∀ j, (startThread slot t entry arg m).func j = m.func j) ∧
    (∀ j, (startThread slot t entry arg m).port j = m.port j) ∧
    (∀ j, (startThread slot t entry arg m).pd j = m.pd j) ∧
    (∀ j, (startThread slot t entry arg m).stripe j = m.stripe j) ∧ (startThread slot t entry arg m).now = m.now ∧
    (startThread slot t entry arg m).on = m.on := by
  obtain ⟨_, h⟩ := startThread_frame (m := m) slot t entry arg
  rw [h]
  exact ⟨fun _ => rfl, fun _ => rfl, fun _ => rfl, fun _ => rfl, fun _ => rfl, fun _ => rfl, fun _ => rfl, rfl, rfl⟩

/-! Reads of the memories: corrected and uncorrected errors are all they change. -/

theorem retire_frame (k ch trig : Nat) :
    ∃ y0 y1 y2, retire k ch trig m = { m with stripes := y0, ledger := y1, out := y2 } := by
  unfold retire; split
  · exact (led_frame ..).elim fun _ h => h.elim fun _ h => ⟨_, _, _, h⟩
  · split
    · exact ⟨m.stripes, m.ledger, m.out, rfl⟩
    · rename_i r _ _
      obtain ⟨l, o, h⟩ := led_frame (m := m.updStripe k fun s => { s with degraded := true, second := ch })
        0x0402 sevError (atStripe m k) [ch, trig, r]
      rw [h]
      exact (toTray_frame ..).elim fun _ h => ⟨_, _, _, h⟩

@[simp] theorem retire_same (k ch trig : Nat) :
    (retire k ch trig m).boot = m.boot ∧ (retire k ch trig m).time = m.time ∧ (retire k ch trig m).topo = m.topo ∧
    (retire k ch trig m).fabKey = m.fabKey ∧ (retire k ch trig m).threads = m.threads ∧
    (retire k ch trig m).cores = m.cores ∧ (retire k ch trig m).csce = m.csce ∧ (retire k ch trig m).ctxs = m.ctxs ∧
    (retire k ch trig m).parts = m.parts ∧ (retire k ch trig m).layout = m.layout ∧
    (retire k ch trig m).funs = m.funs ∧ (retire k ch trig m).ports = m.ports ∧ (retire k ch trig m).pds = m.pds ∧
    (retire k ch trig m).fab = m.fab ∧ (retire k ch trig m).mem = m.mem ∧ (retire k ch trig m).valid = m.valid ∧
    (retire k ch trig m).summary = m.summary ∧ (retire k ch trig m).sumBad = m.sumBad ∧
    (retire k ch trig m).bad = m.bad ∧ (retire k ch trig m).dramErr = m.dramErr ∧
    (retire k ch trig m).chanErr = m.chanErr ∧ (retire k ch trig m).sramErr = m.sramErr ∧
    (retire k ch trig m).trainBad = m.trainBad ∧ (retire k ch trig m).hidKey = m.hidKey ∧
    (retire k ch trig m).tlb = m.tlb ∧ (retire k ch trig m).writes = m.writes ∧ (retire k ch trig m).cows = m.cows ∧
    (retire k ch trig m).lease = m.lease ∧ (retire k ch trig m).cat = m.cat ∧ (retire k ch trig m).tt = m.tt ∧
    (retire k ch trig m).pm = m.pm ∧ (retire k ch trig m).att = m.att ∧ (retire k ch trig m).bms = m.bms ∧
    (retire k ch trig m).draw = m.draw := by
  obtain ⟨_, _, _, h⟩ := retire_frame (m := m) k ch trig
  simp only [h, and_self]

@[simp] theorem retire_parts (k ch trig : Nat) :
    (∀ j, (retire k ch trig m).thread j = m.thread j) ∧ (∀ j, (retire k ch trig m).core j = m.core j) ∧
    (∀ j, (retire k ch trig m).ctx j = m.ctx j) ∧ (∀ j, (retire k ch trig m).part j = m.part j) ∧
    (∀ j, (retire k ch trig m).func j = m.func j) ∧ (∀ j, (retire k ch trig m).port j = m.port j) ∧
    (∀ j, (retire k ch trig m).pd j = m.pd j) ∧ (retire k ch trig m).now = m.now ∧
    (retire k ch trig m).on = m.on := by
  obtain ⟨_, _, _, h⟩ := retire_frame (m := m) k ch trig
  rw [h]
  exact ⟨fun _ => rfl, fun _ => rfl, fun _ => rfl, fun _ => rfl, fun _ => rfl, fun _ => rfl, fun _ => rfl, rfl, rfl⟩

theorem countCe_frame (k ch n : Nat) :
    ∃ y0 y1 y2, countCe k ch n m = { m with stripes := y0, ledger := y1, out := y2 } := by
  unfold countCe; dsimp only; split
  · exact (retire_frame ..).elim fun _ h => h.elim fun _ h => h.elim fun _ h => ⟨_, _, _, h⟩
  · exact ⟨_, m.ledger, m.out, rfl⟩

@[simp] theorem countCe_same (k ch n : Nat) :
    (countCe k ch n m).boot = m.boot ∧ (countCe k ch n m).time = m.time ∧ (countCe k ch n m).topo = m.topo ∧
    (countCe k ch n m).fabKey = m.fabKey ∧ (countCe k ch n m).threads = m.threads ∧
    (countCe k ch n m).cores = m.cores ∧ (countCe k ch n m).csce = m.csce ∧ (countCe k ch n m).ctxs = m.ctxs ∧
    (countCe k ch n m).parts = m.parts ∧ (countCe k ch n m).layout = m.layout ∧ (countCe k ch n m).funs = m.funs ∧
    (countCe k ch n m).ports = m.ports ∧ (countCe k ch n m).pds = m.pds ∧ (countCe k ch n m).fab = m.fab ∧
    (countCe k ch n m).mem = m.mem ∧ (countCe k ch n m).valid = m.valid ∧ (countCe k ch n m).summary = m.summary ∧
    (countCe k ch n m).sumBad = m.sumBad ∧ (countCe k ch n m).bad = m.bad ∧ (countCe k ch n m).dramErr = m.dramErr ∧
    (countCe k ch n m).chanErr = m.chanErr ∧ (countCe k ch n m).sramErr = m.sramErr ∧
    (countCe k ch n m).trainBad = m.trainBad ∧ (countCe k ch n m).hidKey = m.hidKey ∧
    (countCe k ch n m).tlb = m.tlb ∧ (countCe k ch n m).writes = m.writes ∧ (countCe k ch n m).cows = m.cows ∧
    (countCe k ch n m).lease = m.lease ∧ (countCe k ch n m).cat = m.cat ∧ (countCe k ch n m).tt = m.tt ∧
    (countCe k ch n m).pm = m.pm ∧ (countCe k ch n m).att = m.att ∧ (countCe k ch n m).bms = m.bms ∧
    (countCe k ch n m).draw = m.draw := by
  obtain ⟨_, _, _, h⟩ := countCe_frame (m := m) k ch n
  simp only [h, and_self]

@[simp] theorem countCe_parts (k ch n : Nat) :
    (∀ j, (countCe k ch n m).thread j = m.thread j) ∧ (∀ j, (countCe k ch n m).core j = m.core j) ∧
    (∀ j, (countCe k ch n m).ctx j = m.ctx j) ∧ (∀ j, (countCe k ch n m).part j = m.part j) ∧
    (∀ j, (countCe k ch n m).func j = m.func j) ∧ (∀ j, (countCe k ch n m).port j = m.port j) ∧
    (∀ j, (countCe k ch n m).pd j = m.pd j) ∧ (countCe k ch n m).now = m.now ∧ (countCe k ch n m).on = m.on := by
  obtain ⟨_, _, _, h⟩ := countCe_frame (m := m) k ch n
  rw [h]
  exact ⟨fun _ => rfl, fun _ => rfl, fun _ => rfl, fun _ => rfl, fun _ => rfl, fun _ => rfl, fun _ => rfl, rfl, rfl⟩

theorem garble_frame (g : Nat) (beats : List Nat) :
    ∃ y0 y1 y2, garble g beats m = { m with mem := y0, dramErr := y1, draw := y2 } := ⟨_, _, _, rfl⟩

@[simp] theorem garble_same (g : Nat) (beats : List Nat) :
    (garble g beats m).boot = m.boot ∧ (garble g beats m).time = m.time ∧ (garble g beats m).topo = m.topo ∧
    (garble g beats m).fabKey = m.fabKey ∧ (garble g beats m).threads = m.threads ∧
    (garble g beats m).cores = m.cores ∧ (garble g beats m).csce = m.csce ∧ (garble g beats m).ctxs = m.ctxs ∧
    (garble g beats m).parts = m.parts ∧ (garble g beats m).layout = m.layout ∧ (garble g beats m).funs = m.funs ∧
    (garble g beats m).ports = m.ports ∧ (garble g beats m).pds = m.pds ∧ (garble g beats m).fab = m.fab ∧
    (garble g beats m).stripes = m.stripes ∧ (garble g beats m).valid = m.valid ∧
    (garble g beats m).summary = m.summary ∧ (garble g beats m).sumBad = m.sumBad ∧ (garble g beats m).bad = m.bad ∧
    (garble g beats m).chanErr = m.chanErr ∧ (garble g beats m).sramErr = m.sramErr ∧
    (garble g beats m).trainBad = m.trainBad ∧ (garble g beats m).hidKey = m.hidKey ∧
    (garble g beats m).tlb = m.tlb ∧ (garble g beats m).writes = m.writes ∧ (garble g beats m).cows = m.cows ∧
    (garble g beats m).ledger = m.ledger ∧ (garble g beats m).lease = m.lease ∧ (garble g beats m).cat = m.cat ∧
    (garble g beats m).tt = m.tt ∧ (garble g beats m).pm = m.pm ∧ (garble g beats m).att = m.att ∧
    (garble g beats m).bms = m.bms ∧ (garble g beats m).out = m.out := by
  obtain ⟨_, _, _, h⟩ := garble_frame (m := m) g beats
  simp only [h, and_self]

@[simp] theorem garble_parts (g : Nat) (beats : List Nat) :
    (∀ j, (garble g beats m).thread j = m.thread j) ∧ (∀ j, (garble g beats m).core j = m.core j) ∧
    (∀ j, (garble g beats m).ctx j = m.ctx j) ∧ (∀ j, (garble g beats m).part j = m.part j) ∧
    (∀ j, (garble g beats m).func j = m.func j) ∧ (∀ j, (garble g beats m).port j = m.port j) ∧
    (∀ j, (garble g beats m).pd j = m.pd j) ∧ (∀ j, (garble g beats m).stripe j = m.stripe j) ∧
    (garble g beats m).now = m.now ∧ (garble g beats m).on = m.on := by
  obtain ⟨_, _, _, h⟩ := garble_frame (m := m) g beats
  rw [h]
  exact ⟨fun _ => rfl, fun _ => rfl, fun _ => rfl, fun _ => rfl, fun _ => rfl, fun _ => rfl, fun _ => rfl, fun _ => rfl, rfl, rfl⟩

theorem poisonGran_frame (g src : Nat) :
    ∃ y0 y1 y2 y3 y4 y5 y6, poisonGran g src m = { m with mem := y0, bad := y1, dramErr := y2, stripes := y3, draw := y4, ledger := y5, out := y6 } := by
  have fr : ∀ x : Module, (∃ a b c d, x = { m with mem := a, dramErr := b, draw := c, bad := d }) →
      ∃ a b c d e f h, led 0x0403 sevError (atStripe x (stripeOf g)) [g * 256, src, (x.stripe (stripeOf g)).retired.getD 15]
        (x.updStripe (stripeOf g) fun s => { s with memue := satAdd 32 s.memue 1 }) =
        { m with mem := a, bad := b, dramErr := c, stripes := d, draw := e, ledger := f, out := h } := by
    rintro x ⟨_, _, _, _, rfl⟩
    generalize hx : Module.updStripe _ _ _ = y
    generalize atStripe _ _ = pl
    generalize [_, _, _] = d
    obtain ⟨_, _, h⟩ := led_frame (m := y) 0x0403 sevError pl d
    rw [h, ← hx]; exact ⟨_, _, _, _, _, _, _, rfl⟩
  obtain ⟨a, b, c, h⟩ := garble_frame (m := m) g (upTo 16)
  exact fr _ ⟨a, b, c, NatSet.add (garble g (upTo 16) m).bad g, by rw [h]⟩

@[simp] theorem poisonGran_same (g src : Nat) :
    (poisonGran g src m).boot = m.boot ∧ (poisonGran g src m).time = m.time ∧ (poisonGran g src m).topo = m.topo ∧
    (poisonGran g src m).fabKey = m.fabKey ∧ (poisonGran g src m).threads = m.threads ∧
    (poisonGran g src m).cores = m.cores ∧ (poisonGran g src m).csce = m.csce ∧ (poisonGran g src m).ctxs = m.ctxs ∧
    (poisonGran g src m).parts = m.parts ∧ (poisonGran g src m).layout = m.layout ∧
    (poisonGran g src m).funs = m.funs ∧ (poisonGran g src m).ports = m.ports ∧ (poisonGran g src m).pds = m.pds ∧
    (poisonGran g src m).fab = m.fab ∧ (poisonGran g src m).valid = m.valid ∧
    (poisonGran g src m).summary = m.summary ∧ (poisonGran g src m).sumBad = m.sumBad ∧
    (poisonGran g src m).chanErr = m.chanErr ∧ (poisonGran g src m).sramErr = m.sramErr ∧
    (poisonGran g src m).trainBad = m.trainBad ∧ (poisonGran g src m).hidKey = m.hidKey ∧
    (poisonGran g src m).tlb = m.tlb ∧ (poisonGran g src m).writes = m.writes ∧ (poisonGran g src m).cows = m.cows ∧
    (poisonGran g src m).lease = m.lease ∧ (poisonGran g src m).cat = m.cat ∧ (poisonGran g src m).tt = m.tt ∧
    (poisonGran g src m).pm = m.pm ∧ (poisonGran g src m).att = m.att ∧ (poisonGran g src m).bms = m.bms := by
  obtain ⟨_, _, _, _, _, _, _, h⟩ := poisonGran_frame (m := m) g src
  simp only [h, and_self]

@[simp] theorem poisonGran_parts (g src : Nat) :
    (∀ j, (poisonGran g src m).thread j = m.thread j) ∧ (∀ j, (poisonGran g src m).core j = m.core j) ∧
    (∀ j, (poisonGran g src m).ctx j = m.ctx j) ∧ (∀ j, (poisonGran g src m).part j = m.part j) ∧
    (∀ j, (poisonGran g src m).func j = m.func j) ∧ (∀ j, (poisonGran g src m).port j = m.port j) ∧
    (∀ j, (poisonGran g src m).pd j = m.pd j) ∧ (poisonGran g src m).now = m.now ∧
    (poisonGran g src m).on = m.on := by
  obtain ⟨_, _, _, _, _, _, _, h⟩ := poisonGran_frame (m := m) g src
  rw [h]
  exact ⟨fun _ => rfl, fun _ => rfl, fun _ => rfl, fun _ => rfl, fun _ => rfl, fun _ => rfl, fun _ => rfl, rfl, rfl⟩

theorem decodeRead_frame (g src : Nat) :
    ∃ y0 y1 y2 y3 y4 y5 y6, decodeRead g src m = { m with mem := y0, bad := y1, dramErr := y2, stripes := y3, draw := y4, ledger := y5, out := y6 } := by
  unfold decodeRead; dsimp only; split
  · split
    · exact ⟨m.mem, m.bad, m.dramErr, m.stripes, m.draw, m.ledger, m.out, rfl⟩
    · exact ⟨_, m.bad, _, m.stripes, _, m.ledger, m.out, rfl⟩
  · rename_i ch n _
    obtain ⟨a, b, c, h⟩ := countCe_frame (m := { m with dramErr := Sparse.drop m.dramErr g }) (stripeOf g) ch n
    rw [h]; split
    · exact ⟨m.mem, m.bad, _, _, m.draw, _, _, rfl⟩
    · exact ⟨_, m.bad, _, _, _, _, _, rfl⟩
  · exact poisonGran_frame ..

@[simp] theorem decodeRead_same (g src : Nat) :
    (decodeRead g src m).boot = m.boot ∧ (decodeRead g src m).time = m.time ∧ (decodeRead g src m).topo = m.topo ∧
    (decodeRead g src m).fabKey = m.fabKey ∧ (decodeRead g src m).threads = m.threads ∧
    (decodeRead g src m).cores = m.cores ∧ (decodeRead g src m).csce = m.csce ∧ (decodeRead g src m).ctxs = m.ctxs ∧
    (decodeRead g src m).parts = m.parts ∧ (decodeRead g src m).layout = m.layout ∧
    (decodeRead g src m).funs = m.funs ∧ (decodeRead g src m).ports = m.ports ∧ (decodeRead g src m).pds = m.pds ∧
    (decodeRead g src m).fab = m.fab ∧ (decodeRead g src m).valid = m.valid ∧
    (decodeRead g src m).summary = m.summary ∧ (decodeRead g src m).sumBad = m.sumBad ∧
    (decodeRead g src m).chanErr = m.chanErr ∧ (decodeRead g src m).sramErr = m.sramErr ∧
    (decodeRead g src m).trainBad = m.trainBad ∧ (decodeRead g src m).hidKey = m.hidKey ∧
    (decodeRead g src m).tlb = m.tlb ∧ (decodeRead g src m).writes = m.writes ∧ (decodeRead g src m).cows = m.cows ∧
    (decodeRead g src m).lease = m.lease ∧ (decodeRead g src m).cat = m.cat ∧ (decodeRead g src m).tt = m.tt ∧
    (decodeRead g src m).pm = m.pm ∧ (decodeRead g src m).att = m.att ∧ (decodeRead g src m).bms = m.bms := by
  obtain ⟨_, _, _, _, _, _, _, h⟩ := decodeRead_frame (m := m) g src
  simp only [h, and_self]

@[simp] theorem decodeRead_parts (g src : Nat) :
    (∀ j, (decodeRead g src m).thread j = m.thread j) ∧ (∀ j, (decodeRead g src m).core j = m.core j) ∧
    (∀ j, (decodeRead g src m).ctx j = m.ctx j) ∧ (∀ j, (decodeRead g src m).part j = m.part j) ∧
    (∀ j, (decodeRead g src m).func j = m.func j) ∧ (∀ j, (decodeRead g src m).port j = m.port j) ∧
    (∀ j, (decodeRead g src m).pd j = m.pd j) ∧ (decodeRead g src m).now = m.now ∧
    (decodeRead g src m).on = m.on := by
  obtain ⟨_, _, _, _, _, _, _, h⟩ := decodeRead_frame (m := m) g src
  rw [h]
  exact ⟨fun _ => rfl, fun _ => rfl, fun _ => rfl, fun _ => rfl, fun _ => rfl, fun _ => rfl, fun _ => rfl, rfl, rfl⟩

theorem countSram_frame (pa : Nat) :
    ∃ y0 y1, countSram pa m = { m with cores := y0, csce := y1 } := by
  unfold countSram; split
  · exact ⟨_, m.csce, rfl⟩
  · split
    · exact ⟨m.cores, _, rfl⟩
    · exact ⟨_, m.csce, rfl⟩

@[simp] theorem countSram_same (pa : Nat) :
    (countSram pa m).boot = m.boot ∧ (countSram pa m).time = m.time ∧ (countSram pa m).topo = m.topo ∧
    (countSram pa m).fabKey = m.fabKey ∧ (countSram pa m).threads = m.threads ∧ (countSram pa m).ctxs = m.ctxs ∧
    (countSram pa m).parts = m.parts ∧ (countSram pa m).layout = m.layout ∧ (countSram pa m).funs = m.funs ∧
    (countSram pa m).ports = m.ports ∧ (countSram pa m).pds = m.pds ∧ (countSram pa m).fab = m.fab ∧
    (countSram pa m).stripes = m.stripes ∧ (countSram pa m).mem = m.mem ∧ (countSram pa m).valid = m.valid ∧
    (countSram pa m).summary = m.summary ∧ (countSram pa m).sumBad = m.sumBad ∧ (countSram pa m).bad = m.bad ∧
    (countSram pa m).dramErr = m.dramErr ∧ (countSram pa m).chanErr = m.chanErr ∧
    (countSram pa m).sramErr = m.sramErr ∧ (countSram pa m).trainBad = m.trainBad ∧
    (countSram pa m).hidKey = m.hidKey ∧ (countSram pa m).tlb = m.tlb ∧ (countSram pa m).writes = m.writes ∧
    (countSram pa m).cows = m.cows ∧ (countSram pa m).ledger = m.ledger ∧ (countSram pa m).lease = m.lease ∧
    (countSram pa m).cat = m.cat ∧ (countSram pa m).tt = m.tt ∧ (countSram pa m).pm = m.pm ∧
    (countSram pa m).att = m.att ∧ (countSram pa m).bms = m.bms ∧ (countSram pa m).out = m.out ∧
    (countSram pa m).draw = m.draw := by
  obtain ⟨_, _, h⟩ := countSram_frame (m := m) pa
  simp only [h, and_self]

@[simp] theorem countSram_parts (pa : Nat) :
    (∀ j, (countSram pa m).thread j = m.thread j) ∧ (∀ j, (countSram pa m).ctx j = m.ctx j) ∧
    (∀ j, (countSram pa m).part j = m.part j) ∧ (∀ j, (countSram pa m).func j = m.func j) ∧
    (∀ j, (countSram pa m).port j = m.port j) ∧ (∀ j, (countSram pa m).pd j = m.pd j) ∧
    (∀ j, (countSram pa m).stripe j = m.stripe j) ∧ (countSram pa m).now = m.now ∧ (countSram pa m).on = m.on := by
  obtain ⟨_, _, h⟩ := countSram_frame (m := m) pa
  rw [h]
  exact ⟨fun _ => rfl, fun _ => rfl, fun _ => rfl, fun _ => rfl, fun _ => rfl, fun _ => rfl, fun _ => rfl, rfl, rfl⟩

theorem readSummary_frame (g : Nat) :
    ∃ y0 y1 y2 y3 y4 y5, readSummary g m = { m with cores := y0, csce := y1, sramErr := y2, sumBad := y3, ledger := y4, out := y5 } := by
  unfold readSummary; split
  · exact ⟨m.cores, m.csce, m.sramErr, m.sumBad, m.ledger, m.out, rfl⟩
  · obtain ⟨a, b, h⟩ := countSram_frame (m := { m with sramErr := Sparse.drop m.sramErr (sumPa g / 8) }) (sumPa g)
    rw [h]; exact ⟨_, _, _, m.sumBad, m.ledger, m.out, rfl⟩
  · dsimp only
    generalize [_, _] = d
    obtain ⟨_, _, h⟩ := led_frame (m := { m with sramErr := Sparse.drop m.sramErr (sumPa g / 8), sumBad := _ }) 0x0404
      sevError (atStripe m (stripeOf g)) d
    rw [h]; exact ⟨m.cores, m.csce, _, _, _, _, rfl⟩

@[simp] theorem readSummary_same (g : Nat) :
    (readSummary g m).boot = m.boot ∧ (readSummary g m).time = m.time ∧ (readSummary g m).topo = m.topo ∧
    (readSummary g m).fabKey = m.fabKey ∧ (readSummary g m).threads = m.threads ∧ (readSummary g m).ctxs = m.ctxs ∧
    (readSummary g m).parts = m.parts ∧ (readSummary g m).layout = m.layout ∧ (readSummary g m).funs = m.funs ∧
    (readSummary g m).ports = m.ports ∧ (readSummary g m).pds = m.pds ∧ (readSummary g m).fab = m.fab ∧
    (readSummary g m).stripes = m.stripes ∧ (readSummary g m).mem = m.mem ∧ (readSummary g m).valid = m.valid ∧
    (readSummary g m).summary = m.summary ∧ (readSummary g m).bad = m.bad ∧ (readSummary g m).dramErr = m.dramErr ∧
    (readSummary g m).chanErr = m.chanErr ∧ (readSummary g m).trainBad = m.trainBad ∧
    (readSummary g m).hidKey = m.hidKey ∧ (readSummary g m).tlb = m.tlb ∧ (readSummary g m).writes = m.writes ∧
    (readSummary g m).cows = m.cows ∧ (readSummary g m).lease = m.lease ∧ (readSummary g m).cat = m.cat ∧
    (readSummary g m).tt = m.tt ∧ (readSummary g m).pm = m.pm ∧ (readSummary g m).att = m.att ∧
    (readSummary g m).bms = m.bms ∧ (readSummary g m).draw = m.draw := by
  obtain ⟨_, _, _, _, _, _, h⟩ := readSummary_frame (m := m) g
  simp only [h, and_self]

@[simp] theorem readSummary_parts (g : Nat) :
    (∀ j, (readSummary g m).thread j = m.thread j) ∧ (∀ j, (readSummary g m).ctx j = m.ctx j) ∧
    (∀ j, (readSummary g m).part j = m.part j) ∧ (∀ j, (readSummary g m).func j = m.func j) ∧
    (∀ j, (readSummary g m).port j = m.port j) ∧ (∀ j, (readSummary g m).pd j = m.pd j) ∧
    (∀ j, (readSummary g m).stripe j = m.stripe j) ∧ (readSummary g m).now = m.now ∧
    (readSummary g m).on = m.on := by
  obtain ⟨_, _, _, _, _, _, h⟩ := readSummary_frame (m := m) g
  rw [h]
  exact ⟨fun _ => rfl, fun _ => rfl, fun _ => rfl, fun _ => rfl, fun _ => rfl, fun _ => rfl, fun _ => rfl, rfl, rfl⟩

theorem readGran_frame (g src : Nat) :
    ∃ y0 y1 y2 y3 y4 y5 y6 y7 y8 y9 y10, readGran g src m = { m with mem := y0, bad := y1, dramErr := y2, stripes := y3, cores := y4, csce := y5, sramErr := y6, sumBad := y7, draw := y8, ledger := y9, out := y10 } := by
  have keep : ∀ x : Module, ReadOf m x → ReadOf m (decodeRead g src x) := by
    rintro x ⟨_, _, _, _, _, _, _, _, _, _, _, rfl⟩
    generalize hx : Module.mk .. = y
    obtain ⟨_, _, _, _, _, _, _, h⟩ := decodeRead_frame (m := y) g src
    rw [h, ← hx]; exact ⟨_, _, _, _, _, _, _, _, _, _, _, rfl⟩
  have same : ReadOf m m :=
    ⟨m.mem, m.bad, m.dramErr, m.stripes, m.cores, m.csce, m.sramErr, m.sumBad, m.draw, m.ledger, m.out, rfl⟩
  unfold readGran; split
  · split
    · exact same
    · exact keep m same
  · split
    · exact same
    · obtain ⟨a, b, c, d, e, f, h⟩ := readSummary_frame (m := m) g
      have seen : ReadOf m (readSummary g m) := ⟨m.mem, m.bad, m.dramErr, m.stripes, _, _, _, _, m.draw, _, _, h⟩
      dsimp only; split
      · exact seen
      · exact keep _ seen

@[simp] theorem readGran_same (g src : Nat) :
    (readGran g src m).boot = m.boot ∧ (readGran g src m).time = m.time ∧ (readGran g src m).topo = m.topo ∧
    (readGran g src m).fabKey = m.fabKey ∧ (readGran g src m).threads = m.threads ∧
    (readGran g src m).ctxs = m.ctxs ∧ (readGran g src m).parts = m.parts ∧ (readGran g src m).layout = m.layout ∧
    (readGran g src m).funs = m.funs ∧ (readGran g src m).ports = m.ports ∧ (readGran g src m).pds = m.pds ∧
    (readGran g src m).fab = m.fab ∧ (readGran g src m).valid = m.valid ∧ (readGran g src m).summary = m.summary ∧
    (readGran g src m).chanErr = m.chanErr ∧ (readGran g src m).trainBad = m.trainBad ∧
    (readGran g src m).hidKey = m.hidKey ∧ (readGran g src m).tlb = m.tlb ∧ (readGran g src m).writes = m.writes ∧
    (readGran g src m).cows = m.cows ∧ (readGran g src m).lease = m.lease ∧ (readGran g src m).cat = m.cat ∧
    (readGran g src m).tt = m.tt ∧ (readGran g src m).pm = m.pm ∧ (readGran g src m).att = m.att ∧
    (readGran g src m).bms = m.bms := by
  obtain ⟨_, _, _, _, _, _, _, _, _, _, _, h⟩ := readGran_frame (m := m) g src
  simp only [h, and_self]

@[simp] theorem readGran_parts (g src : Nat) :
    (∀ j, (readGran g src m).thread j = m.thread j) ∧ (∀ j, (readGran g src m).ctx j = m.ctx j) ∧
    (∀ j, (readGran g src m).part j = m.part j) ∧ (∀ j, (readGran g src m).func j = m.func j) ∧
    (∀ j, (readGran g src m).port j = m.port j) ∧ (∀ j, (readGran g src m).pd j = m.pd j) ∧
    (readGran g src m).now = m.now ∧ (readGran g src m).on = m.on := by
  obtain ⟨_, _, _, _, _, _, _, _, _, _, _, h⟩ := readGran_frame (m := m) g src
  rw [h]
  exact ⟨fun _ => rfl, fun _ => rfl, fun _ => rfl, fun _ => rfl, fun _ => rfl, fun _ => rfl, rfl, rfl⟩

theorem readWord_frame (pa : Nat) :
    ∃ y0 y1 y2 y3, readWord pa m = { m with cores := y0, csce := y1, sramErr := y2, bad := y3 } := by
  unfold readWord; split
  · exact ⟨m.cores, m.csce, m.sramErr, m.bad, rfl⟩
  · obtain ⟨a, b, h⟩ := countSram_frame (m := { m with sramErr := Sparse.drop m.sramErr (pa / 8) }) pa
    rw [h]; exact ⟨_, _, _, m.bad, rfl⟩
  · exact ⟨m.cores, m.csce, _, _, rfl⟩

@[simp] theorem readWord_same (pa : Nat) :
    (readWord pa m).boot = m.boot ∧ (readWord pa m).time = m.time ∧ (readWord pa m).topo = m.topo ∧
    (readWord pa m).fabKey = m.fabKey ∧ (readWord pa m).threads = m.threads ∧ (readWord pa m).ctxs = m.ctxs ∧
    (readWord pa m).parts = m.parts ∧ (readWord pa m).layout = m.layout ∧ (readWord pa m).funs = m.funs ∧
    (readWord pa m).ports = m.ports ∧ (readWord pa m).pds = m.pds ∧ (readWord pa m).fab = m.fab ∧
    (readWord pa m).stripes = m.stripes ∧ (readWord pa m).mem = m.mem ∧ (readWord pa m).valid = m.valid ∧
    (readWord pa m).summary = m.summary ∧ (readWord pa m).sumBad = m.sumBad ∧ (readWord pa m).dramErr = m.dramErr ∧
    (readWord pa m).chanErr = m.chanErr ∧ (readWord pa m).trainBad = m.trainBad ∧ (readWord pa m).hidKey = m.hidKey ∧
    (readWord pa m).tlb = m.tlb ∧ (readWord pa m).writes = m.writes ∧ (readWord pa m).cows = m.cows ∧
    (readWord pa m).ledger = m.ledger ∧ (readWord pa m).lease = m.lease ∧ (readWord pa m).cat = m.cat ∧
    (readWord pa m).tt = m.tt ∧ (readWord pa m).pm = m.pm ∧ (readWord pa m).att = m.att ∧
    (readWord pa m).bms = m.bms ∧ (readWord pa m).out = m.out ∧ (readWord pa m).draw = m.draw := by
  obtain ⟨_, _, _, _, h⟩ := readWord_frame (m := m) pa
  simp only [h, and_self]

@[simp] theorem readWord_parts (pa : Nat) :
    (∀ j, (readWord pa m).thread j = m.thread j) ∧ (∀ j, (readWord pa m).ctx j = m.ctx j) ∧
    (∀ j, (readWord pa m).part j = m.part j) ∧ (∀ j, (readWord pa m).func j = m.func j) ∧
    (∀ j, (readWord pa m).port j = m.port j) ∧ (∀ j, (readWord pa m).pd j = m.pd j) ∧
    (∀ j, (readWord pa m).stripe j = m.stripe j) ∧ (readWord pa m).now = m.now ∧ (readWord pa m).on = m.on := by
  obtain ⟨_, _, _, _, h⟩ := readWord_frame (m := m) pa
  rw [h]
  exact ⟨fun _ => rfl, fun _ => rfl, fun _ => rfl, fun _ => rfl, fun _ => rfl, fun _ => rfl, fun _ => rfl, rfl, rfl⟩

theorem touch_frame (pa : Nat) :
    ∃ y0 y1 y2 y3 y4 y5 y6 y7 y8 y9 y10, touch pa m = { m with mem := y0, bad := y1, dramErr := y2, stripes := y3, cores := y4, csce := y5, sramErr := y6, sumBad := y7, draw := y8, ledger := y9, out := y10 } := by
  unfold touch; split
  · exact readGran_frame ..
  · obtain ⟨a, b, c, d, h⟩ := readWord_frame (m := m) pa
    exact ⟨m.mem, d, m.dramErr, m.stripes, a, b, c, m.sumBad, m.draw, m.ledger, m.out, h⟩

@[simp] theorem touch_same (pa : Nat) :
    (touch pa m).boot = m.boot ∧ (touch pa m).time = m.time ∧ (touch pa m).topo = m.topo ∧
    (touch pa m).fabKey = m.fabKey ∧ (touch pa m).threads = m.threads ∧ (touch pa m).ctxs = m.ctxs ∧
    (touch pa m).parts = m.parts ∧ (touch pa m).layout = m.layout ∧ (touch pa m).funs = m.funs ∧
    (touch pa m).ports = m.ports ∧ (touch pa m).pds = m.pds ∧ (touch pa m).fab = m.fab ∧
    (touch pa m).valid = m.valid ∧ (touch pa m).summary = m.summary ∧ (touch pa m).chanErr = m.chanErr ∧
    (touch pa m).trainBad = m.trainBad ∧ (touch pa m).hidKey = m.hidKey ∧ (touch pa m).tlb = m.tlb ∧
    (touch pa m).writes = m.writes ∧ (touch pa m).cows = m.cows ∧ (touch pa m).lease = m.lease ∧
    (touch pa m).cat = m.cat ∧ (touch pa m).tt = m.tt ∧ (touch pa m).pm = m.pm ∧ (touch pa m).att = m.att ∧
    (touch pa m).bms = m.bms := by
  obtain ⟨_, _, _, _, _, _, _, _, _, _, _, h⟩ := touch_frame (m := m) pa
  simp only [h, and_self]

@[simp] theorem touch_parts (pa : Nat) :
    (∀ j, (touch pa m).thread j = m.thread j) ∧ (∀ j, (touch pa m).ctx j = m.ctx j) ∧
    (∀ j, (touch pa m).part j = m.part j) ∧ (∀ j, (touch pa m).func j = m.func j) ∧
    (∀ j, (touch pa m).port j = m.port j) ∧ (∀ j, (touch pa m).pd j = m.pd j) ∧ (touch pa m).now = m.now ∧
    (touch pa m).on = m.on := by
  obtain ⟨_, _, _, _, _, _, _, _, _, _, _, h⟩ := touch_frame (m := m) pa
  rw [h]
  exact ⟨fun _ => rfl, fun _ => rfl, fun _ => rfl, fun _ => rfl, fun _ => rfl, fun _ => rfl, rfl, rfl⟩

theorem readPas_frame (pas : List Nat) :
    ∃ y0 y1 y2 y3 y4 y5 y6 y7 y8 y9 y10, (readPas pas m).1 = { m with mem := y0, bad := y1, dramErr := y2, stripes := y3, cores := y4, csce := y5, sramErr := y6, sumBad := y7, draw := y8, ledger := y9, out := y10 } := by
  have loop : ∀ (f : Module → Nat → Module), (∀ m a, ReadOf m (f m a)) → ∀ (l : List Nat) (m : Module), ReadOf m (l.foldl f m) := by
    intro f hf l
    induction l with
    | nil => exact fun m => ⟨m.mem, m.bad, m.dramErr, m.stripes, m.cores, m.csce, m.sramErr, m.sumBad, m.draw, m.ledger,
        m.out, rfl⟩
    | cons p l ih =>
      intro m
      obtain ⟨a, b, c, d, e, g, i, j, k, n, o, h⟩ := hf m p
      obtain ⟨a2, b2, c2, d2, e2, g2, i2, j2, k2, n2, o2, h2⟩ := ih (f m p)
      rw [List.foldl_cons, h2, h]; exact ⟨_, _, _, _, _, _, _, _, _, _, _, rfl⟩
  unfold readPas; dsimp only
  obtain ⟨a, b, c, d, e, f, g, i, j, k, n, h⟩ := loop (fun m g => readGran g 0 m) (fun m g => readGran_frame g 0)
    (squash ((pas.filter isMain).map (· / 256))) m
  obtain ⟨a2, b2, c2, d2, e2, f2, g2, i2, j2, k2, n2, h2⟩ := loop (fun m k => readWord (8 * k) m) (fun m k => by
      obtain ⟨a, b, c, d, h⟩ := readWord_frame (m := m) (8 * k)
      exact ⟨m.mem, d, m.dramErr, m.stripes, a, b, c, m.sumBad, m.draw, m.ledger, m.out, h⟩)
    (squash ((pas.filter fun pa => !isMain pa).map (· / 8)))
    ((squash ((pas.filter isMain).map (· / 256))).foldl (fun m g => readGran g 0 m) m)
  rw [h2, h]; exact ⟨_, _, _, _, _, _, _, _, _, _, _, rfl⟩

@[simp] theorem readPas_same (pas : List Nat) :
    ((readPas pas m).1).boot = m.boot ∧ ((readPas pas m).1).time = m.time ∧ ((readPas pas m).1).topo = m.topo ∧
    ((readPas pas m).1).fabKey = m.fabKey ∧ ((readPas pas m).1).threads = m.threads ∧
    ((readPas pas m).1).ctxs = m.ctxs ∧ ((readPas pas m).1).parts = m.parts ∧ ((readPas pas m).1).layout = m.layout ∧
    ((readPas pas m).1).funs = m.funs ∧ ((readPas pas m).1).ports = m.ports ∧ ((readPas pas m).1).pds = m.pds ∧
    ((readPas pas m).1).fab = m.fab ∧ ((readPas pas m).1).valid = m.valid ∧ ((readPas pas m).1).summary = m.summary ∧
    ((readPas pas m).1).chanErr = m.chanErr ∧ ((readPas pas m).1).trainBad = m.trainBad ∧
    ((readPas pas m).1).hidKey = m.hidKey ∧ ((readPas pas m).1).tlb = m.tlb ∧ ((readPas pas m).1).writes = m.writes ∧
    ((readPas pas m).1).cows = m.cows ∧ ((readPas pas m).1).lease = m.lease ∧ ((readPas pas m).1).cat = m.cat ∧
    ((readPas pas m).1).tt = m.tt ∧ ((readPas pas m).1).pm = m.pm ∧ ((readPas pas m).1).att = m.att ∧
    ((readPas pas m).1).bms = m.bms := by
  obtain ⟨_, _, _, _, _, _, _, _, _, _, _, h⟩ := readPas_frame (m := m) pas
  simp only [h, and_self]

@[simp] theorem readPas_parts (pas : List Nat) :
    (∀ j, ((readPas pas m).1).thread j = m.thread j) ∧ (∀ j, ((readPas pas m).1).ctx j = m.ctx j) ∧
    (∀ j, ((readPas pas m).1).part j = m.part j) ∧ (∀ j, ((readPas pas m).1).func j = m.func j) ∧
    (∀ j, ((readPas pas m).1).port j = m.port j) ∧ (∀ j, ((readPas pas m).1).pd j = m.pd j) ∧
    ((readPas pas m).1).now = m.now ∧ ((readPas pas m).1).on = m.on := by
  obtain ⟨_, _, _, _, _, _, _, _, _, _, _, h⟩ := readPas_frame (m := m) pas
  rw [h]
  exact ⟨fun _ => rfl, fun _ => rfl, fun _ => rfl, fun _ => rfl, fun _ => rfl, fun _ => rfl, rfl, rfl⟩

end Sys2Proof.Machine
end

