-- ==== Sys2Proof/Laws/Issue.lean ====
section
/-! SUPPORT. What the lifts and the issue of an instruction answer. -/

namespace Sys2Proof.Machine

open Sys2Proof.Safety

theorem lift_on {f : Module → Module} {s : State} (h : s.mod.on = true) : lift f s = .next { s with mod := f s.mod } := by
  simp [lift, h]

theorem liftL_lib {f : Module → Module} {s : State} (h : s.mod.on = true) (hl : s.mod.boot.lib = true) :
    liftL f s = .next { s with mod := f s.mod } := by
  simp [liftL, lift, h, hl]

/-- The only outcome of a lift: a next state that differs in its module alone. -/
theorem lift_cases (f : Module → Module) (s : State) : ∃ m, lift f s = .next { s with mod := m } := by
  unfold lift; split
  · exact ⟨_, rfl⟩
  · exact ⟨s.mod, rfl⟩

/-- The fetch of an instruction that a thread may issue runs its body on the module the fetch leaves. -/
theorem issueRaw_enters {t : ThreadNo} {n slot : Nat} {s : State} {m : Module} (h : Enters t n s slot m) (body : Body) :
    issueRaw n t body s.mod = body slot m := by
  simp [issueRaw, h.owner, h.can, h.tag, h.fetch]

theorem issues_on {t : ThreadNo} {slot : Nat} {s : State} {m : Module} (h : Issues t s slot m) : s.mod.on = true := by
  obtain ⟨f, he, _⟩ := h
  exact he.on

/-- An instruction that issues has the effect of its body, with the module its issue leaves. -/
theorem scalar_issues {t : ThreadNo} {slot : Nat} {s : State} {m : Module} (h : Issues t s slot m) (c : Instr)
    (body : Body) : scalar c t body s = .next { s with mod := body slot m } := by
  have on := issues_on h
  obtain ⟨f, he, h⟩ := h
  unfold scalar issue
  rw [lift_on on, issueRaw_enters he]
  rcases h with ⟨hp, rfl⟩ | ⟨d, hp, hd, rfl⟩
  · simp only [hp]
  · simp only [hp, Nat.not_lt.mpr hd, if_false]

theorem scalar_next {t : ThreadNo} {slot : Nat} {s : State} {m p : Module} (h : Issues t s slot m) {c : Instr}
    {body : Body} (e : body slot m = p) : scalar c t body s = .next { s with mod := p } := by
  rw [scalar_issues h, e]

end Sys2Proof.Machine
end

