-- ==== Sys2Proof/Laws/Links.lean ====
section
/-! SUPPORT. What sending and receiving on a link leaves alone. -/

namespace Sys2Proof.Machine

variable {m : Module}

/-- What sending may change of a port: sequence number, frames held and queued, credits, the link's next boundary, the slot. -/
def Sent.only (p q : Port) : Prop :=
  ∃ y0 y1 y2 y3 y4 y5 y6 y7 y8 y9 y10 y11, q =
    { p with
      txSeq := y0, replay := y1, resend := y2, credit := y3, owed := y4, crTurn := y5, fq := y6, cq := y7,
      lastTx := y8, wireB := y9, slotUse := y10, reqSent := y11 }

theorem Sent.only_refl (p : Port) : Sent.only p p := ⟨_, _, _, _, _, _, _, _, _, _, _, _, rfl⟩

theorem Sent.only_trans {p q r : Port} (h : Sent.only p q) (g : Sent.only q r) : Sent.only p r := by
  obtain ⟨_, _, _, _, _, _, _, _, _, _, _, _, rfl⟩ := h
  obtain ⟨_, _, _, _, _, _, _, _, _, _, _, _, rfl⟩ := g
  exact ⟨_, _, _, _, _, _, _, _, _, _, _, _, rfl⟩

/-- Changing what sending may change, at one port. -/
theorem Sent.only_upd (n k : Nat) (f : Port → Port) (h : ∀ p, Sent.only p (f p)) :
    Sent.only (m.port k) ((m.updPort n f).port k) := by
  simp only [Module.updPort_eq, Module.setPort_port]
  split
  · subst k; exact h _
  · exact Sent.only_refl _

theorem afterSend_only (t : Nat) (f : Frame) (p : Port) : Sent.only p (afterSend t f p) := by
  unfold afterSend
  split <;> exact ⟨_, _, _, _, _, _, _, _, _, _, _, _, rfl⟩

theorem putFrame_port (n q k : Nat) (f : Frame) : Sent.only (m.port k) ((putFrame n q f m).port k) :=
  Sent.only_upd n k _ fun _ => ⟨_, _, _, _, _, _, _, _, _, _, _, _, rfl⟩

theorem emit_port (n k : Nat) (f : Frame) : Sent.only (m.port k) ((emit n f m).port k) :=
  Sent.only_trans (putFrame_port ..) (Sent.only_upd n k _ fun _ =>
    Sent.only_trans ⟨_, _, _, _, _, _, _, _, _, _, _, _, rfl⟩ (afterSend_only ..))

theorem emitVc_port (n vc k : Nat) (f : Frame) : Sent.only (m.port k) ((emitVc n vc f m).port k) :=
  Sent.only_trans (Sent.only_upd n k (fun p => { p with credit := Sparse.upd 0 p.credit vc (· - creditsOf f) })
    fun _ => ⟨_, _, _, _, _, _, _, _, _, _, _, _, rfl⟩) (emit_port ..)

theorem foldl_ports {α : Type} (k : Nat) (f : Module → α → Module) (h : ∀ m a, Sent.only (m.port k) ((f m a).port k))
    (l : List α) (m : Module) : Sent.only (m.port k) ((l.foldl f m).port k) := by
  induction l generalizing m with
  | nil => exact Sent.only_refl _
  | cons a l ih => exact Sent.only_trans (h m a) (ih _)

theorem flushCtl_port (n k : Nat) : Sent.only (m.port k) ((flushCtl n m).port k) := by
  refine foldl_ports k _ (fun m f => ?_) _ m
  split
  · exact Sent.only_trans (Sent.only_upd n k (fun p => { p with cq := p.cq.erase f })
      fun _ => ⟨_, _, _, _, _, _, _, _, _, _, _, _, rfl⟩) (emitVc_port ..)
  · exact Sent.only_refl _

theorem flushFault_port (n k : Nat) : Sent.only (m.port k) ((flushFault n m).port k) := by
  refine foldl_ports k _ (fun m f => ?_) _ m
  split
  · exact Sent.only_trans (Sent.only_upd n k (fun p => { p with fq := p.fq.erase f })
      fun _ => ⟨_, _, _, _, _, _, _, _, _, _, _, _, rfl⟩) (emitVc_port ..)
  · exact Sent.only_refl _

theorem flushAgain_port (n k : Nat) : Sent.only (m.port k) ((flushAgain n m).port k) := by
  refine foldl_ports k _ (fun m f => ?_) _ m
  split
  · refine Sent.only_trans ?_ (putFrame_port n f.1 k f.2)
    exact Sent.only_upd n k _ fun _ => ⟨_, _, _, _, _, _, _, _, _, _, _, _, rfl⟩
  · exact Sent.only_refl _

theorem flushPort_port (n k : Nat) : Sent.only (m.port k) ((flushPort n m).port k) :=
  Sent.only_trans (Sent.only_trans (flushFault_port ..) (flushAgain_port ..)) (flushCtl_port ..)

theorem emitCtl_port (n k : Nat) (f : Frame) : Sent.only (m.port k) ((emitCtl n f m).port k) :=
  Sent.only_trans (Sent.only_upd n k (fun p => { p with cq := p.cq ++ [f] })
    fun _ => ⟨_, _, _, _, _, _, _, _, _, _, _, _, rfl⟩) (flushPort_port ..)

theorem emitFault_port (n k : Nat) (b : FaultB) : Sent.only (m.port k) ((emitFault n b m).port k) :=
  Sent.only_trans (Sent.only_upd n k (fun p => { p with fq := p.fq ++ [b] })
    fun _ => ⟨_, _, _, _, _, _, _, _, _, _, _, _, rfl⟩) (flushFault_port ..)

theorem Sent.only_same {p q : Port} (h : Sent.only p q) :
    q.st = p.st ∧ q.peerport = p.peerport ∧ q.peermod = p.peermod ∧ q.peerInc = p.peerInc ∧ q.peerRun = p.peerRun ∧
    q.lanefail = p.lanefail ∧ q.detour = p.detour ∧ q.linkasym = p.linkasym ∧ q.linkdelay = p.linkdelay ∧
    q.ttmiss = p.ttmiss ∧ q.missFrame = p.missFrame ∧ q.missCount = p.missCount ∧ q.fabauth = p.fabauth ∧
    q.rxSeq = p.rxSeq ∧ q.resendAt = p.resendAt ∧ q.replayAsked = p.replayAsked ∧ q.oq = p.oq ∧ q.rxq = p.rxq ∧
    q.era = p.era ∧ q.lastRx = p.lastRx ∧ q.lanesUp = p.lanesUp ∧ q.firstDone = p.firstDone ∧ q.clsTurn = p.clsTurn ∧
    q.inTurn = p.inTurn ∧ q.syncSeq = p.syncSeq ∧ q.syncFrame = p.syncFrame ∧ q.statusAt = p.statusAt := by
  obtain ⟨_, _, _, _, _, _, _, _, _, _, _, _, rfl⟩ := h
  simp only [and_self]

@[simp] theorem flushPort_port_same (n k : Nat) :
    ((flushPort n m).port k).st = (m.port k).st ∧ ((flushPort n m).port k).peerport = (m.port k).peerport ∧
    ((flushPort n m).port k).peermod = (m.port k).peermod ∧ ((flushPort n m).port k).peerInc = (m.port k).peerInc ∧
    ((flushPort n m).port k).peerRun = (m.port k).peerRun ∧ ((flushPort n m).port k).lanefail = (m.port k).lanefail ∧
    ((flushPort n m).port k).detour = (m.port k).detour ∧ ((flushPort n m).port k).linkasym = (m.port k).linkasym ∧
    ((flushPort n m).port k).linkdelay = (m.port k).linkdelay ∧ ((flushPort n m).port k).ttmiss = (m.port k).ttmiss ∧
    ((flushPort n m).port k).missFrame = (m.port k).missFrame ∧
    ((flushPort n m).port k).missCount = (m.port k).missCount ∧
    ((flushPort n m).port k).fabauth = (m.port k).fabauth ∧ ((flushPort n m).port k).rxSeq = (m.port k).rxSeq ∧
    ((flushPort n m).port k).resendAt = (m.port k).resendAt ∧
    ((flushPort n m).port k).replayAsked = (m.port k).replayAsked ∧ ((flushPort n m).port k).oq = (m.port k).oq ∧
    ((flushPort n m).port k).rxq = (m.port k).rxq ∧ ((flushPort n m).port k).era = (m.port k).era ∧
    ((flushPort n m).port k).lastRx = (m.port k).lastRx ∧ ((flushPort n m).port k).lanesUp = (m.port k).lanesUp ∧
    ((flushPort n m).port k).firstDone = (m.port k).firstDone ∧
    ((flushPort n m).port k).clsTurn = (m.port k).clsTurn ∧ ((flushPort n m).port k).inTurn = (m.port k).inTurn ∧
    ((flushPort n m).port k).syncSeq = (m.port k).syncSeq ∧
    ((flushPort n m).port k).syncFrame = (m.port k).syncFrame ∧
    ((flushPort n m).port k).statusAt = (m.port k).statusAt :=
  Sent.only_same (flushPort_port ..)

@[simp] theorem emitCtl_port_same (n k : Nat) (f : Frame) :
    ((emitCtl n f m).port k).st = (m.port k).st ∧ ((emitCtl n f m).port k).peerport = (m.port k).peerport ∧
    ((emitCtl n f m).port k).peermod = (m.port k).peermod ∧ ((emitCtl n f m).port k).peerInc = (m.port k).peerInc ∧
    ((emitCtl n f m).port k).peerRun = (m.port k).peerRun ∧ ((emitCtl n f m).port k).lanefail = (m.port k).lanefail ∧
    ((emitCtl n f m).port k).detour = (m.port k).detour ∧ ((emitCtl n f m).port k).linkasym = (m.port k).linkasym ∧
    ((emitCtl n f m).port k).linkdelay = (m.port k).linkdelay ∧ ((emitCtl n f m).port k).ttmiss = (m.port k).ttmiss ∧
    ((emitCtl n f m).port k).missFrame = (m.port k).missFrame ∧
    ((emitCtl n f m).port k).missCount = (m.port k).missCount ∧
    ((emitCtl n f m).port k).fabauth = (m.port k).fabauth ∧ ((emitCtl n f m).port k).rxSeq = (m.port k).rxSeq ∧
    ((emitCtl n f m).port k).resendAt = (m.port k).resendAt ∧
    ((emitCtl n f m).port k).replayAsked = (m.port k).replayAsked ∧ ((emitCtl n f m).port k).oq = (m.port k).oq ∧
    ((emitCtl n f m).port k).rxq = (m.port k).rxq ∧ ((emitCtl n f m).port k).era = (m.port k).era ∧
    ((emitCtl n f m).port k).lastRx = (m.port k).lastRx ∧ ((emitCtl n f m).port k).lanesUp = (m.port k).lanesUp ∧
    ((emitCtl n f m).port k).firstDone = (m.port k).firstDone ∧
    ((emitCtl n f m).port k).clsTurn = (m.port k).clsTurn ∧ ((emitCtl n f m).port k).inTurn = (m.port k).inTurn ∧
    ((emitCtl n f m).port k).syncSeq = (m.port k).syncSeq ∧
    ((emitCtl n f m).port k).syncFrame = (m.port k).syncFrame ∧
    ((emitCtl n f m).port k).statusAt = (m.port k).statusAt :=
  Sent.only_same (emitCtl_port ..)

@[simp] theorem emitFault_port_same (n k : Nat) (b : FaultB) :
    ((emitFault n b m).port k).st = (m.port k).st ∧ ((emitFault n b m).port k).peerport = (m.port k).peerport ∧
    ((emitFault n b m).port k).peermod = (m.port k).peermod ∧
    ((emitFault n b m).port k).peerInc = (m.port k).peerInc ∧
    ((emitFault n b m).port k).peerRun = (m.port k).peerRun ∧
    ((emitFault n b m).port k).lanefail = (m.port k).lanefail ∧
    ((emitFault n b m).port k).detour = (m.port k).detour ∧
    ((emitFault n b m).port k).linkasym = (m.port k).linkasym ∧
    ((emitFault n b m).port k).linkdelay = (m.port k).linkdelay ∧
    ((emitFault n b m).port k).ttmiss = (m.port k).ttmiss ∧
    ((emitFault n b m).port k).missFrame = (m.port k).missFrame ∧
    ((emitFault n b m).port k).missCount = (m.port k).missCount ∧
    ((emitFault n b m).port k).fabauth = (m.port k).fabauth ∧ ((emitFault n b m).port k).rxSeq = (m.port k).rxSeq ∧
    ((emitFault n b m).port k).resendAt = (m.port k).resendAt ∧
    ((emitFault n b m).port k).replayAsked = (m.port k).replayAsked ∧ ((emitFault n b m).port k).oq = (m.port k).oq ∧
    ((emitFault n b m).port k).rxq = (m.port k).rxq ∧ ((emitFault n b m).port k).era = (m.port k).era ∧
    ((emitFault n b m).port k).lastRx = (m.port k).lastRx ∧ ((emitFault n b m).port k).lanesUp = (m.port k).lanesUp ∧
    ((emitFault n b m).port k).firstDone = (m.port k).firstDone ∧
    ((emitFault n b m).port k).clsTurn = (m.port k).clsTurn ∧ ((emitFault n b m).port k).inTurn = (m.port k).inTurn ∧
    ((emitFault n b m).port k).syncSeq = (m.port k).syncSeq ∧
    ((emitFault n b m).port k).syncFrame = (m.port k).syncFrame ∧
    ((emitFault n b m).port k).statusAt = (m.port k).statusAt :=
  Sent.only_same (emitFault_port ..)

/-- A frame taken in order changes only the ports and what is sent (R325, R328). -/
theorem rxAccept_frame (rx : Rx) : ∃ p o, rxAccept rx m = { m with ports := p, out := o } := by
  unfold rxAccept
  dsimp only
  generalize hg : Module.updPort m _ _ = g
  obtain ⟨p, o, h⟩ := flushPort_frame (m := g) rx.port.val
  rw [h, ← hg]; exact ⟨_, _, rfl⟩

@[simp] theorem rxAccept_port_same (rx : Rx) (k : Nat) :
    ((rxAccept rx m).port k).st = (m.port k).st ∧ ((rxAccept rx m).port k).peerport = (m.port k).peerport ∧
    ((rxAccept rx m).port k).peermod = (m.port k).peermod ∧ ((rxAccept rx m).port k).peerInc = (m.port k).peerInc ∧
    ((rxAccept rx m).port k).peerRun = (m.port k).peerRun ∧ ((rxAccept rx m).port k).lanefail = (m.port k).lanefail ∧
    ((rxAccept rx m).port k).detour = (m.port k).detour ∧ ((rxAccept rx m).port k).linkasym = (m.port k).linkasym ∧
    ((rxAccept rx m).port k).linkdelay = (m.port k).linkdelay ∧ ((rxAccept rx m).port k).ttmiss = (m.port k).ttmiss ∧
    ((rxAccept rx m).port k).missFrame = (m.port k).missFrame ∧
    ((rxAccept rx m).port k).missCount = (m.port k).missCount ∧
    ((rxAccept rx m).port k).fabauth = (m.port k).fabauth ∧ ((rxAccept rx m).port k).resendAt = (m.port k).resendAt ∧
    ((rxAccept rx m).port k).oq = (m.port k).oq ∧ ((rxAccept rx m).port k).rxq = (m.port k).rxq ∧
    ((rxAccept rx m).port k).era = (m.port k).era ∧ ((rxAccept rx m).port k).lanesUp = (m.port k).lanesUp ∧
    ((rxAccept rx m).port k).firstDone = (m.port k).firstDone ∧
    ((rxAccept rx m).port k).clsTurn = (m.port k).clsTurn ∧ ((rxAccept rx m).port k).inTurn = (m.port k).inTurn ∧
    ((rxAccept rx m).port k).syncSeq = (m.port k).syncSeq ∧
    ((rxAccept rx m).port k).syncFrame = (m.port k).syncFrame ∧
    ((rxAccept rx m).port k).statusAt = (m.port k).statusAt := by
  unfold rxAccept
  dsimp only
  by_cases h : k = rx.port.val <;> simp [h]

@[simp] theorem rxAccept_same (rx : Rx) :
    (rxAccept rx m).boot = m.boot ∧ (rxAccept rx m).time = m.time ∧ (rxAccept rx m).topo = m.topo ∧
    (rxAccept rx m).fabKey = m.fabKey ∧ (rxAccept rx m).threads = m.threads ∧ (rxAccept rx m).cores = m.cores ∧
    (rxAccept rx m).csce = m.csce ∧ (rxAccept rx m).ctxs = m.ctxs ∧ (rxAccept rx m).parts = m.parts ∧
    (rxAccept rx m).layout = m.layout ∧ (rxAccept rx m).funs = m.funs ∧ (rxAccept rx m).pds = m.pds ∧
    (rxAccept rx m).fab = m.fab ∧ (rxAccept rx m).stripes = m.stripes ∧ (rxAccept rx m).mem = m.mem ∧
    (rxAccept rx m).valid = m.valid ∧ (rxAccept rx m).summary = m.summary ∧ (rxAccept rx m).sumBad = m.sumBad ∧
    (rxAccept rx m).bad = m.bad ∧ (rxAccept rx m).dramErr = m.dramErr ∧ (rxAccept rx m).chanErr = m.chanErr ∧
    (rxAccept rx m).sramErr = m.sramErr ∧ (rxAccept rx m).trainBad = m.trainBad ∧ (rxAccept rx m).hidKey = m.hidKey ∧
    (rxAccept rx m).tlb = m.tlb ∧ (rxAccept rx m).writes = m.writes ∧ (rxAccept rx m).cows = m.cows ∧
    (rxAccept rx m).ledger = m.ledger ∧ (rxAccept rx m).lease = m.lease ∧ (rxAccept rx m).cat = m.cat ∧
    (rxAccept rx m).tt = m.tt ∧ (rxAccept rx m).pm = m.pm ∧ (rxAccept rx m).att = m.att ∧
    (rxAccept rx m).bms = m.bms ∧ (rxAccept rx m).draw = m.draw := by
  obtain ⟨_, _, h⟩ := rxAccept_frame (m := m) rx
  simp only [h, and_self]

end Sys2Proof.Machine
end

