-- ==== Sys2Proof/Laws/Memory.lean ====
section
/-! SUPPORT. Every operation over the memories keeps the byte list in its canonical form (`Memory.wf`), and the module's
memory at reset has it; what a stored byte reads as after a write. -/

namespace Sys2Proof.Machine

variable {m : Module}

/-- A loop of steps that each keep the canonical form keeps it. -/
theorem wf_foldl {α : Type} (f : Module → α → Module)
    (h : ∀ m a, Memory.wf m.mem = true → Memory.wf (f m a).mem = true) (l : List α) (m : Module)
    (hm : Memory.wf m.mem = true) : Memory.wf (l.foldl f m).mem = true := by
  induction l generalizing m with
  | nil => exact hm
  | cons a l ih => exact ih _ (h m a hm)

theorem wf_nil : Memory.wf [] = true := rfl

theorem wf_pokes (items : List (Nat × WByte)) (mem : List Host.Cell) (h : Memory.wf mem = true) :
    Memory.wf (pokes items mem) = true := by
  unfold pokes
  induction items generalizing mem with
  | nil => exact h
  | cons e l ih => exact ih _ (Sparse.ok_set _ _ _ _ h)

theorem wf_wipe (p : Nat → Bool) (mem : List Host.Cell) (h : Memory.wf mem = true) : Memory.wf (wipe p mem) = true :=
  Sparse.ok_keep _ _ _ h

theorem wf_garble (g : Nat) (beats : List Nat) (h : Memory.wf m.mem = true) :
    Memory.wf (garble g beats m).mem = true := by
  unfold garble
  dsimp only
  generalize beats.flatMap _ = l
  generalize m.mem = mem at h ⊢
  induction l generalizing mem with
  | nil => exact h
  | cons e l ih => exact ih _ (Sparse.ok_set _ _ _ _ h)

theorem wf_poisonGran (g src : Nat) (h : Memory.wf m.mem = true) : Memory.wf (poisonGran g src m).mem = true := by
  have hx := wf_garble (m := m) g (upTo 16) h
  unfold poisonGran
  generalize garble g (upTo 16) m = x at hx ⊢
  simp only [led_same]
  exact hx

theorem wf_decodeRead (g src : Nat) (h : Memory.wf m.mem = true) : Memory.wf (decodeRead g src m).mem = true := by
  have ce : ∀ ch n, Memory.wf (countCe (stripeOf g) ch n { m with dramErr := Sparse.drop m.dramErr g }).mem = true :=
    fun ch n => by simp only [countCe_same]; exact h
  unfold decodeRead
  dsimp only
  split
  · split
    · exact h
    · exact wf_garble _ _ h
  · split
    · exact ce _ _
    · exact wf_garble _ _ (ce _ _)
  · exact wf_poisonGran _ _ h

theorem wf_readGran (g src : Nat) (h : Memory.wf m.mem = true) : Memory.wf (readGran g src m).mem = true := by
  have hs : Memory.wf (readSummary g m).mem = true := by simp only [readSummary_same]; exact h
  unfold readGran
  split
  · split
    · exact h
    · exact wf_decodeRead _ _ h
  · split
    · exact h
    · dsimp only
      split
      · exact hs
      · exact wf_decodeRead _ _ hs

theorem wf_touch (pa : Nat) (h : Memory.wf m.mem = true) : Memory.wf (touch pa m).mem = true := by
  unfold touch
  split
  · exact wf_readGran _ _ h
  · simp only [readWord_same]; exact h

theorem wf_readPas (pas : List Nat) (h : Memory.wf m.mem = true) : Memory.wf (readPas pas m).1.mem = true :=
  wf_foldl _ (fun m k hk => by simp only [readWord_same]; exact hk) _ _ (wf_foldl _ (fun _ g hg => wf_readGran g 0 hg) _ _ h)

theorem mem_setValid (g : Nat) : (setValid g m).mem = m.mem := rfl

theorem wf_writeGran (w : Writer) (g : Nat) (items : List (Nat × WByte)) (h : Memory.wf m.mem = true) :
    Memory.wf (writeGran w g items m).mem = true := by
  have hs : Memory.wf (readSummary g m).mem = true := by simp only [readSummary_same]; exact h
  unfold writeGran
  split
  · simp only [led_same]; exact h
  · dsimp only
    split
    · exact wf_pokes _ _ hs
    · split
      · exact hs
      · split
        · split
          · exact wf_readGran _ _ hs
          · exact wf_pokes _ _ (wf_readGran _ _ hs)
        · refine wf_pokes _ _ ?_
          rw [mem_setValid]
          dsimp only
          exact wf_wipe _ _ hs

theorem wf_writeWord (k : Nat) (items : List (Nat × WByte)) (mark : Bool) (h : Memory.wf m.mem = true) :
    Memory.wf (writeWord k items mark m).mem = true := by
  unfold writeWord
  split
  · exact wf_pokes _ _ h
  · dsimp only
    simp only [readWord_same]
    exact wf_pokes _ _ h

/-- Writing bytes by physical key, whole or in part. -/
theorem wf_writeBytes (w : Writer) (items : List (Nat × WByte)) (h : Memory.wf m.mem = true) :
    Memory.wf (writeBytes w items m).mem = true :=
  wf_foldl _ (fun _ k hk => wf_writeWord k _ _ hk) _ _ (wf_foldl _ (fun _ g hg => wf_writeGran w g _ hg) _ _ h)

theorem wf_writePas (w : Writer) (items : List (Nat × Byte)) (mark : Bool) (h : Memory.wf m.mem = true) :
    Memory.wf (writePas w items mark m).mem = true := wf_writeBytes _ _ h

theorem wf_clearFrame (fr : Nat) (h : Memory.wf m.mem = true) : Memory.wf (clearFrame fr m).mem = true := by
  unfold clearFrame
  dsimp only
  exact wf_wipe _ _ h

theorem wf_clearDie (d : Nat) (h : Memory.wf m.mem = true) : Memory.wf (clearDie d m).mem = true := by
  unfold clearDie
  dsimp only
  exact wf_wipe _ _ h

theorem wf_zeroRange (lo hi : Nat) (h : Memory.wf m.mem = true) : Memory.wf (zeroRange lo hi m).mem = true := by
  unfold zeroRange
  dsimp only
  exact wf_wipe _ _ h

theorem wf_zeroCore (c : Nat) (h : Memory.wf m.mem = true) : Memory.wf (zeroCore c m).mem = true :=
  wf_zeroRange _ _ (wf_zeroRange _ _ h)

theorem wf_zeroStore (cl : Nat) (h : Memory.wf m.mem = true) : Memory.wf (zeroStore cl m).mem = true := wf_zeroRange _ _ h

theorem wf_copyFrame (src dst : Nat) (h : Memory.wf m.mem = true) : Memory.wf (copyFrame src dst m).mem = true := by
  unfold copyFrame
  dsimp only
  refine wf_foldl _ (fun m g hg => by rw [mem_setValid]; exact hg) _ _ ?_
  exact wf_pokes _ _ (wf_clearFrame _ (wf_foldl _ (fun _ g hg => wf_readGran g 0 hg) _ _ h))

/-- The memory of the machine at reset has the canonical form. -/
theorem wf_reset : Memory.wf State.reset.mod.mem = true := rfl

/-! What reads back -/

@[simp] theorem get_wipe (p : Nat → Bool) (mem : List Host.Cell) (a : Nat) :
    Sparse.get (0 : Byte) (wipe p mem) a = if p a = true then 0 else Sparse.get 0 mem a := by
  rw [wipe, Sparse.get_keep]
  cases p a <;> rfl

/-- A byte that no item names reads as before. -/
theorem get_pokes_other (items : List (Nat × WByte)) (mem : List Host.Cell) (a : Nat) (h : ∀ e ∈ items, e.1 ≠ a) :
    Sparse.get (0 : Byte) (pokes items mem) a = Sparse.get 0 mem a := by
  unfold pokes
  induction items generalizing mem with
  | nil => rfl
  | cons e l ih =>
    rw [List.foldl_cons, ih _ fun x hx => h x (List.mem_cons_of_mem _ hx), Sparse.get_set,
      if_neg fun he => h e (List.mem_cons_self ..) he.symm]

/-- A byte named once holds what its item makes of it: written whole, or merged with what it held. -/
theorem get_pokes_mem (items : List (Nat × WByte)) (mem : List Host.Cell) (a : Nat) (b : WByte)
    (hd : (items.map (·.1)).Nodup) (h : (a, b) ∈ items) :
    Sparse.get (0 : Byte) (pokes items mem) a = b.over (Sparse.get 0 mem a) := by
  unfold pokes
  induction items generalizing mem with
  | nil => cases h
  | cons e l ih =>
    rw [List.map_cons, List.nodup_cons] at hd
    rw [List.foldl_cons]
    rcases List.mem_cons.mp h with rfl | h
    · have := get_pokes_other l (Sparse.set 0 mem a (b.over (Sparse.get 0 mem a))) a
        fun x hx he => hd.1 (List.mem_map.mpr ⟨x, hx, he⟩)
      rw [pokes] at this
      rw [this, Sparse.get_set, if_pos rfl]
    · rw [ih _ hd.2 h, Sparse.get_set, if_neg]
      rintro rfl
      exact hd.1 (List.mem_map.mpr ⟨_, h, rfl⟩)

@[simp] theorem over_wb (v old : Byte) (bad : Bool) : (wb v bad).over old = v := by simp [WByte.over, wb]

end Sys2Proof.Machine
end

