-- ==== Sys2Proof/Tests/Slice0.lean ====
section
/-! SUPPORT. Tests: ill-formed commands, steps on small states, and for every statement a state and operands that meet its
hypotheses. -/

namespace Sys2Proof.Tests

-- One theorem at a time: each of them waits for the kernel.
set_option Elab.async false

open Sys2Proof Sys2Proof.Machine Sys2Proof.Safety

/-! Small states -/

/-- A state with a given module; everything else as at reset. -/
def at_ (m : Module) : State := { State.reset with mod := m }

/-- The module with its Librarian running and every catalogue bit accepted. -/
def libM : Module :=
  { Module.reset with
    boot := { Boot.init with st := .running, lib := true, spdm := true, ready := true },
    cat := { Cat.init with en := BitVec.ofNat 256 0xFFFF, accepted := true, published := true },
    lease := { Lease.init with inc := 1 } }

/-- A context of job 7 in partition 0 that owns core 0. -/
def ctxA : Ctx := { Ctx.init with state := .running, r := { CtxRegs.zero with cores := 1, job := 7 } }

/-- The first call number of core 0's carrel. -/
def carrel : Word := 0xFFFF100000000000#64

/-- A running thread with some of its registers: g1 = 6, g2 = 0, g3 all ones, g4 a carrel call number, g5 marked. -/
def threadA : Thread :=
  { Thread.idle with
    running := true, pc := carrel, marks := [5], regs := [(1, 6), (3, BitVec.allOnes 64), (4, carrel), (5, 1)] }

/-- The module running one thread of that context in slot 0. -/
def runM : Module := { libM with ctxs := [(0, ctxA)], threads := [(0, threadA)] }

/-- The same with another context or thread. -/
def withCtx (x : Ctx) : Module := { runM with ctxs := [(0, x)] }
def withThread (x : Thread) : Module := { runM with threads := [(0, x)] }


/-- A thread may issue n bytes without a prefix, and their fetch leaves the module as it is. -/
def ready (n : Nat) (t : ThreadNo) (slot : Nat) (m : Module) : Bool :=
  m.on && decide (ownerOf m t.core = some slot) && canIssue m slot t && !(waitsForTag m t) &&
    decide (fetchCheck slot n t m = (m, none))

theorem enters_of {n : Nat} {t : ThreadNo} {slot : Nat} {m : Module} (h : ready n t slot m = true) :
    Enters t n (at_ m) slot m := by
  simp only [ready, Bool.and_eq_true, Bool.not_eq_true', decide_eq_true_eq] at h
  exact ⟨h.1.1.1.1, h.1.1.1.2, h.1.1.2, h.1.2, h.2⟩

theorem issues_of {t : ThreadNo} {slot : Nat} {m : Module} (h : ready 4 t slot m = true) (hp : (m.thread t).pfx = none) :
    Issues t (at_ m) slot m := ⟨m, enters_of h, .inl ⟨hp, rfl⟩⟩

theorem pair_of {α β : Type} {x : α × β} {b : β} (h : x.2 = b) : ∃ a, x = (a, b) := ⟨x.1, by rw [← h]⟩

theorem fst_of {α β : Type} {x : α × β} {a : α} (h : x.1 = a) : ∃ b, x = (a, b) := ⟨x.2, by rw [← h]⟩

theorem stamp_near (m : Module) (c : Nat) : m.time.now ≤ m.islandStamp c ∧ m.islandStamp c ≤ m.time.now + 1 := by
  unfold Module.islandStamp
  split <;> omega

/-! Witnesses: scalar instructions -/

/-- The thread with other registers. -/
def regsM (l : Sparse Word) : Module := withThread { threadA with regs := l }

theorem witness_StepRunsTheFrontCommand : step { at_ runM with pending := [.meterCommit, .readId] } =
    exec .meterCommit { at_ runM with pending := [.readId] } := rfl

theorem witness_GeneralRegisterReadAfterWrite : ∃ r q : Reg, r ≠ 0 ∧ q ≠ r ∧ q ≠ 0 ∧ r = 63 := ⟨63, 1, by decide⟩

/-- Division by zero, the overflowing division, and every other one. -/
theorem witness_IntegerInstructionResults :
    (∃ s slot m, Issues 0 s slot m ∧ m.reg 0 2 = 0) ∧
    (∃ s slot m, Issues 0 s slot m ∧ m.reg 0 6 = BitVec.ofInt 64 (-(2 ^ 63)) ∧ m.reg 0 3 = BitVec.allOnes 64) ∧
    (∃ s slot m, Issues 0 s slot m ∧ m.reg 0 3 ≠ 0 ∧
      (m.reg 0 1 ≠ BitVec.ofInt 64 (-(2 ^ 63)) ∨ m.reg 0 3 ≠ BitVec.allOnes 64)) :=
  ⟨⟨_, _, runM, issues_of (slot := 0) (by decide +kernel) rfl, by decide +kernel⟩,
   ⟨_, _, regsM [(3, BitVec.allOnes 64), (6, 0x8000000000000000#64)],
     issues_of (slot := 0) (by decide +kernel) rfl, by decide +kernel⟩,
   ⟨_, _, runM, issues_of (slot := 0) (by decide +kernel) rfl, by decide +kernel⟩⟩

/-- g1 = NaN, g2 = 1.0, g3 = 2.0, g4 = ∞, g6 = −∞. -/
def fpM : Module :=
  regsM [(1, 0x7FC00000#64), (2, 0x3F800000#64), (3, 0x40000000#64), (4, 0x7F800000#64), (6, 0xFF800000#64)]

theorem fp_issues : Issues 0 (at_ fpM) 0 fpM := issues_of (by decide +kernel) rfl

/-- NaN, two finite operands, two infinities, one of each. -/
theorem witness_Fp32InstructionResults : ∃ s slot m, Issues 0 s slot m ∧
    f32 (lo32 (m.reg 0 1)) = .nan ∧
    f32 (lo32 (m.reg 0 2)) = .fin false 8388608 (-23) ∧ f32 (lo32 (m.reg 0 3)) = .fin false 8388608 (-22) ∧
    f32 (lo32 (m.reg 0 4)) = .inf false ∧ f32 (lo32 (m.reg 0 6)) = .inf true :=
  ⟨_, _, fpM, fp_issues, by decide +kernel⟩

theorem witness_BranchesAndJumps : ∃ s slot m, Issues 0 s slot m ∧ m.mark 0 1 = false ∧ m.mark 0 2 = false ∧
    m.mark 0 5 = true := ⟨_, _, runM, issues_of (slot := 0) (by decide +kernel) rfl, by decide +kernel⟩

/-- A module of a torus of four, whose context has page 0 of its main memory mapped in the cache. -/
def memM : Module :=
  { runM with
    tlb := [(0, 0xF000000000000001#64)], parts := [(0, { Part.init 0 with keyNo := some 1 })],
    topo := { Topo.init with lens := { t := 4, s := 1, e := 1, p := 1, d := 1 } },
    threads := [(0, { threadA with
      regs := [(1, carrel), (2, 0xFFFF000000000000#64), (3, 0x0003000000000000#64), (4, 0xFFFF400000000000#64),
               (5, 1), (6, 0xFFFFF00000000000#64), (7, 0x0003000000000001#64)] })] }

theorem mem_issues : Issues 0 (at_ memM) 0 memM := issues_of (by decide +kernel) rfl

/-- Loads, stores and atomics: in the carrel, main memory, another module and the control space; a marked value; a denied
address. -/
theorem witness_LoadsStoresAndAtomicsIssue : ∃ s slot m, Issues 0 s slot m ∧
    m.mark 0 1 = false ∧ m.mark 0 5 = true ∧
    (∃ p, locate slot .read 8 (m.reg 0 1) 0 m = (p, .ok (.mem ((List.range 8).map fun k => paCarrel 0 k)))) ∧
    (∃ p, locate slot .read 4 (m.reg 0 3) 0 m = (p, .ok .remote)) ∧
    (∃ p pas, locate slot .write 8 (m.reg 0 1) 0 m = (p, .ok (.mem pas)) ∧ toMain pas = false) ∧
    (∃ p pas, locate slot .write 8 (m.reg 0 2) 0 m = (p, .ok (.mem pas)) ∧ toMain pas = true) ∧
    (∃ p, locate slot .write 8 (m.reg 0 4) 0 m = (p, .ok (.ctl 0))) ∧
    (∃ p, locate slot .write 8 (m.reg 0 3) 0 m = (p, .ok .remote)) ∧ (m.reg 0 3).toNat % 8 = 0 ∧ callSpace (m.reg 0 3) = 0 ∧
    (∃ p, locate slot .write 8 (m.reg 0 7) 0 m = (p, .ok .remote)) ∧ (m.reg 0 7).toNat % 8 ≠ 0 ∧
    (∃ p, locate slot .atomic 4 (m.reg 0 3) 0 m = (p, .ok .remote)) ∧
    (∃ p pas, locate slot .atomic 4 (m.reg 0 1) 0 m = (p, .ok (.mem pas)) ∧ toMain pas = false) ∧
    (∃ p f, locate slot .read 8 (m.reg 0 6) 0 m = (p, .error f)) ∧
    (∃ p f, locate slot .write 8 (m.reg 0 6) 0 m = (p, .error f)) ∧ (m.reg 0 6).toNat % 8 = 0 :=
  ⟨_, _, memM, mem_issues, by decide +kernel, by decide +kernel, pair_of (by decide +kernel), pair_of (by decide +kernel),
   ⟨(locate 0 .write 8 (memM.reg 0 1) 0 memM).1, (List.range 8).map fun k => paCarrel 0 k, by decide +kernel⟩,
   ⟨(locate 0 .write 8 (memM.reg 0 2) 0 memM).1, (List.range 8).map fun k => 65536 + k, by decide +kernel⟩,
   pair_of (by decide +kernel),
   pair_of (by decide +kernel), by decide +kernel, by decide +kernel, pair_of (by decide +kernel), by decide +kernel,
   pair_of (by decide +kernel),
   ⟨(locate 0 .atomic 4 (memM.reg 0 1) 0 memM).1, (List.range 4).map fun k => paCarrel 0 k, by decide +kernel⟩,
   ⟨(locate 0 .read 8 (memM.reg 0 6) 0 memM).1, pageFault .badSpace (memM.reg 0 6) 0, by decide +kernel⟩,
   ⟨(locate 0 .write 8 (memM.reg 0 6) 0 memM).1, pageFault .badSpace (memM.reg 0 6) 0, by decide +kernel⟩, by decide +kernel⟩

/-- A thread that waits for a load or atomic. -/
def loadM (l : LoadWait) : Module := withThread { threadA with load := some l }
def bytesAt (n : Nat) : List Nat := (List.range n).map fun k => paCarrel 0 k
def lw : LoadWait := { rd := 1, op := .ld 8 false, call := carrel, loc := .mem (bytesAt 8), value := none, timedOut := false, got := [] }

/-- Values from memory, of an atomic, from the control space and from another module; a waiting store; words of atomics. -/
theorem witness_LoadValuesAndWritesArrive :
    (∃ m : Module, m.on = true ∧ ownerOf m 0 = some 0 ∧ (m.thread 0).load = some lw ∧ lw.timedOut = false ∧
      (bytesAt 8).length = 8 ∧ (∀ w ∈ m.writes, w.t = 0 → ∀ e ∈ w.items, e.1 ∉ bytesAt 8) ∧
      tileWritten m none (bytesAt 8) = false ∧ lw.call.toNat % 8 = 0) ∧
    (∃ m : Module, m.on = true ∧ ownerOf m 0 = some 0 ∧
      (m.thread 0).load = some { lw with op := .ld 2 false, call := carrel + 1, loc := .mem ((bytesAt 3).drop 1) } ∧
      (carrel + 1).toNat % 2 ≠ 0 ∧ (∀ w ∈ m.writes, w.t = 0 → ∀ e ∈ w.items, e.1 ∉ (bytesAt 3).drop 1) ∧
      (∀ pa ∈ (bytesAt 3).drop 1, tileWritten m none [pa] = false)) ∧
    (∃ m : Module, m.on = true ∧ ownerOf m 0 = some 0 ∧
      (m.thread 0).load = some { lw with op := .atom 1 3 0 false, loc := .mem (bytesAt 8) } ∧
      (∀ w ∈ m.writes, w.t = 0 → ∀ e ∈ w.items, e.1 ∉ bytesAt 8) ∧
      cowPages 0 carrel 8 m = [] ∧ writeAct m (some 0) none (atomItems 1 3 0 (bytesAt 8) m) = none) ∧
    (∃ m : Module, m.on = true ∧ ownerOf m 0 = some 0 ∧ (m.thread 0).load = some { lw with loc := .ctl 0x48 }) ∧
    (∃ m : Module, m.on = true ∧ ownerOf m 0 = some 0 ∧
      (m.thread 0).load = some { lw with loc := .remote, value := some (5, true) }) ∧
    (∃ (m : Module) (w : PWrite), m.on = true ∧ m.writes[0]? = some w ∧ behindOwn m 0 w = false ∧
      cowPages w.slot w.call w.items.length m = [] ∧ writeAct m (some w.t) none w.items = none ∧
      (m.ctx w.slot).gen.toNat = w.gen ∧
      holdOld (w.items.map (·.1)) { m with writes := m.writes.eraseIdx 0 } = { m with writes := m.writes.eraseIdx 0 }) ∧
    (∃ m : Module, anyBad (readPas (bytesAt 8) m).2 = true) ∧
    (∃ m : Module, anyBad (readPas (bytesAt 8) m).2 = false ∧ bytesNat (readPas (bytesAt 8) m).2 = 0 % 2 ^ 64 ∧
      bytesNat (readPas (bytesAt 8) m).2 ≠ 1 % 2 ^ 64) :=
  ⟨⟨loadM lw, by decide +kernel⟩,
   ⟨loadM { lw with op := .ld 2 false, call := carrel + 1, loc := .mem ((bytesAt 3).drop 1) }, by decide +kernel⟩,
   ⟨loadM { lw with op := .atom 1 3 0 false, loc := .mem (bytesAt 8) }, by decide +kernel⟩,
   ⟨loadM { lw with loc := .ctl 0x48 }, by decide +kernel⟩,
   ⟨loadM { lw with loc := .remote, value := some (5, true) }, by decide +kernel⟩,
   ⟨{ runM with writes := [{ uid := 0, t := 0, slot := 0, gen := 0, items := [(paCarrel 0 0, 7)], bad := false, call := carrel }] },
    { uid := 0, t := 0, slot := 0, gen := 0, items := [(paCarrel 0 0, 7)], bad := false, call := carrel }, by decide +kernel⟩,
   ⟨{ runM with bad := [unitOf (paCarrel 0 0)] }, by decide +kernel⟩,
   ⟨runM, by decide +kernel⟩⟩

theorem witness_FencesCountersAndHalts : ∃ s slot m, Issues 0 s slot m ∧ (∀ w ∈ m.writes, w.t ≠ 0) ∧
    (∀ f ∈ m.fab.flights ++ m.fab.waiting, f.who ≠ .store 0) ∧ m.mark 0 1 = false :=
  ⟨_, _, runM, issues_of (slot := 0) (by decide +kernel) rfl, by decide +kernel⟩

/-- A counter equal to the value, one below it, and exactly 2^31 away. -/
theorem witness_WaitOnACounter : ∃ s slot m, Issues 0 s slot m ∧
    m.mark 0 1 = false ∧ m.mark 0 2 = false ∧ m.mark 0 6 = false ∧
    0 ≤ ((m.ctx slot).ctr 0 - (m.reg 0 2).truncate 32).toInt ∧
    ((m.ctx slot).ctr 0 - (m.reg 0 1).truncate 32).toInt < 0 ∧ (m.ctx slot).ctr 0 - (m.reg 0 1).truncate 32 ≠ 0x80000000#32 ∧
    (m.ctx slot).ctr 0 - (m.reg 0 6).truncate 32 = 0x80000000#32 :=
  ⟨_, _, regsM [(1, 1), (6, 0x80000000#64)], issues_of (slot := 0) (by decide +kernel) rfl, by decide +kernel⟩

/-- TSTART of a halted thread, of a running one, and of cores that the context does not own. -/
theorem witness_ThreadStarts : ∃ s slot m, Issues 0 s slot m ∧
    m.mark 0 1 = false ∧ m.mark 0 2 = false ∧ m.mark 0 3 = false ∧
    ((m.reg 0 1).toNat = 255 ∧ (m.ctx slot).r.cores.getLsbD (255 / 256) = true ∧ (m.thread 255).running = false) ∧
    ((m.reg 0 2).toNat = 0 ∧ (m.thread 0).running = true) ∧
    ((m.reg 0 3).toNat = 256 ∧ (m.ctx slot).r.cores.getLsbD (256 / 256) = false) ∧ 2 ^ 17 ≤ (m.reg 0 4).toNat :=
  ⟨_, _, regsM [(1, 255), (3, 256), (4, 0x20000#64)], issues_of (slot := 0) (by decide +kernel) rfl, by decide +kernel⟩

def lateM : Module := { runM with time := { Time.init with now := 2 ^ 25 } }
def heldM (d now : Nat) : Module :=
  { withThread { threadA with held := some (.add 0 1 2 3, d) } with time := { Time.init with now := now } }

/-- Prefixes early and late in stamp time, a marked register, a prefix that holds, and a held instruction before and at D. -/
theorem witness_DueLaunch :
    (∃ s slot m, Enters 0 4 s slot m ∧ m.islandStamp 0 < 2 ^ 25 ∧ m.mark 0 1 = false ∧ m.mark 0 5 = true) ∧
    (∃ s slot m, Enters 0 4 s slot m ∧ 2 ^ 25 ≤ m.islandStamp 0) ∧
    (∃ s slot m d, Enters 0 4 s slot m ∧ (m.thread 0).pfx = some d ∧ m.islandStamp 0 < d.d) ∧
    (∃ (m : Module) (b : Body) (d : Nat), m.on = true ∧ ownerOf m 0 = some 0 ∧
      (m.thread 0).held = some (.add 0 1 2 3, d) ∧ bodyOf (.add 0 1 2 3) = some b ∧ (m.ctx 0).state = .running ∧
      m.islandStamp 0 < d) ∧
    (∃ (m : Module) (b : Body) (d : Nat), m.on = true ∧ ownerOf m 0 = some 0 ∧
      (m.thread 0).held = some (.add 0 1 2 3, d) ∧ bodyOf (.add 0 1 2 3) = some b ∧ (m.ctx 0).state = .running ∧
      d ≤ m.islandStamp 0) :=
  ⟨⟨_, _, runM, enters_of (slot := 0) (by decide +kernel), Nat.lt_of_le_of_lt (stamp_near runM 0).2 (by decide +kernel),
     by decide +kernel⟩,
   ⟨_, _, lateM, enters_of (slot := 0) (by decide +kernel), Nat.le_trans (by decide +kernel) (stamp_near lateM 0).1⟩,
   ⟨_, _, withThread { threadA with pfx := some { imm := false, f := 0, reg := 9, s := 0, d := 9, at_ := carrel } }, _,
     enters_of (slot := 0) (by decide +kernel), rfl, Nat.lt_of_le_of_lt (stamp_near _ 0).2 (by decide +kernel)⟩,
   ⟨heldM 9 0, _, 9, by decide +kernel, by decide +kernel, by decide +kernel, rfl, by decide +kernel,
     Nat.lt_of_le_of_lt (stamp_near _ 0).2 (by decide +kernel)⟩,
   ⟨heldM 9 9, _, 9, by decide +kernel, by decide +kernel, by decide +kernel, rfl, by decide +kernel,
     Nat.le_trans (by decide +kernel) (stamp_near _ 0).1⟩⟩

def fin0 : Done := { ctr := 1, ce := true }
def mmaF : MmaF :=
  { fin := fin0, acc := 0, za := true, emit := false, ta := false, tb := false, fmta := 4, fmtb := 4, ra := 1, rb := 2, rt := 3,
    kt := 0 }
def chainF : ChainF :=
  { fin := fin0, src := 2, ts := 0, rs := 1, ro := 2, rc := 3, rt := 4, rnd := 0, fmto := 0, fmti := 0 }
def copyF : CopyF := { fin := fin0, rs := 1, rd := 2, rl := 3, fmts := 15, fmtd := 15, rnd := 0, rt := 4 }

/-- Room for every command. -/
theorem witness_EngineCommandsEnterTheirQueues : ∃ s slot m, Enters 0 8 s slot m ∧ (m.thread 0).outCmds < 16 ∧
    mmaF.wf = true ∧ chainF.wf = true ∧ copyF.wf = true ∧ (∀ r ∈ [1, 2, 3, 4], m.mark 0 r = false) ∧
    (m.core 0).meQ.length < 32 ∧ (m.core 0).teQ.length + ((m.core 0).teRun.filter fun r => !r.done).length + (m.core 0).tePark.length < 64 :=
  ⟨_, _, withThread { threadA with outCmds := 15 }, enters_of (slot := 0) (by decide +kernel), by decide +kernel⟩

def iss0 : Iss := { t := 0, slot := 0, gen := 0, at_ := carrel, due := none, since := 0, fin := fin0 }
def meCmd : MeCmd := { iss := iss0, f := mmaF, a := carrel, b := carrel, tag := 0 }
def teCmd (w : TeWork) : TeCmd := { iss := iss0, work := w }

/-- An unallocated code, a marked register, sixteen outstanding commands, and full queues. -/
theorem witness_EngineCommandLimits :
    (∃ s slot m, Enters 0 8 s slot m ∧ ({ mmaF with fmta := 7 } : MmaF).wf = false ∧ m.mark 0 5 = true ∧
      m.mark 0 1 = false) ∧
    (∃ s slot m, Enters 0 8 s slot m ∧ 16 ≤ (m.thread 0).outCmds) ∧
    (∃ s slot m, Enters 0 8 s slot m ∧ (m.thread 0).outCmds < 16 ∧ 32 ≤ (m.core 0).meQ.length ∧
      64 ≤ (m.core 0).teQ.length + ((m.core 0).teRun.filter fun r => !r.done).length + (m.core 0).tePark.length) :=
  ⟨⟨_, _, runM, enters_of (slot := 0) (by decide +kernel), by decide +kernel⟩,
   ⟨_, _, withThread { threadA with outCmds := 16 }, enters_of (slot := 0) (by decide +kernel), by decide +kernel⟩,
   ⟨_, _, { runM with cores := [(0, { CoreSt.init with
      meQ := List.replicate 32 meCmd, teQ := List.replicate 64 (teCmd (.desc 0)) })] },
    enters_of (slot := 0) (by decide +kernel), by decide +kernel⟩⟩

/-! Witnesses: engines. Operands of 32 KiB are read by proof, not by evaluation. -/

theorem resolve_carrel {m : Module} (h : (m.ctx 0).r.cores.getLsbD 0 = true) :
    resolve 0 .read (some 0) carrel m = (m, .pa (paCarrel 0 0)) := by
  have h1 : callMod carrel = 0xFFFF := by decide +kernel
  have h2 : callSpace carrel = 1 := by decide +kernel
  have h3 : callOff carrel = 0 := by decide +kernel
  simp [resolve, isLocal, h1, resolveLocal, h2, trSpace, h3, h]

/-- A module whose SRAM is undamaged and on whose cores no chain and no transfer runs, and core 0 has an owner. -/
structure Quiet (m : Module) : Prop where
  own : (m.ctx 0).r.cores.getLsbD 0 = true
  clean : m.sramErr = []
  idle : ∀ e ∈ m.cores, e.2.chains = [] ∧ e.2.teRun = []

theorem readWords_quiet {m : Module} (h : m.sramErr = []) (l : List Nat) :
    l.foldl (fun m k => readWord (8 * k) m) m = m := by
  induction l with
  | nil => rfl
  | cons k l ih =>
    have : readWord (8 * k) m = m := by simp [readWord, h]
    rw [List.foldl_cons, this, ih]

theorem readPas_carrel {m : Module} (h : m.sramErr = []) (n : Nat) :
    (readPas ((upTo n).map (paCarrel 0 0 + ·)) m).1 = m := by
  have : ((upTo n).map (paCarrel 0 0 + ·)).filter isMain = [] := by
    rw [List.filter_eq_nil_iff]
    intro a ha
    obtain ⟨k, -, rfl⟩ := List.mem_map.mp ha
    have h2 : ¬ 2 ^ 45 + 0 * 2 ^ 22 + 0 + k < 2 ^ 44 := by omega
    exact fun h3 => h2 (of_decide_eq_true h3)
  simp only [readPas, this, List.map_nil, squash, List.foldl_nil]
  exact readWords_quiet h _

theorem tileWritten_quiet {m : Module} (h : Quiet m) (pas : List Nat) : tileWritten m none pas = false := by
  have : (m.cores.any fun e => (coreWrites m e.1 none e.2).any fun r =>
      (pas.filter fun pa => decide (2 ^ 47 ≤ pa)).any fun pa => inRange pa r) = false := by
    rw [List.any_eq_false]
    intro e he
    obtain ⟨h1, h2⟩ := h.idle e he
    simp [coreWrites, h1, h2]
  simp only [tileWritten, this, Bool.and_false]

theorem run_bind {α β : Type} {x : EngM α} {f : α → EngM β} {a : α} {m p : Module} (h : x.run m = (.ok a, p)) :
    (x >>= f).run m = (f a).run p := by
  rw [ExceptT.run_bind]
  show (do let y ← x.run; _ : StateM Module _) m = _
  simp only [bind, StateT.bind, h]

theorem readOp_carrel {m : Module} (h : Quiet m) :
    ∃ l, (readOp { slot := 0, core := 0, e := .me, self := none, ttid := 0 } carrel 32768).run m = (.ok l, m) := by
  have h1 : runsOf carrel 32768 = [(carrel, 32768)] := by decide +kernel
  have hl : isLocal m carrel = true := by
    have h1 : callMod carrel = 0xFFFF := by decide +kernel
    simp [isLocal, h1]
  have ha : (act (resolve 0 .read (some 0) carrel) : EngM _).run m = (.ok (.pa (paCarrel 0 0)), m) := by
    show (_, _) = _
    rw [resolve_carrel h.own]
  have hr : (resolveRun 0 .read (some 0) carrel 32768).run m = (.ok ((upTo 32768).map (paCarrel 0 0 + ·)), m) := by
    unfold resolveRun
    rw [run_bind ha]
    rfl
  have hp : (act (readPas ((upTo 32768).map (paCarrel 0 0 + ·))) : EngM _).run m =
      (.ok (readPas ((upTo 32768).map (paCarrel 0 0 + ·)) m).2, m) := by
    show (_, _) = _
    rw [readPas_carrel h.clean]
  have hg : (get : EngM Module).run m = (.ok m, m) := rfl
  refine ⟨[(readPas ((upTo 32768).map (paCarrel 0 0 + ·)) m).2].flatten, ?_⟩
  unfold readOp
  rw [if_neg (by decide), run_bind hg, if_pos hl]
  unfold readLocal
  rw [h1]
  have hb : ((do
      let pas ← resolveRun 0 .read (some 0) carrel 32768
      if tileWritten (← get) none pas then stop (.ub .tileReadWhileWritten)
      act (readPas pas)) : EngM _).run m = (.ok (readPas ((upTo 32768).map (paCarrel 0 0 + ·)) m).2, m) := by
    rw [run_bind hr, run_bind hg, tileWritten_quiet h, if_neg Bool.false_ne_true]
    exact hp
  have hm : ([(carrel, 32768)].mapM fun r => do
      let pas ← resolveRun 0 .read (some 0) r.1 r.2
      if tileWritten (← get) none pas then stop (.ub .tileReadWhileWritten)
      act (readPas pas) : EngM _).run m = (.ok [(readPas ((upTo 32768).map (paCarrel 0 0 + ·)) m).2], m) := by
    rw [List.mapM_cons, run_bind hb]
    rfl
  rw [run_bind hm]
  rfl

theorem meTile_carrel {m : Module} (n : Nat) (h : Quiet m) : ∃ v, (meTile 0 0 carrel 4 n 0).run m = (.ok v, m) := by
  obtain ⟨l, hr⟩ := readOp_carrel h
  have h2 : ¬ carrel.toNat % tileBytes 4 ≠ 0 := by decide +kernel
  have h3 : carrel + BitVec.ofNat 64 (0 * tileBytes 4) = carrel := by decide +kernel
  have h4 : tileBytes 4 = 32768 := by decide +kernel
  have h5 : isQuire 4 = false := by decide +kernel
  have h6 : (codeBits 4 == 4) = false := by decide +kernel
  apply Exists.intro
  unfold meTile
  rw [if_neg h2, h3, h4, run_bind hr]
  simp only [h5, h6, Bool.false_and, Bool.or_false, Bool.false_eq_true, if_false]
  rw [run_bind (show (pure [] : EngM (List (Byte × Bool))).run m = (.ok [], m) from rfl)]
  rw [if_neg (by simp)]
  rfl

theorem meStep_carrel (m : Module) (r : MeRun) (hf : r.cmd.f.fmta = 4 ∧ r.cmd.f.fmtb = 4 ∧ r.k = 0 ∧ r.cmd.iss.slot = 0 ∧
    r.cmd.a = carrel ∧ r.cmd.b = carrel) (h : Quiet m) : ∃ p, (meStep 0 r).run m = (.ok (), p) := by
  obtain ⟨a, ha⟩ := meTile_carrel (r.cmd.f.kt.toNat + 1) h
  obtain ⟨e1, e2, e3, e4, e5, e6⟩ := hf
  have ea : (meTile r.cmd.iss.slot 0 r.cmd.a r.cmd.f.fmta (r.cmd.f.kt.toNat + 1) r.k).run m = (.ok a, m) := by
    rw [e1, e3, e4, e5]; exact ha
  have eb : (meTile r.cmd.iss.slot 0 r.cmd.b r.cmd.f.fmtb (r.cmd.f.kt.toNat + 1) r.k).run m = (.ok a, m) := by
    rw [e2, e3, e4, e6]; exact ha
  exact ⟨_, (run_bind ea).trans ((run_bind eb).trans rfl)⟩

/-- The module with core 0 in some state. -/
def coreM (c : CoreSt) : Module := { runM with cores := [(0, c)] }
def meRun (f : MmaF) (k : Nat) (e : Bool) : MeRun := { cmd := { meCmd with f := f }, rne := true, k := k, emitting := e }

/-- A head that may start, a step before the last, a last step, an emit with one free slot, and its end. -/
theorem witness_MatrixEngineCommands :
    (∃ (m : Module) (k : MeCmd) (q : List MeCmd), m.on = true ∧ engHeld (m.core 0) .me = false ∧ (m.core 0).meQ = k :: q ∧
      (m.core 0).meRun = none ∧ k.iss.due = none) ∧
    (∃ (m : Module) (r : MeRun) (p : Module), engHeld (m.core 0) .me = false ∧ (m.core 0).meRun = some r ∧
      r.emitting = false ∧ r.k = 0 ∧ r.cmd.f.kt.toNat = 0 ∧ r.cmd.f.emit = false ∧ (meStep 0 r).run m = (.ok (), p)) ∧
    (∃ (m : Module) (r : MeRun) (p : Module), engHeld (m.core 0) .me = false ∧ (m.core 0).meRun = some r ∧
      r.emitting = false ∧ r.k < r.cmd.f.kt.toNat ∧ (meStep 0 r).run m = (.ok (), p)) ∧
    (∃ (m : Module) (r : MeRun), (m.core 0).meRun = some r ∧ r.cmd.f.emit = true ∧ r.k = r.cmd.f.kt.toNat + 1 ∧
      r.emitting = false ∧ (m.core 0).cart.length + (m.core 0).cartBusy = 15) ∧
    (∃ (m : Module) (r : MeRun), (m.core 0).meRun = some r ∧ r.cmd.f.emit = true ∧ r.k = r.cmd.f.kt.toNat + 1 ∧
      r.emitting = true) :=
  ⟨⟨coreM { CoreSt.init with meQ := [meCmd] }, meCmd, [], by decide +kernel⟩,
   by
    obtain ⟨p, h⟩ := meStep_carrel (coreM { CoreSt.init with meRun := some (meRun mmaF 0 false) }) (meRun mmaF 0 false)
      (by decide +kernel) ⟨by decide +kernel, rfl, by decide +kernel⟩
    exact ⟨_, _, p, by decide +kernel, rfl, rfl, rfl, rfl, rfl, h⟩,
   by
    obtain ⟨p, h⟩ := meStep_carrel (coreM { CoreSt.init with meRun := some (meRun { mmaF with kt := 1 } 0 false) })
      (meRun { mmaF with kt := 1 } 0 false) (by decide +kernel) ⟨by decide +kernel, rfl, by decide +kernel⟩
    exact ⟨_, _, p, by decide +kernel, rfl, rfl, by decide, h⟩,
   ⟨coreM { CoreSt.init with cartBusy := 15, meRun := some (meRun { mmaF with emit := true } 1 false) },
     meRun { mmaF with emit := true } 1 false, by decide +kernel⟩,
   ⟨coreM { CoreSt.init with meRun := some (meRun { mmaF with emit := true } 1 true) },
     meRun { mmaF with emit := true } 1 true, by decide +kernel⟩⟩

theorem witness_ExactGroupSum : ∃ (acc : W32) (xs : List (FVal × FVal)) (n : Bool) (k : Nat) (e : Int), xs ≠ [] ∧
    f32 acc = .fin n k e ∧ ∀ p ∈ xs, ∃ a i b j c l, p = (FVal.fin a i c, FVal.fin b j l) :=
  ⟨0x3F800000#32, [(.fin false 3 0, .fin true 5 (-1))], false, 8388608, -23, by decide, by decide +kernel,
    by
      intro p h
      rw [List.mem_singleton] at h
      exact ⟨_, _, _, _, _, _, h⟩⟩

def chainCmd (f : ChainF) : ChainCmd := { iss := iss0, f := f, src := carrel, out := carrel, desc := carrel, tag := 0, n := 1 }
/-- The descriptor of a row of one element, with no stage. -/
def chainD : ChainDesc :=
  { ilay := false, olay := false, first := false, srec := false, fmts := [], slay := [], routm := 0, width := 1, side := [],
    vec0 := carrel, rout := carrel, state := carrel, stages := [] }
def chainRun (f : ChainF) : ChainRun :=
  { cmd := chainCmd f, d := chainD, src := none, slipErr := [], tile := none, copying := false, pass := 0, passes := 1, uid := 0,
    unsettled := 0, ending := false }
def tile0 : CartTile := { tag := 0, data := [], bad := [], err := [] }

/-- A chain may start: its descriptor is read and its operands stand beside one another. -/
def mayStart0 (k : ChainCmd) (m : Module) : Bool :=
  match (readChainDesc k.iss.slot 0 k.desc).run m with
  | (.ok d, p) => chainAligned k d && !(chainLaps p 0 k d (1 + extraPasses d.width d.stages)) &&
      decide ((p.core 0).cart = (m.core 0).cart)
  | _ => false

theorem starts_of {k : ChainCmd} {m : Module} (h : mayStart0 k m = true) :
    ∃ d p, (readChainDesc k.iss.slot 0 k.desc).run m = (.ok d, p) ∧ chainAligned k d = true ∧
      chainLaps p 0 k d (1 + extraPasses d.width d.stages) = false ∧ (p.core 0).cart = (m.core 0).cart := by
  unfold mayStart0 at h
  split at h
  · next d p e =>
    simp only [Bool.and_eq_true, Bool.not_eq_true', decide_eq_true_eq] at h
    exact ⟨d, p, e, h.1.1, h.1.2, h.2⟩
  · cases h

def startM (k : ChainCmd) : Module := coreM { CoreSt.init with veQ := [k], cart := [tile0] }

/-- A head with a source in memory, one with a tile of the cart, a tile being copied, a middle pass, a last pass that stays on
this module, and one that writes to another. -/
theorem witness_ChainCommands :
    (∃ (m : Module) (k : ChainCmd) (d : ChainDesc) (p : Module), m.on = true ∧ (m.core 0).veQ = [k] ∧
      (m.core 0).chains = [] ∧ engHeld (m.core 0) .ve = false ∧ k.iss.due = none ∧ k.f.src ≠ 0 ∧
      (readChainDesc k.iss.slot 0 k.desc).run m = (.ok d, p) ∧ chainAligned k d = true ∧
      chainLaps p 0 k d (1 + extraPasses d.width d.stages) = false) ∧
    (∃ (m : Module) (k : ChainCmd) (x : CartTile) (d : ChainDesc) (p : Module), (m.core 0).veQ = [k] ∧
      (m.core 0).chains = [] ∧ engHeld (m.core 0) .ve = false ∧ k.iss.due = none ∧ k.f.src = 0 ∧ (m.core 0).cart = [x] ∧
      (readChainDesc k.iss.slot 0 k.desc).run m = (.ok d, p) ∧ chainAligned k d = true ∧
      chainLaps p 0 k d (1 + extraPasses d.width d.stages) = false ∧ (p.core 0).cart = (m.core 0).cart) ∧
    (∃ (m : Module) (r : ChainRun), (m.core 0).chains = [r] ∧ r.copying = true) ∧
    (∃ (m : Module) (r : ChainRun) (x : PassIn) (p : Module), (m.core 0).chains[0]? = some r ∧ r.ending = false ∧
      engHeld (m.core 0) .ve = false ∧ r.pass + 1 < r.passes ∧ (readPass 0 r).run m = (.ok x, p)) ∧
    (∃ (m : Module) (r : ChainRun) (p : Module), (m.core 0).chains[0]? = some r ∧ r.ending = false ∧
      engHeld (m.core 0) .ve = false ∧ r.passes ≤ r.pass + 1 ∧ (lastPass 0 r).run m = (.ok (.wrote 0), p)) ∧
    (∃ (m : Module) (r : ChainRun) (p : Module), (m.core 0).chains[0]? = some r ∧ r.ending = false ∧
      engHeld (m.core 0) .ve = false ∧ r.passes ≤ r.pass + 1 ∧ (lastPass 0 r).run m = (.ok (.wrote 1), p)) := by
  refine ⟨?_, ?_, ⟨coreM { CoreSt.init with chains := [{ chainRun chainF with copying := true }] }, _, rfl, rfl⟩, ?_, ?_, ?_⟩
  · obtain ⟨d, p, h1, h2, h3, -⟩ := starts_of (k := { chainCmd chainF with out := carrel + 256 })
      (m := startM { chainCmd chainF with out := carrel + 256 }) (by decide +kernel)
    exact ⟨_, _, d, p, rfl, rfl, rfl, by decide +kernel, rfl, by decide, h1, h2, h3⟩
  · obtain ⟨d, p, h1, h2, h3, h4⟩ := starts_of (k := { chainCmd { chainF with src := 0 } with out := carrel + 256 })
      (m := startM { chainCmd { chainF with src := 0 } with out := carrel + 256 }) (by decide +kernel)
    exact ⟨_, _, tile0, d, p, rfl, rfl, by decide +kernel, rfl, rfl, rfl, h1, h2, h3, h4⟩
  · have e : (match (readPass 0 { chainRun chainF with passes := 2 }).run
        (coreM { CoreSt.init with chains := [{ chainRun chainF with passes := 2 }] }) with
        | (.ok _, _) => true
        | _ => false) = true := by decide +kernel
    split at e
    · next x p h => exact ⟨_, _, x, p, rfl, rfl, by decide +kernel, by decide, h⟩
    · cases e
  · have e : (match (lastPass 0 (chainRun chainF)).run (coreM { CoreSt.init with chains := [chainRun chainF] }) with
        | (.ok (.wrote 0), _) => true
        | _ => false) = true := by decide +kernel
    split at e
    · next p h => exact ⟨_, chainRun chainF, p, rfl, rfl, by decide +kernel, by decide, h⟩
    · cases e
  · have e : (match (lastPass 0 { chainRun chainF with cmd := { chainCmd chainF with out := 0x0003000000000000#64 } }).run
        { coreM { CoreSt.init with
            chains := [{ chainRun chainF with cmd := { chainCmd chainF with out := 0x0003000000000000#64 } }] } with
          topo := { Topo.init with lens := { t := 4, s := 1, e := 1, p := 1, d := 1 } } } with
        | (.ok (.wrote 1), _) => true
        | _ => false) = true := by decide +kernel
    split at e
    · next p h => exact ⟨_, _, p, rfl, rfl, by decide +kernel, by decide, h⟩
    · cases e

def farAt : Word := 0x0003000000000000#64
def copyCmd (a b : Word) : TeCmd := teCmd (.copy copyF a b 8 0)
def teRun (k : TeCmd) : TeRun := TeRun.fresh k 0 none
def copyM (q : List TeCmd) : Module := { memM with cores := [(0, { CoreSt.init with clk := 30, teQ := q })] }
def runningM (r : TeRun) : Module := { memM with cores := [(0, { CoreSt.init with clk := 30, teRun := [r] })] }
def pushCmd : TeCmd := teCmd (.push 0 carrel 0 0 8)
def rsvCtx : Ctx := { ctxA with rsv := [(0, { Rsv.init with base := 0, lim := 65536 })] }
def parkM : Module := { memM with ctxs := [(0, rsvCtx)], cores := [(0, { CoreSt.init with clk := 30, tePark := [pushCmd] })] }

/-- A local copy, one between two other modules, data written, a parked push with room; a copy that completes. -/
theorem witness_TransferEngineCommands :
    (∃ (m : Module) (k : TeCmd), m.on = true ∧ engHeld (m.core 0) .te = false ∧
      ((m.core 0).teRun.filter fun r => !r.done).length < 16 ∧ (m.core 0).teQ = [k] ∧
      k.work = .copy copyF carrel carrel 8 0 ∧ k.iss.due = none ∧ isLocal m carrel = true) ∧
    (∃ (m : Module) (k : TeCmd), engHeld (m.core 0) .te = false ∧ (m.core 0).teQ = [k] ∧
      k.work = .copy copyF farAt farAt 8 0 ∧ k.iss.due = none ∧ isLocal m farAt = false) ∧
    (∃ (m : Module) (r : TeRun) (p : Module), engHeld (m.core 0) .te = false ∧ (m.core 0).teRun[0]? = some r ∧
      ((m.core 0).teRun.filter fun r => !r.done).length < 16 ∧ r.done = false ∧ r.phase = .local_ ∧
      (teData 0 r).run m = (.ok (), p)) ∧
    (∃ (m : Module) (k : TeCmd) (r : TeRun) (p : Module), engHeld (m.core 0) .te = false ∧
      (m.core 0).tePark[0]? = some k ∧ k.work = .push 0 carrel 0 0 8 ∧
      rsvFull ((m.ctx k.iss.slot).rsvAt 0) 8 = false ∧
      (beginPush k.iss.slot 0 0 carrel 0 0 8 (TeRun.fresh k m.fab.uid none)).run (newUid m).2 = (.ok r, p)) ∧
    (∃ r : TeRun, r.cmd.work = .copy copyF carrel carrel 8 0 ∧ r.expect = 0 ∧ r.tmo = 0) := by
  refine ⟨⟨copyM [copyCmd carrel carrel], copyCmd carrel carrel, by decide +kernel, by decide +kernel, by decide +kernel,
      rfl, rfl, rfl, by decide +kernel⟩,
    ⟨copyM [copyCmd farAt farAt], _, by decide +kernel, rfl, rfl, rfl, by decide +kernel⟩, ?_, ?_,
    ⟨teRun (copyCmd carrel carrel), rfl, rfl, rfl⟩⟩
  · have e : (match (teData 0 (teRun (copyCmd carrel carrel))).run (runningM (teRun (copyCmd carrel carrel))) with
        | (.ok (), _) => true
        | _ => false) = true := by decide +kernel
    split at e
    · next p h => exact ⟨runningM (teRun (copyCmd carrel carrel)), _, p, by decide +kernel, rfl, by decide +kernel, rfl, rfl, h⟩
    · cases e
  · have e : (match (beginPush 0 0 0 carrel 0 0 8 (TeRun.fresh pushCmd parkM.fab.uid none)).run (newUid parkM).2 with
        | (.ok _, _) => true
        | _ => false) = true := by decide +kernel
    split at e
    · next r p h => exact ⟨parkM, pushCmd, r, p, by decide +kernel, rfl, rfl, by decide +kernel, h⟩
    · cases e

theorem witness_EngineCommandCompletes : ∃ (i : Iss) (m : Module), i.due = none ∧ (m.ctx i.slot).gen.toNat = i.gen ∧
    (m.ctx i.slot).state ≠ .teardown := ⟨iss0, runM, by decide +kernel⟩

/-! Witnesses: the fabric -/

def collH : CollH :=
  { n1 := 0, first := 0, group := 0, cser := 0, ckind := 0, cop := 0, fmt := 5, shidx := 0, contrib := 1, shfirst := 0,
    shcount := 1 }
/-- A transaction of 8 bytes for main memory of this module. -/
def txn (k : TxKind) : Txn :=
  { kind := k, vc := 0, job := 7, ttid := 0, dst := 0, src := 3, tag := 0, inc := 0, srcgen := 0, srcslot := 0, tce := false,
    tctr := 0, det := false, addr := 0, fn := 1, cause := .noTarget, half := false, len := 8, payload := List.replicate 8 0,
    bad := [], ev := [], coll := collH, keyOk := true, nonce := 0, keystamp := 0, lib := .none,
    move := default, tagless := none }
def flight (w : Who) (sent : Option Nat) : Flight :=
  { core := 0, slot := 0, gen := 0, who := w, x := { txn .read with dst := 3 }, sent := sent }
def rx0 : Rx := { port := 0, seq := 0, ackseq := 0, crvc := 0, crcnt := 0, good := true, auth := true }
def upPort : Port := { Port.init with st := .up, credit := (upTo 9).map fun v => (v, 8) }
/-- The module with port 0 in some state, and with some fabric state. -/
def portM (p : Port) : Module := { memM with ports := [(0, p)], fabKey := some 1 }
def fabM (f : Fab) : Module := { portM upPort with fab := f }
def out0 : OutTx := { x := { txn .read with dst := 1 }, since := 0, ready := 0, inp := .die 0, own := .fwd }

def lateFlightM : Module :=
  { fabM { Fab.init with flights := [flight (.load 0) (some 0)] } with time := { Time.init with now := 2000000 } }

/-- A tag for the waiting transaction; a port's choice; a time-out before and at 2 ms; held traffic; a remote load. -/
theorem witness_TransactionsLeaveAndTimeOut :
    (∃ (m : Module) (f : Flight), m.on = true ∧ nextWaiting m (canGo m) = some f ∧ (m.ctx f.slot).shadow.role = 0 ∧
      f.x.kind ≠ .coll ∧ ∀ g ∈ m.fab.flights, g.x.tag ≠ 5) ∧
    (∃ (m : Module) (o : OutTx), (m.port 0).oq[0]? = some o ∧ eligible m 0 0 o = true ∧ o.own = .fwd ∧ o.x.ttid = 0) ∧
    (∃ (m : Module) (f : Flight), (m.fab.flights.find? fun f => f.x.tag == 0) = some f ∧ f.sent = some 0 ∧
      m.now < 0 + 2000000) ∧
    (∃ (m : Module) (f : Flight), (m.fab.flights.find? fun f => f.x.tag == 0) = some f ∧ f.sent = some 0 ∧
      0 + 2000000 ≤ m.now ∧ f.who = .load 0 ∧ (m.ctx f.slot).gen.toNat = f.gen ∧ (m.ctx f.slot).state = .running ∧
      ∀ l, (m.thread 0).load = some l → loadParts l = 1) ∧
    (∃ (m : Module) (o : OutTx), (m.port 0).oq = [o] ∧ (m.port 0).st ≠ .up ∧ o.since + 2000000 ≤ m.now ∧ o.own = .fwd) :=
  ⟨⟨fabM { Fab.init with waiting := [flight (.load 0) none], turn := 511 }, flight (.load 0) none, by decide +kernel⟩,
    ⟨portM { upPort with oq := [out0] }, out0, by decide +kernel⟩,
    ⟨fabM { Fab.init with flights := [flight (.load 0) (some 0)] }, flight (.load 0) (some 0), by decide +kernel⟩,
    ⟨lateFlightM, flight (.load 0) (some 0), by decide +kernel, rfl, by decide +kernel, rfl, by decide +kernel, by decide +kernel,
      fun _ h => nomatch h⟩,
    ⟨{ portM { Port.init with oq := [out0] } with time := { Time.init with now := 2000000 } }, out0, by decide +kernel⟩⟩

def group0 : Group := { slot := 0, job := 7, id := 0, members := [0, 1], cser := 0 }
def rslot0 : RSlot :=
  { job := 7, coll := collH, sums := [0], bad := [false], ev := [], contrib := 0, expect := 2, opened := 0, ttid := 0 }
def collM : Module := { fabM { Fab.init with groups := [group0] } with pds := [(0, { PortDie.init with slots := [rslot0] })] }

def mainAt : Word := 0xFFFF000000000000#64
def main8 : List Nat := (List.range 8).map (65536 + ·)
/-- What the link leaves of a request at an UP port. -/
def gotW (m : Module) : Module := got rx0 (txn .write) m

/-- A request that its link passes on for a live job: a write, a read, an atomic, a contribution; ones that it does not, for no
job, and that fail their check. -/
theorem witness_RequestsAtTheirTarget :
    (∃ m : Module, m.on = true ∧ (m.port 0).st = .up ∧ (m.port 0).rxq = [] ∧ rx0.good = true ∧
      rx0.seq.toNat = (m.port 0).rxSeq ∧ (txn .write).dst = ownNum m ∧ jobCtx m 7 = some 0 ∧ (txn .write).keyOk = true ∧
      (0xFFFF#16 ++ (txn .write).addr : Word) = mainAt ∧ mainAt ≠ noteCall ∧ (txn .write).lib = .none ∧
      cowPages 0 mainAt 8 (gotW m) = [] ∧
      (∃ p, remotePas true 0 .write mainAt 8 (gotW m) = (p, .ok main8) ∧
        writeAct p none none (main8.zip (txn .write).payload) = none) ∧
      (∃ p, remotePas true 0 .read mainAt 8 (got rx0 (txn .read) m) = (p, .ok main8)) ∧
      (∃ p, remotePas true 0 .atomic mainAt 8 (got rx0 (txn .atomic) m) = (p, .ok main8) ∧
        writeAct p none none (atomItems 1 0 0 main8 p) = none) ∧
      toMain main8 = true ∧ (txn .write).bad = [] ∧ (txn .write).half = false) ∧
    (∃ (m : Module), holdingPart (gotW m) (txn .write).src 7 = some 0 ∧ ((gotW m).part 0).depCount = 2 ∧
      65528 + (txn .write).payload.length ≤ 2 / 2 * 65536) ∧
    (∃ m : Module, let g := got rx0 (txn .coll) m
      groupOf g 0 0 = some group0 ∧ (posIn g 0 group0).isSome = true ∧ collH.shidx.toNat < group0.members.length ∧
      collH.contrib ≠ 0 ∧ (txn .coll).det = false ∧ collRun g 0 0 0 = none ∧
      ((g.pd (unitDie g (ownerMod group0 collH))).slots.find? fun r => sameSlot r (txn .coll)) = some rslot0 ∧
      sameShape rslot0.coll collH = true ∧ rslot0.contrib + collH.contrib.toNat < rslot0.expect) ∧
    (∃ m : Module, (m.port 0).st = .up ∧ (m.port 0).rxq = [] ∧ ({ rx0 with good := false } : Rx).good = false ∧
      jobCtx m 8 = none ∧ ({ rx0 with seq := 1 } : Rx).seq.toNat ≠ (m.port 0).rxSeq ∧
      ({ txn .read with keyOk := false } : Txn).keyOk = false) :=
  ⟨⟨portM upPort, by decide +kernel, by decide +kernel, by decide +kernel, rfl, by decide +kernel, by decide +kernel,
    by decide +kernel, rfl, by decide +kernel, by decide +kernel, rfl, by decide +kernel,
    ⟨(remotePas true 0 .write mainAt 8 (gotW (portM upPort))).1, by decide +kernel⟩, pair_of (by decide +kernel),
    ⟨(remotePas true 0 .atomic mainAt 8 (got rx0 (txn .atomic) (portM upPort))).1, by decide +kernel⟩,
    by decide +kernel, rfl, rfl⟩,
   ⟨{ portM upPort with parts := [(0, { Part.init 0 with depmod := (txn .write).src, depjob := 7, depCount := 2 })] },
    by decide +kernel⟩,
   ⟨collM, by decide +kernel⟩, ⟨portM upPort, by decide +kernel⟩⟩

def waitingLoad : LoadWait := { lw with loc := .remote }

/-- Replies for a store and a load, a stray, the acknowledgement of a combined transaction, one that fails its check, and a
transaction for another module. -/
theorem witness_RepliesReachTheirIssuer :
    (∃ (m : Module) (f : Flight), m.on = true ∧ (m.port 0).st = .up ∧ (m.port 0).rxq = [] ∧ rx0.good = true ∧
      rx0.seq.toNat = (m.port 0).rxSeq ∧ (txn .ack).dst = ownNum m ∧ (txn .ack).keyOk = true ∧ (txn .ack).tagless = none ∧
      flightOf m (txn .ack) = some f ∧ issuerLive m f = true ∧ f.who = .store 0) ∧
    (∃ (m : Module) (f : Flight), flightOf m (txn .readdata) = some f ∧ issuerLive m f = true ∧ f.who = .load 0 ∧
      (m.thread 0).load = some waitingLoad ∧ loadParts waitingLoad = 1) ∧
    (∃ m : Module, flightOf m (txn .nack) = none) ∧
    ({ txn .ack with tagless := some (4 + 1) } : Txn).tagless = some (4 + 1) ∧
    ({ txn .ack with keyOk := false } : Txn).keyOk = false ∧
    (∃ m : Module, ({ txn .read with dst := 1 } : Txn).dst ≠ ownNum m ∧ (m.port 0).st = .up) :=
  ⟨⟨fabM { Fab.init with flights := [flight (.store 0) (some 0)] }, flight (.store 0) (some 0), by decide +kernel⟩,
   ⟨{ fabM { Fab.init with flights := [flight (.load 0) (some 0)] } with
        threads := [(0, { threadA with load := some waitingLoad })] }, flight (.load 0) (some 0), by decide +kernel⟩,
   ⟨portM upPort, by decide +kernel⟩, rfl, rfl, ⟨portM upPort, by decide +kernel⟩⟩

def statusB (s : PState) : StatusB :=
  { pstate := s, port := 1, modnum := 3, coord := { t := 3, s := 0, e := 0, p := 0, d := 0 }, inc := 0, stamp := 0 }
def faultB : FaultB := { type := .job, reporter := 1, subject := 7, serial := 3, dstamp := 0 }

/-- The module once it has noted what a STATUS at port 0 says. -/
def noted (b : StatusB) (m : Module) : Module :=
  noteInc b ((gotCtl rx0 m).updPort 0 fun x =>
    { x with peerport := b.port.val, peermod := b.modnum, peerInc := b.inc, peerRun := b.pstate == .run })
def known (m : Module) : Bool :=
  ((gotCtl rx0 m).fab.seen.filter fun e => decide ((gotCtl rx0 m).now < e.2.2 + 100000000)).any fun e =>
    e.1 == faultB.reporter.toNat && e.2.1 == faultB.serial.toNat

/-- Frames in sequence at an UP port: a wrong peer, a training peer, a running peer with and without a detour; a fault known and
a new one; frames out of sequence, damaged or not authenticated; the eighth request, the ones before it, a MISWIRE port. -/
theorem witness_ControlFrames :
    (∃ m : Module, m.on = true ∧ m.boot.lib = true ∧ (m.port 0).st = .up ∧ rx0.good = true ∧
      rx0.seq.toNat = (m.port 0).rxSeq ∧ rx0.auth = true ∧ m.fabKey.isSome = true ∧
      (let b := { statusB .run with port := 2 }
       b.pstate ≠ .training ∧ peerOk (noted b m) 0 b = false) ∧
      (statusB .training).pstate = .training ∧ (statusB .run).pstate ≠ .training ∧
      peerOk (noted (statusB .run) m) 0 (statusB .run) = true ∧ ((noted (statusB .run) m).port 0).detour = false ∧
      known m = true) ∧
    (∃ m : Module, peerOk (noted (statusB .run) m) 0 (statusB .run) = true ∧
      ((noted (statusB .run) m).port 0).detour = true ∧ (noted (statusB .run) m).boot.lib = true ∧ known m = false) ∧
    (∃ r s u : Rx, r.good = false ∧ s.seq.toNat ≠ (portM upPort |>.port 0).rxSeq ∧ u.auth = false ∧ u.good = true) ∧
    (∃ m : Module, (m.port 0).replayAsked = ((m.port 0).rxSeq, 6)) ∧
    (∃ m : Module, (m.port 0).replayAsked = ((m.port 0).rxSeq, 7)) ∧ (∃ m : Module, (m.port 0).st = .miswire) :=
  ⟨⟨fabM { Fab.init with seen := [(1, 3, 0)] }, by decide +kernel⟩,
   ⟨portM { upPort with detour := true }, by decide +kernel⟩,
   ⟨{ rx0 with good := false }, { rx0 with seq := 1 }, { rx0 with auth := false }, by decide +kernel⟩,
   ⟨portM { upPort with replayAsked := (0, 6) }, by decide +kernel⟩,
   ⟨portM { upPort with replayAsked := (0, 7) }, by decide +kernel⟩,
   ⟨portM { upPort with st := .miswire }, by decide +kernel⟩⟩

def timeM (t : Time) : Module :=
  { portM { upPort with reqSent := some (0, 16) } with
    topo := { memM.topo with parents := [{ port := 0, sameRack := true }] }, time := t }
def heardT : Time := { Time.init with t1 := some 0, t2 := some 8 }
def after (m : Module) : Module := gotCtl rx0 m

/-- The parts of an exchange with parent 0, frames of another port, and an exchange that completes in every state, within the
bound and beyond it. -/
theorem witness_Alignment :
    (∃ (m : Module) (w : Parent), m.on = true ∧ (m.port 0).st = .up ∧ rx0.good = true ∧
      rx0.seq.toNat = (m.port 0).rxSeq ∧ rx0.auth = true ∧ m.fabKey.isSome = true ∧
      m.topo.parents[m.time.parent]? = some w ∧ w.port = rx0.port ∧
      (after m).time.seqid = 0 ∧ (after m).time.t2.isSome = true ∧ (after m).time.t1 = some 0 ∧
      ((after m).port 0).reqSent = some (0, 16) ∧ (after m).time.t5 = none) ∧
    (∃ m : Module, isCandidate m 0 = false ∧ (m.port 0).st = .up) ∧ (∃ m : Module, (after m).time.seqid ≠ 0) ∧
    (∃ m : Module, (after m).time.t4 = some 0 ∧ (after m).time.t6 = some 8 ∧ (after m).time.t1 = some 0) ∧
    (∃ m : Module, m.time.align = .unaligned) ∧ (∃ m : Module, m.time.align = .coarse ∧ 15 ≤ m.time.run) ∧
    (∃ m : Module, m.time.align = .holdover ∧ m.time.run < 15) ∧
    (∃ (m : Module) (w : Parent), m.time.align = .aligned ∧ m.topo.parents[m.time.parent]? = some w ∧ w.sameRack = true) ∧
    (16 : Int).natAbs ≤ 16 ∧ 16 < (-17 : Int).natAbs :=
  ⟨⟨timeM heardT, { port := 0, sameRack := true }, by decide +kernel⟩, ⟨portM upPort, by decide +kernel⟩,
   ⟨timeM { heardT with seqid := 1 }, by decide +kernel⟩,
   ⟨timeM { heardT with t4 := some 0, t6 := some 8 }, by decide +kernel⟩, ⟨runM, rfl⟩,
   ⟨timeM { heardT with align := .coarse, run := 15 }, rfl, by decide⟩,
   ⟨timeM { heardT with align := .holdover, run := 14 }, rfl, by decide⟩,
   ⟨timeM { heardT with align := .aligned }, { port := 0, sameRack := true }, rfl, rfl, rfl⟩, by decide, by decide⟩

def timedPort (p : Port) (now : Nat) : Module := { portM p with time := { Time.init with now := now } }
def comb0 : Comb := { id := 4, x := txn .coll, sent := some 1 }
def unitM (now : Nat) : Module :=
  { timedPort upPort now with pds := [(0, { PortDie.init with slots := [rslot0], combs := [comb0] })] }
/-- A STATUS is due at port 0. -/
def statusDue (m : Module) : Bool :=
  (m.port 0).statusAt == 0 || decide ((m.port 0).statusAt + 1000 ≤ m.now + 1) ||
    (decide (m.now % 16000 < 128) && decide ((m.port 0).statusAt ≤ m.now - m.now % 16000))

/-- Silence of 499 ns and of 500; a port in each state, its STATUS and FENCED frames due and not; a detour of an idle port and of
one that holds traffic; a reduction slot and a combined transaction before and at 2 ms. -/
theorem witness_LinkAndReductionTimeouts :
    (∃ m : Module, m.on = true ∧ (m.port 0).st = .up ∧ m.now < (m.port 0).lastRx + 500 ∧ statusDue m = false) ∧
    (∃ m : Module, (m.port 0).st = .up ∧ (m.port 0).lastRx + 500 ≤ m.now ∧ (m.port 0).lastTx + 250 ≤ m.now ∧
      (15 : BitVec 4).toNat < 16 ∧ statusDue m = true) ∧
    (∃ m : Module, (m.port 0).st = .miswire ∧ statusDue m = true) ∧
    (∃ m : Module, m.boot.lib = true ∧ (m.port 0).st = .down ∧ axisGet m.topo.lens (0 / 2) ≠ 1 ∧
      (m.port 0).detour = false ∧ (m.port 0).oq = []) ∧
    (∃ m : Module, (m.port 0).st = .peerFenced ∧ (m.port 0).detour = false ∧ (m.port 0).oq = [out0]) ∧
    (∃ m : Module, (m.port 0).st = .training ∧ (m.port 0).lanesUp = false ∧
      (∀ k : Nat, k < 16 → (0 : BitVec 16).getLsbD k = false) ∧ (∃ k : Nat, k < 16 ∧ (0x8000#16).getLsbD k = true)) ∧
    (∃ m : Module, (m.port 0).st = .training ∧ (m.port 0).lanesUp = true ∧ statusDue m = true) ∧
    (∃ m : Module, (m.port 0).st = .fencing ∧ (m.port 0).lastTx + 1000 ≤ m.now ∧ 2 ≤ Sparse.get 0 (m.port 0).credit 6) ∧
    (∃ m : Module, (m.port 0).st = .fencing ∧ ¬((m.port 0).lastTx < m.lease.fencedAt ∨ (m.port 0).lastTx + 1000 ≤ m.now)) ∧
    (∃ m : Module, (m.pd 0).slots[0]? = some rslot0 ∧ m.now < rslot0.opened + 2000000 ∧ (m.pd 0).combs[0]? = some comb0 ∧
      comb0.sent = some 1 ∧ m.now < 1 + 2000000) ∧
    (∃ m : Module, (m.pd 0).slots[0]? = some rslot0 ∧ rslot0.opened + 2000000 ≤ m.now ∧ (m.pd 0).combs[0]? = some comb0 ∧
      1 + 2000000 ≤ m.now) :=
  ⟨⟨timedPort { upPort with statusAt := 1 } 499, by decide +kernel⟩, ⟨timedPort upPort 500, by decide +kernel⟩,
   ⟨portM { upPort with st := .miswire }, by decide +kernel⟩, ⟨portM Port.init, by decide +kernel⟩,
   ⟨portM { Port.init with st := .peerFenced, oq := [out0] }, by decide +kernel⟩,
   ⟨portM { Port.init with st := .training }, by decide +kernel, by decide +kernel, by decide +kernel, 15, by decide⟩,
   ⟨portM { Port.init with st := .training, lanesUp := true }, by decide +kernel⟩,
   ⟨timedPort { upPort with st := .fencing } 1000, by decide +kernel⟩,
   ⟨timedPort { upPort with st := .fencing } 999, by decide +kernel⟩, ⟨unitM 1999999, by decide +kernel⟩,
   ⟨unitM 2000001, by decide +kernel⟩⟩

def ttM (b : Bool) : Module :=
  { portM upPort with
    time := { Time.init with now := 127, align := .aligned },
    tt := { Tt.init with pend := some (true, 1), maps := if b then [(0, (true, 7, 0))] else [] } }

/-- A SYNC due and not due; silence at the bound; a parent to retry; the tray's messages; a switch recorded, cancelled,
refused, due and not due. -/
theorem witness_StampAndTimetable :
    (∃ m : Module, m.on = true ∧ m.boot.lib = true ∧ (m.port 0).st = .up ∧ (m.port 0).syncFrame = 0 ∧
      m.topo.timekeeper = true ∧ m.boot.spdm = true ∧ m.time.align = .unaligned) ∧
    (∃ m : Module, (m.port 0).st = .up ∧
      ¬((m.port 0).syncFrame = 0 ∨ (m.port 0).syncFrame + 64 ≤ m.now / 16000 + 1)) ∧
    (∃ m : Module, m.time.align = .aligned ∧ m.topo.timekeeper = false ∧ m.time.lastHeard + 8 * 1024000 ≤ m.now) ∧
    (∃ m : Module, m.time.align = .holdover ∧ m.topo.parents ≠ []) ∧ Topo.init.wf = true ∧
    (∃ m : Module, hostUp m 0 = true ∧ catOn m 2 = true ∧ false = m.tt.live ∧ m.tt.pend.isSome = true ∧
      bankFault m true = none ∧ true ≠ m.tt.live ∧ m.now + 32000 ≤ (3 : BitVec 48).toNat * 16000 ∧
      m.tt.pend = some (true, 1) ∧ m.now < 1 * 16000) ∧
    (∃ (m : Module) (c n : Nat), (false ≠ m.tt.live ∨ m.tt.pend = none) ∧ bankFault m false = some (c, n)) ∧
    (∃ m : Module, m.tt.pend = some (true, 0) ∧ 0 * 16000 ≤ m.now) ∧
    (∃ m : Module, m.boot.perstN = true ∧ hostUp m 8 = true) :=
  ⟨⟨{ portM upPort with topo := { memM.topo with timekeeper := true }, time := { Time.init with now := 127 } },
     by decide +kernel⟩,
   ⟨timedPort { upPort with syncFrame := 1 } 1023999, by decide +kernel⟩,
   ⟨timeM { Time.init with align := .aligned, now := 8192000 }, by decide +kernel⟩,
   ⟨timeM { Time.init with align := .holdover }, by decide +kernel⟩, by decide +kernel,
   ⟨ttM false, by decide +kernel⟩,
   ⟨{ ttM true with tt := { (ttM true).tt with live := true } }, 2, 0, by decide +kernel⟩,
   ⟨{ ttM false with tt := { Tt.init with pend := some (true, 0) } }, by decide +kernel⟩,
   ⟨{ libM with boot := { libM.boot with numvfs := 8 } }, by decide +kernel⟩⟩

def pmM (p : Pm) (now : Nat) : Module := { libM with pm := p, time := { Time.init with now := now } }

/-- A decision too early and one due, above the cap, between 95 % and the cap, and below; a hot die and one that has cooled; a
clock that changes; each temperature limit from below and not reached. -/
theorem witness_PowerAndTemperature :
    (∃ m : Module, m.on = true ∧ m.boot.lib = true ∧ m.now < m.pm.lastDec + 100000) ∧
    (∃ m : Module, m.pm.lastDec + 100000 ≤ m.now ∧ 1000 * m.pm.cap < avgPower m) ∧
    (∃ m : Module, m.pm.lastDec + 100000 ≤ m.now ∧ avgPower m ≤ 1000 * m.pm.cap ∧
      95 * (1000 * m.pm.cap) ≤ 100 * avgPower m) ∧
    (∃ m : Module, m.pm.lastDec + 100000 ≤ m.now ∧ 100 * avgPower m < 95 * (1000 * m.pm.cap) ∧
      100 ≤ Sparse.get 0 m.pm.tDie (0 / 64) ∧ 10 ≤ (m.core 0).tempClk ∧
      Sparse.get 0 m.pm.tDie (511 / 64) < 100 ∧ (m.core 511).tempClk ≤ 40) ∧
    (∃ m : Module, (m.core 0).clkNext = some (30, 5)) ∧
    (∃ m : Module, hostUp m 0 = true ∧ catOn m 15 = true ∧ (8191 : Word).toNat < 2 ^ 13 ∧
      Sparse.get 0 m.pm.tDie 7 < 100 ∧ m.pm.tLpddr < 85) ∧ ((99 : Nat) < 100 ∧ 100 ≤ (100 : Nat) ∧ 85 ≤ (85 : Nat)) ∧
    (∃ m : Module, 85 ≤ m.pm.tLpddr ∧ m.pm.tPort < 100 ∧ 75 ≤ m.pm.tOptical) :=
  ⟨⟨pmM Pm.init 99999, by decide +kernel⟩,
   ⟨pmM { Pm.init with samples := [(0, 6000001)] } 100000, by decide +kernel⟩,
   ⟨pmM { Pm.init with samples := [(0, 5700000)] } 100000, by decide +kernel⟩,
   ⟨pmM { Pm.init with samples := [(0, 5699999)], tDie := [(0, 100)] } 100000, by decide +kernel⟩,
   ⟨{ libM with cores := [(0, { CoreSt.init with clkNext := some (30, 5) })] }, by decide +kernel⟩,
   ⟨pmM { Pm.init with tDie := [(7, 99)], tLpddr := 84 } 0, by decide +kernel⟩, by decide,
   ⟨pmM { Pm.init with tLpddr := 85, tOptical := 75 } 0, by decide +kernel⟩⟩

def ovdM (o : Ovd) (now : Nat) : Module :=
  { withCtx { ctxA with ovd := o } with time := { Time.init with now := now } }

/-- A check not due, one in time, one at the end of the window, one with a watched stamp past its grace, one within. -/
theorem witness_OverdueMonitor :
    (∃ m : Module, m.on = true ∧ (m.ctx 0).state = .running ∧ m.now < (m.ctx 0).ovd.nextCheck) ∧
    (∃ m : Module, (m.ctx 0).state = .running ∧ (m.ctx 0).ovd.nextCheck ≤ m.now ∧ (m.ctx 0).held = false ∧
      (∀ w ∈ (m.ctx 0).ovd.work, m.now ≤ w.d + (m.ctx 0).ovd.grace * 1000) ∧ (m.ctx 0).ovd.work ≠ [] ∧
      m.now < (m.ctx 0).ovd.lastProgress + (m.ctx 0).ovd.win * 1000000) ∧
    (∃ m : Module, (m.ctx 0).state = .running ∧ (m.ctx 0).ovd.nextCheck ≤ m.now ∧ (m.ctx 0).held = false ∧
      (∀ w ∈ (m.ctx 0).ovd.work, m.now ≤ w.d + (m.ctx 0).ovd.grace * 1000) ∧
      (m.ctx 0).ovd.lastProgress + (m.ctx 0).ovd.win * 1000000 ≤ m.now ∧ (m.ctx 0).fault.cause = .none) ∧
    (∃ (m : Module) (w : DueWork), (m.ctx 0).held = false ∧ (m.ctx 0).ovd.nextCheck ≤ m.now ∧ (m.ctx 0).ovd.work = [w] ∧
      w.d + (m.ctx 0).ovd.grace * 1000 < m.now ∧ (m.ctx 0).fault.cause = .none) ∧
    (∃ m : Module, m.boot.lib = true ∧ hostUp m 8 = true ∧ (m.ctx 0).state ≠ .free ∧ ownsSlot m 8 0 = true ∧
      (0xFFFF : Word).toNat < 2 ^ 16) :=
  ⟨⟨ovdM { ctxA.ovd with nextCheck := 1 } 0, by decide +kernel⟩,
   ⟨ovdM { ctxA.ovd with work := [{ d := 1, at_ := 0, t := 0 }] } 199999999, by decide +kernel⟩,
   ⟨ovdM ctxA.ovd 200000000, by decide +kernel⟩,
   ⟨ovdM { ctxA.ovd with work := [{ d := 1, at_ := 0, t := 0 }] } 200000002, { d := 1, at_ := 0, t := 0 }, by decide +kernel⟩,
   ⟨{ runM with boot := { libM.boot with numvfs := 8 }, parts := [(0, Part.init 8)] }, by decide +kernel⟩⟩

/-- The creation area of partition 0 with a request for core 0. -/
def area0 : Area := { Area.init with r := { CtxRegs.zero with cores := 1, csSize := 1, job := 7 } }
def createM : Module :=
  { libM with
    boot := { libM.boot with renewed := true }, time := { Time.init with everAligned := true },
    parts := [(0, { Part.init 0 with st := .open_, area := area0 })] }

/-- No slot free; a failing check; and, for whatever key the tag of the wrapped key gives, a creation that passes. -/
theorem witness_ContextCreation :
    (∃ m : Module, m.on = true ∧ m.boot.lib = true ∧ hostUp m 0 = true ∧ isBound m 0 0 = true ∧
      (m.part 0).area.st ≠ .pending ∧ ∀ i : Nat, i < 64 → (m.ctx i).state ≠ .free) ∧
    (∃ m : Module, (m.ctx 63).state = .free ∧ createCheck m 0 (m.part 0).area = some 3) ∧
    (∃ m : Module, (m.part 0).area.st = .pending) ∧
    (∀ k, unwrapKey createM 0 area0 = some k → (createM.ctx 63).state = .free ∧ (createM.part 0).area.st ≠ .pending ∧
      createCheck createM 0 (createM.part 0).area = none) := by
  refine ⟨⟨{ libM with ctxs := (upTo 64).map fun i => (i, ctxA) }, by decide +kernel⟩,
    ⟨{ createM with parts := [] }, by decide +kernel⟩,
    ⟨{ libM with parts := [(0, { Part.init 0 with area := { area0 with st := .pending } })] }, by decide +kernel⟩, ?_⟩
  intro k hk
  refine ⟨by decide +kernel, by decide +kernel, ?_⟩
  have h : (createM.part 0).area = area0 := by decide +kernel
  have h1 : coresOf area0.r.cores = [0] := by decide +kernel
  simp only [createCheck, h, hk]
  rw [if_neg (by decide +kernel), if_neg (by decide +kernel), if_neg (by decide +kernel), if_neg (by decide +kernel),
    if_neg (by decide +kernel), if_neg (by decide +kernel), if_neg (by decide +kernel), if_neg (by decide +kernel),
    if_neg (by decide +kernel), if_neg (by decide +kernel)]
  exact if_neg (by simp [createM, libM, Module.reset, Att.init, Config.fingerprintMax])

def tearM : Module := withCtx { ctxA with state := .teardown }

/-- A context in each state, START with and without threads; a teardown that may complete and one that may not. -/
theorem witness_ContextCommands :
    (∃ m : Module, m.on = true ∧ m.boot.lib = true ∧ hostUp m 0 = true ∧ isBound m 0 (m.ctx 0).part = true ∧
      (m.ctx 0).state = .created ∧ (m.ctx 0).r.startmask = 0 ∧ anyRunning m 0 = false ∧ anyFlight m 0 = false ∧
      (∀ e ∈ m.cores, (m.ctx 0).r.cores.getLsbD e.1 = true → coreWork e.2 = false)) ∧
    (∃ m : Module, (m.ctx 0).state = .idle ∧ (m.ctx 0).r.cores.getLsbD (255 / 256) = true ∧
      (m.ctx 0).r.startmask.getLsbD (255 % 256) = true) ∧
    (∃ m : Module, (m.ctx 0).state = .running) ∧
    (∃ m : Module, (m.ctx 0).state = .teardown ∧ teardownReady m 0 = true ∧ (m.part 0).st ≠ .closing ∧ m.funs = []) ∧
    (∃ m : Module, (m.ctx 0).state = .teardown ∧ teardownReady m 0 = false) :=
  ⟨⟨{ libM with ctxs := [(0, { ctxA with state := .created })] }, by decide +kernel⟩,
   ⟨{ libM with ctxs := [(0, { ctxA with state := .idle, r := { ctxA.r with startmask := BitVec.ofNat 256 (2 ^ 255) } })] },
     by decide +kernel⟩,
   ⟨runM, by decide +kernel⟩, ⟨tearM, by decide +kernel⟩,
   ⟨{ tearM with fab := { Fab.init with flights := [flight (.load 0) (some 0)] } }, by decide +kernel⟩⟩

def engM (c : CoreSt) (now : Nat) : Module := { coreM c with time := { Time.init with now := now } }
def partM (p : Part) (now : Nat) : Module := { libM with parts := [(0, p)], time := { Time.init with now := now } }

/-- Engines told to stop and engines in reset, before and at their limits, on a core with a live context; partitions in each
phase, before and at 40 ms. -/
theorem witness_EngineAndPartitionResets :
    (∃ m : Module, m.on = true ∧ m.boot.lib = true ∧ hostUp m 0 = true ∧
      (m.core 0).engStop.find? (fun x => x.1 == .te) = some (.te, 0) ∧ m.now < 0 + 1000000 ∧
      ownerOf m 0 = some 0 ∧ (m.ctx 0).fault.cause = .none ∧ (m.ctx 0).state ≠ .free ∧ (m.ctx 0).state ≠ .teardown) ∧
    (∃ m : Module, (m.core 0).engStop.find? (fun x => x.1 == .te) = some (.te, 0) ∧ 0 + 1000000 ≤ m.now) ∧
    (∃ m : Module, (Engine.me, 0) ∈ (m.core 0).engRst ∧ (m.core 0).engRst.find? (fun x => x.1 == .me) = some (.me, 0) ∧
      m.now < 0 + 5000000) ∧
    (∃ m : Module, (m.core 0).engRst.find? (fun x => x.1 == .me) = some (.me, 0) ∧ 0 + 5000000 ≤ m.now) ∧
    (∃ m : Module, isPart m 0 = true ∧ (m.part 0).rst = 0 ∧ hostUp m 0 = true) ∧
    (∃ m : Module, (m.part 0).st ≠ .closing ∧ (m.part 0).closeRec = none ∧ m.funs = [] ∧ (m.part 0).rst = 1 ∧
      m.fab = Fab.init ∧ (m.part 0).rstAt + 40000000 ≤ m.now) ∧
    (∃ m : Module, (m.part 0).rst = 3 ∧ m.now < (m.part 0).rstAt + 40000000) :=
  ⟨⟨engM { CoreSt.init with engStop := [(.te, 0)] } 999999, by decide +kernel⟩,
   ⟨engM { CoreSt.init with engStop := [(.te, 0)] } 1000000, by decide +kernel⟩,
   ⟨engM { CoreSt.init with engRst := [(.me, 0)] } 4999999, by decide +kernel⟩,
   ⟨engM { CoreSt.init with engRst := [(.me, 0)] } 5000000, by decide +kernel⟩, ⟨libM, by decide +kernel⟩,
   ⟨partM { Part.init 0 with rst := 1 } 40000000, by decide +kernel⟩,
   ⟨partM { Part.init 0 with rst := 3 } 39999999, by decide +kernel⟩⟩

def bootM (b : Boot) : Module := { libM with boot := b }

/-- A running module; one held in reset with each pin back. -/
theorem witness_ModuleResets :
    (∃ m : Module, m.on = true ∧ m.boot.lib = true ∧ hostUp m 0 = true ∧ m.boot.rails = true) ∧
    (∃ m : Module, m.boot.rails = true ∧ m.boot.inReset = true ∧ m.boot.store = [] ∧ m.boot.refclk = true ∧
      m.boot.rstN = true) :=
  ⟨⟨libM, by decide +kernel⟩, ⟨bootM { Boot.init with inReset := true }, by decide +kernel⟩⟩

theorem witness_PowerEntry :
    (∃ s : State, s.mod.boot.rails = false ∧ s.meter.powered = true) ∧ (∃ s : State, s.mod.boot.rails = true) :=
  ⟨⟨at_ (bootM { Boot.init with rails := false }), by decide⟩, ⟨at_ libM, by decide⟩⟩

def vfM : Module :=
  { runM with boot := { libM.boot with numvfs := 8 }, parts := [(0, Part.init 8)], layout := 0,
              time := { Time.init with now := 90000000 } }
def flrM (now : Nat) : Module :=
  { vfM with funs := [(8, { Func.init with flr := some 0 })], time := { Time.init with now := now } }

/-- A function with and without contexts, one that does not exist, one being reset, a link in reset; the back-stop before and
at 90 ms; virtual functions on and off; a function 0 without and with an FLR when PERST# falls. -/
theorem witness_FunctionResets :
    (∃ m : Module, m.on = true ∧ m.boot.perstN = true ∧ hasFn m 8 = true ∧ (m.func 8).flr = none ∧
      (∃ p ∈ flrParts m 8, hasCtx m p = true) ∧ m.boot.numvfs ≠ 0 ∧ (m.func 0).flr = none ∧
      drainingSince m 8 = none) ∧
    (∃ m : Module, hasFn m 0 = true ∧ (m.func 0).flr = none ∧ (∀ p ∈ flrParts m 0, hasCtx m p = false) ∧
      m.boot.lib = true ∧ m.boot.ready = true ∧ catOn m 1 = true ∧ (8 : BitVec 4).toNat ≤ 8 ∧ m.boot.numvfs = 0 ∧
      hasFn m 1 = false ∧ 8 < (9 : BitVec 4).toNat) ∧
    (∃ m : Module, catOn m 1 = false ∧ m.boot.ready = true) ∧
    (∃ m : Module, drainingSince m 8 = some 0 ∧ (m.func 8).flr.isSome = true ∧ m.now < 0 + 90000000) ∧
    (∃ m : Module, drainingSince m 8 = some 0 ∧ 0 + 90000000 ≤ m.now ∧
      ∃ p ∈ flrParts m 8, hasCtx m p = true ∧ (m.part p).rst = 0) ∧
    (∃ u : State, u.mod.boot.perstN = false) ∧ (∃ u : State, u.mod.on = false) :=
  ⟨⟨vfM, by decide +kernel⟩, ⟨libM, by decide +kernel⟩, ⟨{ libM with cat := Cat.init }, by decide +kernel⟩,
   ⟨flrM 89999999, by decide +kernel⟩, ⟨flrM 90000000, by decide +kernel⟩,
   ⟨at_ (bootM { Boot.init with perstN := false }), rfl⟩, ⟨at_ (bootM { Boot.init with rails := false }), by decide⟩⟩

def leaseM (l : Lease) (now : Nat) : Module :=
  { libM with lease := l, time := { Time.init with now := now }, fab := { Fab.init with groups := [group0] } }
def lease0 : Lease := { Lease.init with inc := 1 }

/-- A renewal due, one sent, a lease that expires, a notice before and at 300 ms. -/
theorem witness_LeaseAndPeers :
    (∃ m : Module, m.on = true ∧ m.boot.lib = true ∧ m.boot.spdm = true ∧ m.lease.st ≠ .fenced ∧ m.lease.seq ≠ 0 ∧
      m.lease.last + 50000000 ≤ m.now ∧ m.lease.sent.find? (fun e => e.1 == 1) = some (1, 0)) ∧
    (∃ m : Module, m.lease.st = .held ∧ m.lease.s + 150000000 ≤ m.now) ∧
    (∃ m : Module, (∃ g ∈ m.fab.groups, 1 ∈ g.members) ∧ m.lease.notices = [(1, 5, 0)] ∧ m.now < 0 + 300000000) ∧
    (∃ m : Module, (∃ g ∈ m.fab.groups, 1 ∈ g.members) ∧ m.lease.notices = [(1, 5, 0)] ∧ 0 + 300000000 ≤ m.now ∧
      (1, 5) ∉ m.lease.dead) :=
  ⟨⟨leaseM { lease0 with seq := 1, sent := [(1, 0)] } 50000000, by decide +kernel⟩,
   ⟨leaseM { lease0 with st := .held } 150000000, by decide +kernel⟩,
   ⟨leaseM { lease0 with notices := [(1, 5, 0)] } 299999999, by decide +kernel⟩,
   ⟨leaseM { lease0 with notices := [(1, 5, 0)] } 300000000, by decide +kernel⟩⟩

def loan0 (o : Bool) : LoanRec :=
  { isOpen := o, cause := 0, part := 0, dies := 1, role := 0, secure := false, loanid := 9, tenant := 3, stamp := 0,
    modnum := 0, feedid := 0, inc := 1, idpub := 0, xpub := 0, attdig := 0, libsig := 0 }
def cosigned0 (o : Bool) : Cosigned :=
  { lr := loan0 o, mtime := 0, mseq := 1, energy := 0, duration := 0, rep := false, tampered := false, unsynced := false,
    suspended := false, notopen := false, msig := 0 }
/-- One die a partition, with partition 0 in some state. -/
def loanM (p : Part) (now : Nat) : Module := { partM p now with layout := BitVec.ofNat 24 0xFAC688 }
def opening0 : Part := { Part.init 0 with st := .opening, openRec := some (loan0 true) }

/-- A closed partition; each answer of the meter; silence before and at 100 ms. -/
theorem witness_LoanOpening :
    (∃ m : Module, m.on = true ∧ m.boot.lib = true ∧ isPart m 0 = true ∧ hostUp m 0 = true ∧ m.boot.ready = true ∧
      m.boot.identity = true ∧ (m.part 0).st = .closed) ∧
    (∃ s : State, s.fromMeter = [.cosigned (cosigned0 true)] ∧ (cosigned0 true).lr.isOpen = true ∧
      openingOf s.mod (cosigned0 true).lr = some 0 ∧ s.mod.lease.st ≠ .fenced ∧ (s.mod.part 0).closeReq = false ∧
      ∀ k : Nat, (s.mod.part k).closeRec = none) ∧
    (∃ s : State, s.fromMeter = [.refused (loan0 true) 4] ∧ openingOf s.mod (loan0 true) = some 0) ∧
    (∃ m : Module, (m.part 0).openRec = some (loan0 true) ∧ (m.part 0).st = .opening ∧
      m.now < (m.part 0).openAt + 100000000) ∧
    (∃ m : Module, (m.part 0).openRec = some (loan0 true) ∧ (m.part 0).st = .opening ∧
      (m.part 0).openAt + 100000000 ≤ m.now) := by
  refine ⟨⟨libM, by decide +kernel⟩,
   ⟨{ at_ (loanM opening0 0) with fromMeter := [.cosigned (cosigned0 true)] }, rfl, rfl, by decide +kernel,
     by decide +kernel, by decide +kernel, ?_⟩,
   ⟨{ at_ (loanM opening0 0) with fromMeter := [.refused (loan0 true) 4] }, by decide +kernel⟩,
   ⟨loanM opening0 99999999, by decide +kernel⟩, ⟨loanM opening0 100000000, by decide +kernel⟩⟩
  intro k
  rcases Nat.eq_zero_or_pos k with h | h
  · subst h; decide +kernel
  · simp [Module.part, at_, loanM, partM, Sparse.get, Nat.ne_of_gt h, Part.init]

def closing0 : Part :=
  { Part.init 0 with st := .closing, closeRec := some (loan0 false), closeSent := 1, closeLogged := 0 }

/-- An open loan; its co-signed close; the resend and the delay at their times; the list after a restart; a layout and a
binding. -/
theorem witness_LoanClosing :
    (∃ m : Module, m.on = true ∧ m.boot.lib = true ∧ isPart m 0 = true ∧ hostUp m 0 = true ∧ (m.part 0).st = .open_) ∧
    (∃ s : State, s.fromMeter = [.cosigned (cosigned0 false)] ∧ (cosigned0 false).lr.isOpen = false ∧
      (cosigned0 false).lr.part = 0 ∧ (s.mod.part 0).closeRec = some (loan0 false) ∧
      (loan0 false).loanid = (cosigned0 false).lr.loanid ∧ (s.mod.part 0).st = .closing) ∧
    (∃ m : Module, (m.part 0).closeRec = some (loan0 false) ∧ (m.part 0).closeSent ≠ 0 ∧
      (m.part 0).closeSent + 100000000 ≤ m.now + 1 ∧
      (m.part 0).closeAt + ((m.part 0).closeLogged + 1) * 1000000000 ≤ m.now) ∧
    (∃ s : State, s.mod.boot.restartClose = true ∧ s.fromMeter = [] ∧ .list ∉ s.toMeter) ∧
    (∃ s : State, s.mod.boot.restartClose = true ∧ s.fromMeter = [.list [cosigned0 true]]) ∧
    (∃ m : Module, layoutOk 0xFAC688#24 = true ∧
      ∀ k ∈ changedParts m 0xFAC688#24, (m.part k).st = .closed ∧ hasCtx m k = false) :=
  ⟨⟨loanM { Part.init 0 with st := .open_ } 0, by decide +kernel⟩,
   ⟨{ at_ (loanM closing0 0) with fromMeter := [.cosigned (cosigned0 false)] }, by decide +kernel⟩,
   ⟨loanM closing0 1000000000, by decide +kernel⟩,
   ⟨at_ (bootM { libM.boot with restartClose := true }), by decide +kernel⟩,
   ⟨{ at_ (bootM { libM.boot with restartClose := true }) with fromMeter := [.list [cosigned0 true]] }, by decide +kernel⟩,
   ⟨libM, by decide +kernel⟩⟩

/-! Witnesses: the meter -/

def meterS (x : Meter) : State := { State.reset with meter := x }
def mloan0 : MLoan := { co := cosigned0 true, energy := 0, duration := 0, suspended := false }

/-- A meter with room in its event log; with and without loans; before and after its first time; a set within and beyond the
limit; without power; and requests of functions. -/
theorem witness_MeterCommands :
    (∃ x : Meter, x.powered = true ∧ x.events.length = 1023 ∧ x.loans = [] ∧ x.firstSet = false ∧
      ((x.newest.map (·.mtime)).getD 0 ≤ 0)) ∧
    (∃ x : Meter, x.loans ≠ [] ∧ x.firstSet = true ∧ (([] : List (Nat × Nat)).map (·.2)).sum + (1000 - x.mtime) ≤ 1000 ∧
      1000 < (([] : List (Nat × Nat)).map (·.2)).sum + (1001 - x.mtime) ∧ x.sets = []) ∧
    (∃ x : Meter, x.slotA.isSome = true ∧ 4 < (x.newest.map (·.mtime)).getD 0) ∧
    (∃ u : State, u.meter.powered = false) ∧
    (∃ m : Module, m.on = true ∧ m.boot.lib = true ∧ hostUp m 8 = true ∧ seesFn m 8 = true ∧
      (m.func 8).mtrReq = some (2, 7)) ∧
    (∃ m : Module, (m.func 8).mtrReq = some (1, 0)) :=
  ⟨⟨{ Meter.reset with events := List.replicate 1023 .timeSet }, by decide +kernel⟩,
   ⟨{ Meter.reset with loans := [mloan0], firstSet := true }, by decide +kernel⟩,
   ⟨{ Meter.reset with slotA := some (
      { seq := 1, mtime := 5, mseq := 0, total := 0, unattr := 0, loans := [], paired := false, idpub := 0, tampered := false,
        log := [], closed := [], opened := [] } : Commit) }, by decide +kernel⟩,
   ⟨meterS { Meter.reset with powered := false }, rfl⟩,
   ⟨{ vfM with funs := [(8, { Func.init with mtrReq := some (2, 7) })] }, by decide +kernel⟩,
   ⟨{ vfM with funs := [(8, { Func.init with mtrReq := some (1, 0) })] }, by decide +kernel⟩⟩

theorem witness_EnergyIsConserved : ∃ s : State, s.meter.powered = true ∧ s.meter.accDies.length = 8 ∧
    LoansOk s.meter.loans ∧ s.meter.accDies.sum ≤ s.meter.accEntry ∧ s.meter.loans ≠ [] ∧ s.meter.accEntry = 4600 :=
  ⟨meterS { Meter.reset with
      loans := [mloan0], accEntry := 4600, accDies := [520, 510, 512, 512, 512, 512, 512, 510] }, by
    refine ⟨rfl, rfl, ⟨?_, ?_⟩, by decide, by decide, rfl⟩
    · decide
    · exact List.pairwise_singleton _ _⟩

/-- Records that are refused whatever the signature; what takes a record; one that meets eight others. An open record that is
not refused needs a good signature, which the model leaves open. -/
theorem witness_MeterLoanRecords :
    (∃ s : State, s.meter.powered = true ∧ s.meter.queue = [] ∧ s.toMeter = [.record (loan0 true)] ∧
      (loan0 true).isOpen = true ∧ Meter.refuseOpen s.meter (loan0 true) = some 2) ∧
    (∃ s : State, s.meter.queue = [] ∧ s.toMeter = [.record (loan0 false)] ∧ (loan0 false).isOpen = false ∧
      Meter.refuseAny s.meter (loan0 false) = some 2) ∧
    (Config.verify 0 (lrDigest (loan0 true)) 0 = true →
      Meter.refuseOpen { Meter.reset with paired := true, unsynced := false } (loan0 true) = none) ∧
    (Config.verify 0 (lrDigest (loan0 false)) 0 = true →
      Meter.refuseAny { Meter.reset with paired := true, loans := [mloan0] } (loan0 false) = none ∧
      ∃ l ∈ [mloan0], l.co.lr.loanid = (loan0 false).loanid) ∧
    (∃ s : State, s.meter.queue = [] ∧ s.toMeter = [.list]) ∧
    (∃ u : State, u.meter.powered = true ∧ u.meter.queue.length = 8 ∧ u.toMeter = [.record (loan0 true)]) := by
  refine ⟨⟨{ State.reset with toMeter := [.record (loan0 true)] }, by decide +kernel⟩,
    ⟨{ State.reset with toMeter := [.record (loan0 false)] }, by decide +kernel⟩, ?_, ?_,
    ⟨{ State.reset with toMeter := [.list] }, by decide +kernel⟩,
    ⟨{ meterS { Meter.reset with queue := List.replicate 8 (loan0 true) } with toMeter := [.record (loan0 true)] },
      by decide +kernel⟩⟩
  · intro h
    have e : Meter.refuseAny { Meter.reset with paired := true, unsynced := false } (loan0 true) = none := by
      unfold Meter.refuseAny
      rw [if_neg (by decide +kernel), if_neg (by decide +kernel),
        show Config.verify (loan0 true).idpub (lrDigest (loan0 true)) (loan0 true).libsig = true from h]
      rfl
    unfold Meter.refuseOpen
    rw [e]
    decide +kernel
  · intro h
    refine ⟨?_, mloan0, List.mem_singleton.2 rfl, rfl⟩
    unfold Meter.refuseAny
    rw [if_neg (by decide +kernel), if_neg (by decide +kernel),
      show Config.verify (loan0 false).idpub (lrDigest (loan0 false)) (loan0 false).libsig = true from h]
    rfl

theorem witness_TamperedIsPermanent : (∃ s : State, TamperKept s.meter ∧ s.meter.tampered = true ∧
      ∃ t, step s = .next t) ∧
    (∃ s : State, s.meter.powered = true ∧ s.meter.events.length < 1024) ∧
    (∃ (x : Meter) (r : LoanRec), x.tampered = true ∧ (Config.verify 0 (lrDigest r) 0 = true → Meter.refuseAny x r = none) ∧
      ∃ l ∈ x.loans, l.co.lr.loanid = r.loanid) := by
  refine ⟨⟨{ meterS (Meter.commit { Meter.reset with tampered := true }) with pending := [.readId] }, fun _ => rfl, rfl, _, rfl⟩,
    ⟨State.reset, by decide⟩,
    ⟨{ Meter.reset with tampered := true, paired := true, loans := [mloan0] }, loan0 false, rfl, ?_, mloan0,
      List.mem_singleton.2 rfl, rfl⟩⟩
  intro h
  unfold Meter.refuseAny
  rw [if_neg (by decide +kernel), if_neg (by decide +kernel),
    show Config.verify (loan0 false).idpub (lrDigest (loan0 false)) (loan0 false).libsig = true from h]
  rfl

theorem meter_reset_ok : MeterOk Meter.reset :=
  ⟨⟨by decide, List.Pairwise.nil⟩, by decide, by decide, by decide, (fun _ h => nomatch h), (fun _ h => nomatch h)⟩

theorem witness_MeterStaysWithinBounds : ∃ s t : State, MeterOk s.meter ∧ step s = .next t :=
  ⟨{ State.reset with pending := [.readId] }, _, meter_reset_ok, rfl⟩

theorem witness_UnpoweredModuleDoesNothing : ∃ s : State, s.mod.boot.rails = false :=
  ⟨at_ (bootM { Boot.init with rails := false }), rfl⟩

theorem witness_CommandsKeepTheirPlace : ∃ (c : Instr) (s t : State), exec c s = .next t ∧ c ≠ .meterCommit ∧ c = .lapseNotice 1 2 3 :=
  ⟨.lapseNotice 1 2 3, State.reset, _, rfl, by decide, rfl⟩

theorem witness_RegisterInstructionsFrame : (∃ p, fetchCheck 0 4 0 runM = (p, none)) ∧
    (∃ rd r : Reg, rd ≠ 0 ∧ r ≠ rd) ∧ (∃ u : ThreadNo, u ≠ 0) :=
  ⟨pair_of (by decide +kernel), ⟨1, 2, by decide⟩, ⟨1, by decide⟩⟩

/-- A carrel byte; a byte of main memory under a loan, in a granule that is not valid and in one that is; one without a loan. -/
theorem witness_WrittenBytesReadBack :
    (∃ m : Module, isMain (paCarrel 0 0) = false ∧ Sparse.get 0 m.sramErr (paCarrel 0 0 / 8) = 0) ∧
    (∃ m : Module, isMain 65536 = true ∧ dieHasLoan m (dieOfGran (65536 / 256)) = true ∧
      m.sumLost (65536 / 256) = false ∧
      Sparse.get 0 m.sramErr (sumPa (65536 / 256) / 8) = 0 ∧ NatSet.has m.valid (65536 / 256) = false) ∧
    (∃ m : Module, dieHasLoan m (dieOfGran (65536 / 256)) = true ∧ m.sumLost (65536 / 256) = false ∧
      Sparse.get 0 m.sramErr (sumPa (65536 / 256) / 8) = 0 ∧
      NatSet.has m.valid (65536 / 256) = true ∧ NatSet.has m.bad (65536 / 256) = false ∧ errsOf m (65536 / 256) = []) ∧
    (∃ m : Module, dieHasLoan m (dieOfGran (65536 / 256)) = false) :=
  ⟨⟨runM, by decide +kernel⟩, ⟨memM, by decide +kernel⟩, ⟨{ memM with valid := [256] }, by decide +kernel⟩,
   ⟨runM, by decide +kernel⟩⟩

theorem witness_GelgaRoundTrip : ∃ (c : Instr) (w0 w1 : W32), c.wf = true ∧ issuer c = some 5 ∧
    encodeGelga c = some (w0, w1) ∧ c = .addi 5 1 31 (-1) :=
  ⟨.addi 5 1 31 (-1), 0x0417FFFF#32, 0, by decide +kernel, rfl, by decide +kernel, rfl⟩

/-- A powered module on an empty queue with empty receive buffers, and an unpowered one; a stamp that keeps, withholds and adds a
count, and one that waits. -/
theorem witness_EmptyQueueLetsTimePass :
    (∃ s : State, s.pending = [] ∧ s.mod.on = true ∧ ∀ n : Nat, n < 10 → (s.mod.port n).rxq = []) ∧
    (∃ s : State, s.pending = [] ∧ s.mod.on = false) ∧
    (∃ t : Time, t.rate8 = 0 ∧ t.rateAcc.natAbs < 8192000 ∧ t.slew8.natAbs < 8 ∧ t.slewWait = 0) ∧
    (∃ t : Time, t.slewWait = 0 ∧ 16 ≤ t.slew8 ∧ (tickTime t).now ≠ t.now + 1) ∧
    (∃ t : Time, t.slewWait = 0 ∧ t.slew8 ≤ -16 ∧ (tickTime t).now = t.now + 2) ∧ (∃ t : Time, t.slewWait ≠ 0) :=
  ⟨⟨State.reset, by decide +kernel⟩, ⟨at_ (bootM { Boot.init with rails := false }), by decide +kernel⟩,
   ⟨Time.init, by decide +kernel⟩, ⟨{ Time.init with slew8 := 16 }, by decide +kernel⟩,
   ⟨{ Time.init with slew8 := -16 }, by decide +kernel⟩, ⟨{ Time.init with slewWait := 1 }, by decide +kernel⟩⟩

def entry0 (stamp scope : Nat) : Entry :=
  { seq := 65536, stamp := stamp, code := 0x0301, sev := 1, scope := scope, part := 0, src := 0, slot := 0, gen := 0, job := 0,
    data := [1, 2, 3, 4] }
def ledM (p : Part) (e : Entry) : Module := { vfM with parts := [(0, p)], ledger := { head := 65537, entries := [e] } }
def open0 : Part := { Part.init 8 with st := .open_, openedAt := 5 }

/-- An entry at an index of the window: through the physical function, an unbound one, one whose loan is closed, and one whose
loan is open: older than the loan, of another scope, and shown. -/
theorem witness_LedgerWindow :
    (∃ m : Module, hostUp m 0 = true ∧ hostUp m 1 = true ∧ m.boot.lib = true ∧
      m.ledger.entries.find? (fun e => e.seq % 65536 == 0) = some (entry0 5 1) ∧ partOfFn m 1 = none ∧ hostUp m 8 = true ∧
      partOfFn m 8 = some 0 ∧ (m.part 0).st = .open_ ∧ (m.part 0).openedAt ≤ 5 ∧ (entry0 5 1).scope ∈ [1, 2, 3, 5]) ∧
    (∃ m : Module, partOfFn m 8 = some 0 ∧ (m.part 0).st = .closed) ∧
    (∃ m : Module, (m.part 0).st = .open_ ∧ (entry0 4 0).stamp < (m.part 0).openedAt ∧ (entry0 4 0).code / 256 = 3) ∧
    (entry0 5 4).scope ∉ [1, 2, 3, 5] ∧ (entry0 5 4).scope ≠ 0 :=
  ⟨⟨ledM open0 (entry0 5 1), by decide +kernel⟩, ⟨ledM (Part.init 8) (entry0 5 1), by decide +kernel⟩,
   ⟨ledM open0 (entry0 4 0), by decide +kernel⟩, by decide⟩

/-! Witnesses: memory control, the host and the Librarian's services -/

/-- Two wrong symbols of one beat in two channels of granule 256. -/
def lostM : Module := { memM with valid := [256], dramErr := [(256, [(0, 0, 1), (0, 1, 1)])] }
def kvM : Module := { runM with parts := [(0, { Part.init 0 with role := 1 })] }

/-- Two granules of die 0: a page's and one of a hidden frame. -/
def hid : Nat := 4392352 * 256
def hidM : Module := { memM with dramErr := [(hid, [(0, 0, 1), (0, 1, 1)])] }

/-- A stripe with and without a retired channel; granules that are lost, hidden and not; granules that scrub leaves; a context
that owns a frame; a serving loan. -/
theorem witness_MemoryAndBar4 :
    (∃ m : Module, m.on = true ∧ m.boot.lib = true ∧ hostUp m 0 = true ∧ (m.stripe 31).retired = none ∧
      NatSet.has m.valid 0 = false ∧ hiddenGran 0 = false ∧ Sparse.get 0 m.sramErr (sumPa 0 / 8) = 0 ∧
      (9 : BitVec 4).toNat < 10) ∧
    (∃ m : Module, dieHasLoan m 0 = false) ∧
    (∃ m : Module, (m.stripe 31).retired = some 3 ∧ 3 ≠ (9 : BitVec 4).toNat) ∧
    (∃ m : Module, dieHasLoan m (dieOfGran 256) = true ∧ m.sumLost 256 = false ∧
      Sparse.get 0 m.sramErr (sumPa 256 / 8) = 0 ∧ NatSet.has m.valid 256 = true ∧ NatSet.has m.bad 256 = false ∧
      decodeGran (m.stripe (stripeOf 256)).retired (errsOf m 256) = .lost) ∧
    (∃ m : Module, hiddenGran hid = true ∧ NatSet.has m.bad hid = false ∧
      decodeGran (m.stripe (stripeOf hid)).retired (errsOf m hid) = .lost) ∧
    (∃ m : Module, reaches m none = true ∧ seesCtx m none 0 = true ∧ (m.ctx 0).state ≠ .free ∧ catOn m 13 = true ∧
      frameOk m (m.ctx 0).part 4392351 = true) ∧
    (∃ m : Module, hostUp m 0 = true ∧ seesCtx m (some 0) 0 = true ∧ (m.ctx 0).state ≠ .free ∧ catOn m 13 = true ∧
      (m.part (m.ctx 0).part).role = 1 ∧ (0xFFFFFFFFFFF : Word).toNat < 2 ^ 44) :=
  ⟨⟨libM, by decide +kernel⟩, ⟨Module.reset, by decide +kernel⟩,
   ⟨{ libM with stripes := [(31, { Stripe.init with retired := some 3 })] }, by decide +kernel⟩,
   ⟨lostM, by decide +kernel⟩, ⟨hidM, by decide +kernel⟩, ⟨runM, by decide +kernel⟩, ⟨kvM, by decide +kernel⟩⟩

/-- BAR4: a window that maps bytes, marked and not, written apart from and beside another write of their granule; one that
does not map; IDE refused; the image store. -/
theorem witness_Bar4 :
    (∃ m : Module, m.boot.perstN = true ∧ hostUp m 0 = true ∧ ideRefused m 0 false = false ∧
      bar4Bytes m 0 65536 4 = some [65536, 65537, 65538, 65539] ∧
      anyBad (readPas [65536, 65537, 65538, 65539] m).2 = false ∧
      writeAct m none none ([65536, 65537, 65538, 65539].zip [1, 2, 3, 4]) = none) ∧
    (∃ m : Module, bar4Bytes m 0 65536 4 = some [65536, 65537, 65538, 65539] ∧
      (writeAct m none none ([65536, 65537, 65538, 65539].zip [1, 2, 3, 4])).isSome = true) ∧
    (∃ m : Module, bar4Bytes m 0 65536 4 = some [65536, 65537, 65538, 65539] ∧
      anyBad (readPas [65536, 65537, 65538, 65539] m).2 = true) ∧
    (∃ m : Module, bar4Bytes m 0 (4392351 * 65536 + 65535) 2 = none) ∧
    (∃ m : Module, hostUp m 0 = true ∧ ideRefused m 0 false = true) ∧
    (∃ m : Module, m.boot.lib = false ∧ m.boot.st = .window ∧ (2 ^ 26 - 2) + 2 ≤ 2 ^ 26) :=
  ⟨⟨memM, by decide +kernel⟩,
   ⟨{ memM with writes := [{ uid := 0, t := 0, slot := 0, gen := 0, items := [(65536, 1)], bad := false, call := 0 }] }, by decide +kernel⟩,
   ⟨{ memM with valid := [256], bad := [256] }, by decide +kernel⟩,
   ⟨memM, by decide +kernel⟩,
   ⟨{ libM with parts := [(0, { Part.init 0 with st := .open_, secure := true })] }, by decide +kernel⟩,
   ⟨Module.reset, by decide +kernel⟩⟩

def bm0 (f : Bookmark → Bookmark) : Bookmark :=
  f { job := 7, part := 0, step := 5, copies := [], lost := false, mixed := false, rsv := [], tensors := [], sched := Sched.init,
      stepnum := 5, ctrs := [], ptbase := 0, regions := [], dep := none }
def dep0 : DepRun := { b := true, uid := 0, left := 0, body := [], head := [] }
def bmM (x : Ctx) (f : Bookmark → Bookmark) : Module := { withCtx x with bms := [bm0 f] }

/-- Nothing bookmarked yet; a mode that refuses BMTAKE; a restore without a bookmark and of each kind of one. -/
theorem witness_Bookmarks :
    (∃ m : Module, m.on = true ∧ m.boot.lib = true ∧ hostUp m 0 = true ∧ seesCtx m (some 0) 0 = true ∧
      (m.ctx 0).state ≠ .free ∧ catOn m 9 = true ∧ (m.ctx 0).sched.mode = 0 ∧ bmOf m (m.ctx 0).r.job = none ∧
      (m.ctx 0).dep.k = 0) ∧
    (∃ m : Module, seesCtx m (some 0) 0 = true ∧ (m.ctx 0).state ≠ .free ∧ catOn m 9 = true ∧ (m.ctx 0).sched.mode ≠ 0) ∧
    (∃ m : Module, (m.ctx 0).state = .created ∧ bmOf m (m.ctx 0).r.job = none) ∧
    ∃ x : Ctx, x.state = .created ∧ ∀ f ∈ [fun b : Bookmark => { b with ptbase := 1 }, fun b => { b with lost := true },
        fun b => { b with mixed := true }, id],
      ((bmM x f).ctx 0).state = .created ∧ bmOf (bmM x f) ((bmM x f).ctx 0).r.job = some (bm0 f) ∧
      ((bm0 f).ptbase ≠ x.r.ptbase ∨ (bm0 f).lost = true ∨ (bm0 f).mixed = true ∨ (bm0 f).step = (5 : BitVec 32).toNat) ∧
      (bm0 f).step ≠ (6 : BitVec 32).toNat ∧ (bm0 f).regions = [] ∧ (bm0 f).copies = [] :=
  ⟨⟨runM, by decide +kernel⟩, ⟨withCtx { ctxA with sched := { Sched.init with mode := 1 } }, by decide +kernel⟩,
   ⟨withCtx { ctxA with state := .created }, by decide +kernel⟩, { ctxA with state := .created }, rfl, by decide +kernel⟩

/-- A module whose context has a page table of two frames, a pool of n entries in core 0's carrel (the first names frame 9),
and a bookmark; its page 0 waits for a copy. -/
def cowM (n : Nat) : Module :=
  { bmM { ctxA with bm := { ctxA.bm with poolList := carrel, poolCount := n } } id with
    parts := [(0, { Part.init 0 with keyNo := some 1 })], valid := [0],
    mem := [(0, 1), (7, 0x80), (paCarrel 0 0, 9)], cows := [{ slot := 0, vpn := 0 }] }

/-- No page waits; one does, with a frame for its copy and without. -/
theorem witness_CopyDone :
    (∃ m : Module, m.cows[0]? = none) ∧
    (∃ m : Module, m.cows[0]? = some { slot := 0, vpn := 0 } ∧ bmOf m (m.ctx 0).r.job = some (bm0 id) ∧
      (leafOf 0 0 m).isSome = true ∧ (bm0 id).lost = false ∧ (popPool 0 m).2 = none) ∧
    (∃ m : Module, bmOf m (m.ctx 0).r.job = some (bm0 id) ∧ (leafOf 0 0 m).isSome = true ∧ (popPool 0 m).2 = some 9) :=
  ⟨⟨runM, rfl⟩, ⟨cowM 0, by decide +kernel⟩, ⟨cowM 1, by decide +kernel⟩⟩

/-- Frames to hold; a fill refused, one accepted, and one at its end and before it. -/
theorem witness_Fills :
    (∃ m : Module, isBound m 0 0 = true ∧ catOn m 10 = true ∧ (2 : BitVec 28).toNat % 2 = 0 ∧ (3 : BitVec 28).toNat % 2 = 1 ∧
      (∀ j : Nat, j < (2 : BitVec 28).toNat → softFrame (5 + j) = true ∧ partOfDie m (dieOfFrame (5 + j)) = 0)) ∧
    (∃ m : Module, isBound m 0 0 = true ∧ fillCause m 0 7 1 5 ≠ 0 ∧ fillCause m 0 7 2 5 = 0) ∧
    (∃ m : Module, isBound m 0 0 = true ∧ (m.part 0).fillSt = 1 ∧ (m.part 0).fillLeft = 0) ∧
    (∃ m : Module, isBound m 0 0 = true ∧ (m.part 0).fillSt = 1 ∧ (m.part 0).fillLeft ≠ 0) :=
  ⟨⟨libM, by decide +kernel⟩, ⟨libM, by decide +kernel⟩,
   ⟨{ libM with parts := [(0, { Part.init 0 with fillSt := 1 })] }, by decide +kernel⟩,
   ⟨{ libM with parts := [(0, { Part.init 0 with fillSt := 1, fillLeft := 3 })] }, by decide +kernel⟩⟩

/-- A deposit made, one under way, and none; a collation without and with a bookmark; a shadow after eight clean steps and one
after fewer. -/
theorem witness_BookmarksAndDeposits :
    (∃ m : Module, bmOf m 7 = none) ∧
    (∃ (m : Module) (b : Bookmark), bmOf m 7 = some b ∧ jobCtx m 7 = some 0 ∧ b.dep = none ∧ (m.ctx 0).state ≠ .free ∧
      bmOf m (m.ctx 0).r.job = some b) ∧
    (∃ (m : Module) (b : Bookmark), bmOf m 7 = some b ∧ jobCtx m 7 = some 0 ∧ b.dep = some dep0 ∧ dep0.left = 0) ∧
    (∃ (m : Module) (b : Bookmark), bmOf m 7 = some b ∧ jobCtx m 7 = some 0 ∧ b.dep = some { dep0 with left := 1 }) ∧
    (∃ m : Module, (m.ctx 1).state = .free) ∧
    (∃ m : Module, seesCtx m (some 0) 0 = true ∧ (m.ctx 0).state ≠ .free ∧ catOn m 11 = true ∧ 8 ≤ (m.ctx 0).shadow.clean ∧
      (m.ctx 0).shadow.role = 2) ∧
    (∃ m : Module, catOn m 11 = true ∧ (m.ctx 0).shadow.clean < 8 ∧ (m.ctx 0).shadow.role < 4) :=
  ⟨⟨runM, by decide +kernel⟩, ⟨bmM ctxA id, bm0 id, by decide +kernel⟩,
   ⟨bmM ctxA fun b => { b with dep := some dep0 }, bm0 fun b => { b with dep := some dep0 }, by decide +kernel⟩,
   ⟨bmM ctxA fun b => { b with dep := some { dep0 with left := 1 } }, bm0 fun b => { b with dep := some { dep0 with left := 1 } },
    by decide +kernel⟩, ⟨runM, by decide +kernel⟩,
   ⟨withCtx { ctxA with shadow := { ctxA.shadow with clean := 8, role := 2 } }, by decide +kernel⟩, ⟨runM, by decide +kernel⟩⟩

/-- A plan of two OTHER units of stage 0 at offset 4,096 of the carrel. -/
def planCtx (d : Sched) : Ctx :=
  { ctxA with sched := { d with plan := [(0, (carrel + 4096, 2))] } }
def planMod (d : Sched) : Module :=
  { withCtx (planCtx d) with mem := [(paCarrel 0 4103, 0x80), (paCarrel 0 4167, 0x80)] }
def units0 : List Machine.PUnit := parsePlan 2 0 ((upTo 128).map fun k => if k = 7 ∨ k = 71 then 0x80 else 0)
def reportM : Module :=
  { withCtx { ctxA with stepnum := 1, sched := { Sched.init with mode := 1, coordArea := carrel } } with
    fab := { Fab.init with groups := [{ group0 with members := [0] }] } }

def unit0 (i : Nat) : Machine.PUnit := parseUnit i ((upTo 64).map fun k => if k = 7 then 0x80 else 0)
def chooseM : Module := planMod { Sched.init with mode := 2, stages := [(0, { Stage.init with cfg0 := carrel })] }
def unitRunM : Module :=
  planMod { Sched.init with mode := 2, stages := [(0, { Stage.init with running := some (0, 0) })], units := [(0, .running)] }

theorem unit0_facts : (unit0 0).idx = 0 ∧ (unit0 0).stage = 0 ∧ (unit0 0).kind = 2 ∧ (unit0 0).tens = [] ∧
    units0 = [unit0 0, unit0 1] ∧ (unit0 1).idx = 1 ∧ (unit0 0).norm = false ∧ (unit0 1).norm = false := by decide +kernel

/-- Work of an engine that ends well, with what holds of its result. -/
def okAnd {α : Type} (x : Except Stop α × Module) (q : α → Module → Bool) : Bool :=
  match x with
  | (.ok a, p) => q a p
  | (.error _, _) => false

theorem of_okAnd {α : Type} {x : Except Stop α × Module} {q : α → Module → Bool} (h : okAnd x q = true) :
    ∃ a p, x = (.ok a, p) ∧ q a p = true := by
  rcases x with ⟨_ | a, p⟩
  · exact absurd h Bool.false_ne_true
  · exact ⟨a, p, rfl, h⟩

/-- The dispatch of unit 0 is written to the stage's area. -/
def dispatchOk (p : Module) : Except Stop Unit × Module :=
  (writeLocal 0 noCore none (((p.ctx 0).stage 0).cfg0 + BitVec.ofNat 64 (8 * (((p.ctx 0).stage 0).count % 16)))
    ((leBytes 8 (0 * 2 ^ 52)).map fun b => wb b false)).run p

theorem choose_facts : ∃ p r, (planM 0).run chooseM = (.ok units0, p) ∧
    (∀ k : Nat, k < 16 → turns (p.ctx 0) units0 k = none) ∧
    choices (p.ctx 0) units0 0 = [unit0 0] ∧ keeps (p.ctx 0) (unit0 0) = false ∧ dispatchOk p = (.ok (), r) := by
  obtain ⟨l, p, h, e⟩ := of_okAnd (x := (planM 0).run chooseM) (q := fun l p => decide (l = units0 ∧
    (∀ k : Nat, k < 16 → turns (p.ctx 0) units0 k = none) ∧ choices (p.ctx 0) units0 0 = [unit0 0] ∧
    keeps (p.ctx 0) (unit0 0) = false ∧ okAnd (dispatchOk p) (fun _ _ => true) = true)) (by decide +kernel)
  obtain ⟨e1, e2, e3, e4, e5⟩ := of_decide_eq_true e
  obtain ⟨_, r, hr, -⟩ := of_okAnd e5
  exact ⟨p, r, e1 ▸ h, e2, e3, e4, hr⟩

theorem unitRun_facts : ∃ p, (planM 0).run unitRunM = (.ok units0, p) ∧ unitSt (p.ctx 0) (unit0 1) = .waiting := by
  obtain ⟨l, p, h, e⟩ := of_okAnd (x := (planM 0).run unitRunM) (q := fun l p => decide (l = units0 ∧
    unitSt (p.ctx 0) (unit0 1) = .waiting)) (by decide +kernel)
  obtain ⟨e1, e2⟩ := of_decide_eq_true e
  exact ⟨p, e1 ▸ h, e2⟩

theorem report_facts : ∃ bs p, (readLocal 0 noCore none carrel (256 * 1)).run reportM = (.ok bs, p) ∧
    (∀ r ∈ parseReports 1 (bs.map Prod.fst), r.step + 1 = (p.ctx 0).stepnum.toNat) ∧
    stragglers (p.ctx 0) (parseReports 1 (bs.map Prod.fst)) = [] ∧
    chooseVariant (p.ctx 0) (parseReports 1 (bs.map Prod.fst)) = none := by
  obtain ⟨bs, p, h, e⟩ := of_okAnd (x := (readLocal 0 noCore none carrel (256 * 1)).run reportM) (q := fun bs p => decide (
    (∀ r ∈ parseReports 1 (bs.map Prod.fst), r.step + 1 = (p.ctx 0).stepnum.toNat) ∧
    stragglers (p.ctx 0) (parseReports 1 (bs.map Prod.fst)) = [] ∧
    chooseVariant (p.ctx 0) (parseReports 1 (bs.map Prod.fst)) = none)) (by decide +kernel)
  exact ⟨bs, p, h, of_decide_eq_true e⟩

/-- A choice of one unit; no right to dispatch; a unit running beside one that waits; a step start at its stamp; the reports
of a step; a notice known; a notice 2 ms old. -/
theorem witness_Scheduling :
    (∃ m : Module, m.on = true ∧ m.boot.lib = true ∧ mayDispatch (m.ctx 0) = true ∧ ∃ p r, (planM 0).run m = (.ok units0, p) ∧
      (∀ k : Nat, k < 16 → turns (p.ctx 0) units0 k = none) ∧ choices (p.ctx 0) units0 0 = [unit0 0] ∧
      keeps (p.ctx 0) (unit0 0) = false ∧ dispatchOk p = (.ok (), r)) ∧
    (∃ m : Module, mayDispatch (m.ctx 0) = false) ∧
    (∃ m : Module, reaches m none = true ∧ seesCtx m none 0 = true ∧ (m.ctx 0).state ≠ .free ∧
      runningStage (m.ctx 0) 0 = some (0, 0) ∧ ∃ p, (planM 0).run m = (.ok units0, p) ∧ unitSt (p.ctx 0) (unit0 1) = .waiting) ∧
    units0.find? (fun u => u.idx == 0) = some (unit0 0) ∧ (∀ y ∈ units0, y.norm = false) ∧ unit0 1 ∈ units0 ∧
    (∃ m : Module, (m.ctx 0).state = .running ∧ (m.ctx 0).held = true ∧ (m.ctx 0).bm.hold = false ∧
      (m.ctx 0).sched.stept0 + (m.ctx 0).stepnum.toNat * (m.ctx 0).sched.stepper ≤ m.now) ∧
    (∃ m : Module, hostUp m 0 = true ∧ seesCtx m (some 0) 0 = true ∧ (m.ctx 0).state = .created ∧ catOn m 5 = true ∧
      catOn m 6 = true ∧ (2 : BitVec 2) ≠ 3) ∧
    (∃ m : Module, (m.ctx 0).state = .running ∧ (m.ctx 0).sched.mode ≠ 0 ∧
      catOn m 7 = true ∧ (m.ctx 0).sched.coordArea = carrel ∧ isLocal m carrel = true ∧
      (m.ctx 0).sched.evald ≠ (m.ctx 0).stepnum.toNat + 1 ∧ (m.ctx 0).sched.note = none ∧ (m.ctx 0).sched.notices = [] ∧
      (jobMembers m 0).length = 1) ∧
    (∃ m : Module, jobCtx m (m.ctx 0).r.job = some 0) ∧
    (∃ m : Module, (m.ctx 0).sched.notices = [((1 : BitVec 16).toNat, 0)] ∧ (m.ctx 0).sched.note = some (1, 2, 3) ∧
      0 + 2000000 ≤ m.now ∧ m.fab.waiting = [] ∧ m.fab.flights = []) :=
  ⟨⟨chooseM, by decide +kernel, by decide +kernel, by decide +kernel, choose_facts⟩, ⟨runM, by decide +kernel⟩,
   ⟨unitRunM, by decide +kernel, by decide +kernel, by decide +kernel, by decide +kernel, unitRun_facts⟩,
   by decide +kernel, by decide +kernel, by decide +kernel,
   ⟨withCtx { ctxA with bm := { ctxA.bm with auto := true }, sched := { Sched.init with mode := 1 } }, by decide +kernel⟩,
   ⟨withCtx { ctxA with state := .created }, by decide +kernel⟩, ⟨reportM, by decide +kernel⟩, ⟨runM, by decide +kernel⟩,
   ⟨{ withCtx { ctxA with sched := { Sched.init with notices := [(1, 0)], note := some (1, 2, 3) } } with
        time := { Time.init with now := 2000000 } }, by decide +kernel⟩⟩

def tensorM (t : Tensor) : Module := withCtx { ctxA with edtbase := carrel, tensors := [(3, t)] }
def tensor0 : Tensor := { Tensor.unbound with bound := true }

/-- Entries valid and not; a busy tensor; claims to grant and to keep waiting; an edition to publish; an empty Reserve and one
in use. -/
theorem witness_EditionsAndReserves :
    (∃ m : Module, m.on = true ∧ m.boot.lib = true ∧ reaches m none = true ∧ seesCtx m none 0 = true ∧
      (m.ctx 0).state ≠ .free ∧ ((m.ctx 0).tensor 3).busy = false ∧ edValid (edEntry 0 3 m).2 = false ∧
      (m.ctx 0).sched.mode = 0 ∧ ((m.ctx 0).tensor 3).claimable = true ∧ ((m.ctx 0).tensor 3).waiting = [] ∧
      ((m.ctx 0).tensor 3).claimed = false) ∧
    (∃ m : Module, edValid (edEntry 0 3 m).2 = true ∧ ((m.ctx 0).tensor 3).busy = false ∧
      bindingsOf ((edEntry 0 3 m).1.ctx 0) 3 (Tensor.unbound.placed (edEntry 0 3 m).2).stage
        (Tensor.unbound.placed (edEntry 0 3 m).2).layer < 8) ∧
    (∃ m : Module, ((m.ctx 0).tensor 3).busy = true ∧ ((m.ctx 0).tensor 3).claimed = true) ∧
    (∃ m : Module, ((m.ctx 0).tensor 3).waiting = [5] ∧ ((m.ctx 0).tensor 3).claimable = true) ∧
    (∃ m : Module, ((m.ctx 0).tensor 3).waiting = [5] ∧ ((m.ctx 0).tensor 3).claimable = false) ∧
    (∃ m : Module, hostUp m 0 = true ∧ seesCtx m (some 0) 0 = true ∧ ((m.ctx 0).rsvAt 15).dir = [] ∧
      ((m.ctx 0).rsvAt 15).hwm < 2 ^ 44 ∧ (0xFFFFFFFFFFF : Word).toNat < 2 ^ 44) ∧
    (∃ m : Module, ((m.ctx 0).rsvAt 15).dir ≠ []) :=
  ⟨⟨tensorM tensor0, by decide +kernel⟩,
   ⟨{ tensorM tensor0 with mem := [(paCarrel 0 103, 0x80)] }, by decide +kernel⟩,
   ⟨tensorM { tensor0 with claimed := true }, by decide +kernel⟩, ⟨tensorM { tensor0 with waiting := [5] }, by decide +kernel⟩,
   ⟨tensorM { tensor0 with waiting := [5], pin1 := 1 }, by decide +kernel⟩, ⟨runM, by decide +kernel⟩,
   ⟨withCtx { ctxA with rsv := [(15, { Rsv.init with dir := [
      { id := 0, off := 0, size := 64, len := 8, mb := 0, layer := 0, eds := [], live := true, matchable := true, taken := false }] })] },
     by decide +kernel⟩⟩

def gnM (g : Gn) (now : Nat) : Module :=
  { withCtx { ctxA with gn := g, grplist := carrel } with
    fab := { Fab.init with groups := [group0] }, time := { Time.init with now := now } }

def gnOn : Gn := { Gn.init with en := true, area := carrel }
/-- Two update units of which one waits, and the sum of a norm that is not finite about to arrive. -/
def skipM : Module :=
  { planMod { Sched.init with mode := 1, units := [(0, .done)] } with
    ctxs := [(0, { planCtx { Sched.init with mode := 1, units := [(0, .done)] } with
      gn := { gnOn with skip := true, out := carrel + 8192, part := some (0, false, 0), sent := true } })] }

def farM : Module := gnM { gnOn with area := 0xFFFF200000000000#64 } 0

/-- GNGO taken and refused; norms off, formed and denied. -/
theorem witness_GlobalNorm :
    (∃ m : Module, m.on = true ∧ m.boot.lib = true ∧ reaches m none = true ∧ seesCtx m none 0 = true ∧
      (m.ctx 0).state ≠ .free ∧ (m.ctx 0).sched.mode = 0 ∧ (0 : BitVec 32) = (m.ctx 0).stepnum ∧ 1 ≠ (m.ctx 0).stepnum) ∧
    (∃ m : Module, reaches m none = true ∧ seesCtx m none 0 = true ∧ (m.ctx 0).sched.mode ≠ 0) ∧
    (∃ m : Module, (m.ctx 0).gn.en = false) ∧
    (∃ m p : Module, (m.ctx 0).gn.en = true ∧ (m.ctx 0).gn.part = none ∧ (m.ctx 0).gn.done = false ∧
      (gnFormM 0).run m = (.ok (), p)) ∧
    (∃ (m p : Module) (c : Word), (m.ctx 0).gn.en = true ∧ (m.ctx 0).gn.part = none ∧ (m.ctx 0).gn.done = false ∧
      (gnFormM 0).run m = (.error (.deny (some .badSpace) c), p)) := by
  refine ⟨⟨runM, by decide +kernel⟩, ⟨withCtx { ctxA with sched := { Sched.init with mode := 1 } }, by decide +kernel⟩,
    ⟨runM, by decide +kernel⟩, ?_, ⟨farM, farM, 0xFFFF200000000000#64, rfl, rfl, rfl, rfl⟩⟩
  obtain ⟨u, p, h, _⟩ := of_okAnd (x := (gnFormM 0).run (gnM gnOn 0)) (q := fun _ _ => true) (by decide +kernel)
  exact ⟨gnM gnOn 0, p, rfl, rfl, rfl, h⟩

/-- No partial, one to launch, early and due; a sum that skips updates and one that does not. -/
theorem witness_GlobalNormAndGroups :
    (∃ m : Module, (m.ctx 0).gn.part = none ∧
      (let y := (gnArrive 0 0 false m).ctx 0
       (y.gn.skip && y.gn.done && y.gn.nonfinite && y.gn.step == y.stepnum.toNat && y.sched.mode != 0) = false)) ∧
    (∃ m : Module, (m.ctx 0).gn.part = some (0, false, 0) ∧ (m.ctx 0).gn.sent = false ∧ (m.ctx 0).live = true ∧
      groupOf m 0 (m.ctx 0).gn.group = some group0 ∧
      m.islandStamp ((coresOf (m.ctx 0).r.cores).headD 0) < (m.ctx 0).sched.stept0 + 0 * (m.ctx 0).sched.stepper + (m.ctx 0).gn.off) ∧
    (∃ m : Module, (m.ctx 0).gn.part = some (0, false, 0) ∧ groupOf m 0 (m.ctx 0).gn.group = some group0 ∧
      (m.ctx 0).sched.stept0 + 0 * (m.ctx 0).sched.stepper + (m.ctx 0).gn.off ≤ m.islandStamp ((coresOf (m.ctx 0).r.cores).headD 0)) ∧
    (∃ (m p : Module),
      let q := gnArrive 0 0x7F800000 false m
      let y := q.ctx 0
      (y.gn.skip && y.gn.done && y.gn.nonfinite && y.gn.step == y.stepnum.toNat && y.sched.mode != 0) = true ∧
      (planM 0).run q = (.ok units0, p) ∧ isWaiting (p.ctx 0) (unit0 1) = true ∧ (unit0 1).kind = 2) := by
  refine ⟨⟨runM, by decide +kernel⟩, ⟨gnM { Gn.init with part := some (0, false, 0), off := 2 } 0, by decide +kernel,
      by decide +kernel, by decide +kernel, by decide +kernel, Nat.lt_of_le_of_lt (stamp_near _ _).2 (by decide +kernel)⟩,
    ⟨gnM { Gn.init with part := some (0, false, 0), off := 2 } 2, by decide +kernel, by decide +kernel,
      Nat.le_trans (by decide +kernel) (stamp_near _ _).1⟩, ?_⟩
  obtain ⟨l, p, h, e⟩ := of_okAnd (x := (planM 0).run (gnArrive 0 0x7F800000 false skipM))
    (q := fun l p => decide (l = units0 ∧ isWaiting (p.ctx 0) (unit0 1) = true)) (by decide +kernel)
  obtain ⟨e1, e2⟩ := of_decide_eq_true e
  exact ⟨skipM, p, by decide +kernel, e1 ▸ h, e2, by decide +kernel⟩

/-- Room for a member list and none; a list that is read and one that is not local. -/
theorem witness_Groups :
    (∃ (m p : Module) (ms : List (BitVec 16)), hostUp m 0 = true ∧ isBound m 0 (m.ctx 0).part = true ∧ (m.ctx 0).state ≠ .free ∧
      catOn m 3 = true ∧ (m.fab.groups.filter fun g => !(g.slot == 0 && g.id == 0)) = [] ∧
      memberList 0 ((1 : BitVec 15).toNat + 1) m = (p, .ok ms)) ∧
    (∃ m p : Module, memberList 0 ((1 : BitVec 15).toNat + 1) m = (p, .error 2)) ∧
    (∃ m : Module, 256 ≤ (m.fab.groups.filter fun g => !(g.slot == 0 && g.id == 0)).length) :=
  ⟨⟨gnM Gn.init 0, (memberList 0 2 (gnM Gn.init 0)).1, [0, 0], by decide +kernel⟩,
   ⟨withCtx { ctxA with grplist := 0xFFFF200000000000#64 }, withCtx { ctxA with grplist := 0xFFFF200000000000#64 }, rfl⟩,
   ⟨{ runM with fab := { Fab.init with groups := (List.range 256).map fun k => { group0 with slot := 1, id := BitVec.ofNat 12 k } } },
    by decide +kernel⟩⟩

def qe (op : BitVec 8) (slot : BitVec 6) : QEntry :=
  { op := op, slot := slot, ctr := 1, ce := true, hostaddr := 0, call := carrel, len := 8, cmdid := 4 }
def hqM (h : HQ) : Module := { runM with funs := [(0, { Func.init with queues := [(15, h)] })] }
def ring0 : HQ := { HQ.init with en := true, log2 := 4, head := 15 }

/-- A doorbell across the end of the ring; entries of a context that is not the function's, and of one that is; one done; a
queue that is off. -/
theorem witness_HostQueues :
    (∃ m : Module, m.on = true ∧ m.boot.lib = true ∧ hostUp m 0 = true ∧ ideRefused m 0 false = false ∧
      (hq m 0 15).en = true ∧ ((1 : BitVec 32).toNat + 2 ^ (hq m 0 15).log2 - (hq m 0 15).head) % 2 ^ (hq m 0 15).log2 = 2) ∧
    (∃ m : Module, (hq m 0 15).fetched[0]? = some (0, qe 1 9, none) ∧ ownsSlot m 0 9 = false ∧ mayStart (hq m 0 15) 0 = true) ∧
    (∃ m : Module, (hq m 0 15).fetched[0]? = some (0, qe 1 0, none) ∧ ownsSlot m 0 0 = true ∧ (m.ctx 0).live = true ∧
      mayStart (hq m 0 15) 0 = true ∧ (qe 1 0).len.toNat = 8 ∧
      (∃ p, copyBytes 0 .write carrel 8 m = (p, .ok (bytesAt 8)) ∧ cowPages 0 carrel 8 p = [] ∧
        writeAct p none none ((bytesAt 8).zip (List.replicate 8 1)) = none)) ∧
    (∃ m : Module, (hq m 0 15).fetched[0]? = some (0, qe 2 0, none) ∧ ∃ p, copyBytes 0 .read carrel 8 m = (p, .ok (bytesAt 8))) ∧
    (∃ m : Module, (hq m 0 15).fetched[0]? = some (0, qe 3 0, none)) ∧
    (∃ m : Module, (hq m 0 15).fetched[0]? = some (0, qe 3 0, some (0, 0)) ∧ (hq m 0 15).ien = true) ∧
    (∃ m : Module, seesFn m 0 = true ∧ catOn m 0 = true ∧ (hq m 0 15).en = false) :=
  ⟨⟨hqM ring0, by decide +kernel⟩, ⟨hqM { ring0 with fetched := [(0, qe 1 9, none)] }, by decide +kernel⟩,
   ⟨hqM { ring0 with fetched := [(0, qe 1 0, none)] }, by decide +kernel, by decide +kernel, by decide +kernel,
     by decide +kernel, by decide +kernel, (copyBytes 0 .write carrel 8 (hqM { ring0 with fetched := [(0, qe 1 0, none)] })).1,
     by decide +kernel⟩,
   ⟨hqM { ring0 with fetched := [(0, qe 2 0, none)] }, by decide +kernel, pair_of (by decide +kernel)⟩,
   ⟨hqM { ring0 with fetched := [(0, qe 3 0, none)] }, by decide +kernel⟩,
   ⟨hqM { ring0 with ien := true, fetched := [(0, qe 3 0, some (0, 0))] }, by decide +kernel⟩, ⟨runM, by decide +kernel⟩⟩

/-- Before the Librarian runs, with no image; when READY may be raised; the catalogue not yet published, a bit that is and one
that is not; a context in the slot. An image that passes needs a good signature, which the model leaves open. -/
theorem witness_BootCatalogueAndRegisters :
    (∃ m : Module, m.on = true ∧ m.boot.perstN = true ∧ m.boot.lib = false ∧ m.boot.st = .window ∧ imageCheck m = some 1) ∧
    (∀ m : Module, hdr m 0 4 = 0x4F564657 → hdr m 4 4 = 1 → hdr m 16 8 = 4096 →
      Config.sha512 (storeBytes m 32 32) = Config.romKeyHash →
      Config.verify (BitVec.ofNat 256 (hdr m 32 32)) (Config.sha512 (storeBytes m 0 64 ++ storeBytes m 128 (4096 - 128)))
        (BitVec.ofNat 512 (hdr m 64 64)) = true → imageCheck m = none) ∧
    (∃ m : Module, m.boot.ready = false ∧ portsTrained m = true ∧ m.time.everAligned = true ∧ m.boot.renewed = true ∧
      m.boot.catalogue = true ∧ m.boot.spdm = true) ∧
    (∃ m : Module, m.cat.published = false ∧ m.boot.identity = true ∧ m.cat.accepted = false ∧
      (0 : BitVec 256) &&& ~~~m.cat.pub = 0 ∧ (1 : BitVec 256) &&& ~~~m.cat.pub ≠ 0) ∧
    (∃ m : Module, hostUp m 0 = true ∧ seesFn m 0 = true ∧ isPart m 0 = true ∧ seesCtx m (some 0) 0 = true ∧
      (m.ctx 0).state ≠ .free ∧ isBound m 0 (m.ctx 0).part = true ∧ catOn m 4 = true ∧ catOn m 14 = true ∧ (m.ctx 0).state = .created ∧ (7 : Word).toNat < 8) := by
  refine ⟨⟨Module.reset, by decide +kernel⟩, ?_,
    ⟨{ libM with boot := { libM.boot with ready := false, renewed := true, catalogue := true },
                 time := { Time.init with everAligned := true } }, by decide +kernel⟩,
    ⟨{ Module.reset with cat := Cat.init }, by decide +kernel⟩, ⟨withCtx { ctxA with state := .created }, by decide +kernel⟩⟩
  intro m h1 h2 h3 h4 h5
  unfold imageCheck
  simp only [h1, h2, h3]
  rw [if_neg (by decide), if_neg (by decide +kernel), if_neg (not_not.2 h4), h5]
  rfl

/-- Before the Librarian runs; a context that the function does not own; clear catalogue bits. -/
theorem witness_RegisterWritesWithoutEffect :
    (∃ m : Module, m.on = true ∧ m.boot.lib = false) ∧ (∃ m : Module, ownsSlot m 8 0 = false ∧ (8 : Fn) ≠ 0) ∧
    (∃ m : Module, m.on = true ∧ m.boot.lib = true ∧ hostUp m 0 = true ∧ ∀ k : Nat, k < 16 → catOn m k = false) :=
  ⟨⟨Module.reset, by decide⟩, ⟨runM, by decide +kernel⟩,
   ⟨{ Module.reset with boot := libM.boot, cat := Cat.init }, by decide +kernel⟩⟩

/-! Ill-formed commands: one for each check of WellFormed -/

theorem test_wf_accepts : (Instr.meMma 0 mmaF).wf && (Instr.veChain 0 chainF).wf && (Instr.teCopy 0 copyF).wf &&
    (Instr.readReceive rx0 { txn .read with payload := [] }).wf && (Instr.writeReceive rx0 (txn .write)).wf && (Instr.halt 0).wf = true := by
  decide +kernel

theorem test_wf_mma_formats : (Instr.meMma 0 { mmaF with fmta := 6 }).wf = false ∧
    (Instr.meMma 0 { mmaF with fmtb := 15 }).wf = false := by decide

theorem test_wf_chain_source_and_formats : (Instr.veChain 0 { chainF with src := 3 }).wf = false ∧
    (Instr.veChain 0 { chainF with fmto := 7 }).wf = false ∧ (Instr.veChain 0 { chainF with fmti := 12 }).wf = false ∧
    (Instr.veChain 0 { chainF with src := 0, fmti := 12 }).wf = true := by decide

theorem test_wf_copy_formats : (Instr.teCopy 0 { copyF with fmts := 4 }).wf = false ∧
    (Instr.teCopy 0 { copyF with fmts := 4, fmtd := 11 }).wf = false ∧
    (Instr.teCopy 0 { copyF with fmts := 4, fmtd := 0 }).wf = true := by decide

theorem test_wf_transaction_length : (Instr.readReceive rx0 { txn .read with payload := [], len := 4097 }).wf = false ∧
    (Instr.writeReceive rx0 { txn .write with len := 7 }).wf = false ∧
    (Instr.readdataReceive rx0 { txn .readdata with payload := [] }).wf = false ∧
    (Instr.collReceive rx0 { txn .coll with len := 9 }).wf = false ∧ (Instr.ackReceive rx0 (txn .ack)).wf = false ∧
    (Instr.nackReceive rx0 (txn .nack)).wf = false := by decide

theorem test_wf_long_payload : (Txn.wf { txn .read with payload := List.replicate 4097 0 }) = false := by decide +kernel

theorem test_wf_poison_map : (Instr.atomicReceive rx0 { txn .atomic with len := 16, payload := List.replicate 16 0, bad := [512] }).wf = false ∧
    (Instr.atomicReceive rx0 (txn .atomic)).wf = false := by decide

theorem test_wf_transaction_kind : (Instr.writeReceive rx0 (txn .read)).wf = false ∧
    (Instr.readReceive rx0 (txn .write)).wf = false ∧ (Instr.atomicReceive rx0 (txn .read)).wf = false ∧
    (Instr.collReceive rx0 (txn .write)).wf = false ∧
    (Instr.ackReceive rx0 { txn .nack with payload := [] }).wf = false ∧
    (Instr.nackReceive rx0 { txn .ack with payload := [] }).wf = false ∧
    (Instr.readdataReceive rx0 (txn .write)).wf = false ∧
    (Instr.transactionForward rx0 { txn .read with payload := [], len := 4097 }).wf = false := by decide

/-- A place in a machine of lengths 4, 8, 2, 8 and 8: module 2,050 (10 R316's example). -/
def topo0 : TopoB :=
  { lens := { t := 4, s := 8, e := 2, p := 8, d := 8 }, coord := { t := 2, s := 0, e := 0, p := 0, d := 4 }, timekeeper := false,
    parents := [{ port := 0, sameRack := true }], rack := 0, linkasym := [], feeds := [] }

theorem test_wf_topology : (Instr.topo topo0).wf = true ∧
    (Instr.topo { topo0 with lens := { topo0.lens with e := 0 } }).wf = false ∧
    (Instr.topo { topo0 with lens := { topo0.lens with d := 257 } }).wf = false ∧
    (Instr.topo { topo0 with lens := { t := 256, s := 256, e := 1, p := 1, d := 8 } }).wf = false ∧
    (Instr.topo { topo0 with coord := { topo0.coord with s := 8 } }).wf = false ∧
    (Instr.topo { topo0 with parents := List.replicate 4 { port := 0, sameRack := true } }).wf = false ∧
    (Instr.topo { topo0 with timekeeper := true }).wf = false := by decide

theorem test_wf_meter_and_host : (Instr.meterSample 4600 [1, 2]).wf = false ∧ (Instr.bar4Read 0 0 4097 false).wf = false ∧
    (Instr.sriovEnable 9).wf = false ∧ (Instr.sriovEnable 8).wf = true ∧ (Instr.vfDisable 0).wf = false := by decide

theorem test_wf_bar4_write : (Instr.bar4Write 0 0 (List.replicate 513 0) false false).wf = false := by decide +kernel

/-! Words of every family, written out from 04 Tables 4.1 to 4.15 -/

/-- DIVU g3, g2, g5: op 0, rd 3, ra 2, rb 5, fn 21. -/
theorem test_word_divu (t : ThreadNo) : decodeGelga t 0x00308515#32 0 = .divu t 3 2 5 := rfl
theorem test_word_addi (t : ThreadNo) : decodeGelga t 0x0417FFFF#32 0 = .addi t 1 31 (-1) := rfl
theorem test_word_shi (t : ThreadNo) : decodeGelga t 0x1810B03F#32 0 = .shiRor t 1 2 63 := rfl
theorem test_word_movk (t : ThreadNo) : decodeGelga t 0x1C26FBBE#32 0 = .movk t 2 1 0xBEEF := rfl
theorem test_word_fmadd (t : ThreadNo) : decodeGelga t 0x20414607#32 0 = .fmadd t 4 5 6 := rfl
theorem test_word_st64 (t : ThreadNo) : decodeGelga t 0x6C723FF8#32 0 = .st64 t 7 8 (-8) := rfl
theorem test_word_acas32 (t : ThreadNo) : decodeGelga t 0x70928B04#32 0 = .acas32 t 9 10 11 := rfl
theorem test_word_bne (t : ThreadNo) : decodeGelga t 0x84108004#32 0 = .bne t 1 2 4 := rfl
theorem test_word_jal (t : ThreadNo) : decodeGelga t 0x981FFFFF#32 0 = .jal t 1 (-1) := rfl
theorem test_word_fence (t : ThreadNo) : decodeGelga t 0xA0000001#32 0 = .fenceG t := rfl
theorem test_word_wait (t : ThreadNo) : decodeGelga t 0xA4302800#32 0 = .wait t 3 5 := rfl
theorem test_word_due (t : ThreadNo) : decodeGelga t 0xFC300000#32 0 = .dueR t 3 := rfl
theorem test_word_desc (t : ThreadNo) : decodeGelga t 0xC8071140#32 0 = .teDesc t { fin := { ctr := 3, ce := true }, ra := 5 } := rfl
theorem test_word_free (t : ThreadNo) : decodeGelga t 0xCC002F05#32 0x20C00000#32 =
    .resFree t { fin := { ctr := 0, ce := false }, stage := 15, ra := 1, rm := 18, rl := 3 } := rfl
theorem test_word_unallocated (t : ThreadNo) : decodeGelga t 0xF4000000#32 0 = .unallocatedEncoding t := rfl

/-! Values of the spec's examples -/

/-- 02 Table 2.6. -/
theorem test_narrow_table_2_6 : (narrow fmtF8a .trunc (f32 0x4396599A#32)).1 = 0x79 ∧
    (narrow fmtF8a .rne (f32 0x4396599A#32)).1 = 0x79 ∧ (narrow fmtF8a (.sr 0x3A11) (f32 0x4396599A#32)).1 = 0x7A ∧
    (narrow fmtF8a (.sr 0x8C02) (f32 0x4396599A#32)).1 = 0x79 := by decide +kernel

/-- 02 R43 and Table 2.7: 21.3, −9.0, 5.0, 1.7, −0.9 and −0.0 as FP32. -/
def block27 : List FVal :=
  [0x41AA6666#32, 0xC1100000#32, 0x40A00000#32, 0x3FD9999A#32, 0xBF666666#32, 0x80000000#32].map f32

theorem test_quire_scale : quireScale fmtF4 block27 = 0x81 := by decide +kernel

theorem test_quire_truncation : block27.map (fun v => (narrow fmtF4 .trunc (unscale 0x81 v)).1) = [6, 0xC, 2, 0, 0, 0] := by
  decide +kernel

theorem test_quire_nearest_even : block27.map (fun v => (narrow fmtF4 .rne (unscale 0x81 v)).1) = [7, 0xC, 2, 1, 0, 0] := by
  decide +kernel

theorem test_quire_underflow : block27.map (fun v => (narrow fmtF4 .trunc (unscale 0x81 v)).2) =
    [[], [], [], [.underflow], [.underflow], []] := by decide +kernel

/-- 05 Table 5.4: one group of products 1, 2^-40 and −2^-37 in native and compatibility mode. -/
def cell54 : List (FVal × FVal) :=
  [(.fin false 1 0, .fin false 1 0), (.fin false 1 (-20), .fin false 1 (-20)), (.fin true 1 (-18), .fin false 1 (-19))] ++
    List.replicate 125 (.fin false 0 0, .fin false 0 0)

theorem test_cell_table_5_4 : (cellStep 1 false false false 0 cell54).1 = 0x3F7FFFFF#32 ∧
    (cellStep 1 false false true 0 cell54).1 = 0x3F800000#32 := by decide +kernel

/-- 05: element (37, 90) of a blocked tile, and of its transpose. -/
theorem test_block_index : blockIdx 37 90 = 5098 ∧ blockIdx 90 37 = 64 * 191 + 8 * 2 + 5 := by decide

/-- 04 Table 4.17. -/
theorem test_due_table_4_17 : dueImm 0x123456789 0x34A6789 = 0x1234A6789 ∧ dueImm 0x123456789 0x1000 = 0x124001000 := by
  decide

/-- 07: word 0 of the MOVE of Table 7.6, the first of 56 bytes. -/
theorem test_descriptor_word : (fun d : Desc => (d.kind, d.fmts, d.fmtd, d.tce, d.tctr, d.we)) (descOf
      (([0x00, 0x00, 0x00, 0x80, 0x87, 0x00, 0xF0, 0x0F] ++ List.replicate 48 0).map fun b : Byte => (b, false))) =
    (0, 15, 15, true, 30, false) := by decide +kernel

/-- 10 R316: module 2,050 and its P+ neighbour. -/
theorem test_module_number : coordOf topo0.lens 2050 = topo0.coord ∧
    numAt topo0.lens { topo0.coord with p := 1 } = 2114 := by decide

/-- 03 Table 3.5's call number: module, page and byte of a remote store. -/
theorem test_call_number : callMod 0x0D57001234567800#64 = 0x0D57 ∧ callOff 0x0D57001234567800#64 / 65536 = 1193046 ∧
    callOff 0x0D57001234567800#64 % 65536 = 0x7800 := by decide +kernel

/-- 15: the layout of R484's example; a group that is not aligned. -/
theorem test_layout : layoutOk (BitVec.ofNat 24 0xFA4000) = true ∧ layoutOk (BitVec.ofNat 24 0xFAC648) = false := by
  decide

/-- 16: partition 4's loan accrues 1,155 W in the sample of the example (here in mW over 1 ms, eight parts each). -/
theorem test_apportion_example : Meter.share { Meter.reset with
      accEntry := 4600000, accDies := [512000, 512000, 512000, 512000, 520000, 510000, 511000, 511000] }
    { mloan0 with co := { cosigned0 true with lr := { loan0 true with part := 4, dies := 0x30 } } } = 8 * 1155000 := by
  decide +kernel

/-! Single steps -/

/-- What a predicate says of the module after a command; false where the command answers no next state. -/
def modAfter (c : Instr) (m : Module) (p : Module → Bool) : Bool :=
  match exec c (at_ m) with
  | .next s => p s.mod
  | _ => false

/-- Registers g1 and g2, and the pc moved by 4. -/
def aluIs (c : Instr) (a b r : Word) : Bool :=
  modAfter c (regsM [(1, a), (2, b)]) fun m => m.reg 0 3 == r && (m.thread 0).pc == carrel + 4 && (m.mark 0 3 == false)

theorem test_add_wraps : aluIs (.add 0 3 1 2) (BitVec.allOnes 64) 2 1 = true := by decide +kernel
theorem test_sub_borrows : aluIs (.sub 0 3 1 2) 1 2 (BitVec.allOnes 64) = true := by decide +kernel
theorem test_sra_sign : aluIs (.sra 0 3 1 2) 0x8000000000000000#64 (64 + 63) (BitVec.allOnes 64) = true := by decide +kernel
theorem test_sltu_unsigned : aluIs (.sltu 0 3 1 2) 1 (BitVec.allOnes 64) 1 = true ∧
    aluIs (.slt 0 3 1 2) 1 (BitVec.allOnes 64) 0 = true := by decide +kernel
theorem test_mulh_sign : aluIs (.mulh 0 3 1 2) (BitVec.allOnes 64) (BitVec.allOnes 64) 0 = true ∧
    aluIs (.mulhu 0 3 1 2) (BitVec.allOnes 64) (BitVec.allOnes 64) (BitVec.ofInt 64 (-2)) = true := by decide +kernel
theorem test_div_truncates : aluIs (.div 0 3 1 2) (BitVec.ofInt 64 (-7)) 2 (BitVec.ofInt 64 (-3)) = true ∧
    aluIs (.rem 0 3 1 2) (BitVec.ofInt 64 (-7)) 2 (BitVec.ofInt 64 (-1)) = true := by decide +kernel
theorem test_div_by_zero : aluIs (.div 0 3 1 2) 7 0 (BitVec.allOnes 64) = true ∧ aluIs (.rem 0 3 1 2) 7 0 7 = true := by
  decide +kernel
theorem test_addi_sign : aluIs (.addi 0 3 1 (-1)) 0 0 (BitVec.allOnes 64) = true := by decide +kernel
theorem test_shi_ror : aluIs (.shiRor 0 3 1 4) 0x1F 0 0xF000000000000001#64 = true := by decide +kernel
theorem test_movk_lane : aluIs (.movk 0 1 2 0xBEEF) 0 0 0 = true ∧
    modAfter (.movk 0 1 2 0xBEEF) (regsM [(1, BitVec.allOnes 64)]) (fun m => m.reg 0 1 == 0xFFFFBEEFFFFFFFFF#64) = true := by
  decide +kernel

/-- g0 reads as zero after a write of it. -/
theorem test_g0_discards : modAfter (.add 0 0 1 1) runM (fun m => m.reg 0 0 == 0 && (m.thread 0).pc == carrel + 4) = true := by
  decide +kernel

/-- Scalar arithmetic rounds to nearest-even (04 R132): 1 + 2^-24 is a tie, a little more rounds up. -/
theorem test_fadd_rounds : aluIs (.fadd 0 3 1 2) 0x3F800000#64 0x33800000#64 0x3F800000#64 = true ∧
    aluIs (.fadd 0 3 1 2) 0x3F800000#64 0x33800001#64 0x3F800001#64 = true := by decide +kernel
theorem test_fcvt : aluIs (.fcvtSL 0 3 1) 3 0 0x40400000#64 = true := by decide +kernel

theorem test_branch_taken : modAfter (.bne 0 1 2 4) (regsM [(1, 1)]) (fun m => (m.thread 0).pc == carrel + 16) = true ∧
    modAfter (.blt 0 1 2 (-1)) (regsM [(1, BitVec.allOnes 64)]) (fun m => (m.thread 0).pc == carrel - 4) = true := by
  decide +kernel

theorem test_jal_links : modAfter (.jal 0 1 2) runM (fun m => m.reg 0 1 == carrel + 4 && (m.thread 0).pc == carrel + 8) = true := by
  decide +kernel

/-- A marked branch operand faults the context (08 Table 8.8). -/
theorem test_marked_branch_faults : modAfter (.beq 0 5 5 0) runM (fun m => (m.ctx 0).state == .faulted) = true := by decide +kernel

theorem test_halt : modAfter (.halt 0) runM (fun m => !(m.thread 0).running) = true := by decide +kernel

/-- A store waits, and lands when it is accepted, lowest byte first. -/
theorem test_store_then_accept : modAfter (.st32 0 2 1 0) (regsM [(1, carrel), (2, 0x11223344#64)])
    (fun m => match exec (.localWriteAccept 0) (at_ m) with
      | .next s => (bytesAt 4).map (Sparse.get 0 s.mod.mem) == [0x44, 0x33, 0x22, 0x11]
      | _ => false) = true := by decide +kernel

/-- A signed byte arrives extended. -/
theorem test_load_sign : modAfter (.loadValueArrival 0)
    { loadM { lw with op := .ld 1 true, loc := .mem (bytesAt 1) } with mem := [(paCarrel 0 0, 0x80)] }
    (fun m => m.reg 0 1 == BitVec.ofInt 64 (-128)) = true := by decide +kernel

/-- A misaligned scalar access is performed on its bytes (03 R93). -/
theorem test_misaligned_load : modAfter (.ld32u 0 2 1 0) (regsM [(1, carrel + 1)])
    (fun m => (m.thread 0).load.map (·.loc) == some (.mem ((upTo 4).map fun k => paCarrel 0 (k + 1)))) = true := by
  decide +kernel

/-- A misaligned load ends with its last byte, and a misaligned store waits byte by byte. -/
theorem test_misaligned_last_byte : modAfter (.loadValueArrival 0)
    { loadM { lw with op := .ld 2 false, call := carrel + 1, loc := .mem [paCarrel 0 1, paCarrel 0 2], got := [(1, 0x12, false)] }
      with mem := [(paCarrel 0 1, 0x34), (paCarrel 0 2, 0x99)] }
    (fun m => m.reg 0 1 == 0x1234) = true := by decide +kernel
theorem test_misaligned_store : modAfter (.st16 0 2 1 0) (regsM [(1, carrel + 1), (2, 0x1234)])
    (fun m => m.writes.map (·.items) == [[(paCarrel 0 1, 0x34)], [(paCarrel 0 2, 0x12)]]) = true := by decide +kernel

/-- A misaligned access that leaves its core's carrel records the byte that fails (03 R93, R115). -/
theorem test_misaligned_fault : modAfter (.ld16u 0 2 1 0) (regsM [(1, carrel + 0x3FFFFF)])
    (fun m => (m.ctx 0).fault.addr == carrel + 0x400000) = true := by decide +kernel

/-- CINC adds to the counter. -/
theorem test_cinc : modAfter (.cinc 0 1 5) (regsM [(1, 3)]) (fun m => (m.ctx 0).ctr 5 == 3) = true := by decide +kernel

/-- WAIT on a counter one short is not executed. -/
theorem test_wait_stalls : modAfter (.wait 0 1 5) (regsM [(1, 3)]) (fun m => (m.thread 0).pc == carrel) = true := by
  decide +kernel

/-- 18: RSVTOP of local stage 5 lies at 0x1150, and the same register is read over BAR0 and through the control space. -/
theorem test_rsvtop_offset :
    readCtx (withCtx { ctxA with rsv := [(5, { Rsv.init with top := 0x4200 })] }) 0 0x1150 = 0x4200 := by decide +kernel

/-- 17: CATACCEPT of 0x3F7F where CATPUB reads 0xFFFF. -/
theorem test_cataccept : modAfter (.cataccept 0 0x3F7F)
    { libM with cat := { Cat.init with published := true, pub := BitVec.ofNat 256 0xFFFF } }
    (fun m => m.cat.accepted && m.cat.en == BitVec.ofNat 256 0x3F7F && !catOn m 7 && catOn m 13) = true := by decide +kernel

/-- 13 R436: START leaves a created context RUNNING. -/
theorem test_start : modAfter (.start 0 0) (withCtx { ctxA with state := .created }) (fun m => (m.ctx 0).state == .running) = true := by
  decide +kernel

/-- 08: retiring and the allocation command act on the frame's stripe state; the granule of Table 8.6 lies in stripe 0. -/
theorem test_stripe_of_granule : (801313 * 256 + 120) % 4 = 0 ∧ dieOfFrame 801313 = 0 := by decide

/-- The queue is first in, first out: a step runs the front command and keeps the rest. -/
theorem test_step_takes_front : (match step { at_ (regsM [(1, 3)]) with pending := [.cinc 0 1 5, .halt 0] } with
    | .next s => decide (s.pending = [.halt 0]) && (s.mod.ctx 0).ctr 5 == 3
    | _ => false) = true := by decide +kernel

/-- The case switch marks the meter. -/
theorem test_case_switch : (match exec .caseSwitchOpen State.reset with
    | .next s => s.meter.tampered
    | _ => false) = true := by decide +kernel

/-- A supply below 66 V leaves an unpowered module off and its meter as it is (17 R533; log 16). -/
theorem test_supply_sag : (match exec .supplySag { State.reset with mod := { Module.reset with boot := { Boot.init with rails := false } } } with
    | .next s => !s.mod.on
    | _ => false) = true := by decide +kernel

end Sys2Proof.Tests
end

namespace Sys2Proof.Machine

/-! Where a command leaves the queue and the meter (O57). A command of the module changes the module, and some also the
records on the meter link; the queue and the meter stay in their place. -/

/-- The second state has the queue and the meter of the first. -/
structure InPlace (s t : State) : Prop where
  pending : t.pending = s.pending
  meter : t.meter = s.meter

theorem InPlace.rfl {s : State} : InPlace s s := ⟨Eq.refl _, Eq.refl _⟩

theorem InPlace.trans {s t u : State} (h : InPlace s t) (g : InPlace t u) : InPlace s u :=
  ⟨g.pending.trans h.pending, g.meter.trans h.meter⟩

/-- Changes of the module and of the meter link are in place. -/
theorem inPlace_links (s : State) (m : Module) (a : List MRequest) (b : List MAnswer) :
    InPlace s { s with mod := m, toMeter := a, fromMeter := b } := ⟨rfl, rfl⟩

theorem inPlace_ite {c : Prop} [Decidable c] {s t : State} (h : InPlace s t) : InPlace s (if c then t else s) := by
  split
  · exact h
  · exact .rfl

theorem inPlace_foldl {α : Type} {f : State → α → State} (h : ∀ s a, InPlace s (f s a)) (l : List α) (s : State) :
    InPlace s (l.foldl f s) := by
  induction l generalizing s with
  | nil => exact .rfl
  | cons a l ih => exact (h s a).trans (ih (f s a))

/-! The operations that also write the meter link -/

theorem sendCloses_inPlace (s : State) : InPlace s (sendCloses s) := by
  refine inPlace_foldl (fun s p => ?_) _ s
  split
  · exact inPlace_ite (inPlace_links ..)
  · exact .rfl

theorem openLoan_inPlace (f : Fn) (p : Nat) (role : BitVec 2) (secure : Bool) (s : State) :
    InPlace s (openLoan f p role secure s) := by
  refine inPlace_ite ?_
  dsimp only
  split
  · split <;> exact inPlace_links ..
  · exact inPlace_links ..

theorem meterOpenAnswer_inPlace (s : State) : InPlace s (meterOpenAnswer s) := by
  unfold meterOpenAnswer
  split
  case h_1 =>
    split
    · exact .rfl
    · split
      · exact (inPlace_links ..).trans (sendCloses_inPlace _)
      · exact inPlace_links ..
  case h_2 =>
    split
    · exact .rfl
    · split <;> exact inPlace_links ..
  case h_3 => exact .rfl

theorem meterCloseCosign_inPlace (s : State) : InPlace s (meterCloseCosign s) := by
  unfold meterCloseCosign
  split
  case h_1 =>
    dsimp only
    split
    · exact .rfl
    · split <;> exact inPlace_links ..
  case h_2 =>
    split
    · exact .rfl
    · exact inPlace_links ..
  case h_3 => exact .rfl

theorem restartLoans_inPlace (s : State) : InPlace s (restartLoans s) := by
  unfold restartLoans
  split
  · exact .rfl
  · split
    · exact (inPlace_links ..).trans (sendCloses_inPlace _)
    · split
      · exact .rfl
      · exact inPlace_links ..

/-! The lifts -/

/-- The outcome is a next state with the queue and the meter of s. -/
def AnswersInPlace (o : Host.Outcome State Fault Refusal) (s : State) : Prop := ∃ t, o = .next t ∧ InPlace s t

theorem next_inPlace {s t : State} (h : InPlace s t) : AnswersInPlace (.next t) s := ⟨t, rfl, h⟩

/-- A change of the module alone, as a pin makes it (`liftPin`). -/
theorem next_mod_inPlace (s : State) (m : Module) : AnswersInPlace (.next { s with mod := m }) s :=
  next_inPlace (inPlace_links ..)

/-- The same where the module's logic has to run (`lift`). -/
theorem next_ite_mod_inPlace {c : Prop} {_ : Decidable c} (s : State) (m : Module) :
    AnswersInPlace (.next (if c then { s with mod := m } else s)) s :=
  next_inPlace (inPlace_ite (inPlace_links ..))

theorem liftC_inPlace (f : Module → Module) (s : State) : AnswersInPlace (liftC f s) s := by
  refine next_inPlace (inPlace_ite ?_)
  dsimp only
  split
  · exact (inPlace_links ..).trans (sendCloses_inPlace _)
  · exact inPlace_links ..

theorem execPwrEnAssert_inPlace (good : Bool) (s : State) : AnswersInPlace (execPwrEnAssert good s) s := by
  refine next_inPlace ?_
  dsimp only
  split
  · exact .rfl
  · split <;> exact inPlace_links ..

theorem loanWrite_inPlace (f : Fn) (p : Nat) (v : Word) (s : State) : AnswersInPlace (loanWrite f p v s) s := by
  unfold loanWrite
  split
  · exact next_inPlace .rfl
  split
  · exact next_mod_inPlace ..
  split
  · exact next_inPlace (openLoan_inPlace ..)
  · exact liftC_inPlace ..

theorem execRegisterWrite_inPlace (f : Fn) (off : BitVec 26) (size : Nat) (v : Word) (s : State) :
    AnswersInPlace (execRegisterWrite f off size v s) s := by
  unfold execRegisterWrite
  dsimp only
  split
  · exact next_inPlace .rfl
  split
  · split
    · exact next_ite_mod_inPlace ..
    · exact next_inPlace .rfl
  split
  · exact next_inPlace .rfl
  split
  · exact loanWrite_inPlace ..
  · exact next_ite_mod_inPlace ..

/-! The commands that may change the meter -/

/-- The commands of the meter's port and link, its sampling and power-up, a function's meter request, and what the 72 V
input does to the meter. -/
inductive OfMeter : Instr → Prop
  | supplySag : OfMeter .supplySag
  | mtrAnswerReady (f : Fn) : OfMeter (.mtrAnswerReady f)
  | powerLoss : OfMeter .powerLoss
  | meterPowerUp : OfMeter .meterPowerUp
  | meterApportion : OfMeter .meterApportion
  | meterCommit : OfMeter .meterCommit
  | meterOpenRecord : OfMeter .meterOpenRecord
  | meterCloseRecord : OfMeter .meterCloseRecord
  | meterListOpen : OfMeter .meterListOpen
  | meterRecordDrop : OfMeter .meterRecordDrop
  | caseSwitchOpen : OfMeter .caseSwitchOpen
  | readId : OfMeter .readId
  | readSnapshot : OfMeter .readSnapshot
  | meterSample (entry : Nat) (dies : List Nat) : OfMeter (.meterSample entry dies)
  | readLog (mseq : Nat) : OfMeter (.readLog mseq)
  | ackLog (mseq : Nat) : OfMeter (.ackLog mseq)
  | setTime (ms : Nat) : OfMeter (.setTime ms)
  | pair (certOk : Bool) (idpub : BitVec 256) (address : Byte) : OfMeter (.pair certOk idpub address)
  | readEvents (i : Nat) : OfMeter (.readEvents i)

theorem arrive_pending (s : State) : (arrive s).pending = s.pending := by
  refine List.foldlRecOn (motive := fun t : State => t.pending = s.pending) _ _ rfl fun t ht q _ => ?_
  split
  · split <;> exact ht
  · exact ht

theorem takeRecord_pending (isOpen : Bool) (k : LoanRec → Meter → Meter × MAnswer) (s : State) :
    (takeRecord isOpen k s).pending = s.pending := by
  unfold takeRecord
  dsimp only
  split
  · exact arrive_pending s
  · split <;> exact arrive_pending s

/-- The outcome is a next state with the queue of s. -/
def KeepsQueue (o : Host.Outcome State Fault Refusal) (s : State) : Prop := ∃ t, o = .next t ∧ t.pending = s.pending

theorem liftM_keepsQueue {f : State → State} (s : State) (h : (f s).pending = s.pending) : KeepsQueue (liftM f s) s := by
  refine ⟨_, rfl, ?_⟩
  split
  · exact h
  · rfl

/-- A change of the meter alone, made while the 72 V entry is live (`liftMtr`). -/
theorem next_ite_meter_keepsQueue {c : Prop} {_ : Decidable c} (s : State) (x : Meter) :
    KeepsQueue (.next (if c then { s with meter := x } else s)) s := by
  refine ⟨_, rfl, ?_⟩
  split <;> rfl

theorem execMeterListOpen_keepsQueue (s : State) : KeepsQueue (execMeterListOpen s) s := by
  refine liftM_keepsQueue s ?_
  dsimp only
  split <;> exact arrive_pending s

theorem execMeterRecordDrop_keepsQueue (s : State) : KeepsQueue (execMeterRecordDrop s) s := by
  refine liftM_keepsQueue s ?_
  dsimp only
  split <;> exact arrive_pending s

theorem execMeterPowerUp_keepsQueue (s : State) : KeepsQueue (execMeterPowerUp s) s := by
  refine ⟨_, rfl, ?_⟩
  split <;> rfl

theorem execMtrAnswerReady_keepsQueue (f : Fn) (s : State) : KeepsQueue (execMtrAnswerReady f s) s := by
  refine ⟨_, rfl, ?_⟩
  split
  · rfl
  · split
    · rfl
    · dsimp only
      split <;> rfl

/-- Whatever a command does to the meter, it answers a next state with the queue that it was given. -/
theorem exec_ofMeter_keepsQueue {c : Instr} (h : OfMeter c) (s : State) : KeepsQueue (exec c s) s := by
  cases h with
  | supplySag | powerLoss => exact ⟨_, rfl, rfl⟩
  | mtrAnswerReady f => exact execMtrAnswerReady_keepsQueue f s
  | meterPowerUp => exact execMeterPowerUp_keepsQueue s
  | meterOpenRecord | meterCloseRecord => exact liftM_keepsQueue s (takeRecord_pending ..)
  | meterListOpen => exact execMeterListOpen_keepsQueue s
  | meterRecordDrop => exact execMeterRecordDrop_keepsQueue s
  | _ => exact next_ite_meter_keepsQueue ..

/-- Every other command answers in place: it is a lift of a function of the module, or one of those that also write the
meter link. -/
theorem exec_module_inPlace {c : Instr} (h : ¬ OfMeter c) (s : State) : AnswersInPlace (exec c s) s := by
  cases c with
  | loanOpen => exact next_inPlace (openLoan_inPlace ..)
  | meterOpenAnswer => exact next_inPlace (inPlace_ite (meterOpenAnswer_inPlace s))
  | meterCloseCosign => exact next_inPlace (inPlace_ite (meterCloseCosign_inPlace s))
  | restartLoanClose => exact next_inPlace (inPlace_ite (restartLoans_inPlace s))
  | pwrEnAssert => exact execPwrEnAssert_inPlace ..
  | registerWrite => exact execRegisterWrite_inPlace ..
  | rstNAssert | rstNRelease | refclkLoss | refclkReturn | perstAssert | perstDeassert | thermalTrip | pwrEnDeassert =>
    exact next_mod_inPlace ..
  | teardownComplete | partitionResetIslands | meterTimeout | loanClose | closeResend
  | leaseExpiry | renewalRefuse => exact liftC_inPlace ..
  | supplySag | mtrAnswerReady | powerLoss | meterPowerUp | meterApportion | meterCommit | meterOpenRecord
  | meterCloseRecord | meterListOpen | meterRecordDrop | caseSwitchOpen | readId | readSnapshot | meterSample | readLog
  | ackLog | setTime | pair | readEvents => exact absurd (by constructor) h
  | _ => exact next_ite_mod_inPlace ..

/-- Settles O57: a command of the meter keeps the queue, and every other command answers in place. -/
theorem commandsKeepTheirPlace : Obligations.CommandsKeepTheirPlace := by
  intro c s
  by_cases hc : OfMeter c
  · obtain ⟨t, ht, hp⟩ := exec_ofMeter_keepsQueue hc s
    refine ⟨t, ht, hp, ?_⟩
    intro _ request _ _ _ _ _ _ _ _ _ _ _ sample log ack time pair events
    cases hc with
    | mtrAnswerReady f => exact absurd rfl (request f)
    | meterSample entry dies => exact absurd rfl (sample entry dies)
    | readLog n => exact absurd rfl (log n)
    | ackLog n => exact absurd rfl (ack n)
    | setTime n => exact absurd rfl (time n)
    | pair ok id adr => exact absurd rfl (pair ok id adr)
    | readEvents n => exact absurd rfl (events n)
    | _ => contradiction
  · obtain ⟨t, ht, hp, hm⟩ := exec_module_inPlace hc s
    exact ⟨t, ht, hp, by intros; exact hm⟩

end Sys2Proof.Machine

namespace Sys2Proof.Machine

open Sys2Proof.Safety

/-! Core clocks (O27). A decision of the power manager goes over lists of cores and of dies that name each core at most
once, so what it makes of a core is what the one step that reaches the core makes of it. -/

theorem foldl_keeps {α : Type} {op : Module → α → Module} {I : Module → Prop} (keep : ∀ m a, I m → I (op m a))
    (l : List α) {m : Module} (h : I m) : I (l.foldl op m) :=
  List.foldlRecOn (motive := I) l op h fun m hm a _ => keep m a hm

/-- A loop over keys in which each step changes only the cores of its key: a core is changed by the step of its key, as R
says, and is as it was where its key is not in the list. -/
theorem core_foldl {op : Module → Nat → Module} {key : Nat → Nat} {I : Module → Prop} {R : Nat → CoreSt → CoreSt → Prop}
    (keep : ∀ m a, I m → I (op m a)) (other : ∀ m a c, key c ≠ a → (op m a).core c = m.core c)
    (own : ∀ m c, I m → R c (m.core c) ((op m (key c)).core c)) {l : List Nat} (hl : l.Nodup) {m : Module} (hm : I m)
    (c : Nat) :
    (key c ∉ l → (l.foldl op m).core c = m.core c) ∧ (key c ∈ l → R c (m.core c) ((l.foldl op m).core c)) := by
  induction l generalizing m with
  | nil => simp
  | cons a l ih =>
    obtain ⟨ha, hl⟩ := List.nodup_cons.1 hl
    obtain ⟨out, inl⟩ := ih hl (keep m a hm)
    rw [List.foldl_cons]
    by_cases h : key c = a
    · subst h
      refine ⟨fun hc => absurd List.mem_cons_self hc, fun _ => ?_⟩
      rw [out ha]
      exact own m c hm
    · rw [other m a c h] at out inl
      exact ⟨fun hc => out fun hc' => hc (List.mem_cons_of_mem a hc'),
        fun hc => inl ((List.mem_cons.1 hc).resolve_left h)⟩

/-- A loop that updates every core of a list by f. -/
theorem core_foldl_updCore (f : CoreSt → CoreSt) {l : List Nat} (hl : l.Nodup) (m : Module) (c : Nat) :
    (l.foldl (fun m c => m.updCore c f) m).core c = if c ∈ l then f (m.core c) else m.core c := by
  have once := core_foldl (op := fun m c => m.updCore c f) (key := id) (I := fun _ => True) (R := fun _ x z => z = f x)
    (fun _ _ _ => trivial) (fun m a c h => by simp [show c ≠ a from h]) (fun m c _ => by simp) hl (m := m) trivial c
  split
  case isTrue h => exact once.2 h
  case isFalse h => exact once.1 h

/-! What stays the same throughout a decision -/

/-- The second module has the clocks, the die temperatures and the last decision of the first. -/
structure Steady (m q : Module) : Prop where
  time : q.time = m.time
  tDie : q.pm.tDie = m.pm.tDie
  lastDec : q.pm.lastDec = m.pm.lastDec

theorem Steady.refl (m : Module) : Steady m m := ⟨rfl, rfl, rfl⟩

theorem Steady.trans {m p q : Module} (h : Steady m p) (g : Steady p q) : Steady m q :=
  ⟨g.time.trans h.time, g.tDie.trans h.tDie, g.lastDec.trans h.lastDec⟩

theorem Steady.foldl {α : Type} {op : Module → α → Module} (h : ∀ m a, Steady m (op m a)) (l : List α) (m : Module) :
    Steady m (l.foldl op m) :=
  foldl_keeps (fun p a hp => hp.trans (h p a)) l (.refl m)

theorem updCore_steady (c : Nat) (f : CoreSt → CoreSt) (m : Module) : Steady m (m.updCore c f) := ⟨rfl, rfl, rfl⟩

theorem setClk_steady (c : Nat) (m : Module) : Steady m (setClk c m) := updCore_steady ..

theorem capTo_steady (f : Nat → Nat) (cs : List Nat) (m : Module) : Steady m (capTo f cs m) :=
  .foldl (fun m c => updCore_steady c _ m) cs m

theorem capDecision_steady (n : Nat) (m : Module) : Steady m (capDecision n m) := by
  unfold capDecision
  dsimp only
  split
  · exact capTo_steady ..
  split
  · exact capTo_steady ..
  · exact .refl m

theorem setNets_steady (d : Nat) (f : Nat → Nat) (m : Module) : Steady m (setNets d f m) := by
  unfold setNets
  dsimp only
  split
  · exact ⟨rfl, rfl, rfl⟩
  · constructor <;> simp

theorem setNets_core (d : Nat) (f : Nat → Nat) (m : Module) (c : Nat) : (setNets d f m).core c = m.core c := by
  unfold setNets
  dsimp only
  split
  · rfl
  · simp [Module.core]

/-! What the cap calls for (R24, R25) -/

theorem upTo_nodup (n : Nat) : (upTo n).Nodup := List.nodup_range

/-- A stage of cores holds only cores that the test accepts. -/
theorem firstStage_eq (m : Module) (order : List Nat) (ok : Nat → Bool) :
    firstStage m order ok = [] ∨ ∃ k, firstStage m order ok = (upTo 512).filter fun c => stageOf m c == k && ok c := by
  unfold firstStage
  generalize upTo 512 = l
  cases h : (order.map _).find? _ with
  | none => exact .inl rfl
  | some cs =>
    obtain ⟨k, _, hk⟩ := List.mem_map.1 (List.mem_of_find?_eq_some h)
    exact .inr ⟨k, hk.symm⟩

theorem firstStage_nodup (m : Module) (order : List Nat) (ok : Nat → Bool) : (firstStage m order ok).Nodup := by
  obtain h | ⟨k, h⟩ := firstStage_eq m order ok
  · rw [h]; exact List.nodup_nil
  · rw [h]; exact (upTo_nodup 512).filter _

theorem firstStage_ok {m : Module} {order : List Nat} {ok : Nat → Bool} {c : Nat} (hc : c ∈ firstStage m order ok) :
    ok c = true := by
  obtain h | ⟨k, h⟩ := firstStage_eq m order ok
  · rw [h] at hc
    exact absurd hc List.not_mem_nil
  · simp only [h, List.mem_filter, Bool.and_eq_true] at hc
    exact hc.2.2

/-- What a decision may make of the clock k that power allows. -/
structure CapStep (avg cap k a : Nat) : Prop where
  down : cap < avg → a ≤ k ∧ k ≤ a + 4
  same : avg ≤ cap → 95 * cap ≤ 100 * avg → a = k
  up : 100 * avg < 95 * cap → k ≤ a ∧ a ≤ k + 1

theorem CapStep.refl (avg cap k : Nat) : CapStep avg cap k k := ⟨by omega, by omega, by omega⟩

theorem capDecision_core {n : Nat} (hn : n ≤ 4) (m : Module) (c : Nat) :
    ∃ a, (capDecision n m).core c = { m.core c with capClk := a } ∧
      CapStep (avgPower m) (1000 * m.pm.cap) (m.core c).capClk a := by
  have still : m.core c = { m.core c with capClk := (m.core c).capClk } := rfl
  unfold capDecision capTo
  dsimp only
  split
  case isTrue =>
    rw [core_foldl_updCore _ (firstStage_nodup ..)]
    split
    case isTrue hc =>
      have low : clkMin < (m.core c).capClk := of_decide_eq_true (firstStage_ok hc)
      refine ⟨_, rfl, ?_⟩
      simp only [clkMin, Nat.max_eq_max] at low ⊢
      constructor <;> omega
    case isFalse => exact ⟨_, still, .refl ..⟩
  case isFalse =>
    split
    case isTrue =>
      rw [core_foldl_updCore _ (firstStage_nodup ..)]
      split
      case isTrue =>
        refine ⟨_, rfl, ?_⟩
        constructor <;> omega
      case isFalse => exact ⟨_, still, .refl ..⟩
    case isFalse => exact ⟨_, still, .refl ..⟩

/-! What the temperature calls for (R24, R26) -/

/-- What a decision may make of the clock k that temperature allows, on a die at t degrees. -/
structure TempStep (t k b : Nat) : Prop where
  down : 100 ≤ t → 10 ≤ k → 10 ≤ b ∧ b ≤ k ∧ k ≤ b + 4
  up : t < 100 → k ≤ 40 → k ≤ b ∧ b ≤ 40 ∧ b ≤ k + 4

/-- The cores of a die. -/
theorem mem_die (c d : Nat) : c ∈ (upTo 64).map (64 * d + ·) ↔ c / 64 = d := by
  simp only [upTo, List.mem_map, List.mem_range]
  constructor
  · rintro ⟨i, hi, rfl⟩; omega
  · intro h; exact ⟨c % 64, by omega, by omega⟩

theorem die_nodup (d : Nat) : ((upTo 64).map (64 * d + ·)).Nodup :=
  (upTo_nodup 64).map fun _ _ h => Nat.add_left_cancel h

theorem tempDecision_steady (n d : Nat) (m : Module) : Steady m (tempDecision n d m) := by
  unfold tempDecision
  dsimp only
  split
  · split
    · exact setNets_steady ..
    · exact .foldl (fun m c => updCore_steady c _ m) _ m
  · exact (Steady.foldl (fun m c => updCore_steady c _ m) _ m).trans (setNets_steady ..)

theorem tempDecision_core_other (n d : Nat) (m : Module) (c : Nat) (h : c / 64 ≠ d) :
    (tempDecision n d m).core c = m.core c := by
  have out := mt (mem_die c d).1 h
  unfold tempDecision
  dsimp only
  split
  · split
    · exact setNets_core ..
    · rw [core_foldl_updCore _ (die_nodup d), if_neg out]
  · rw [setNets_core, core_foldl_updCore _ (die_nodup d), if_neg out]

theorem tempDecision_core {n : Nat} (hn : n ≤ 4) (m : Module) (c : Nat) :
    ∃ b, (tempDecision n (c / 64) m).core c = { m.core c with tempClk := b } ∧
      TempStep (Sparse.get 0 m.pm.tDie (c / 64)) (m.core c).tempClk b := by
  have inl := (mem_die c (c / 64)).2 rfl
  unfold tempDecision
  dsimp only
  split
  case isTrue hot =>
    replace hot := of_decide_eq_true hot
    split
    · exact ⟨(m.core c).tempClk, setNets_core .., by omega, by omega⟩
    · rw [core_foldl_updCore _ (die_nodup _), if_pos inl]
      refine ⟨_, rfl, ?_⟩
      simp only [clkMin, Nat.max_eq_max]
      constructor <;> omega
  case isFalse cool =>
    replace cool : ¬ 100 ≤ Sparse.get 0 m.pm.tDie (c / 64) := fun h => cool (decide_eq_true h)
    rw [setNets_core, core_foldl_updCore _ (die_nodup _), if_pos inl]
    refine ⟨_, rfl, ?_⟩
    simp only [clkMax, Nat.min_eq_min]
    constructor <;> omega

/-- The decisions of all dies: each core has that of its own. -/
theorem tempDecisions_core {n : Nat} (hn : n ≤ 4) (m : Module) {c : Nat} (hc : c < 512) :
    ∃ b, ((upTo 8).foldl (fun m d => tempDecision n d m) m).core c = { m.core c with tempClk := b } ∧
      TempStep (Sparse.get 0 m.pm.tDie (c / 64)) (m.core c).tempClk b := by
  refine (core_foldl (op := fun m d => tempDecision n d m) (key := (· / 64)) (I := fun p => p.pm.tDie = m.pm.tDie)
    (R := fun c x z => ∃ b, z = { x with tempClk := b } ∧ TempStep (Sparse.get 0 m.pm.tDie (c / 64)) x.tempClk b)
    (fun p d hp => (tempDecision_steady n d p).tDie.trans hp) (fun p d c => tempDecision_core_other n d p c)
    (fun p c hp => ?_) (upTo_nodup 8) rfl c).2 (List.mem_range.2 (by omega))
  rw [← hp]
  exact tempDecision_core hn p c

/-! The clock itself (R24, R26) -/

/-- What becomes of a core's clock at a stamp: it is, or within 2 µs will be, the lower of what power and temperature
allow. -/
structure ClkStep (now : Nat) (x z : CoreSt) : Prop where
  rest : { z with clk := x.clk, clkNext := x.clkNext } = x
  lower : z.clk ≤ x.clk
  reach : (z.clk = Nat.min z.capClk z.tempClk ∧ z.clkNext = none) ∨
    z.clkNext = some (Nat.min z.capClk z.tempClk, now + 2000)

/-- What a clock step leaves as it is. -/
theorem ClkStep.frame {now a b : Nat} {x z : CoreSt} (h : ClkStep now { x with capClk := a, tempClk := b } z) :
    z.capClk = a ∧ z.tempClk = b ∧
      { z with capClk := x.capClk, tempClk := x.tempClk, clk := x.clk, clkNext := x.clkNext } = x :=
  ⟨congrArg CoreSt.capClk h.rest, congrArg CoreSt.tempClk h.rest,
    congrArg (fun k : CoreSt => { k with capClk := x.capClk, tempClk := x.tempClk }) h.rest⟩

theorem setClk_core (m : Module) (c : Nat) : ClkStep m.now (m.core c) ((setClk c m).core c) := by
  unfold setClk
  rw [Module.updCore_eq, Module.setCore_core, if_pos rfl]
  dsimp only
  split
  case isTrue h => exact ⟨rfl, Nat.le_refl _, .inl h⟩
  case isFalse => exact ⟨rfl, Nat.min_le_left .., .inr rfl⟩

theorem setClk_core_other (m : Module) (a c : Nat) (h : c ≠ a) : (setClk a m).core c = m.core c := by
  simp [setClk, h]

theorem setClks_core (m : Module) {c : Nat} (hc : c < 512) :
    ClkStep m.now (m.core c) (((upTo 512).foldl (fun m c => setClk c m) m).core c) := by
  refine (core_foldl (op := fun m c => setClk c m) (key := id) (I := fun p => p.time = m.time)
    (R := fun _ => ClkStep m.now) (fun p a hp => (setClk_steady a p).time.trans hp) setClk_core_other
    (fun p c hp => ?_) (upTo_nodup 512) rfl c).2 (List.mem_range.2 hc)
  rw [← show p.now = m.now from congrArg Time.now hp]
  exact setClk_core p c

/-! The power manager's commands -/

theorem accrueThrot_frame (m : Module) :
    ∃ y, accrueThrot m = { m with parts := y, pm := { m.pm with throtAt := m.now } } := by
  have frame (l : List Nat) (f : Part → Part) (p : Module) :
      ∃ y, l.foldl (fun m a => m.updPart a f) p = { p with parts := y } := by
    induction l generalizing p with
    | nil => exact ⟨p.parts, rfl⟩
    | cons a l ih => obtain ⟨y, h⟩ := ih (p.updPart a f); exact ⟨y, h⟩
  unfold accrueThrot
  dsimp only
  obtain ⟨y, h⟩ := frame _ _ m
  rw [h]
  exact ⟨y, rfl⟩

/-- The clocks that a decision sets, in steps of n: what the cap calls for, then each die's temperature, then the lower of
the two. -/
def setClocks (n : Nat) (m : Module) : Module :=
  (upTo 512).foldl (fun m c => setClk c m) ((upTo 8).foldl (fun m d => tempDecision n d m) (capDecision n m))

theorem powerDecision_eq (m : Module) (h : m.pm.lastDec + 100000 ≤ m.now) : ∃ n y p q, n ≤ 4 ∧
    p = { m with parts := y, draw := m.draw + 1, pm := { m.pm with throtAt := m.now, lastDec := m.now } } ∧
    q = setClocks n p ∧ powerDecision m = noteActivity { q with pm := { q.pm with ran := [], awake := [] } } := by
  obtain ⟨y, hy⟩ := accrueThrot_frame m
  unfold powerDecision
  rw [if_neg (by rw [Config.decisionNs]; omega), hy]
  refine ⟨1 + (Config.freeWord m.draw).toNat % 4, y, _, _, by omega, rfl, rfl, ?_⟩
  simp only [stepsFree, Module.fresh, Module.now, setClocks]

theorem setClocks_steady (n : Nat) (m : Module) : Steady m (setClocks n m) :=
  ((capDecision_steady n m).trans (.foldl (fun m d => tempDecision_steady n d m) _ _)).trans
    (.foldl (fun m c => setClk_steady c m) _ _)

theorem setClocks_core {n : Nat} (hn : n ≤ 4) (m : Module) {c : Nat} (hc : c < 512) : ∃ a b,
    CapStep (avgPower m) (1000 * m.pm.cap) (m.core c).capClk a ∧
    TempStep (Sparse.get 0 m.pm.tDie (c / 64)) (m.core c).tempClk b ∧
    ClkStep m.now { m.core c with capClk := a, tempClk := b } ((setClocks n m).core c) := by
  have capped := capDecision_steady n m
  have heated := Steady.foldl (fun m d => tempDecision_steady n d m) (upTo 8) (capDecision n m)
  obtain ⟨a, ha, capStep⟩ := capDecision_core hn m c
  obtain ⟨b, hb, tempStep⟩ := tempDecisions_core hn (capDecision n m) hc
  have clkStep := setClks_core ((upTo 8).foldl (fun m d => tempDecision n d m) (capDecision n m)) hc
  rw [capped.tDie, ha] at tempStep
  rw [hb, ha, show Module.now _ = m.now from congrArg Time.now (capped.trans heated).time] at clkStep
  exact ⟨a, b, capStep, tempStep, clkStep⟩

theorem powerDecision_early (m : Module) (h : m.now < m.pm.lastDec + 100000) : powerDecision m = m := by
  unfold powerDecision
  rw [if_pos (by rw [Config.decisionNs]; exact h)]

/-- A decision is noted, and every core's clock takes the three steps. -/
theorem powerDecision_steps (m : Module) (h : m.pm.lastDec + 100000 ≤ m.now) :
    (powerDecision m).pm.lastDec = m.now ∧ ∀ c, c < 512 → ∃ a b,
      CapStep (avgPower m) (1000 * m.pm.cap) (m.core c).capClk a ∧
      TempStep (Sparse.get 0 m.pm.tDie (c / 64)) (m.core c).tempClk b ∧
      ClkStep m.now { m.core c with capClk := a, tempClk := b } ((powerDecision m).core c) := by
  obtain ⟨n, y, p, q, hn, hp, hq, e⟩ := powerDecision_eq m h
  have steady := setClocks_steady n p
  have steps := fun c => setClocks_core (c := c) hn p
  rw [← hq] at steady steps
  rw [e]
  subst hp
  exact ⟨steady.lastDec, steps⟩

/-- A value of n bits has no bit above them, as PWRCAP asks of what is written to it (18 R549). -/
theorem and_not_low_eq_zero {v : Word} {n : Nat} (h : v.toNat < 2 ^ n) :
    v &&& ~~~(BitVec.ofNat 64 (2 ^ n - 1)) = 0 := by
  apply BitVec.eq_of_getLsbD_eq
  intro i hi
  by_cases hn : i < n
  · simp [hi, hn, BitVec.getLsbD_ofNat, Nat.testBit_two_pow_sub_one]
  · have high : v.getLsbD i = false :=
      Nat.testBit_lt_two_pow (h.trans_le (Nat.pow_le_pow_right (by decide) (Nat.le_of_not_lt hn)))
    simp [high]

theorem writePwrcap_fits {m : Module} {v : Word} (cat : catOn m 15 = true) (h : v.toNat < 2 ^ 13) :
    rsvOk (some 0) 0 0x1FFF v (writePwrcap 0 v.toNat) m =
      { m with pm := { m.pm with cap := Nat.max 3000 (Nat.min 6000 v.toNat) } } := by
  have fits : v &&& ~~~0x1FFF = 0 := and_not_low_eq_zero (n := 13) h
  rw [rsvOk, if_neg (not_not.2 fits), writePwrcap, physOnly, if_pos rfl, gated, if_pos cat]

/-! Temperatures (17 R535) -/

theorem temperature_die_quiet {d : BitVec 3} {c : Nat} {m : Module} (h : c < 100 ∨ 100 ≤ Sparse.get 0 m.pm.tDie d.toNat) :
    temperature (.computeDie d) c m = { m with pm := { m.pm with tDie := Sparse.set 0 m.pm.tDie d.toNat c } } := by
  unfold temperature
  dsimp only [sensorLimit, tempOf, readTemp]
  split
  case isTrue => rfl
  case isFalse crossed =>
    have below : ¬ 100 ≤ c := fun hc => crossed (by simp [hc, h.resolve_left (Nat.not_lt.2 hc)])
    simp only [below, decide_false, Bool.false_eq_true, if_false]

theorem temperature_die_reaches {d : BitVec 3} {c : Nat} {m : Module} (was : Sparse.get 0 m.pm.tDie d.toNat < 100)
    (h : 100 ≤ c) :
    temperature (.computeDie d) c m = irq 0 4 { m with pm := { m.pm with tDie := Sparse.set 0 m.pm.tDie d.toNat c } } := by
  simp only [temperature, sensorLimit, tempOf, readTemp, h, Nat.not_le.2 was, decide_true, decide_false,
    Bool.false_eq_true, if_true, if_false]

theorem temperature_lpddr_reaches {c : Nat} {m : Module} (was : m.pm.tLpddr < 85) (h : 85 ≤ c) :
    temperature .lpddr c m = irq 0 4 { m with pm := { m.pm with tLpddr := c, refresh2x := true } } := by
  simp only [temperature, sensorLimit, tempOf, readTemp, h, Nat.not_le.2 was, decide_true, decide_false,
    Bool.false_eq_true, if_true, if_false]
  rfl

theorem temperature_lpddr_leaves {c : Nat} {m : Module} (was : 85 ≤ m.pm.tLpddr) (h : c < 85) :
    temperature .lpddr c m = { m with pm := { m.pm with tLpddr := c, refresh2x := false } } := by
  simp only [temperature, sensorLimit, tempOf, readTemp, was, Nat.not_le.2 h, decide_true, decide_false,
    Bool.true_eq_false, Bool.false_eq_true, if_false]

theorem temperature_portDie_reaches {c : Nat} {m : Module} (was : m.pm.tPort < 100) (h : 100 ≤ c) :
    temperature .portDie c m = led 0x0906 sevWarn atModule [Config.ledgerNo 0x0906 1, c, 1]
      (irq 0 4 { m with pm := { m.pm with tPort := c } }) := by
  simp only [temperature, sensorLimit, sensorKind, tempOf, readTemp, h, Nat.not_le.2 was, decide_true, decide_false,
    Bool.false_eq_true, if_true, if_false]

theorem temperature_optical_leaves {c : Nat} {m : Module} (was : 75 ≤ m.pm.tOptical) (h : c < 75) :
    temperature .optical c m =
      led 0x0906 sevWarn atModule [Config.ledgerNo 0x0906 3, c, 0] { m with pm := { m.pm with tOptical := c } } := by
  simp only [temperature, sensorLimit, sensorKind, tempOf, readTemp, was, Nat.not_le.2 h, decide_true, decide_false,
    Bool.true_eq_false, Bool.false_eq_true, if_false]

/-! What the commands answer -/

theorem clockChangeEffect_gives {s : State} {c : BitVec 9} {k t : Nat} (on : s.mod.on = true)
    (h : (s.mod.core c.toNat).clkNext = some (k, t)) :
    ∃ q, Gives (.clockChangeEffect c) s q ∧
      q.core c.toNat = { s.mod.core c.toNat with clk := k, clkNext := none } := by
  obtain ⟨y, hy⟩ := accrueThrot_frame s.mod
  refine ⟨_, (lift_on on : execClockChangeEffect c s = _), ?_⟩
  simp only [h, hy, Module.updCore_eq, Module.setCore_core, if_true]
  rfl

section
variable {s : State} (on : s.mod.on = true) (lib : s.mod.boot.lib = true)
include on lib

theorem powerTelemetrySample_gives (w : Nat) : Gives (.powerTelemetrySample w) s
    { s.mod with pm := { s.mod.pm with
        samples := (s.mod.pm.samples.filter fun e => decide (s.mod.now < e.1 + 1000000)) ++ [(s.mod.now, w)] } } := by
  change execPowerTelemetrySample w s = _
  rw [execPowerTelemetrySample, liftL_lib on lib]

theorem powerDecision_gives : Gives .powerDecision s (powerDecision s.mod) := liftL_lib on lib

theorem temperatureLimit_gives (x : Sensor) (c : Nat) : Gives (.temperatureLimit x c) s (temperature x c s.mod) :=
  liftL_lib on lib

theorem pwrcapWrite_gives {v : Word} (up : hostUp s.mod 0 = true) (cat : catOn s.mod 15 = true) (h : v.toNat < 2 ^ 13) :
    Gives (.pwrcapWrite 0 v) s
      { s.mod with pm := { s.mod.pm with cap := Nat.max 3000 (Nat.min 6000 v.toNat) } } := by
  change execPwrcapWrite 0 v s = _
  rw [execPwrcapWrite, liftW, liftL_lib on lib, if_pos (by exact up), if_pos rfl, writePwrcap_fits cat h]

end

/-- Settles O27: a decision by the cap's, the dies' and the clocks' steps; the rest by what its command answers. -/
theorem powerAndTemperature : Obligations.PowerAndTemperature := by
  intro s on lib
  have answers := temperatureLimit_gives on lib
  refine ⟨powerTelemetrySample_gives on lib, fun early => ?_, fun h => ?_, fun c k t h => clockChangeEffect_gives on h,
    fun v => pwrcapWrite_gives on lib, fun d c => ⟨fun h => ?_, fun was h => ?_⟩,
    fun c => ⟨fun was h => ?_, fun was h => ?_, fun was h => ?_, fun was h => ?_⟩⟩
  · exact powerDecision_early s.mod early ▸ powerDecision_gives on lib
  · obtain ⟨noted, steps⟩ := powerDecision_steps s.mod h
    refine ⟨_, powerDecision_gives on lib, noted, fun c hc => ?_⟩
    obtain ⟨a, b, cap, temp, clk⟩ := steps c hc
    generalize (powerDecision s.mod).core c = z at clk ⊢
    obtain ⟨hcap, htemp, rest⟩ := clk.frame
    subst hcap htemp
    exact ⟨cap.down, cap.same, cap.up, temp.down, temp.up, clk.lower, clk.reach, rest⟩
  · exact temperature_die_quiet h ▸ answers _ c
  · exact temperature_die_reaches was h ▸ answers _ c
  · exact temperature_lpddr_reaches was h ▸ answers _ c
  · exact temperature_lpddr_leaves was h ▸ answers _ c
  · exact temperature_portDie_reaches was h ▸ answers _ c
  · exact temperature_optical_leaves was h ▸ answers _ c

end Sys2Proof.Machine

namespace Sys2Proof.Machine

/-! The module at reset (O50). A part that the reset state does not list reads as its initial value; of the parts that the
obligation names only partition 0 is listed, for its binding. -/

theorem reset_part (p : Nat) : State.reset.mod.part p = Part.init (if p = 0 then 0 else 15) := by
  change Sparse.get (Part.init 15) [(0, Part.init 0)] p = _
  rw [Sparse.get_cons]
  split
  · rfl
  · rfl

/-- No die is lent out at reset, so that main memory reads as zero (08 R285). -/
theorem reset_dieHasLoan (d : Nat) : dieHasLoan State.reset.mod d = false := by
  rw [dieHasLoan, reset_part]
  rfl

theorem reset_byte (a : Nat) : State.reset.mod.byte a = 0 := by
  have raw : State.reset.mod.raw a = 0 := rfl
  simp [Module.byte, reset_dieHasLoan, raw]

theorem reset_isBad (a : Nat) : State.reset.mod.isBad a = false := by
  have bad : State.reset.mod.bad = [] := rfl
  simp [Module.isBad, reset_dieHasLoan, bad]

theorem reset_reg (t : ThreadNo) (r : Reg) : State.reset.mod.reg t r = 0 := by
  have none : (State.reset.mod.thread t).regs = [] := rfl
  simp [Module.reg, Thread.reg, none]

theorem reset_mark (t : ThreadNo) (r : Reg) : State.reset.mod.mark t r = false := by
  have none : (State.reset.mod.thread t).marks = [] := rfl
  simp [Module.mark, Thread.mark, none]

/-- Settles O50: the parts that are not listed by their initial values, the partitions, registers and bytes by the lemmas
above. -/
theorem resetState : Obligations.ResetState := by
  have bind (p : Nat) (h : p ≠ 0) : (State.reset.mod.part p).bind = 15 := by rw [reset_part, if_neg h]; rfl
  have closed (p : Nat) : (State.reset.mod.part p).st = .closed := by rw [reset_part]; rfl
  exact ⟨rfl, rfl, rfl, rfl, rfl, rfl, rfl, rfl, rfl, rfl,
    fun _ => ⟨rfl, rfl, rfl⟩,
    fun t => ⟨rfl, fun r => ⟨reset_reg t r, reset_mark t r⟩⟩,
    fun _ => ⟨rfl, rfl, rfl⟩,
    ⟨rfl, bind⟩, closed,
    fun _ => rfl, fun _ => ⟨rfl, rfl⟩,
    fun a => ⟨reset_byte a, reset_isBad a⟩, wf_reset,
    rfl, rfl, rfl⟩

end Sys2Proof.Machine

namespace Sys2Proof.Machine

/-! Rounding of a magnitude (O5). Above or below its last kept bit a magnitude is a quotient of natural numbers, and the
roundings act on that quotient's whole part and remainder. -/

/-- Rounding of a / b to a whole number; of r random bits 16 are compared with the top of the fraction. -/
def roundQuot (mode : RMode) (a b : Nat) : Nat :=
  match mode with
  | .trunc => a / b
  | .rne => if b < 2 * (a % b) ∨ (2 * (a % b) = b ∧ a / b % 2 = 1) then a / b + 1 else a / b
  | .sr r => if r < a % b * 65536 / b then a / b + 1 else a / b

theorem roundQuot_one (mode : RMode) (a : Nat) : roundQuot mode a 1 = a := by
  cases mode <;> simp [roundQuot, Nat.mod_one]

theorem zpow_eq_pow_toNat {i : Int} (h : 0 ≤ i) : (2 : ℚ) ^ i = 2 ^ i.toNat := by
  rw [← zpow_natCast, Int.toNat_of_nonneg h]

/-- Every rounding of m × 2^e at the weight 2^q is that of one quotient. -/
theorem roundAt_eq_roundQuot (m : Nat) (e q : Int) : ∃ a b : Nat, 0 < b ∧ (m : ℚ) * 2 ^ (e - q) = a / b ∧
    ∀ mode, roundAt mode m e q = roundQuot mode a b := by
  by_cases h : q ≤ e
  · refine ⟨m * 2 ^ (e - q).toNat, 1, one_pos, ?_, fun mode => ?_⟩
    · rw [zpow_eq_pow_toNat (sub_nonneg.2 h)]
      push_cast
      rw [div_one]
    · rw [roundAt, if_pos h, roundQuot_one]
  · refine ⟨m, 2 ^ (q - e).toNat, Nat.two_pow_pos _, ?_, fun mode => ?_⟩
    · rw [← neg_sub q e, zpow_neg, zpow_eq_pow_toNat (by omega), ← div_eq_mul_inv]
      push_cast
      rfl
    · rw [roundAt, if_neg h]
      cases mode <;> rfl

theorem roundQuot_trunc (a b : Nat) : (roundQuot .trunc a b : ℤ) = ⌊(a : ℚ) / b⌋ :=
  (Rat.floor_natCast_div_natCast a b).symm

/-- The top 16 bits of the part below the whole part. -/
theorem floor_top16 (a b : Nat) : ⌊65536 * ((a : ℚ) / b - ⌊(a : ℚ) / b⌋)⌋ = (a % b * 65536 / b : Nat) := by
  rw [Int.self_sub_floor, Int.fract_div_natCast_eq_div_natCast_mod, mul_comm, div_mul_eq_mul_div]
  exact_mod_cast Rat.floor_natCast_div_natCast (a % b * 65536) b

/-- Stochastic rounding goes up where the random bits are below the top 16 bits of the part below the whole part. -/
theorem roundQuot_sr (r a b : Nat) : (roundQuot (.sr r) a b : ℤ) =
    ⌊(a : ℚ) / b⌋ + if (r : ℤ) < ⌊65536 * ((a : ℚ) / b - ⌊(a : ℚ) / b⌋)⌋ then 1 else 0 := by
  simp only [floor_top16, Nat.cast_lt]
  rw [← roundQuot_trunc, roundQuot, roundQuot]
  split <;> simp

/-- Nearest-even keeps the whole part below a fraction of one half and goes up above it; at one half it takes the even
neighbour. -/
theorem roundQuot_rne_cases (a b : Nat) :
    (roundQuot .rne a b = a / b ∧ 2 * (a % b) ≤ b ∧ (2 * (a % b) = b → a / b % 2 = 0)) ∨
    (roundQuot .rne a b = a / b + 1 ∧ b ≤ 2 * (a % b) ∧ (2 * (a % b) = b → (a / b + 1) % 2 = 0)) := by
  by_cases up : b < 2 * (a % b) ∨ (2 * (a % b) = b ∧ a / b % 2 = 1)
  · exact .inr ⟨if_pos up, by omega, by omega⟩
  · exact .inl ⟨if_neg up, by omega, by omega⟩

section
variable {a b : Nat} (pos : 0 < b)
include pos

theorem top16_le : a % b * 65536 / b ≤ 65536 :=
  Nat.div_le_of_le_mul (Nat.mul_le_mul_right _ (Nat.mod_lt a pos).le)

/-- Twice the distance of a quotient from a whole number, as a multiple of 1 / b. -/
theorem two_mul_abs_quot_sub (n : Nat) : 2 * |(a : ℚ) / b - n| = (2 * |(a : ℤ) - b * n| : ℤ) / b := by
  have b_pos : (0 : ℚ) < b := Nat.cast_pos.2 pos
  have scaled : (a : ℚ) / b - n = (a - b * n) / b := by rw [sub_div, mul_div_cancel_left₀ _ b_pos.ne']
  rw [scaled, abs_div, abs_of_pos b_pos]
  push_cast
  rw [mul_div_assoc]

theorem roundQuot_rne_near : 2 * |(a : ℚ) / b - roundQuot .rne a b| ≤ 1 ∧
    (2 * |(a : ℚ) / b - roundQuot .rne a b| = 1 → roundQuot .rne a b % 2 = 0) := by
  have b_pos : (0 : ℚ) < b := Nat.cast_pos.2 pos
  have whole_rest : (b : ℤ) * (a / b : Nat) + (a % b : Nat) = a := by exact_mod_cast Nat.div_add_mod a b
  have rest_lt := Nat.mod_lt a pos
  rw [two_mul_abs_quot_sub pos, div_le_one b_pos, div_eq_one_iff_eq b_pos.ne',
    ← Int.cast_natCast (R := ℚ) b, Int.cast_le, Int.cast_inj]
  obtain ⟨kept, near, tie⟩ | ⟨kept, near, tie⟩ := roundQuot_rne_cases a b
  · have rest : (a : ℤ) - b * (a / b : Nat) = (a % b : Nat) := by linear_combination -whole_rest
    rw [kept, rest, Nat.abs_cast]
    exact ⟨by omega, fun h => tie (by omega)⟩
  · have rest : (a : ℤ) - b * (a / b + 1 : Nat) = (a % b : Nat) - b := by
      rw [Nat.cast_succ]
      linear_combination -whole_rest
    rw [kept, rest, abs_of_nonpos (by omega)]
    exact ⟨by omega, fun h => tie (by omega)⟩

end

/-- What a fraction with denominator n leaves of a number that it is the floor of. -/
theorem abs_sub_floor_mul_div_lt {n : ℚ} (pos : 0 < n) (y : ℚ) : |y - ⌊n * y⌋ / n| < 1 / n := by
  have left : y - ⌊n * y⌋ / n = Int.fract (n * y) / n := by rw [Int.fract, sub_div, mul_div_cancel_left₀ _ pos.ne']
  rw [left, abs_of_nonneg (div_nonneg (Int.fract_nonneg _) pos.le)]
  exact div_lt_div_of_pos_right (Int.fract_lt_one _) pos

theorem length_filter_lt_range {d n : Nat} (h : d ≤ n) : ((List.range n).filter fun r => decide (r < d)).length = d := by
  rw [← List.Ico.zero_bot, List.Ico.filter_lt, List.Ico.length, Nat.sub_zero, Nat.min_eq_right h]

/-- Settles O5: each rounding is that of a quotient, where the whole part and the remainder say what it does. -/
theorem roundingModes : Obligations.RoundingModes := by
  intro m r e q
  obtain ⟨a, b, pos, quot, round⟩ := roundAt_eq_roundQuot m e q
  dsimp only
  simp only [round, quot]
  have away (r : Nat) : (roundQuot (.sr r) a b : ℤ) = ⌊(a : ℚ) / b⌋ + 1 ↔ r < a % b * 65536 / b := by
    simp only [roundQuot_sr, floor_top16, Nat.cast_lt, add_right_inj, ite_eq_left_iff, zero_ne_one, imp_false, not_not]
  refine ⟨roundQuot_trunc a b, roundQuot_rne_near pos, roundQuot_sr r a b, ?_, abs_sub_floor_mul_div_lt (by norm_num) _⟩
  simp only [away, floor_top16]
  rw [length_filter_lt_range (top16_le pos)]

end Sys2Proof.Machine

namespace Sys2Proof.Machine

/-! The cell of the ME on finite operands (O16). A finite value has a rational number; sums and products of finite values are
finite and exact, so that the accumulator add is the one place that rounds. -/

namespace FVal

/-- The number that a finite value is; 0 for an infinity and for a NaN. -/
def toRat : FVal → ℚ
  | .fin n m e => (if n then -1 else 1) * (m : ℚ) * 2 ^ e
  | _ => 0

/-- The value is finite. -/
def Finite (x : FVal) : Prop := ∃ n m e, x = .fin n m e

theorem finite_fin (n : Bool) (m : Nat) (e : Int) : (FVal.fin n m e).Finite := ⟨n, m, e, rfl⟩

theorem Finite.not_nan {x : FVal} (h : x.Finite) : x.isNan = false := by
  obtain ⟨n, m, e, rfl⟩ := h
  rfl

theorem Finite.ne_inf {x : FVal} (h : x.Finite) (n : Bool) : x ≠ .inf n := by
  obtain ⟨_, _, _, rfl⟩ := h
  nofun

/-- A value's count at a weight that its own divides is exact. -/
theorem count_mul_zpow {n : Bool} {m : Nat} {e q : Int} (h : q ≤ e) :
    (count q (.fin n m e) : ℚ) * 2 ^ q = toRat (.fin n m e) := by
  have weight : (2 : ℚ) ^ (e - q).toNat * 2 ^ q = 2 ^ e := by
    rw [← zpow_eq_pow_toNat (sub_nonneg.2 h), ← zpow_add₀ two_ne_zero, sub_add_cancel]
  cases n <;> simp [count, toRat, mul_assoc, weight]

theorem ofCount_finite (c q : Int) (z : Bool) : (ofCount c q z).Finite := by
  unfold ofCount
  split <;> exact finite_fin ..

theorem ofCount_toRat (c q : Int) (z : Bool) : (ofCount c q z).toRat = c * 2 ^ q := by
  have magnitude : (c.natAbs : ℚ) = |(c : ℚ)| := by rw [Nat.cast_natAbs, Int.cast_abs]
  unfold ofCount
  split
  case isTrue h => simp [toRat, h]
  case isFalse h =>
    by_cases neg : c < 0
    · simp [toRat, neg, magnitude, abs_of_neg (Int.cast_lt_zero.2 neg)]
    · simp [toRat, neg, magnitude, abs_of_nonneg (Int.cast_nonneg (Int.not_lt.1 neg))]

theorem Finite.add {x y : FVal} (hx : x.Finite) (hy : y.Finite) :
    (FVal.add x y).Finite ∧ (FVal.add x y).toRat = x.toRat + y.toRat := by
  obtain ⟨n, m, e, rfl⟩ := hx
  obtain ⟨n', m', e', rfl⟩ := hy
  refine ⟨ofCount_finite .., ?_⟩
  rw [← count_mul_zpow (Int.min_le_left e e'), ← count_mul_zpow (Int.min_le_right e e'), ← add_mul, ← Int.cast_add]
  exact ofCount_toRat ..

theorem Finite.mul {x y : FVal} (hx : x.Finite) (hy : y.Finite) :
    (FVal.mul x y).Finite ∧ (FVal.mul x y).toRat = x.toRat * y.toRat := by
  obtain ⟨n, m, e, rfl⟩ := hx
  obtain ⟨n', m', e', rfl⟩ := hy
  refine ⟨finite_fin .., ?_⟩
  have sign : (if n != n' then -1 else 1 : ℚ) = (if n then -1 else 1) * (if n' then -1 else 1) := by
    cases n <;> cases n' <;> simp
  change (if n != n' then -1 else 1 : ℚ) * (m * m' : Nat) * 2 ^ (e + e') = _
  rw [sign, zpow_add₀ two_ne_zero, Nat.cast_mul, toRat, toRat]
  ring

theorem foldl_add {ps : List FVal} (h : ∀ p ∈ ps, p.Finite) {x : FVal} (hx : x.Finite) :
    (ps.foldl FVal.add x).Finite ∧ (ps.foldl FVal.add x).toRat = x.toRat + (ps.map toRat).sum := by
  induction ps generalizing x with
  | nil => simpa using hx
  | cons p ps ih =>
    obtain ⟨hp, hps⟩ := List.forall_mem_cons.1 h
    obtain ⟨fin, sum⟩ := hx.add hp
    obtain ⟨fin', sum'⟩ := ih hps fin
    exact ⟨fin', by rw [List.foldl_cons, sum', sum, List.map_cons, List.sum_cons, add_assoc]⟩

end FVal

open FVal

theorem sumOf_finite {ps : List FVal} (h : ∀ p ∈ ps, p.Finite) :
    (sumOf ps).Finite ∧ (sumOf ps).toRat = (ps.map toRat).sum := by
  cases ps with
  | nil => exact ⟨finite_fin .., by simp [sumOf, toRat]⟩
  | cons p ps =>
    obtain ⟨hp, hps⟩ := List.forall_mem_cons.1 h
    exact foldl_add hps hp

/-- A product of finite values creates no NaN. -/
theorem mulC_finite {x y : FVal} (hx : x.Finite) (hy : y.Finite) : mulC x y = (FVal.mul x y, false) := by
  rw [mulC, (hx.mul hy).1.not_nan]
  rfl

/-- Finite products of which none created a NaN create none together. -/
theorem groupCreates_finite {ps : List (FVal × Bool)} (h : ∀ p ∈ ps, p.1.Finite ∧ p.2 = false) :
    groupCreates ps = false := by
  have product : ps.any (·.2) = false := List.any_eq_false.2 fun p hp => by simp [(h p hp).2]
  have infinite : (ps.any fun p => p.1 == .inf true) = false :=
    List.any_eq_false.2 fun p hp => by simpa using (h p hp).1.ne_inf true
  rw [groupCreates, product, infinite]
  rfl

theorem accAdd_finite {a g : FVal} (mode : RMode) (ha : a.Finite) (hg : g.Finite) :
    accAdd mode a g = ((arith mode (FVal.add a g)).1, (arith mode (FVal.add a g)).2, false) := by
  rw [accAdd, (ha.add hg).1.not_nan]
  rfl

/-- The products of finite operands, and their exact sum. -/
theorem sumOf_products {xs : List (FVal × FVal)} (h : ∀ p ∈ xs, p.1.Finite ∧ p.2.Finite) :
    (sumOf (xs.map fun p => FVal.mul p.1 p.2)).Finite ∧
      (sumOf (xs.map fun p => FVal.mul p.1 p.2)).toRat = (xs.map fun p => p.1.toRat * p.2.toRat).sum := by
  have products (p) (hp : p ∈ xs) := (h p hp).1.mul (h p hp).2
  obtain ⟨fin, sum⟩ := sumOf_finite (List.forall_mem_map.2 fun p hp => (products p hp).1)
  refine ⟨fin, sum.trans ?_⟩
  rw [List.map_map]
  exact congrArg List.sum (List.map_congr_left fun p hp => (products p hp).2)

/-- On the exact path a cell rounds the exact sum of the accumulator and the products. -/
theorem cellStep_exact (rne : Bool) {acc : W32} {xs : List (FVal × FVal)} (hacc : (f32 acc).Finite)
    (hxs : ∀ p ∈ xs, p.1.Finite ∧ p.2.Finite) :
    cellStep 0 false false rne acc xs =
      arith (if rne then .rne else .trunc) (FVal.add (f32 acc) (sumOf (xs.map fun p => FVal.mul p.1 p.2))) := by
  have products : (xs.map fun p => mulC p.1 p.2) = xs.map fun p => (FVal.mul p.1 p.2, false) :=
    List.map_congr_left fun p hp => mulC_finite (hxs p hp).1 (hxs p hp).2
  have clean : groupCreates (xs.map fun p => (FVal.mul p.1 p.2, false)) = false :=
    groupCreates_finite (List.forall_mem_map.2 fun p hp => ⟨((hxs p hp).1.mul (hxs p hp).2).1, rfl⟩)
  unfold cellStep
  simp only [products, List.map_map, Function.comp_def, clean, accAdd_finite _ hacc (sumOf_products hxs).1,
    OfNat.zero_ne_ofNat, zero_ne_one, if_false, Bool.or_self, Bool.false_eq_true, List.append_nil]

/-- Settles O16: the sum that the cell rounds is finite, and is the exact one. -/
theorem exactGroupSum : Obligations.ExactGroupSum := by
  intro rne acc xs n k e _ hacc hxs val
  have val_eq : val = toRat := funext fun v => by cases v <;> rfl
  have operands (p) (hp : p ∈ xs) : p.1.Finite ∧ p.2.Finite := by
    obtain ⟨a, i, b, j, c, l, rfl⟩ := hxs p hp
    exact ⟨finite_fin .., finite_fin ..⟩
  have accumulator : (f32 acc).Finite := ⟨n, k, e, hacc⟩
  obtain ⟨products, sum⟩ := sumOf_products operands
  obtain ⟨⟨n', k', e', total⟩, exactAdd⟩ := accumulator.add products
  refine ⟨n', k', e', ?_, total ▸ cellStep_exact rne accumulator operands⟩
  rw [val_eq, ← total, exactAdd, sum]

end Sys2Proof.Machine

namespace Sys2Proof.Machine

open Sys2Proof.Safety

/-! Boot, the catalogue and attestation (O47; 15 R501, R502; 17 R542 to R546) -/

/-- The image check reads the image store alone. -/
theorem imageCheck_congr {m p : Module} (h : m.boot.store = p.boot.store) : imageCheck m = imageCheck p := by
  have bytes : storeBytes m = storeBytes p := by
    funext lo n
    rw [storeBytes, storeBytes, h]
  have fields : hdr m = hdr p := by
    funext lo n
    rw [hdr, hdr, bytes]
  rw [imageCheck, imageCheck, bytes, fields]

/-- An entry of the attestation log changes the log and its digest alone. -/
theorem attest_frame (e : BitVec 512) (m : Module) : ∃ y, attest e m = { m with att := y } := by
  unfold attest
  split
  · exact ⟨m.att, rfl⟩
  · exact ⟨_, rfl⟩

@[simp] theorem attest_boot (e : BitVec 512) (m : Module) : (attest e m).boot = m.boot := by
  obtain ⟨y, h⟩ := attest_frame e m
  rw [h]

@[simp] theorem attest_cat (e : BitVec 512) (m : Module) : (attest e m).cat = m.cat := by
  obtain ⟨y, h⟩ := attest_frame e m
  rw [h]

@[simp] theorem linkUp_boot (m : Module) : (linkUp m).boot = m.boot := by
  unfold linkUp
  split
  · simp only [led_same]
  · rfl

theorem foldl_retire_boot (ks : List Nat) (m : Module) :
    (ks.foldl (fun m k => retire (k / 16) (k % 16) 0 m) m).boot = m.boot :=
  foldl_keeps (I := fun p => p.boot = m.boot) (fun p k h => by simp only [retire_same, h]) ks rfl

theorem startLib_boot (m : Module) :
    (startLib m).boot = { m.boot with st := .running, cause := 0, lib := true, restartClose := true } := by
  unfold startLib
  rw [linkUp_boot, foldl_retire_boot]
  split
  · simp only [attest_boot]
  · simp only [led_same, attest_boot]

/-- The module with one more boot attempt counted. -/
def attempted (m : Module) : Module := { m with boot := { m.boot with attempts := satAdd 32 m.boot.attempts 1 } }

theorem imageCheck_attempted (m : Module) : imageCheck (attempted m) = imageCheck m := imageCheck_congr rfl

/-- BOOTGO in the open window counts an attempt and checks the image. -/
theorem bootGo_window {m : Module} (lib : m.boot.lib = false) (window : m.boot.st = .window) (perst : m.boot.perstN = true) :
    bootGo 0 m = bootCheck (attempted m) := by
  unfold bootGo
  rw [if_neg (by simp [lib, window, perst]), attempted]

theorem bootCheck_bad {m : Module} {c : Nat} (bad : imageCheck m = some c) :
    bootCheck m = { m with boot := { m.boot with st := .window, cause := c } } := by
  rw [bootCheck, bad]

theorem bootCheck_good {m : Module} (good : imageCheck m = none) : bootCheck m = startLib m := by
  rw [bootCheck, good]

theorem ready_holds {m : Module} (first : m.boot.ready = false) (trained : portsTrained m = true)
    (aligned : m.time.everAligned = true) (renewed : m.boot.renewed = true) (catalogue : m.boot.catalogue = true)
    (spdm : m.boot.spdm = true) :
    ready m = irq 0 4 { m with boot := { m.boot with ready := true, trained := true },
                               out := { m.out with tray := m.out.tray ++ [.ready] } } := by
  unfold ready
  rw [if_neg (by simp [first, trained, aligned, renewed, catalogue]), toTray, if_pos (by exact spdm)]

/-- The published catalogue is the low 16 bits of the value (Table 17.10). -/
theorem getLsbD_and_catalogueBits (v : BitVec 256) {k : Nat} (h : k < 256) :
    (v &&& BitVec.ofNat 256 Config.catalogueBits).getLsbD k = (v.getLsbD k && decide (k < 16)) := by
  rw [Config.catalogueBits, BitVec.getLsbD_and, BitVec.getLsbD_ofNat, show 0xFFFF = 2 ^ 16 - 1 from rfl,
    Nat.testBit_two_pow_sub_one, decide_eq_true h, Bool.true_and]

theorem catAccept_published {v : BitVec 256} {m : Module} (first : m.cat.accepted = false) (h : v &&& ~~~m.cat.pub = 0) :
    (catAccept 0 v m).cat = { m.cat with accepted := true, en := v } ∧ (catAccept 0 v m).boot.catalogue = true := by
  unfold catAccept
  rw [if_neg (not_not.2 rfl), if_neg (by simp [first]), if_neg (not_not.2 h), attest_cat, attest_boot]
  exact ⟨rfl, rfl⟩

theorem catAccept_unpublished {v : BitVec 256} {m : Module} (first : m.cat.accepted = false) (h : v &&& ~~~m.cat.pub ≠ 0) :
    catAccept 0 v m = undefFn 0 m := by
  unfold catAccept
  rw [if_neg (not_not.2 rfl), if_neg (by simp [first]), if_pos h]

theorem challenge_quote {f : Fn} {m : Module} (c : BitVec 256) (p : Nat) (sees : seesFn m f = true) :
    ((challenge f c p m).func f.val).quote = some (quoteOf m f c p) := by
  simp [challenge, sees]

/-! Registers of a context with commands of their own (02 R67; 03 R100; 13 R435) -/

/-- A write of a context register that its writer sees, at a state the register takes. -/
theorem onCtx_takes {w : By} {slot off v : Nat} {ok : Ctx → Bool} {f : Module → Module} {m : Module}
    (sees : seesCtx m w slot = true) (present : (m.ctx slot).state ≠ .free) (takes : ok (m.ctx slot) = true) :
    onCtx w slot off v ok f m = f m := by
  simp [onCtx, sees, present, takes]

/-- Bit 8a + b of a word with the six event bits of one set, as ERRSUM holds them (18 Table 18.7). -/
theorem getLsbD_setBits (s : Nat) {a b : Nat} (ha : a < 4) (hb : b < 6) :
    ((0x3F : BitVec 32) <<< (8 * s)).getLsbD (8 * a + b) = decide (a = s) := by
  have six (i : Nat) : (0x3F : BitVec 32).getLsbD i = (decide (i < 32) && decide (i < 6)) := by
    rw [← Nat.testBit_two_pow_sub_one 6 i, ← BitVec.getLsbD_ofNat]
    rfl
  rw [BitVec.getLsbD_shiftLeft, six, Bool.eq_iff_iff]
  simp only [Bool.and_eq_true, Bool.not_eq_true', decide_eq_true_eq, decide_eq_false_iff_not]
  omega

/-- ERRSUM without the events of those sets of a list that hit names. -/
theorem getLsbD_clearSets (hit : Nat → Bool) (l : List Nat) (x : BitVec 32) {a b : Nat} (ha : a < 4) (hb : b < 6) :
    (l.foldl (fun y s => if hit s then y &&& ~~~((0x3F : BitVec 32) <<< (8 * s)) else y) x).getLsbD (8 * a + b) =
      (x.getLsbD (8 * a + b) && !(decide (a ∈ l) && hit a)) := by
  induction l generalizing x with
  | nil => simp
  | cons s l ih =>
    have inside : 8 * a + b < 32 := by omega
    rw [List.foldl_cons, ih]
    by_cases named : hit s
    · rw [if_pos named, BitVec.getLsbD_and, BitVec.getLsbD_not, getLsbD_setBits s ha hb, decide_eq_true inside]
      by_cases same : a = s <;> simp [same, named]
    · rw [if_neg named]
      by_cases same : a = s <;> simp [same, named]

theorem clearErr_errsum (slot : Nat) (k : BitVec 4) (m : Module) {a b : Nat} (ha : a < 4) (hb : b < 6) :
    ((clearErr slot k m).ctx slot).errsum.getLsbD (8 * a + b) =
      ((m.ctx slot).errsum.getLsbD (8 * a + b) && !k.getLsbD a) := by
  have cleared := getLsbD_clearSets (fun s => k.getLsbD s) (upTo 4) (m.ctx slot).errsum ha hb
  rw [show decide (a ∈ upTo 4) = true from decide_eq_true (List.mem_range.2 ha), Bool.true_and] at cleared
  rw [← cleared, clearErr, Module.updCtx_eq, Module.setCtx_ctx, if_pos rfl]
  rfl

/-- A field of CTXCTL that the catalogue offers and the context takes is set; one that holds the value already keeps it. -/
theorem ctlField_sets {w : By} {slot bit_ word : Nat} {v cur : Bool} {ok : Ctx → Bool} {set : Ctx → Ctx} {m : Module}
    (offered : catOn m bit_ = true) (takes : ok (m.ctx slot) = true) (same : v = cur → set (m.ctx slot) = m.ctx slot) :
    (ctlField w slot bit_ v cur ok set word m).ctx slot = set (m.ctx slot) ∧
      (ctlField w slot bit_ v cur ok set word m).cat = m.cat := by
  by_cases h : v = cur
  · rw [ctlField, if_pos h]
    exact ⟨(same h).symm, rfl⟩
  · rw [ctlField, if_neg h, if_neg (by simp [offered]), if_pos takes]
    exact ⟨by simp, rfl⟩

theorem writeCtxctl_regs {w : By} {slot : Nat} {v : Word} {m : Module} (sees : seesCtx m w slot = true)
    (created : (m.ctx slot).state = .created) (abort : catOn m 4 = true) (rnd : catOn m 14 = true) :
    ((writeCtxctl w slot v m).ctx slot).r =
      { (m.ctx slot).r with abort := bit v 2, keep := bit v 1, rnd := bit v 0 } := by
  rw [writeCtxctl, onCtx_takes sees (by simp [created]) rfl]
  dsimp only
  have abort_same (h : bit v 2 = (m.ctx slot).r.abort) :
      { m.ctx slot with r := { (m.ctx slot).r with abort := bit v 2 } } = m.ctx slot := by rw [h]
  obtain ⟨first, cat⟩ := ctlField_sets (w := w) (word := v.toNat) (ok := fun x => x.state == .created)
    (set := fun x => { x with r := { x.r with abort := bit v 2 } }) abort (by simp [created]) abort_same
  generalize ctlField w slot 4 _ _ _ _ _ m = p at first cat ⊢
  have rnd_same (h : bit v 0 = (m.ctx slot).r.rnd) :
      { p.ctx slot with r := { (p.ctx slot).r with rnd := bit v 0 } } = p.ctx slot := by rw [h, first]
  obtain ⟨second, -⟩ := ctlField_sets (w := w) (word := v.toNat) (ok := fun _ => true) (m := p)
    (set := fun x => { x with r := { x.r with rnd := bit v 0 } }) (by rw [catOn, cat]; exact rnd) rfl rnd_same
  rw [Module.updCtx_eq, Module.setCtx_ctx, if_pos rfl, second, first]

/-- LOANID of a partition, written through the physical function (18 Table 18.5). -/
theorem writePartition_loanid {p : Nat} {m : Module} (part : isPart m p = true) (v : Word) :
    writePartition 0 p 0x20 v m = m.updPart p fun q => { q with loanid := v } := by
  have fits : v &&& ~~~full = 0 := by simp [full]
  have act : partAct 0 p 0x20 v m =
      regAct full (physPart 0 p 0x20 v.toNat fun m => m.updPart p fun q => { q with loanid := v }) := by rw [partAct]
  rw [writePartition, if_neg (by simp [part, seesPart]), act, regAct, runAct, rsvOk, if_neg (not_not.2 fits)]
  dsimp only
  rw [physPart, if_neg (by simp [part]), if_pos rfl]

/-! What the commands answer -/

theorem fencePtComplete_gives {s : State} (on : s.mod.on = true) (w : BitVec 6) :
    Gives (.fencePtComplete w) s (endFences w.toNat s.mod) := lift_on on

theorem bootgo_gives {s : State} (on : s.mod.on = true) (f : Fn) : Gives (.bootgo f) s (bootGo f s.mod) := lift_on on

section
variable {s : State} (on : s.mod.on = true) (perst : s.mod.boot.perstN = true) (lib : s.mod.boot.lib = false)
  (window : s.mod.boot.st = .window)
include on perst lib window

/-- BOOTGO while the window is open and the host link is up. -/
theorem bootgo_window_gives : Gives (.bootgo 0) s (bootCheck (attempted s.mod)) :=
  bootGo_window lib window perst ▸ bootgo_gives on 0

theorem bootgo_bad_gives {c : Nat} (bad : imageCheck s.mod = some c) : Gives (.bootgo 0) s
    { s.mod with boot :=
      { s.mod.boot with st := .window, cause := c, attempts := satAdd 32 s.mod.boot.attempts 1 } } :=
  bootCheck_bad ((imageCheck_attempted _).trans bad) ▸ bootgo_window_gives on perst lib window

theorem bootgo_good_gives (good : imageCheck s.mod = none) : Gives (.bootgo 0) s (startLib (attempted s.mod)) :=
  bootCheck_good ((imageCheck_attempted _).trans good) ▸ bootgo_window_gives on perst lib window

end

section
variable {s : State} (on : s.mod.on = true) (lib : s.mod.boot.lib = true)
include on lib

theorem spdmSessionOpen_gives :
    Gives .spdmSessionOpen s { s.mod with boot := { s.mod.boot with spdm := true } } := by
  change execSpdmSessionOpen s = _
  rw [execSpdmSessionOpen, liftL_lib on lib]

theorem ready_gives : Gives .ready s (ready s.mod) := liftL_lib on lib

theorem catpubPublish_gives (first : s.mod.cat.published = false) (v : BitVec 256) : Gives (.catpubPublish v) s
    (irq 0 4 { s.mod with
      cat := { s.mod.cat with published := true, pub := v &&& BitVec.ofNat 256 Config.catalogueBits } }) := by
  change execCatpubPublish v s = _
  rw [execCatpubPublish, liftL_lib on lib, if_neg (by simp [first])]

theorem ideKm_gives (perst : s.mod.boot.perstN = true) (identity : s.mod.boot.identity = true) (f : Fn) :
    Gives (.ideKm f) s (s.mod.updFunc f.val fun y => { y with ide := true }) := by
  change execIdeKm f s = _
  rw [execIdeKm, liftL_lib on lib, if_pos (by simp [perst, identity])]

section
variable {f : Fn} (up : hostUp s.mod f.val = true)
include up

/-- A register write of a function that reaches the Librarian has its effect. -/
theorem liftW_reaches (k : Module → Module) : liftW (some f) k s = .next { s with mod := k s.mod } := by
  rw [liftW, liftL_lib on lib, if_pos (by exact up)]

theorem attchal_gives (c : BitVec 256) (p : BitVec 3) : Gives (.attchal f c p) s (challenge f c p.toNat s.mod) :=
  liftW_reaches on lib up _

theorem cataccept_gives (v : BitVec 256) : Gives (.cataccept f v) s (catAccept f v s.mod) := liftW_reaches on lib up _

theorem ptinv_gives {slot : BitVec 6} (sees : seesCtx s.mod (some f) slot.toNat = true)
    (present : (s.mod.ctx slot.toNat).state ≠ .free) (bound : isBound s.mod f.val (s.mod.ctx slot.toNat).part = true)
    (ce : Bool) (c : CtrNo) : Gives (.ptinv f slot ce c) s
      (endFences slot.toNat (startFence slot.toNat none (if ce then some c else none) s.mod)) := by
  change execPtinv f slot ce c s = _
  rw [execPtinv, liftW_reaches on lib up, ptInv, onCtx_takes sees present bound]

theorem errclr_gives {slot : BitVec 6} (sees : seesCtx s.mod (some f) slot.toNat = true)
    (present : (s.mod.ctx slot.toNat).state ≠ .free) (k : BitVec 4) :
    Gives (.errclr (some f) slot k) s (clearErr slot.toNat k s.mod) := by
  change execErrclr (some f) slot k s = _
  rw [execErrclr, liftW_reaches on lib up, errClr, onCtx_takes sees present rfl]

theorem ctxctlWrite_gives {slot : BitVec 6} {v : Word} (sees : seesCtx s.mod (some f) slot.toNat = true) (h : v.toNat < 8) :
    Gives (.ctxctlWrite f slot v) s (writeCtxctl (some f) slot.toNat v s.mod) := by
  have fits : v &&& ~~~7 = 0 := and_not_low_eq_zero (n := 3) h
  change execCtxctlWrite f slot v s = _
  rw [execCtxctlWrite, liftW_reaches on lib up, if_pos sees, rsvOk, if_neg (not_not.2 fits)]

end

/-- LOANID of partition 0 is written through the physical function (18 Table 18.5). -/
theorem registerWrite_loanid_gives (perst : s.mod.boot.perstN = true) (up : hostUp s.mod 0 = true)
    (part : isPart s.mod 0 = true) (v : Word) :
    Gives (.registerWrite 0 0x20020 8 v) s (s.mod.updPart 0 fun p => { p with loanid := v }) := by
  have register : loancmdAt (0x20020 : BitVec 26).toNat 8 = none := rfl
  have block : writeBar0 0 (0x20020 : BitVec 26).toNat 8 v s.mod = writePartition 0 0 0x20 v s.mod := by
    simp [writeBar0, write8]
  change execRegisterWrite 0 0x20020 8 v s = _
  unfold execRegisterWrite
  dsimp only
  rw [if_neg (by simp [on, perst]), if_neg (by simp [lib]), if_neg (by simpa [reaches] using up), register]
  dsimp only
  rw [lift_on on, if_neg (by decide), block, writePartition_loanid part]

end

/-- Settles O47: each clause by what its command answers. -/
theorem bootCatalogueAndRegisters : Obligations.BootCatalogueAndRegisters := by
  intro f slot s on perst
  refine ⟨fencePtComplete_gives on, fun lib window ⟨c, bad⟩ => ?_, fun lib window good => ?_, fun lib => ?_⟩
  · exact ⟨_, bootgo_bad_gives on perst lib window bad, lib, rfl, bad.symm, rfl⟩
  · have booted := congrArg Boot.st (startLib_boot (attempted s.mod))
    have running := congrArg Boot.lib (startLib_boot (attempted s.mod))
    exact ⟨_, bootgo_good_gives on perst lib window good, running, booted⟩
  refine ⟨spdmSessionOpen_gives on lib, fun first trained aligned renewed catalogue spdm => ?_, fun first v => ?_,
    fun identity => ideKm_gives on lib perst identity f, fun up => ⟨fun c p sees => ?_, ?_, ?_, fun sees present => ?_⟩⟩
  · exact ready_holds first trained aligned renewed catalogue spdm ▸ ready_gives on lib
  · exact ⟨_, catpubPublish_gives on lib first v, rfl, fun k => getLsbD_and_catalogueBits v⟩
  · exact ⟨_, _, attchal_gives on lib up c p, challenge_quote c p.toNat sees, rfl, rfl, rfl, rfl, rfl,
      fun phys => by rw [quoteOf, if_pos phys]⟩
  · rintro v rfl first
    refine ⟨fun published => ?_, fun unpublished => ?_⟩
    · obtain ⟨cat, accepted⟩ := catAccept_published first published
      exact ⟨_, cataccept_gives on lib up v, by rw [cat], by rw [cat], accepted⟩
    · exact catAccept_unpublished first unpublished ▸ cataccept_gives on lib up v
  · rintro v rfl part
    exact registerWrite_loanid_gives on lib perst up part v
  · refine ⟨fun ce c bound => ptinv_gives on lib up sees present bound ce c, fun k => ?_, fun v low abort rnd created => ?_⟩
    · exact ⟨_, errclr_gives on lib up sees present k, fun a b ha hb => clearErr_errsum _ k s.mod ha hb⟩
    · refine ⟨_, ctxctlWrite_gives on lib up sees low, ?_⟩
      rw [writeCtxctl_regs sees created abort rnd]
      exact ⟨rfl, rfl, rfl⟩

end Sys2Proof.Machine

namespace Sys2Proof.Machine

open Sys2Proof.Safety

/-! Fences, counters, WAIT, HALT and TSTART (O9 to O11; 03 R75 to R77, R100, R108, R112; 04 R124, R134 to R137) -/

section
variable {m : Module} {slot : Nat} {t : ThreadNo}

theorem ownStores_eq_false (h : ∀ w ∈ m.writes, w.t ≠ t) : ownStores m t = false :=
  List.any_eq_false.2 fun w hw => by simpa using h w hw

theorem ownRemote_eq_false (h : ∀ f ∈ m.fab.flights ++ m.fab.waiting, f.who ≠ .store t) : ownRemote m t = false := by
  rw [ownRemote, ← List.any_append]
  exact List.any_eq_false.2 fun f hf => by simpa using h f hf

theorem bodyFenceL_done (h : ownStores m t = false) : bodyFenceL t slot m = retireI slot t m := by
  rw [bodyFenceL, if_neg (by simp [h])]

theorem bodyFenceG_done (h : ownStores m t = false) (g : ownRemote m t = false) :
    bodyFenceG t slot m = retireI slot t m := by
  rw [bodyFenceG, if_neg (by simp [h, g])]

theorem bodyCinc_done {r : Reg} {c : CtrNo} (h : ownStores m t = false) (clean : m.mark t r = false) :
    bodyCinc t r c slot m = retireI slot t (addCtr slot c (lo32 (m.reg t r)) m) := by
  rw [bodyCinc, if_neg (by simp [clean]), if_neg (by simp [h])]

/-- Settles O9: each clause by the body of its instruction. -/
theorem fencesCountersAndHalts : Obligations.FencesCountersAndHalts := by
  refine ⟨fun t rd c s slot m issues => ⟨fun stores => ?_, ?_, ?_, ?_, ?_⟩, fun t s slot m issues => scalar_issues issues _ _⟩
  · have none_waits := ownStores_eq_false stores
    exact ⟨scalar_next issues (bodyFenceL_done none_waits),
      fun remote => scalar_next issues (bodyFenceG_done none_waits (ownRemote_eq_false remote)),
      fun clean => scalar_next issues (bodyCinc_done none_waits clean)⟩
  · exact scalar_issues issues _ (bodyFencePt t)
  · exact scalar_issues issues _ (bodyHalt t)
  · exact scalar_issues issues _ (bodyStamp t rd)
  · exact scalar_issues issues _ (bodyCrd t rd c)

/-- What a counter holds after an addition to one of its context's counters (03 R113). -/
theorem addCtr_ctr (c d : CtrNo) (n : W32) :
    ((addCtr slot d n m).ctx slot).ctr c = (m.ctx slot).ctr c + if c = d then n else 0 := by
  by_cases h : c = d <;> simp [addCtr, Ctx.ctr, BitVec.toNat_inj, h]

section
variable {r : Reg} {c : CtrNo} (clean : m.mark t r = false)
include clean

theorem bodyWait_reached (h : 0 ≤ ((m.ctx slot).ctr c - lo32 (m.reg t r)).toInt) :
    bodyWait t r c slot m = retireI slot t m := by
  have near : (m.ctx slot).ctr c - lo32 (m.reg t r) ≠ 0x80000000#32 := fun far => absurd (far ▸ h) (by decide)
  rw [bodyWait, if_neg (by simp [clean])]
  dsimp only
  rw [if_neg near, reached, if_pos (by simpa using h)]

theorem bodyWait_stalls (h : ((m.ctx slot).ctr c - lo32 (m.reg t r)).toInt < 0)
    (near : (m.ctx slot).ctr c - lo32 (m.reg t r) ≠ 0x80000000#32) :
    bodyWait t r c slot m = stallOn t (.counter c (lo32 (m.reg t r))) m := by
  rw [bodyWait, if_neg (by simp [clean])]
  dsimp only
  rw [if_neg near, reached, if_neg (by simpa using h)]

theorem bodyWait_far (far : (m.ctx slot).ctr c - lo32 (m.reg t r) = 0x80000000#32) :
    bodyWait t r c slot m = undefCtx slot m := by
  rw [bodyWait, if_neg (by simp [clean])]
  dsimp only
  rw [if_pos far]

end

/-- Settles O10: the three cases of the signed difference, and the wrapping sum. -/
theorem waitOnACounter : Obligations.WaitOnACounter := fun _ _ c _ _ _ issues clean =>
  ⟨fun passed => scalar_next issues (bodyWait_reached clean passed),
    fun short near => scalar_next issues (bodyWait_stalls clean short near),
    fun far => scalar_next issues (bodyWait_far clean far),
    fun n => by rw [addCtr_ctr, if_pos rfl]⟩

/-- Clearing the low bits of a word is division and multiplication by a power of two. -/
theorem and_not_low_eq_ofNat (w : Word) (k : Nat) :
    w &&& ~~~(BitVec.ofNat 64 (2 ^ k - 1)) = BitVec.ofNat 64 (w.toNat / 2 ^ k * 2 ^ k) := by
  refine BitVec.eq_of_getLsbD_eq fun i hi => ?_
  simp only [BitVec.getLsbD_and, BitVec.getLsbD_not, BitVec.getLsbD_ofNat, Nat.testBit_two_pow_sub_one, hi, decide_true,
    Bool.true_and, Nat.mul_comm _ (2 ^ k), Nat.testBit_two_pow_mul, Nat.testBit_div_two_pow]
  by_cases low : i < k
  · simp [low]
  · have high : k ≤ i := Nat.not_lt.1 low
    simp [low, high, Nat.sub_add_cancel high, BitVec.getLsbD]

theorem target_eq (w : Word) : target w = BitVec.ofNat 64 (w.toNat / 4 * 4) := and_not_low_eq_ofNat w 2

section
variable {rd ra rb : Reg} (cleanD : m.mark t rd = false) (cleanA : m.mark t ra = false) (cleanB : m.mark t rb = false)
include cleanD cleanA cleanB

theorem bodyTstart_refused (h : ¬((m.reg t ra).toNat < 2 ^ 17 ∧ (m.ctx slot).r.cores.getLsbD ((m.reg t ra).toNat / 256) = true)) :
    bodyTstart t rd ra rb slot m = ctxFault slot (pageFault .notOwned (m.thread t).pc (srcOf t)) m := by
  rw [bodyTstart, if_neg (by simp [cleanD, cleanA, cleanB])]
  dsimp only
  rw [if_pos (by simpa [not_and_or, -not_and] using h)]

theorem bodyTstart_owned (h : (m.reg t ra).toNat < 2 ^ 17 ∧ (m.ctx slot).r.cores.getLsbD ((m.reg t ra).toNat / 256) = true) :
    bodyTstart t rd ra rb slot m =
      if (m.thread (BitVec.ofNat 17 (m.reg t ra).toNat)).running then wrote slot t rd 1 false m
      else wrote slot t rd 0 false (startThread slot (BitVec.ofNat 17 (m.reg t ra).toNat) (m.reg t rb) (m.reg t rd) m) := by
  obtain ⟨small, owned⟩ := h
  rw [bodyTstart, if_neg (by simp [cleanD, cleanA, cleanB])]
  dsimp only
  rw [if_neg (by rw [owned]; simpa using small)]
  rfl

end

/-- The thread that a start leaves: g1 to g3 as R75 and R76 give them, its outstanding commands kept. -/
theorem startThread_thread (u v : ThreadNo) (entry arg : Word) :
    (startThread slot u entry arg m).thread v = if v = u then
      (((({ Thread.idle with running := true, pc := target entry, outCmds := (m.thread u).outCmds } : Thread).setReg 1
        (BitVec.ofNat 64 (threadIndex (m.ctx slot) u)) false).setReg 2 (BitVec.ofNat 64 m.num) false).setReg 3 arg false)
      else m.thread v := by
  rw [startThread, Module.setThread_thread]

theorem threadIndex_eq (x : Ctx) (u : ThreadNo) : threadIndex x u =
    256 * ((List.range 512).filter fun k => x.r.cores.getLsbD k && decide (k < u.toNat / 256)).length + u.toNat % 256 := by
  have both : (coresOf x.r.cores).filter (fun c => decide (c < u.core)) =
      (List.range 512).filter fun k => x.r.cores.getLsbD k && decide (k < u.toNat / 256) := by
    rw [coresOf, List.filter_filter]
    exact List.filter_congr fun k _ => Bool.and_comm ..
  rw [threadIndex, both]

theorem startThread_started (u : ThreadNo) (entry arg : Word) :
    ((startThread slot u entry arg m).thread u).running = true ∧
    ((startThread slot u entry arg m).thread u).pc = BitVec.ofNat 64 (entry.toNat / 4 * 4) := by
  simp only [startThread_thread, if_true, Thread.setReg_running, Thread.setReg_pc, target_eq, and_self]

theorem startThread_reg (u : ThreadNo) (entry arg : Word) (r : Reg) : (startThread slot u entry arg m).reg u r =
    if r = 3 then arg else if r = 2 then BitVec.ofNat 64 m.num
    else if r = 1 then BitVec.ofNat 64 (threadIndex (m.ctx slot) u) else 0 := by
  have fresh : ({ Thread.idle with running := true, pc := target entry, outCmds := (m.thread u).outCmds } : Thread).reg r = 0 := by
    simp [Thread.reg, Thread.idle]
  simp only [Module.reg, startThread_thread, if_true, Thread.setReg_reg, fresh]
  by_cases h3 : r = 3
  · subst h3; rfl
  · by_cases h2 : r = 2
    · subst h2; rfl
    · by_cases h1 : r = 1
      · subst h1; rfl
      · simp only [h1, h2, h3, false_and, if_false]

/-- Settles O11: TSTART by its three cases, and what a start leaves. -/
theorem threadStarts : Obligations.ThreadStarts := by
  refine ⟨fun t rd ra rb s slot m issues cleanD cleanA cleanB => ⟨fun owned halted => ?_, fun owned runs => ?_, fun foreign => ?_⟩,
    fun slot u entry arg m => ?_⟩
  · exact scalar_next issues ((bodyTstart_owned cleanD cleanA cleanB owned).trans (if_neg (by rw [halted]; decide)))
  · exact scalar_next issues ((bodyTstart_owned cleanD cleanA cleanB owned).trans (if_pos runs))
  · exact scalar_next issues (bodyTstart_refused cleanD cleanA cleanB foreign)
  · obtain ⟨running, pc⟩ := startThread_started (slot := slot) (m := m) u entry arg
    refine ⟨running, pc, fun r h1 h2 h3 => ?_, ?_, ?_, ?_, fun v other => ?_⟩
    · rw [startThread_reg, if_neg h3, if_neg h2, if_neg h1]
    · rw [startThread_reg, ← threadIndex_eq]; rfl
    · exact startThread_reg u entry arg 2
    · exact startThread_reg u entry arg 3
    · rw [startThread_thread, if_neg other]

end

/-! Completion of an engine command (O19; 03 R110, 04 R140) -/

/-- Settling a context changes at most its state. -/
theorem settle_ctx (slot i : Nat) (m : Module) : ∃ st, (settle slot m).ctx i = { m.ctx i with state := st } := by
  unfold settle
  dsimp only
  split
  · rw [Module.updCtx_eq, Module.setCtx_ctx]
    split
    · subst i; exact ⟨_, rfl⟩
    · exact ⟨_, rfl⟩
  · exact ⟨_, rfl⟩

theorem bumpCtr_ctr (slot : Nat) (en : Bool) (c d : CtrNo) (m : Module) :
    ((bumpCtr slot en d m).ctx slot).ctr c = (m.ctx slot).ctr c + if c = d ∧ en = true then 1 else 0 := by
  cases en <;> simp [bumpCtr, addCtr_ctr]

/-- What a completion that is no timeout and had no due stamp changes of its context (07 R249). -/
theorem complete_ctx {i : Iss} {m : Module} (undue : i.due = none) (gen : (m.ctx i.slot).gen.toNat = i.gen)
    (up : (m.ctx i.slot).state ≠ .teardown) : ∃ st, (complete i true m).ctx i.slot =
      { (bumpCtr i.slot i.fin.ce i.fin.ctr m).ctx i.slot with
        ovd := { ((bumpCtr i.slot i.fin.ce i.fin.ctr m).ctx i.slot).ovd with lastProgress := m.now }, state := st } := by
  rw [complete, if_pos ⟨gen, up⟩, undue]
  dsimp only
  obtain ⟨st, ctx⟩ := settle_ctx i.slot i.slot (progress i.slot
    ((bumpCtr i.slot i.fin.ce i.fin.ctr m).updThread i.t fun t => { t with outCmds := t.outCmds - 1 }))
  exact ⟨st, ctx.trans (by simp [progress])⟩

theorem complete_outCmds {i : Iss} {m : Module} (undue : i.due = none) (gen : (m.ctx i.slot).gen.toNat = i.gen)
    (up : (m.ctx i.slot).state ≠ .teardown) :
    ((complete i true m).thread i.t).outCmds = (m.thread i.t).outCmds - 1 := by
  rw [complete, if_pos ⟨gen, up⟩, undue]
  simp

/-- Settles O19: the counter, the thread and the context of a completion. -/
theorem engineCommandCompletes : Obligations.EngineCommandCompletes := by
  intro i m undue gen up
  obtain ⟨st, ctx⟩ := complete_ctx undue gen up
  have ctr (c : CtrNo) : ((complete i true m).ctx i.slot).ctr c =
      (m.ctx i.slot).ctr c + if c = i.fin.ctr ∧ i.fin.ce = true then 1 else 0 := by
    rw [ctx, ← bumpCtr_ctr]
    rfl
  refine ⟨complete_outCmds undue gen up, ?_, fun c other => ?_, by rw [ctx]⟩
  · simp only [ctr, true_and]
  · rw [ctr, if_neg fun same => other same.1]
    exact BitVec.add_zero _

end Sys2Proof.Machine

namespace Sys2Proof.Machine

open Sys2Proof.Safety

/-! Loads, stores and atomic operations issue (O7; 03 R93, R94, R104, R105; 04 R133, R134; 08 R277, R279) -/

/-! Bytes of words -/

/-- The bytes of a number, least significant first. -/
theorem leBytes_eq_map (n v : Nat) : leBytes n v = (List.range n).map fun k => BitVec.ofNat 8 (v / 2 ^ (8 * k)) := by
  induction n generalizing v with
  | zero => rfl
  | succ n ih =>
    rw [leBytes, ih, List.range_succ_eq_map, List.map_cons, List.map_map]
    congr 1
    · simp
    · refine List.map_congr_left fun k _ => ?_
      rw [Function.comp_apply, Nat.div_div_eq_div_mul, show 2 ^ (8 * k.succ) = 256 * 2 ^ (8 * k) by rw [Nat.mul_succ, Nat.pow_add]; omega]

/-- The n low bytes of a word, as a store takes them. -/
theorem leBytes_toNat (n : Nat) (w : Word) : leBytes n w.toNat = (List.range n).map fun k => w.extractLsb' (8 * k) 8 := by
  rw [leBytes_eq_map]
  refine List.map_congr_left fun k _ => ?_
  rw [BitVec.extractLsb', Nat.shiftRight_eq_div_pow]

@[simp] theorem leBytes_length (n v : Nat) : (leBytes n v).length = n := by simp [leBytes_eq_map]

theorem leNat_leBytes (n v : Nat) : leNat (leBytes n v) = v % 2 ^ (8 * n) := by
  induction n generalizing v with
  | zero => simp [leBytes, leNat, Nat.mod_one]
  | succ n ih =>
    rw [leBytes, leNat, ih, BitVec.toNat_ofNat, Nat.mul_succ, Nat.pow_add, Nat.mul_comm (2 ^ (8 * n)), ← Nat.mod_mul]

/-! Loads -/

section
variable {m p : Module} {slot : Nat} {t : ThreadNo}

theorem misaligned_eq_false {n : Nat} {c : Word} (h : c.toNat % n = 0) : misaligned n c = false := by simp [misaligned, h]

theorem misaligned_eq_true {n : Nat} {c : Word} (h : c.toNat % n ≠ 0) : misaligned n c = true := by simp [misaligned, h]

section
variable {n : Nat} {signed : Bool} {rd ra : Reg} {i : BitVec 14} {c : Word} (clean : m.mark t ra = false)
  (call : m.reg t ra + imm14 i = c)
include clean call

/-- A load whose address passes its checks waits for its value, and asks for it where it is remote. -/
theorem bodyLoad_located {loc : Loc} (lands : locate slot .read n c t m = (p, .ok loc)) :
    bodyLoad n signed t rd ra i slot m =
      let q := awaitValue t { rd := rd, op := .ld n signed, call := c, loc := loc, value := none, timedOut := false, got := [] } p
      if loc = .remote then (scalarTxs q slot .read n c).foldl (fun m x => askScalar slot t (.load t) x m) q else q := by
  subst call
  rw [bodyLoad, if_neg (by simp [clean])]
  dsimp only
  rw [lands]

theorem bodyLoad_refused {f : FaultInfo} (fails : locate slot .read n c t m = (p, .error f)) :
    bodyLoad n signed t rd ra i slot m = ctxFault slot f p := by
  subst call
  rw [bodyLoad, if_neg (by simp [clean])]
  dsimp only
  rw [fails]

end

theorem scalarTxs_aligned {k : TxKind} {n : Nat} {c : Word} (h : c.toNat % n = 0) :
    scalarTxs m slot k n c = [{ baseTx m slot k (callDst c) (callAddr c) with len := n }] := by
  rw [scalarTxs, if_neg (by simp [misaligned_eq_false h])]

theorem scalarTxs_misaligned {k : TxKind} {n : Nat} {c : Word} (h : c.toNat % n ≠ 0) :
    scalarTxs m slot k n c = (List.range n).map fun i =>
      { baseTx m slot k (callDst (c + BitVec.ofNat 64 i)) (callAddr (c + BitVec.ofNat 64 i)) with len := 1 } := by
  rw [scalarTxs, if_pos (misaligned_eq_true h)]
  rfl

/-! Stores -/

section
variable {n : Nat} {rs ra : Reg} {i : BitVec 14} {c : Word} (clean : m.mark t ra = false)
  (call : m.reg t ra + imm14 i = c)
include clean call

theorem bodyStore_memory {pas : List Nat}
    (lands : locate slot .write n c t m = (p, .ok (.mem pas))) :
    bodyStore n t rs ra i slot m = if m.mark t rs && toMain pas then ctxFault slot (poisonFault c t) p
      else passI t (pendStore slot t c (pas.zip (leBytes n (m.reg t rs).toNat)) (m.mark t rs) p) := by
  subst call
  rw [bodyStore, if_neg (by simp [clean])]
  dsimp only
  rw [lands]
  rfl

theorem bodyStore_control {off : Nat}
    (lands : locate slot .write n c t m = (p, .ok (.ctl off))) :
    bodyStore n t rs ra i slot m = if m.mark t rs then useFault slot t p
      else retireI slot t (writeCtl slot off n (BitVec.ofNat 64 ((m.reg t rs).toNat % 2 ^ (8 * n))) p) := by
  subst call
  rw [bodyStore, if_neg (by simp [clean])]
  dsimp only
  rw [lands, leNat_leBytes]

theorem bodyStore_remote (lands : locate slot .write n c t m = (p, .ok .remote)) :
    bodyStore n t rs ra i slot m =
      if m.mark t rs && callSpace c == 0 then ctxFault slot (poisonFault c t) p
      else passI t (sendStore slot t c (leBytes n (m.reg t rs).toNat) (m.mark t rs) p) := by
  subst call
  rw [bodyStore, if_neg (by simp [clean])]
  dsimp only
  rw [lands]
  rfl

/-- A store that is aligned to its size and fails its check stores nothing. -/
theorem bodyStore_refused {f : FaultInfo} (aligned : c.toNat % n = 0)
    (fails : locate slot .write n c t m = (p, .error f)) :
    bodyStore n t rs ra i slot m = ctxFault slot f p := by
  subst call
  rw [bodyStore, if_neg (by simp [clean])]
  dsimp only
  rw [fails]
  dsimp only
  rw [strayStore, if_neg (by simp [misaligned_eq_false aligned])]

end

theorem sendStore_aligned {c : Word} {bytes : List Byte} {bad : Bool} (h : c.toNat % bytes.length = 0) :
    sendStore slot t c bytes bad m = askScalar slot t (.store t)
      { baseTx m slot .write (callDst c) (callAddr c) with
        len := bytes.length, payload := bytes, bad := if bad then [0] else [] } m := by
  rw [sendStore, scalarTxs_aligned h]
  simp

theorem range_zipIdx (n : Nat) : (List.range n).zipIdx = (List.range n).map fun k => (k, k) :=
  List.ext_getElem (by simp) fun i _ _ => by simp

/-- A store to another module that is not aligned sends each of its bytes. -/
theorem sendStore_misaligned {n : Nat} {c : Word} (f : Nat → Byte) {bad : Bool} (h : c.toNat % n ≠ 0) :
    sendStore slot t c ((List.range n).map f) bad m = (List.range n).foldl (fun q k =>
      askScalar slot t (.store t)
        { baseTx m slot .write (callDst (c + BitVec.ofNat 64 k)) (callAddr (c + BitVec.ofNat 64 k)) with
          len := 1, payload := [f k], bad := if bad then [0] else [] } q) m := by
  rw [sendStore, List.length_map, List.length_range, scalarTxs_misaligned h, List.zipIdx_map, range_zipIdx, List.map_map,
    List.foldl_map]
  refine List.foldl_ext _ _ _ fun q k hk => ?_
  have byte : (((List.range n).map f).drop k).take 1 = [f k] := by
    rw [List.take_one_drop_eq_of_lt_length (by simpa using hk)]
    simp
  dsimp only [Function.comp_apply, Prod.map, id]
  rw [byte]

/-! Waiting writes -/

/-- What a waiting write writes, for which thread and context. -/
def PWrite.what (w : PWrite) : ThreadNo × Nat × List (Nat × Byte) × Bool × Word := (w.t, w.slot, w.items, w.bad, w.call)

theorem waitCow_writes (pages : List Nat) : (waitCow slot pages m).writes = m.writes :=
  foldl_keeps (I := fun q => q.writes = m.writes) (fun q v h => by dsimp only; split <;> exact h) pages rfl

theorem pendOne_writes (c : Word) (items : List (Nat × Byte)) (bad : Bool) :
    (pendOne slot t c items bad m).writes.map PWrite.what = m.writes.map PWrite.what ++ [(t, slot, items, bad, c)] := by
  rw [pendOne, waitCow_writes]
  simp only [newUid, List.map_append, List.map_cons, List.map_nil, PWrite.what]

/-- A loop of stores leaves their writes in its order. -/
theorem foldl_pendOne_writes {α : Type} (call : α → Word) (items : α → List (Nat × Byte)) (bad : Bool) (l : List α) (m : Module) :
    (l.foldl (fun m e => pendOne slot t (call e) (items e) bad m) m).writes.map PWrite.what =
      m.writes.map PWrite.what ++ l.map fun e => (t, slot, items e, bad, call e) := by
  induction l generalizing m with
  | nil => simp
  | cons e l ih => rw [List.foldl_cons, ih, pendOne_writes, List.append_assoc, List.map_cons, List.singleton_append]

theorem pendStore_writes (c : Word) (items : List (Nat × Byte)) (bad : Bool) :
    (pendStore slot t c items bad m).writes.map PWrite.what = m.writes.map PWrite.what ++
      if c.toNat % items.length = 0 then [(t, slot, items, bad, c)]
      else items.zipIdx.map fun e => (t, slot, [e.1], bad, c + BitVec.ofNat 64 e.2) := by
  unfold pendStore
  by_cases h : c.toNat % items.length = 0
  · rw [misaligned_eq_false h, if_neg Bool.false_ne_true, if_pos h, pendOne_writes]
  · rw [misaligned_eq_true h, if_pos rfl, if_neg h]
    exact foldl_pendOne_writes (α := (Nat × Byte) × Nat) (fun e => c + BitVec.ofNat 64 e.2) (fun e => [e.1]) bad _ m

/-! Atomic operations -/

theorem atomCall_eq (fn : Nat) (w : Word) :
    atomCall fn w = BitVec.ofNat 64 (w.toNat / atomSize fn * atomSize fn) := by
  unfold atomCall atomSize
  split
  · exact and_not_low_eq_ofNat w 3
  · exact and_not_low_eq_ofNat w 2

/-- The access an atomic operation leaves with its thread. -/
def atomWait (fn : Nat) (t : ThreadNo) (rd rb : Reg) (c : Word) (bad : Bool) (loc : Loc) (m : Module) : LoadWait :=
  { rd := rd, op := .atom fn (m.reg t rb) (m.reg t rd) bad, call := c, loc := loc, value := none, timedOut := false, got := [] }

section
variable {fn : Nat} {rd ra rb : Reg} {c : Word} {bad : Bool} (clean : m.mark t ra = false)
  (call : atomCall fn (m.reg t ra) = c) (mark : (m.mark t rb || (fn / 2 == 2 && m.mark t rd)) = bad)
include clean call mark

theorem bodyAtom_memory {pas : List Nat} (lands : locate slot .atomic (atomSize fn) c t m = (p, .ok (.mem pas))) :
    bodyAtom fn t rd ra rb slot m = if bad && toMain pas then ctxFault slot (poisonFault c t) p
      else awaitValue t (atomWait fn t rd rb c bad (.mem pas) m) p := by
  subst call mark
  rw [bodyAtom, if_neg (by simp [clean])]
  dsimp only
  rw [lands]
  rfl

theorem bodyAtom_remote (lands : locate slot .atomic (atomSize fn) c t m = (p, .ok .remote))
    (leaves : (bad && callSpace c == 0) = false) :
    bodyAtom fn t rd ra rb slot m =
      let q := awaitValue t (atomWait fn t rd rb c bad .remote m) p
      askScalar slot t (.load t)
        { baseTx q slot .atomic (callDst c) (callAddr c) with
          fn := BitVec.ofNat 8 fn, len := 16, payload := leBytes 8 (m.reg t rb).toNat ++ leBytes 8 (m.reg t rd).toNat,
          bad := if bad then [0] else [] } q := by
  subst call mark
  rw [bodyAtom, if_neg (by simp [clean])]
  dsimp only
  rw [lands]
  dsimp only
  rw [if_neg (by simpa using leaves), if_pos rfl]
  rfl

end

/-! Marked registers (08 R279) -/

theorem bodyLoad_marked {n : Nat} {signed : Bool} {rd ra : Reg} {i : BitVec 14} (bad : m.mark t ra = true) :
    bodyLoad n signed t rd ra i slot m = useFault slot t m := by rw [bodyLoad, if_pos bad]

theorem bodyStore_marked {n : Nat} {rs ra : Reg} {i : BitVec 14} (bad : m.mark t ra = true) :
    bodyStore n t rs ra i slot m = useFault slot t m := by rw [bodyStore, if_pos bad]

theorem bodyAtom_marked {fn : Nat} {rd ra rb : Reg} (bad : m.mark t ra = true) :
    bodyAtom fn t rd ra rb slot m = useFault slot t m := by rw [bodyAtom, if_pos bad]

theorem bodyWait_marked {r : Reg} {c : CtrNo} (bad : m.mark t r = true) : bodyWait t r c slot m = useFault slot t m := by
  rw [bodyWait, if_pos bad]

theorem bodyCinc_marked {r : Reg} {c : CtrNo} (bad : m.mark t r = true) : bodyCinc t r c slot m = useFault slot t m := by
  rw [bodyCinc, if_pos bad]

theorem bodyTstart_marked {rd ra rb : Reg} (bad : m.mark t ra = true) :
    bodyTstart t rd ra rb slot m = useFault slot t m := by rw [bodyTstart, if_pos (by simp [bad])]

end

/-! Commands that are a load, a store or an atomic operation -/

/-- A command is the load of n bytes by the thread. -/
def IsLoad (t : ThreadNo) (rd ra : Reg) (i : BitVec 14) (x : Instr × Nat × Bool) : Prop :=
  ∀ s, exec x.1 s = scalar x.1 t (bodyLoad x.2.1 x.2.2 t rd ra i) s

/-- A command is the store of n bytes by the thread. -/
def IsStore (t : ThreadNo) (rs ra : Reg) (i : BitVec 14) (x : Instr × Nat) : Prop :=
  ∀ s, exec x.1 s = scalar x.1 t (bodyStore x.2 t rs ra i) s

/-- A command is an atomic operation by the thread. -/
def IsAtom (t : ThreadNo) (rd ra rb : Reg) (x : Instr × Nat) : Prop :=
  x.2 < 6 ∧ ∀ s, exec x.1 s = scalar x.1 t (bodyAtom x.2 t rd ra rb) s

theorem loads_are (t : ThreadNo) (rd ra : Reg) (i : BitVec 14) :
    ∀ e ∈ [(Instr.ld8u t rd ra i, 1, false), (.ld16u t rd ra i, 2, false), (.ld32u t rd ra i, 4, false),
           (.ld64 t rd ra i, 8, false), (.ld8s t rd ra i, 1, true), (.ld16s t rd ra i, 2, true),
           (.ld32s t rd ra i, 4, true)], IsLoad t rd ra i e := by
  simp only [List.forall_mem_cons, List.not_mem_nil, false_imp_iff, implies_true, and_true]
  exact ⟨fun _ => rfl, fun _ => rfl, fun _ => rfl, fun _ => rfl, fun _ => rfl, fun _ => rfl, fun _ => rfl⟩

theorem stores_are (t : ThreadNo) (rs ra : Reg) (i : BitVec 14) :
    ∀ e ∈ [(Instr.st8 t rs ra i, 1), (.st16 t rs ra i, 2), (.st32 t rs ra i, 4), (.st64 t rs ra i, 8)],
      IsStore t rs ra i e := by
  simp only [List.forall_mem_cons, List.not_mem_nil, false_imp_iff, implies_true, and_true]
  exact ⟨fun _ => rfl, fun _ => rfl, fun _ => rfl, fun _ => rfl⟩

theorem atoms_are (t : ThreadNo) (rd ra rb : Reg) :
    ∀ e ∈ [(Instr.aadd32 t rd ra rb, 0), (.aadd64 t rd ra rb, 1), (.aswp32 t rd ra rb, 2), (.aswp64 t rd ra rb, 3),
           (.acas32 t rd ra rb, 4), (.acas64 t rd ra rb, 5)], IsAtom t rd ra rb e := by
  simp only [List.forall_mem_cons, List.not_mem_nil, false_imp_iff, implies_true, and_true]
  exact ⟨⟨Nat.le_of_ble_eq_true rfl, fun _ => rfl⟩, ⟨Nat.le_of_ble_eq_true rfl, fun _ => rfl⟩,
    ⟨Nat.le_of_ble_eq_true rfl, fun _ => rfl⟩, ⟨Nat.le_of_ble_eq_true rfl, fun _ => rfl⟩,
    ⟨Nat.le_of_ble_eq_true rfl, fun _ => rfl⟩, ⟨Nat.le_of_ble_eq_true rfl, fun _ => rfl⟩⟩

theorem IsLoad.gives {t : ThreadNo} {rd ra : Reg} {i : BitVec 14} {x : Instr × Nat × Bool} (is : IsLoad t rd ra i x)
    {s : State} {slot : Nat} {m q : Module} (issues : Issues t s slot m) (e : bodyLoad x.2.1 x.2.2 t rd ra i slot m = q) :
    Gives x.1 s q := (is s).trans (scalar_next issues e)

theorem IsStore.gives {t : ThreadNo} {rs ra : Reg} {i : BitVec 14} {x : Instr × Nat} (is : IsStore t rs ra i x)
    {s : State} {slot : Nat} {m q : Module} (issues : Issues t s slot m) (e : bodyStore x.2 t rs ra i slot m = q) :
    Gives x.1 s q := (is s).trans (scalar_next issues e)

theorem IsAtom.gives {t : ThreadNo} {rd ra rb : Reg} {x : Instr × Nat} (is : IsAtom t rd ra rb x)
    {s : State} {slot : Nat} {m q : Module} (issues : Issues t s slot m) (e : bodyAtom x.2 t rd ra rb slot m = q) :
    Gives x.1 s q := (is.2 s).trans (scalar_next issues e)

/-- The compare operations are those from number 4 on. -/
theorem compares_iff {fn : Nat} (h : fn < 6) : (fn / 2 == 2) = decide (4 ≤ fn) := by
  rw [Bool.eq_iff_iff, beq_iff_eq, decide_eq_true_iff]
  omega

/-- A marked register that forms an address, or that WAIT, CINC or TSTART takes, faults the context (08 R279). -/
theorem marked_gives {t : ThreadNo} (rd : Reg) {ra : Reg} (rb : Reg) (i : BitVec 14) (c : CtrNo) {s : State} {slot : Nat} {m : Module}
    (issues : Issues t s slot m) (bad : m.mark t ra = true) :
    ∀ x ∈ [Instr.ld8u t rd ra i, .ld16u t rd ra i, .ld32u t rd ra i, .ld64 t rd ra i, .ld8s t rd ra i,
           .ld16s t rd ra i, .ld32s t rd ra i, .st8 t rd ra i, .st16 t rd ra i, .st32 t rd ra i, .st64 t rd ra i,
           .aadd32 t rd ra rb, .aadd64 t rd ra rb, .aswp32 t rd ra rb, .aswp64 t rd ra rb, .acas32 t rd ra rb,
           .acas64 t rd ra rb, .wait t ra c, .tstart t rd ra rb], Gives x s (useFault slot t m) := by
  have load (n : Nat) (signed : Bool) : bodyLoad n signed t rd ra i slot m = useFault slot t m := bodyLoad_marked bad
  have store (n : Nat) : bodyStore n t rd ra i slot m = useFault slot t m := bodyStore_marked bad
  have atom (fn : Nat) : bodyAtom fn t rd ra rb slot m = useFault slot t m := bodyAtom_marked bad
  simp only [List.forall_mem_cons, List.not_mem_nil, false_imp_iff, implies_true, and_true]
  exact ⟨scalar_next issues (load 1 false), scalar_next issues (load 2 false), scalar_next issues (load 4 false),
    scalar_next issues (load 8 false), scalar_next issues (load 1 true), scalar_next issues (load 2 true),
    scalar_next issues (load 4 true), scalar_next issues (store 1), scalar_next issues (store 2),
    scalar_next issues (store 4), scalar_next issues (store 8), scalar_next issues (atom 0), scalar_next issues (atom 1),
    scalar_next issues (atom 2), scalar_next issues (atom 3), scalar_next issues (atom 4), scalar_next issues (atom 5),
    scalar_next issues (bodyWait_marked bad), scalar_next issues (bodyTstart_marked bad)⟩

/-- Settles O7: each clause by what the body of its command does where the access lands. -/
theorem loadsStoresAndAtomicsIssue : Obligations.LoadsStoresAndAtomicsIssue := by
  refine ⟨fun t rd ra i s slot m issues clean e he => ?_, fun t rs ra i s slot m issues clean => ⟨fun e he => ?_, fun e he => ?_⟩,
    fun t rd ra rb s slot m issues clean e he => ?_, fun t rd ra rb i c s slot m issues => ?_, fun slot t c items bad m => ?_⟩
  · have is := loads_are t rd ra i e he
    intro c p loc lands l q
    have call : m.reg t ra + imm14 i = c := rfl
    have body := bodyLoad_located (signed := e.2.2) (rd := rd) clean call lands
    refine ⟨fun here => ?_, fun remote aligned => ?_, fun remote split => ?_⟩
    · exact is.gives issues (body.trans (if_neg here))
    · refine is.gives issues (body.trans ((if_pos remote).trans ?_))
      rw [scalarTxs_aligned aligned]
      rfl
    · refine is.gives issues (body.trans ((if_pos remote).trans ?_))
      rw [scalarTxs_misaligned split, List.foldl_map]
      rfl
  · have is := stores_are t rs ra i e he
    intro c bytes p pas lands
    have call : m.reg t ra + imm14 i = c := rfl
    have body := bodyStore_memory (rs := rs) clean call lands
    rw [leBytes_toNat] at body
    refine ⟨fun enters => is.gives issues (body.trans (if_neg ?_)), fun bad main => is.gives issues (body.trans (if_pos ?_))⟩
    · rcases enters with h | h <;> simp [h]
    · rw [bad, main]; rfl
  · have is := stores_are t rs ra i e he
    intro c bytes p
    have call : m.reg t ra + imm14 i = c := rfl
    refine ⟨fun off lands => ?_, fun lands => ?_⟩
    · have body := bodyStore_control (rs := rs) clean call lands
      exact ⟨fun good => is.gives issues (body.trans (if_neg (by simp [good]))),
        fun bad => is.gives issues (body.trans (if_pos bad))⟩
    · have body := bodyStore_remote (rs := rs) clean call lands
      rw [leBytes_toNat] at body
      refine ⟨fun bad main => is.gives issues (body.trans (if_pos ?_)), fun leaves => ?_⟩
      · rw [bad, main]; rfl
      · have sends : ¬(m.mark t rs && callSpace c == 0) = true := by
          rcases leaves with h | h
          · simp [h]
          · rw [Bool.and_eq_true, beq_iff_eq]
            exact fun both => h both.2
        refine ⟨fun aligned => is.gives issues (body.trans ((if_neg sends).trans ?_)),
          fun split => is.gives issues (body.trans ((if_neg sends).trans ?_))⟩
        · rw [sendStore_aligned (by simpa using aligned), List.length_map, List.length_range]
          rfl
        · rw [sendStore_misaligned _ split]
          rfl
  · have is := atoms_are t rd ra rb e he
    intro size c bad
    have call : atomCall e.2 (m.reg t ra) = c := atomCall_eq ..
    have mark : (m.mark t rb || (e.2 / 2 == 2 && m.mark t rd)) = bad := by rw [compares_iff is.1]
    refine ⟨fun p pas lands enters => ?_, fun p pas lands marked main => ?_, fun p lands leaves => ?_⟩
    · refine is.gives issues ((bodyAtom_memory clean call mark lands).trans (if_neg ?_))
      rcases enters with h | h <;> simp [h]
    · refine is.gives issues ((bodyAtom_memory clean call mark lands).trans (if_pos ?_))
      rw [marked, main]; rfl
    · have sends : (bad && callSpace c == 0) = false := by
        rcases leaves with h | h <;> simp [h]
      refine is.gives issues ((bodyAtom_remote clean call mark lands sends).trans ?_)
      rw [leBytes_toNat, leBytes_toNat]
      rfl
  · refine ⟨fun bad => marked_gives rd rb i c issues bad, fun bad => scalar_next issues (bodyCinc_marked bad),
      fun clean f p => ⟨fun fails => ?_, fun fails aligned => ?_⟩⟩
    · exact scalar_next issues (bodyLoad_refused clean rfl fails)
    · exact scalar_next issues (bodyStore_refused clean rfl aligned fails)
  · exact ⟨fun aligned => (pendStore_writes c items bad).trans (by rw [if_pos aligned]; rfl),
      fun split => (pendStore_writes c items bad).trans (by rw [if_neg split]; rfl)⟩

end Sys2Proof.Machine

namespace Sys2Proof.Machine

open Sys2Proof.Safety

/-! Values of loads and atomic operations, and accepted writes (O8; 03 R93, R94, R106; 04 R133, R134; 07 R247) -/

/-! Bytes as numbers -/

theorem leNat_lt (bs : List Byte) : leNat bs < 2 ^ (8 * bs.length) := by
  induction bs with
  | nil => exact Nat.one_pos
  | cons b bs ih =>
    have low := b.isLt
    rw [leNat, List.length_cons, Nat.mul_succ, Nat.pow_add]
    omega

theorem bytesNat_lt (bs : List (Byte × Bool)) : bytesNat bs < 2 ^ (8 * bs.length) := by
  rw [bytesNat, ← List.length_map (fun b : Byte × Bool => b.1)]
  exact leNat_lt _

theorem sum_bytes_range (n : Nat) : ∑ k ∈ Finset.range n, 255 * 2 ^ (8 * k) + 1 = 2 ^ (8 * n) := by
  induction n with
  | zero => rfl
  | succ n ih => rw [Finset.sum_range_succ, Nat.mul_succ, Nat.pow_add]; omega

/-- Bytes at different places below n make a number of n bytes. -/
theorem sum_bytes_lt {n : Nat} {got : List (Nat × Byte × Bool)} (once : (got.map (·.1)).Nodup) (below : ∀ e ∈ got, e.1 < n) :
    (got.map fun e => e.2.1.toNat * 2 ^ (8 * e.1)).sum < 2 ^ (8 * n) := by
  have places : (got.map (·.1)).toFinset ⊆ Finset.range n := fun k hk => by
    obtain ⟨e, he, rfl⟩ := List.mem_map.1 (List.mem_toFinset.1 hk)
    exact Finset.mem_range.2 (below e he)
  calc (got.map fun e => e.2.1.toNat * 2 ^ (8 * e.1)).sum
      ≤ (got.map fun e => 255 * 2 ^ (8 * e.1)).sum :=
        List.sum_le_sum fun e _ => Nat.mul_le_mul_right _ (Nat.le_of_lt_succ e.2.1.isLt)
    _ = ((got.map (·.1)).map fun k => 255 * 2 ^ (8 * k)).sum := by rw [List.map_map]; rfl
    _ = ∑ k ∈ (got.map (·.1)).toFinset, 255 * 2 ^ (8 * k) := (List.sum_toFinset _ once).symm
    _ ≤ ∑ k ∈ Finset.range n, 255 * 2 ^ (8 * k) := Finset.sum_le_sum_of_subset places
    _ < 2 ^ (8 * n) := by rw [← sum_bytes_range n]; exact Nat.lt_succ_self _

/-- An answer of n bytes, extended to a register. -/
theorem extendN_eq {n v : Nat} (signed : Bool) (pos : 0 < n) (le : n ≤ 8) (fits : v < 2 ^ (8 * n)) : extendN n signed v =
    if signed then (BitVec.ofNat (8 * n) v).signExtend 64 else (BitVec.ofNat (8 * n) v).zeroExtend 64 := by
  have width : 2 ^ (8 * n) ≤ 2 ^ 64 := Nat.pow_le_pow_right (by decide) (by omega)
  have wide : v < 2 ^ 64 := fits.trans_le width
  have half : 2 ^ (8 * n) = 2 * 2 ^ (8 * n - 1) := by rw [← Nat.pow_succ']; congr 1; omega
  have value : (BitVec.ofNat (8 * n) v).toNat = v := by rw [BitVec.toNat_ofNat, Nat.mod_eq_of_lt fits]
  have negative : (v / 2 ^ (8 * n - 1) % 2 = 1) ↔ 2 ^ (8 * n - 1) ≤ v := by
    constructor
    · intro h
      by_contra small
      rw [Nat.div_eq_of_lt (Nat.not_le.1 small)] at h
      omega
    · intro h
      rw [Nat.div_eq_of_lt_le (k := 1) (by omega) (by omega)]
  apply BitVec.eq_of_toNat_eq
  cases signed with
  | false => simp [extendN, value]
  | true =>
    simp only [extendN, true_and, negative, if_true, BitVec.toNat_signExtend, BitVec.msb_eq_decide, value, BitVec.toNat_setWidth,
      Nat.mod_eq_of_lt wide, decide_eq_true_eq]
    split
    · rw [BitVec.toNat_ofNat, Nat.mod_eq_of_lt (by omega)]
    · rw [BitVec.toNat_ofNat, Nat.mod_eq_of_lt wide, Nat.add_zero]

theorem extendN_eight (v : Nat) : extendN 8 false v = BitVec.ofNat 64 v := if_neg (by simp)

section
variable {m : Module} {slot : Nat} {t : ThreadNo} {l : LoadWait}

theorem readPas_length (pas : List Nat) (m : Module) : (readPas pas m).2.length = pas.length := List.length_map _

/-! The arrival -/

/-- A word in rd: the thread goes on and its context progresses. -/
def goesOn (slot : Nat) (t : ThreadNo) (rd : Reg) (v : Word) (bad : Bool) (m : Module) : Module :=
  loadOver slot t (progress slot (m.updThread t fun x =>
    { (x.setReg rd v bad) with load := none, pc := x.pc + 4, pfx := none, stall := .none }))

theorem valueTo_eq (intime : l.timedOut = false) (v : Nat) (bad : Bool) (m : Module) :
    valueTo slot t l v bad m = goesOn slot t l.rd (loadedWord l.op v false) bad m := by
  rw [valueTo, intime]
  rfl

theorem ownPending_eq_false {pas : List Nat} (h : ∀ w ∈ m.writes, w.t = t → ∀ e ∈ w.items, e.1 ∉ pas) :
    ownPending m t pas = false := by
  simp only [ownPending, List.any_eq_false, Bool.and_eq_true, beq_iff_eq, List.any_eq_true, List.contains_iff_mem, not_and,
    not_exists]
  exact fun w hw own e he => h w hw own e he

section
variable (owner : ownerOf m t.core = some slot) (waits : (m.thread t).load = some l)
include owner waits

theorem valueArrive_memory {pas : List Nat} (loc : l.loc = .mem pas) : valueArrive t m = localValue slot t l pas m := by
  rw [valueArrive, owner, waits]
  dsimp only
  rw [loc]

theorem valueArrive_control {off : Nat} (loc : l.loc = .ctl off) :
    valueArrive t m = valueTo slot t l (readCtl m slot off (opBytes l.op)) false m := by
  rw [valueArrive, owner, waits]
  dsimp only
  rw [loc]

theorem valueArrive_remote {v : Word × Bool} (loc : l.loc = .remote) (value : l.value = some v) :
    valueArrive t m = settle slot (valueTo slot t l v.1.toNat v.2 m) := by
  rw [valueArrive, owner, waits]
  dsimp only
  rw [loc]
  dsimp only
  rw [value]

end

section
variable {pas : List Nat} (free : ownPending m t pas = false)
include free

theorem localValue_load {n : Nat} {signed : Bool} (op : l.op = .ld n signed) (aligned : misaligned n l.call = false)
    (stable : tileWritten m none pas = false) : localValue slot t l pas m =
      valueTo slot t l (bytesNat (readPas pas m).2) (anyBad (readPas pas m).2) (readPas pas m).1 := by
  rw [localValue, if_neg (by simp [free]), op]
  dsimp only
  rw [if_neg (by simp [aligned]), readAct, if_neg (by simp [stable])]

theorem localValue_split {n : Nat} {signed : Bool} (op : l.op = .ld n signed) (split : misaligned n l.call = true) :
    localValue slot t l pas m = byteArrive slot t l n pas m := by
  rw [localValue, if_neg (by simp [free]), op]
  dsimp only
  rw [if_pos split]

theorem localValue_atom {fn : Nat} {b d : Word} {bad : Bool} (op : l.op = .atom fn b d bad)
    (alone : cowPages slot l.call (atomSize fn) m = []) (plain : writeAct m (some t) none (atomItems fn b d pas m) = none) :
    localValue slot t l pas m =
      valueTo slot t l (atomAt fn b d bad pas m).2.1 (atomAt fn b d bad pas m).2.2 (atomAt fn b d bad pas m).1 := by
  rw [localValue, if_neg (by simp [free]), op]
  dsimp only
  rw [alone]
  dsimp only
  rw [plain, if_neg (by simp)]

end

/-! Byte by byte (03 R93) -/

/-- The bytes of a misaligned load that have not arrived. -/
def bytesLeft (got : List (Nat × Byte × Bool)) (n : Nat) : List Nat := (upTo n).filter fun i => !(got.any fun e => e.1 == i)

/-- The one that arrives next, by a free value. -/
def nextByte (left : List Nat) (draw : Nat) : Nat :=
  match left with
  | [i] => i
  | _ => left.getD ((Config.freeWord draw).toNat % left.length) 0

theorem nextByte_mem {left : List Nat} (some_left : left ≠ []) (draw : Nat) : nextByte left draw ∈ left := by
  have pos := List.length_pos_iff.2 some_left
  unfold nextByte
  split
  · exact List.mem_singleton_self _
  · rw [List.getD_eq_getElem _ _ (Nat.mod_lt _ pos)]
    exact List.getElem_mem _

theorem mem_bytesLeft {got : List (Nat × Byte × Bool)} {n i : Nat} : i ∈ bytesLeft got n ↔ i < n ∧ i ∉ got.map (·.1) := by
  rw [bytesLeft, List.mem_filter, upTo, List.mem_range]
  simp only [Bool.not_eq_true', List.any_eq_false, beq_iff_eq, List.mem_map, not_exists, not_and]

theorem bytesLeft_ne_nil {got : List (Nat × Byte × Bool)} {n : Nat} (h : got.length < n) : bytesLeft got n ≠ [] := fun none => by
  have all : List.range n ⊆ got.map (·.1) := fun i hi => by
    by_contra out
    exact List.not_mem_nil (none ▸ mem_bytesLeft.2 ⟨List.mem_range.1 hi, out⟩)
  have := (List.subperm_of_subset List.nodup_range all).length_le
  simp at this
  omega

/-- A byte that had not arrived joins those that had: they are at different places still. -/
theorem join_once {got : List (Nat × Byte × Bool)} {n i : Nat} (b : Byte × Bool) (once : (got.map (·.1)).Nodup)
    (below : ∀ e ∈ got, e.1 < n) (inside : i < n) (missing : i ∉ got.map (·.1)) :
    ((got ++ [b].map fun b => (i, b)).map (·.1)).Nodup ∧ ∀ e ∈ got ++ [b].map fun b => (i, b), e.1 < n := by
  simp only [List.map_append, List.map_cons, List.map_nil, List.mem_append, List.mem_singleton]
  refine ⟨List.nodup_append'.2 ⟨once, List.nodup_singleton _, List.disjoint_singleton.2 missing⟩, fun e he => ?_⟩
  rcases he with he | rfl
  · exact below e he
  · exact inside

/-- One byte of a misaligned load arrives: it joins the others, or completes them. -/
theorem byteArrive_eq (n : Nat) (pas : List Nat) {i pa : Nat} (next : nextByte (bytesLeft l.got n) m.draw = i) (key : pas.getD i 0 = pa)
    (stable : tileWritten m none [pa] = false) : byteArrive slot t l n pas m =
      let r := readPas [pa] { m with draw := m.draw + 1 }
      let got := l.got ++ r.2.map fun b => (i, b)
      if got.length < n then r.1.updThread t fun x => { x with load := some { l with got := got } }
      else valueTo slot t l (got.map fun e => e.2.1.toNat * 2 ^ (8 * e.1)).sum (got.any fun e => e.2.2) r.1 := by
  subst next key
  exact if_neg (by rw [← Bool.not_eq_true] at stable; exact stable)

end

/-! Writes by physical key leave the contexts as they are -/

theorem writeGran_ctxs (w : Writer) (g : Nat) (items : List (Nat × WByte)) (m : Module) : (writeGran w g items m).ctxs = m.ctxs := by
  have summary : (readSummary g m).ctxs = m.ctxs := by simp only [readSummary_same]
  have gran : (readGran g 0 (readSummary g m)).ctxs = m.ctxs := by simp only [readGran_same, readSummary_same]
  unfold writeGran
  split
  · simp only [led_same]
  · dsimp only
    split
    · exact summary
    · split
      · exact summary
      · split
        · split
          · exact gran
          · exact gran
        · exact summary

theorem writeWord_ctxs (k : Nat) (items : List (Nat × WByte)) (mark : Bool) (m : Module) : (writeWord k items mark m).ctxs = m.ctxs := by
  unfold writeWord
  split
  · rfl
  · simp only [readWord_same]

theorem writeBytes_ctxs (w : Writer) (items : List (Nat × WByte)) (m : Module) : (writeBytes w items m).ctxs = m.ctxs :=
  foldl_keeps (I := fun q => q.ctxs = m.ctxs) (fun _ _ h => (writeWord_ctxs ..).trans h) _
    (foldl_keeps (I := fun q => q.ctxs = m.ctxs) (fun _ _ h => (writeGran_ctxs ..).trans h) _ rfl)

/-- A waiting write that follows nothing is stored; its context progresses if it is still the one that wrote (07 R249). -/
theorem acceptWrite_eq {i : Nat} {w : PWrite} {m : Module} (waits : m.writes[i]? = some w) (first : behindOwn m i w = false)
    (alone : cowPages w.slot w.call w.items.length m = []) (plain : writeAct m (some w.t) none w.items = none)
    (gen : (m.ctx w.slot).gen.toNat = w.gen)
    (plainKeys : holdOld (w.items.map (·.1)) { m with writes := m.writes.eraseIdx i } = { m with writes := m.writes.eraseIdx i }) :
    acceptWrite i m = progress w.slot (writePas byContext w.items w.bad { m with writes := m.writes.eraseIdx i }) := by
  have same : ((writePas byContext w.items w.bad { m with writes := m.writes.eraseIdx i }).ctx w.slot).gen.toNat = w.gen := by
    rw [Module.ctx, writePas, writeBytes_ctxs]
    exact gen
  rw [acceptWrite, waits]
  dsimp only
  rw [if_neg (by simp [first]), alone]
  dsimp only
  rw [plain, if_neg (by simp), putPas, plainKeys, if_pos same]

/-! Atomic operations at the place of their word (03 R94) -/

section
variable {fn : Nat} {b d : Word} {mark : Bool} {pas : List Nat} {m : Module}

theorem atomAt_poisoned (bad : anyBad (readPas pas m).2 = true) :
    atomAt fn b d mark pas m = ((readPas pas m).1, bytesNat (readPas pas m).2, true) := by rw [atomAt, if_pos bad]

section
variable (good : anyBad (readPas pas m).2 = false)
include good

theorem atomAt_stores {v : Nat} (new : atomNew fn (bytesNat (readPas pas m).2) b d = some v) : atomAt fn b d mark pas m =
    (putPas byContext (pas.zip (leBytes (atomSize fn) v)) mark (readPas pas m).1, bytesNat (readPas pas m).2, false) := by
  rw [atomAt, if_neg (by simp [good])]
  rw [new]

theorem atomAt_keeps (new : atomNew fn (bytesNat (readPas pas m).2) b d = none) :
    atomAt fn b d mark pas m = ((readPas pas m).1, bytesNat (readPas pas m).2, false) := by
  rw [atomAt, if_neg (by simp [good])]
  rw [new]

end

theorem atomNew_add (old : Nat) (h : fn / 2 = 0) : atomNew fn old b d = some ((old + b.toNat) % 2 ^ (8 * atomSize fn)) := by
  rw [atomNew, h]
  rfl

theorem atomNew_swap (old : Nat) (h : fn / 2 = 1) : atomNew fn old b d = some (b.toNat % 2 ^ (8 * atomSize fn)) := by
  rw [atomNew, h]
  rfl

theorem atomNew_compare (old : Nat) (h : fn / 2 = 2) : atomNew fn old b d =
    if old = d.toNat % 2 ^ (8 * atomSize fn) then some (b.toNat % 2 ^ (8 * atomSize fn)) else none := by
  rw [atomNew, h]
  rfl

end

/-- Settles O8: the arrivals by the place of the access, the accepted write, and the three operations. -/
theorem loadValuesAndWritesArrive : Obligations.LoadValuesAndWritesArrive := by
  refine ⟨fun t s slot l on owner waits intime => ?_, fun s i w on waits first alone plain gen plainKeys => ?_,
    fun fn b d mark pas m _ => ⟨atomAt_poisoned, fun good => ⟨fun h => ?_, fun h => ?_, fun h eq => ?_, fun h ne => ?_⟩⟩⟩
  · intro m goes
    have gives {q : Module} (e : valueArrive t s.mod = q) : Gives (.loadValueArrival t) s q := e ▸ lift_on on
    refine ⟨fun pas n sg loc op size len free stable aligned => ?_, fun pas n sg loc op size len split free stable once below short => ?_,
      fun pas fn b d bad loc op free alone plain => ?_, fun off loc op => ?_, fun v bad loc value op => ?_⟩
    · have range : 0 < n ∧ n ≤ 8 := by simp at size; omega
      refine gives ((valueArrive_memory owner waits loc).trans
        ((localValue_load (ownPending_eq_false free) op (misaligned_eq_false aligned) stable).trans ?_))
      rw [valueTo_eq intime, op, loadedWord, if_neg (by decide), extendN_eq sg range.1 range.2
        (by simpa only [readPas_length, len] using bytesNat_lt (readPas pas m).2)]
      rfl
    · have range : 0 < n ∧ n ≤ 8 := by simp at size; omega
      obtain ⟨inside, missing⟩ := mem_bytesLeft.1 (nextByte_mem (bytesLeft_ne_nil short) m.draw)
      generalize next : nextByte (bytesLeft l.got n) m.draw = i at inside missing
      have bound : i < pas.length := len ▸ inside
      have key : pas.getD i 0 = pas[i] := List.getD_eq_getElem _ _ bound
      have arrives := (valueArrive_memory owner waits loc).trans ((localValue_split (ownPending_eq_false free) op
        (misaligned_eq_true split)).trans (byteArrive_eq n pas next key (stable _ (List.getElem_mem bound))))
      refine ⟨i, pas[i], inside, missing, List.getElem?_eq_getElem bound, fun more => gives (arrives.trans (if_pos more)),
        fun all => gives (arrives.trans ((if_neg (by simpa using all.ge)).trans ?_))⟩
      obtain ⟨b, read⟩ : ∃ b, (readPas [pas[i]] { m with draw := m.draw + 1 }).2 = [b] := ⟨_, rfl⟩
      obtain ⟨once', below'⟩ := join_once b once below inside missing
      rw [← read] at once' below'
      rw [valueTo_eq intime, op, loadedWord, if_neg (by decide), extendN_eq sg range.1 range.2 (sum_bytes_lt once' below')]
      rfl
    · exact gives ((valueArrive_memory owner waits loc).trans
        ((localValue_atom (ownPending_eq_false free) op alone plain).trans (by rw [valueTo_eq intime, op]; rfl)))
    · refine gives ((valueArrive_control owner waits loc).trans ?_)
      rw [valueTo_eq intime, op, loadedWord, if_neg (by decide), extendN_eight]
      rfl
    · refine gives ((valueArrive_remote owner waits loc value).trans ?_)
      rw [valueTo_eq intime, op, loadedWord, if_neg (by decide), extendN_eight, BitVec.ofNat_toNat, BitVec.setWidth_eq]
      rfl
  · exact acceptWrite_eq waits first alone plain gen plainKeys ▸ lift_on on
  · exact atomAt_stores good (atomNew_add _ h)
  · exact atomAt_stores good (atomNew_swap _ h)
  · exact atomAt_stores good ((atomNew_compare _ h).trans (if_pos eq))
  · exact atomAt_keeps good ((atomNew_compare _ h).trans (if_neg ne))

end Sys2Proof.Machine

namespace Sys2Proof.Machine

open Sys2Proof.Safety

/-! Requests at their target (O21; 03 R101 to R103, R111; 07 R228, R239; 10 R325, R340, R348; 14 R460, R461) -/

/-! What the link makes of a transaction -/

section
variable {rx : Rx} {take : Nat → Inp → Txn → Module → Took} {x : Txn} {m p : Module}

/-- A frame of an UP port that fails or is out of order is asked for again (10 R325). -/
theorem rxTx_rejected (up : (m.port rx.port.val).st = .up)
    (h : rx.good = false ∨ rx.seq.toNat ≠ (m.port rx.port.val).rxSeq) : rxTx rx take x m = rxReject rx m := by
  have fails : rxOk m rx = false := by
    rcases h with h | h <;> simp [rxOk, h]
  rw [rxTx, if_neg (by simp [listens, up]), if_pos (by simp [fails])]

section
variable (up : (m.port rx.port.val).st = .up) (empty : (m.port rx.port.val).rxq = []) (good : rx.good = true)
  (seq : rx.seq.toNat = (m.port rx.port.val).rxSeq)
include up empty good seq

/-- One that is in order, at a port whose receive buffers were empty, is taken up alone (10 R328). -/
theorem rxTx_alone : rxTx rx take x m =
    let r := rxOne rx.port.val take (got rx x m, [], []) (x, (m.port rx.port.val).era)
    r.1.updPort rx.port.val fun p => { p with rxq := r.2.2 } := by
  have passes : rxOk m rx = true := by simp [rxOk, good, seq]
  have joined : rxAccept rx (m.updPort rx.port.val fun p => { p with rxq := p.rxq ++ [(x, p.era)] }) = got rx x m := by
    rw [got, Module.updPort_eq, Module.updPort_eq, empty, List.nil_append]
  have up' : ((got rx x m).port rx.port.val).st = .up := by
    simp only [got, rxAccept_port_same, Module.updPort_eq, Module.setPort_port, if_true, up]
  have queue : ((got rx x m).port rx.port.val).rxq = [(x, (m.port rx.port.val).era)] := by
    simp only [got, rxAccept_port_same, Module.updPort_eq, Module.setPort_port, if_true]
  rw [rxTx, if_neg (by simp [listens, up]), if_neg (by simp [passes])]
  dsimp only
  rw [if_neg (by simp [up]), joined, drainRx, if_neg (not_not.2 up'), queue]
  rfl

theorem rxTx_takes
    (h : take rx.port.val (.port rx.port.val x.vc.toNat (m.port rx.port.val).era) x (got rx x m) = .taken p) :
    rxTx rx take x m = left rx x m p := by
  rw [rxTx_alone up empty good seq, rxOne]
  dsimp only
  rw [if_neg (by simp), h]
  rfl

theorem rxTx_loses
    (h : take rx.port.val (.port rx.port.val x.vc.toNat (m.port rx.port.val).era) x (got rx x m) = .lost p) :
    rxTx rx take x m = left rx x m p := by
  rw [rxTx_alone up empty good seq, rxOne]
  dsimp only
  rw [if_neg (by simp), h]
  rfl

theorem rxTx_refuses {c : NackCause}
    (h : take rx.port.val (.port rx.port.val x.vc.toNat (m.port rx.port.val).era) x (got rx x m) = .refused c p) :
    rxTx rx take x m =
      (answer x .nack c [] [] (freeBuf (.port rx.port.val x.vc.toNat (m.port rx.port.val).era) x p)).updPort rx.port.val
        fun q => { q with rxq := [] } := by
  rw [rxTx_alone up empty good seq, rxOne]
  dsimp only
  rw [if_neg (by simp), h]

end

end

/-! What the module makes of a request -/

section
variable {n : Nat} {i : Inp} {x : Txn} {m : Module} {slot : Nat}

theorem got_ctxs (rx : Rx) (x : Txn) (m : Module) : (got rx x m).ctxs = m.ctxs := by
  simp only [got, rxAccept_same, Module.updPort_eq, Module.setPort_ctxs]

theorem got_topo (rx : Rx) (x : Txn) (m : Module) : (got rx x m).topo = m.topo := by
  simp only [got, rxAccept_same, Module.updPort_eq, Module.setPort_topo]

theorem got_jobCtx (rx : Rx) (x : Txn) (m : Module) (job : BitVec 16) : jobCtx (got rx x m) job = jobCtx m job := by
  rw [jobCtx, jobCtx, got_ctxs]

theorem got_ownNum (rx : Rx) (x : Txn) (m : Module) : ownNum (got rx x m) = ownNum m := by
  rw [ownNum, ownNum, Module.num, Module.num, got_topo]

theorem txArrive_request (dst : x.dst = ownNum m) (request : isReply x = false) : txArrive n i x m = request1 n x m := by
  rw [txArrive, if_neg (not_not.2 dst), if_neg (by simp [request])]

/-- A broadcast is copied on only where its job has no context here (10 R352). -/
theorem planCopy_live (live : jobCtx m x.job = some slot) : planCopy x m = none := by
  rw [planCopy]
  exact if_neg fun h => by simp [live] at h

/-- A transaction that is no broadcast is never copied on. -/
theorem planCopy_contribution (h : x.kind = .coll → x.coll.contrib ≠ 0) : planCopy x m = none := by
  rw [planCopy]
  exact if_neg fun ⟨_, coll, zero, _⟩ => h coll zero

theorem request1_noTarget (h : x.kind = .coll → x.coll.contrib ≠ 0) (gone : jobCtx m x.job = none) :
    request1 n x m = .refused .noTarget m := by
  rw [request1, planCopy_contribution h, gone]

section
variable (live : jobCtx m x.job = some slot)
include live

theorem request1_unauthentic (key : x.keyOk = false) : request1 n x m = authFail n x m := by
  rw [request1, planCopy_live live, live]
  dsimp only
  rw [if_pos (by simp [key])]

variable (key : x.keyOk = true)
include key

theorem request1_read (kind : x.kind = .read) : request1 n x m = readTake slot x m := by
  rw [request1, planCopy_live live, live]
  dsimp only
  rw [if_neg (by simp [key]), kind]

theorem request1_atomic (kind : x.kind = .atomic) : request1 n x m = atomicTake slot x m := by
  rw [request1, planCopy_live live, live]
  dsimp only
  rw [if_neg (by simp [key]), kind]

theorem request1_coll (kind : x.kind = .coll) : request1 n x m = collArrive slot x m := by
  rw [request1, planCopy_live live, live]
  dsimp only
  rw [if_neg (by simp [key]), kind]

theorem request1_write (kind : x.kind = .write) : request1 n x m = writeTake slot x m := by
  rw [request1, planCopy_live live, live]
  dsimp only
  rw [if_neg (by simp [key]), kind]

end

/-! WRITE -/

theorem writeTake_addressed (lib : x.lib = .none) (plain : targetCall x ≠ noteCall) :
    writeTake slot x m = writeAddr true slot x m := by
  rw [writeTake, lib]
  exact if_neg plain

/-- A WRITE whose page needs no copy and whose checks pass is stored; its target's context counts the write (03 R103, R111). -/
theorem writeAddr_stores {pas : List Nat} {p : Module} (alone : cowPages slot (targetCall x) x.payload.length m = [])
    (passes : remotePas true slot .write (targetCall x) x.payload.length m = (p, .ok pas))
    (clean : toMain pas = false ∨ x.bad = []) (plain : writeAct p none none ((writeItems x pas).map fun e => (e.1, e.2.v)) = none) :
    writeAddr true slot x m =
      let q := moveSeen slot x (putBytes byContext (writeItems x pas) p)
      let q := q.updCtx slot fun y => { y with bm := { y.bm with lastRemote := q.now } }
      .taken (answer x .ack .noTarget [] [] (copyToShadow slot x q)) := by
  have taken : ¬(toMain pas && !x.bad.isEmpty) = true := by
    rcases clean with h | h <;> simp [h]
  rw [writeAddr, alone]
  dsimp only
  rw [passes]
  dsimp only
  rw [if_neg taken, storeTx, plain]
  rfl

theorem writeTake_deposit {b : Bool} {off : Nat} (lib : x.lib = .deposit b off) :
    writeTake slot x m = depositTake slot x b off m := by rw [writeTake, lib]

theorem depositTake_stores {b : Bool} {off k : Nat} (holds : holdingPart m x.src x.job = some k) (clean : x.bad = [])
    (fits : off + x.payload.length ≤ (m.part k).depCount / 2 * 65536) :
    depositTake slot x b off m = .taken (answer x .ack .noTarget [] [] (putBytes byContext
      (writeItems x ((upTo x.payload.length).map fun i =>
        paMain ((m.part k).depFirst + (if b then (m.part k).depCount / 2 else 0)) (off + i))) m)) := by
  rw [depositTake, holds]
  exact if_neg (by simp [clean, Nat.not_lt.2 fits])

/-! READ and ATOMIC -/

theorem readTake_answers {pas : List Nat} {p : Module} (passes : remotePas true slot .read (targetCall x) x.len m = (p, .ok pas)) :
    readTake slot x m = .taken (answer x .readdata .noTarget ((readPas pas p).2.map (·.1))
      (badWords ((readPas pas p).2.map (·.2))) (readPas pas p).1) := by
  rw [readTake, passes]

/-- The word that an ATOMIC names: the bits below its size do not count (04 R134). -/
def atomWord (x : Txn) : Word := targetCall x &&& ~~~(BitVec.ofNat 64 (atomSize x.fn.toNat - 1))

theorem atomicTake_answers {pas : List Nat} {p : Module} (alone : cowPages slot (atomWord x) (atomSize x.fn.toNat) m = [])
    (passes : remotePas true slot .atomic (atomWord x) (atomSize x.fn.toNat) m = (p, .ok pas))
    (clean : toMain pas = false ∨ x.bad = [])
    (plain : writeAct p none none (atomItems x.fn.toNat (BitVec.ofNat 64 (leNat (x.payload.take 8)))
      (BitVec.ofNat 64 (leNat ((x.payload.drop 8).take 8))) pas p) = none) :
    atomicTake slot x m =
      let a := atomAt x.fn.toNat (BitVec.ofNat 64 (leNat (x.payload.take 8)))
        (BitVec.ofNat 64 (leNat ((x.payload.drop 8).take 8))) (!x.bad.isEmpty) pas p
      .taken (answer x .readdata .noTarget (leBytes (atomSize x.fn.toNat) a.2.1) (if a.2.2 then [0] else []) a.1) := by
  have taken : ¬(toMain pas && !x.bad.isEmpty) = true := by
    rcases clean with h | h <;> simp [h]
  unfold atomWord at alone passes
  rw [atomicTake]
  dsimp only
  rw [alone]
  dsimp only
  rw [passes]
  dsimp only
  rw [if_neg taken, plain]
  rfl

/-! COLL -/

/-- A contribution that its slot awaits, and that does not complete it, is added (10 R346, R348). -/
theorem collArrive_adds {g : Group} {r : RSlot} (group : groupOf m slot x.coll.group = some g) (member : (posIn m slot g).isSome = true)
    (shard : x.coll.shidx.toNat < g.members.length) (contribution : x.coll.contrib ≠ 0) (direct : x.det = false)
    (none_runs : collRun m slot g.id x.coll.cser.toNat = none)
    (opened : ((m.pd (unitDie m (ownerMod g x.coll))).slots.find? fun r => sameSlot r x) = some r)
    (shape : sameShape r.coll x.coll = true) (more : r.contrib + x.coll.contrib.toNat < r.expect) :
    collArrive slot x m = .taken (answer x .ack .noTarget [] [] (m.updPd (unitDie m (ownerMod g x.coll)) fun p =>
      { p with slots := ((m.pd (unitDie m (ownerMod g x.coll))).slots.filter fun r => !(sameSlot r x)) ++ [slotAdd r x] })) := by
  have agrees : ownClash m slot g x = false := by rw [ownClash, none_runs]
  have open_ : ¬(slotAdd r x).expect ≤ (slotAdd r x).contrib := Nat.not_le.2 more
  have added : unitTake slot g x m = .taken (m.updPd (unitDie m (ownerMod g x.coll)) fun p =>
      { p with slots := ((m.pd (unitDie m (ownerMod g x.coll))).slots.filter fun r => !(sameSlot r x)) ++ [slotAdd r x] }) := by
    rw [unitTake]
    dsimp only
    rw [if_neg (by simp [agrees]), opened]
    dsimp only
    rw [if_pos shape, if_neg open_]
  have here : ¬((posIn m slot g).isNone || decide (g.members.length ≤ x.coll.shidx.toNat)) = true := by
    rw [Option.isNone_eq_false_iff.2 member]
    simpa using shard
  rw [collArrive, collTake, group]
  dsimp only
  rw [if_neg here, if_neg contribution, unitInput, if_neg (by simp [direct]), added]

end

/-! The four kinds of request -/

/-- A command is the arrival of a request. -/
def IsRequest (rx : Rx) (x : Txn) (c : Instr) : Prop := isReply x = false ∧ ∀ s, exec c s = lift (rxTx rx txArrive x) s

theorem writeReceive_is (rx : Rx) (y : Txn) : IsRequest rx { y with kind := .write } (.writeReceive rx y) := ⟨rfl, fun _ => rfl⟩

theorem readReceive_is (rx : Rx) (y : Txn) : IsRequest rx { y with kind := .read } (.readReceive rx y) := ⟨rfl, fun _ => rfl⟩

theorem atomicReceive_is (rx : Rx) (y : Txn) : IsRequest rx { y with kind := .atomic } (.atomicReceive rx y) :=
  ⟨rfl, fun _ => rfl⟩

theorem collReceive_is (rx : Rx) (y : Txn) : IsRequest rx { y with kind := .coll } (.collReceive rx y) := ⟨rfl, fun _ => rfl⟩

theorem requests_are (rx : Rx) (y : Txn) :
    ∀ e ∈ [(Instr.writeReceive rx y, TxKind.write), (.readReceive rx y, .read), (.atomicReceive rx y, .atomic),
           (.collReceive rx y, .coll)], IsRequest rx { y with kind := e.2 } e.1 := by
  simp only [List.forall_mem_cons, List.not_mem_nil, false_imp_iff, implies_true, and_true]
  exact ⟨writeReceive_is rx y, readReceive_is rx y, atomicReceive_is rx y, collReceive_is rx y⟩

section
variable {rx : Rx} {x : Txn} {c : Instr} {s : State} (is : IsRequest rx x c) (on : s.mod.on = true)
  (up : (s.mod.port rx.port.val).st = .up)
include is on up

theorem IsRequest.rejected (h : rx.good = false ∨ rx.seq.toNat ≠ (s.mod.port rx.port.val).rxSeq) :
    Gives c s (rxReject rx s.mod) := by
  rw [Gives, is.2, lift_on on, rxTx_rejected up h]

variable (empty : (s.mod.port rx.port.val).rxq = []) (good : rx.good = true)
  (seq : rx.seq.toNat = (s.mod.port rx.port.val).rxSeq) (dst : x.dst = ownNum s.mod)
include empty good seq dst

omit on up empty good seq in
theorem IsRequest.arrives : txArrive rx.port.val (.port rx.port.val x.vc.toNat (s.mod.port rx.port.val).era) x (got rx x s.mod) =
    request1 rx.port.val x (got rx x s.mod) :=
  txArrive_request (dst.trans (got_ownNum ..).symm) is.1

theorem IsRequest.taken {p : Module} (h : request1 rx.port.val x (got rx x s.mod) = .taken p) : Gives c s (left rx x s.mod p) := by
  rw [Gives, is.2, lift_on on, rxTx_takes up empty good seq ((is.arrives dst).trans h)]

theorem IsRequest.lost {p : Module} (h : request1 rx.port.val x (got rx x s.mod) = .lost p) : Gives c s (left rx x s.mod p) := by
  rw [Gives, is.2, lift_on on, rxTx_loses up empty good seq ((is.arrives dst).trans h)]

theorem IsRequest.refused {k : NackCause} {p : Module} (h : request1 rx.port.val x (got rx x s.mod) = .refused k p) :
    Gives c s ((answer x .nack k [] [] (freeBuf (.port rx.port.val x.vc.toNat (s.mod.port rx.port.val).era) x p)).updPort
      rx.port.val fun q => { q with rxq := [] }) := by
  rw [Gives, is.2, lift_on on, rxTx_refuses up empty good seq ((is.arrives dst).trans h)]

end

/-- Settles O21: each clause by what the request does at its target, or by why it is turned away. -/
theorem requestsAtTheirTarget : Obligations.RequestsAtTheirTarget := by
  refine ⟨fun rx y s slot on up empty good seq dst live key => ?_, fun rx y s on up e he => ?_⟩
  · have alive (x : Txn) (job : x.job = y.job) : jobCtx (got rx x s.mod) x.job = some slot := by rw [got_jobCtx, job, live]
    refine ⟨⟨fun pas p lib plain alone passes clean act => ?_, fun k b off lib holds clean fits => ?_⟩, fun pas p passes => ?_,
      fun pas p alone passes clean act => ?_, fun gr r group member shard contribution direct none_runs opened shape more => ?_⟩
    · have acts := request1_write (n := rx.port.val) (x := { y with kind := .write }) (alive _ rfl) key rfl
      refine (writeReceive_is rx y).taken on up empty good seq dst (acts.trans ?_)
      exact (writeTake_addressed lib plain).trans (writeAddr_stores alone passes clean act)
    · have acts := request1_write (n := rx.port.val) (x := { y with kind := .write }) (alive _ rfl) key rfl
      refine (writeReceive_is rx y).taken on up empty good seq dst (acts.trans ?_)
      exact (writeTake_deposit lib).trans (depositTake_stores holds clean fits)
    · have acts := request1_read (n := rx.port.val) (x := { y with kind := .read }) (alive _ rfl) key rfl
      exact (readReceive_is rx y).taken on up empty good seq dst (acts.trans (readTake_answers passes))
    · have acts := request1_atomic (n := rx.port.val) (x := { y with kind := .atomic }) (alive _ rfl) key rfl
      exact (atomicReceive_is rx y).taken on up empty good seq dst (acts.trans (atomicTake_answers alone passes clean act))
    · have acts := request1_coll (n := rx.port.val) (x := { y with kind := .coll }) (alive _ rfl) key rfl
      exact (collReceive_is rx y).taken on up empty good seq dst (acts.trans
        (collArrive_adds group member shard contribution direct none_runs opened shape more))
  · have is := requests_are rx y e he
    refine ⟨fun h => is.rejected on up h, fun good seq empty dst => ⟨fun gone broadcast => ?_, fun slot live key => ?_⟩⟩
    · exact is.refused on up empty good seq dst (request1_noTarget broadcast ((got_jobCtx ..).trans gone))
    · exact is.lost on up empty good seq dst (request1_unauthentic ((got_jobCtx ..).trans live) key)

end Sys2Proof.Machine

namespace Sys2Proof.Machine

open Sys2Proof.Safety

/-! Creation of a context (O29; 03 R79, R81, R84; 18 R557) -/

section
variable {m : Module} {p pick : Nat}

theorem freeFrom_none (h : ∀ i, i < 64 → (m.ctx i).state ≠ .free) : freeFrom m pick = none := by
  refine List.find?_eq_none.2 fun i hi => ?_
  obtain ⟨k, -, rfl⟩ := List.mem_map.1 hi
  simpa using h _ (Nat.mod_lt _ (by decide))

/-- The slot asked for, when it is FREE. -/
theorem freeFrom_self (small : pick < 64) (free : (m.ctx pick).state = .free) : freeFrom m pick = some pick := by
  rw [freeFrom, upTo, List.range_succ_eq_map, List.map_cons, Nat.add_zero, Nat.mod_eq_of_lt small]
  exact List.find?_cons_of_pos (by simp [free])

/-- Some slot is found when one is FREE. -/
theorem freeFrom_some {i : Nat} (inside : i < 64) (free : (m.ctx i).state = .free) : ∃ j, freeFrom m pick = some j := by
  refine Option.isSome_iff_exists.1 (List.find?_isSome.2 ⟨i, List.mem_map.2 ⟨(i + 64 - pick % 64) % 64, ?_, ?_⟩, by simp [free]⟩)
  · exact List.mem_range.2 (Nat.mod_lt _ (by decide))
  · omega

theorem tryCreate_waits (h : freeFrom m pick = none) : tryCreate p pick m = m := by
  rw [tryCreate, h]

theorem tryCreate_refused {i k : Nat} (slot : freeFrom m pick = some i) (fails : createCheck m p (m.part p).area = some k) :
    tryCreate p pick m = m.updPart p fun q =>
      { q with area := { q.area with st := .refused, refuse := k, keyE := 0, keyW := 0, keyT := 0 } } := by
  rw [tryCreate, slot]
  dsimp only
  rw [fails]

theorem tryCreate_made {i : Nat} (slot : freeFrom m pick = some i) (passes : createCheck m p (m.part p).area = none) :
    tryCreate p pick m = makeCtx p i (m.part p).area m := by
  rw [tryCreate, slot]
  dsimp only
  rw [passes]

/-- Installing a job key leaves every context as it is. -/
theorem installKey_ctxs (key : BitVec 256) (job : BitVec 16) (m : Module) : (installKey key job m).1.ctxs = m.ctxs :=
  foldl_keeps (I := fun q => q.ctxs = m.ctxs) (fun _ _ h => h) (upTo 2) rfl

theorem foldl_updCore_ctxs (f : CoreSt → CoreSt) (l : List Nat) (m : Module) :
    (l.foldl (fun m c => m.updCore c f) m).ctxs = m.ctxs :=
  foldl_keeps (op := fun m c => m.updCore c f) (I := fun q => q.ctxs = m.ctxs) (fun _ _ h => h) l rfl

/-- The slot that a creation fills, and every other one (03 R81). -/
theorem makeCtx_ctx (a : Area) (i j : Nat) : (makeCtx p i a m).ctx j = if j = i then
    { Ctx.init with state := .created, gen := (m.ctx i).gen + 1, part := p, r := a.r,
                    keystamp := (installKey ((unwrapKey m p a).getD 0) a.r.job m).2 }
    else m.ctx j := by
  have ctx (k : Nat) : ((coresOf a.r.cores).foldl (fun m c => m.updCore c CoreSt.released)
      (installKey ((unwrapKey m p a).getD 0) a.r.job m).1).ctx k = m.ctx k := by
    rw [Module.ctx, foldl_updCore_ctxs, installKey_ctxs, ← Module.ctx]
  rw [makeCtx]
  dsimp only
  rw [Module.updPart_eq, Module.setPart_ctx, Module.setCtx_ctx, ctx, ctx]

theorem makeCtx_area (a : Area) (i : Nat) :
    ((makeCtx p i a m).part p).area.st = .done ∧ ((makeCtx p i a m).part p).area.slot = i := by
  simp only [makeCtx, Module.updPart_eq, Module.setPart_part, if_true, and_self]

/-- A function bound to a partition without a PENDING request creates at once, or leaves the request PENDING. -/
theorem create_bound {f : Fn} (bound : isBound m f.val p = true) (idle : (m.part p).area.st ≠ .pending) :
    create f p pick m = tryCreate p pick
      (m.updPart p fun q => { q with area := { q.area with st := .pending, refuse := 0, by_ := f.val } }) := by
  have part : isPart m p = true := (Bool.and_eq_true_iff.1 bound).1
  have sees : seesPart m f.val p = true := by rw [seesPart, bound, Bool.or_true]
  rw [create, if_neg (by simp [part, sees]), if_neg (by simp [bound, idle])]

end

section
variable {s : State} (on : s.mod.on = true) (lib : s.mod.boot.lib = true)
include on lib

theorem create_gives {f : Fn} {part : BitVec 3} (pick : BitVec 6) (up : hostUp s.mod f.val = true)
    (bound : isBound s.mod f.val part.toNat = true) (idle : (s.mod.part part.toNat).area.st ≠ .pending) :
    Gives (.create f part pick) s (tryCreate part.toNat pick.toNat
      (s.mod.updPart part.toNat fun q => { q with area := { q.area with st := .pending, refuse := 0, by_ := f.val } })) := by
  change execCreate f part pick s = _
  rw [execCreate, liftW_reaches on lib up, create_bound bound idle]

theorem createProceed_gives {part : BitVec 3} (pick : BitVec 6) (pending : (s.mod.part part.toNat).area.st = .pending) :
    Gives (.createProceed part pick) s (tryCreate part.toNat pick.toNat s.mod) := by
  change execCreateProceed part pick s = _
  rw [execCreateProceed, liftL_lib on lib, if_pos pending]

end

/-- Settles O29: a creation by command or after a wait is the same attempt, on the area it finds. -/
theorem contextCreation : Obligations.ContextCreation := by
  intro f part pick s on lib m p asked run
  have attempt (c : Instr) (m0 : Module) (ctxs : m0.ctxs = m.ctxs) (regs : (m0.part p).area.r = (m.part p).area.r)
      (gives : Gives c s (tryCreate p pick.toNat m0)) : run c m0 := by
    have ctx (j : Nat) : m0.ctx j = m.ctx j := by rw [Module.ctx, ctxs]; rfl
    refine ⟨fun full => ?_, fun i inside free => ⟨fun k fails => ?_, fun picked passes => ?_⟩⟩
    · exact tryCreate_waits (freeFrom_none fun i hi => ctx i ▸ full i hi) ▸ gives
    · obtain ⟨j, slot⟩ := freeFrom_some (pick := pick.toNat) inside ((ctx i).symm ▸ free)
      rw [tryCreate_refused slot fails] at gives
      exact ⟨_, gives, ctxs, by simp, by simp⟩
    · have slot := freeFrom_self (picked ▸ inside) (picked.symm ▸ (ctx i).symm ▸ free)
      rw [tryCreate_made slot passes, picked] at gives
      obtain ⟨done, slotIs⟩ := makeCtx_area (m := m0) (p := p) (m0.part p).area i
      have made := makeCtx_ctx (m := m0) (p := p) (m0.part p).area i
      have own := made i
      rw [if_pos rfl, ctx, regs] at own
      refine ⟨_, gives, ?_, ?_, ?_, ?_, ?_, done, slotIs, fun j other => ?_⟩
      · rw [own]
      · rw [own]
      · rw [own]
      · rw [own]
      · rw [own]; rfl
      · rw [made, if_neg other, ctx]
  refine ⟨fun up bound idle => attempt _ asked rfl (by simp [asked, p, m]) (create_gives on lib pick up bound idle),
    fun pending => attempt _ m rfl rfl (createProceed_gives on lib pick pending)⟩

end Sys2Proof.Machine

namespace Sys2Proof.Machine

open Sys2Proof.Safety

/-! Commands of a context and the end of its teardown (O30; 03 R75, R81, R85; 13 R430; 18 R558) -/

/-! CTXCMD -/

section
variable {f : Fn} {slot code : Nat} {ok : Ctx → Bool} {k : Module → Module} {m : Module}
  (bound : isBound m f.val (m.ctx slot).part = true) (present : (m.ctx slot).state ≠ .free)
include bound present

/-- The bound function sees the contexts of its partition (03 R84). -/
theorem seesCtx_bound : seesCtx m (some f) slot = true := by simp [seesCtx, ownsSlot, bound, present]

theorem ctxCommand_accepted (takes : ok (m.ctx slot) = true) : ctxCommand f slot code ok k m = k m :=
  onCtx_takes (seesCtx_bound bound present) present (by rw [bound, takes]; rfl)

theorem ctxCommand_ignored (refuses : ok (m.ctx slot) = false) :
    ctxCommand f slot code ok k m = ctxRefused (some f) slot offCtxcmd code m := by
  rw [ctxCommand, onCtx, if_neg (by simp [seesCtx_bound bound present]), if_pos (by simp [refuses])]

end

theorem ctxRefused_keeps (w : By) (slot off v : Nat) (m : Module) :
    (ctxRefused w slot off v m).ctxs = m.ctxs ∧ (ctxRefused w slot off v m).threads = m.threads := by
  simp only [ctxRefused, refused, led_same, and_self]

/-! Beginning a teardown -/

/-- The second module is the first after some writes into its memories. -/
def StoredIn (m q : Module) : Prop :=
  ∃ mem valid bad summary draw, q = { m with mem := mem, valid := valid, bad := bad, summary := summary, draw := draw }

theorem StoredIn.refl (m : Module) : StoredIn m m := ⟨_, _, _, _, _, rfl⟩

theorem StoredIn.trans {m p q : Module} (h : StoredIn m p) (g : StoredIn p q) : StoredIn m q := by
  obtain ⟨_, _, _, _, _, rfl⟩ := h
  obtain ⟨_, _, _, _, _, rfl⟩ := g
  exact ⟨_, _, _, _, _, rfl⟩

theorem StoredIn.foldl {α : Type} {op : Module → α → Module} (h : ∀ m a, StoredIn m (op m a)) (l : List α) (m : Module) :
    StoredIn m (l.foldl op m) :=
  foldl_keeps (fun p a hp => hp.trans (h p a)) l (.refl m)

/-- Work that is cut short has written some bytes, and done nothing else (06 R224, 07 R251). -/
theorem cutShort_stores {α : Type} (w : EngM α) (m : Module) : StoredIn m (cutShort w m) := by
  unfold cutShort
  split
  · exact ⟨_, _, _, _, _, rfl⟩
  · exact ⟨_, _, _, _, _, rfl⟩
  · exact .refl m

theorem stopWork_stores (core : Nat) (m : Module) : StoredIn m (stopWork core m) := by
  have chain (r : ChainRun) (p : Module) : StoredIn p (stopChain core r p) := by
    unfold stopChain
    split
    · exact .refl p
    · exact cutShort_stores ..
  have te (r : TeRun) (p : Module) : StoredIn p (stopTe core r p) := by
    unfold stopTe
    split
    · exact .refl p
    · exact cutShort_stores ..
  exact (StoredIn.foldl (fun p r => chain r p) _ m).trans (.foldl (fun p r => te r p) _ _)

/-- The module once the threads of a context and what its engines do have stopped. -/
def stopped (slot : Nat) (m : Module) : Module :=
  (coresOf (m.ctx slot).r.cores).foldl (fun p c => stopWork c p) (stopThreads slot m)

theorem stopped_stores (slot : Nat) (m : Module) : StoredIn (stopThreads slot m) (stopped slot m) :=
  .foldl (fun p c => stopWork_stores c p) _ _

section
variable {slot cmd : Nat} {m : Module} (up : (m.ctx slot).state ≠ .free ∧ (m.ctx slot).state ≠ .teardown)
include up

/-- What the beginning of a teardown leaves: of the context's threads, writes and transactions, and of its slot. -/
theorem startTeardown_eq : ∃ p cores, StoredIn (stopThreads slot m) p ∧ startTeardown slot cmd m =
    (dropUnsent (fun f => f.slot == slot)
      { p with cores := cores, writes := p.writes.filter fun w => w.slot != slot,
               cows := p.cows.filter fun w => w.slot != slot }).updCtx slot fun x =>
        { x with state := .teardown, tdAt := p.now, tdCmd := cmd, tdKeep := x.r.keep, tdTmo := 0,
                 fences := [], ovd := { x.ovd with work := [] } } := by
  have stores := stopped_stores slot m
  rw [startTeardown, if_neg (by simp [up])]
  dsimp only
  rw [← stopped]
  generalize stopped slot m = p at stores ⊢
  exact ⟨p, _, stores, rfl⟩

theorem startTeardown_ctx : (startTeardown slot cmd m).ctx slot =
    { m.ctx slot with state := .teardown, tdAt := m.now, tdCmd := cmd, tdKeep := (m.ctx slot).r.keep, tdTmo := 0,
                      fences := [], ovd := { (m.ctx slot).ovd with work := [] } } := by
  obtain ⟨p, cores, ⟨_, _, _, _, _, rfl⟩, eq⟩ := startTeardown_eq (cmd := cmd) up
  rw [eq, Module.updCtx_eq, Module.setCtx_ctx, if_pos rfl]
  rfl

theorem startTeardown_writes : (startTeardown slot cmd m).writes = m.writes.filter fun w => w.slot != slot := by
  obtain ⟨p, cores, ⟨_, _, _, _, _, rfl⟩, eq⟩ := startTeardown_eq (cmd := cmd) up
  rw [eq]
  rfl

theorem startTeardown_waiting :
    (startTeardown slot cmd m).fab.waiting = m.fab.waiting.filter fun f => !(f.slot == slot) := by
  obtain ⟨p, cores, ⟨_, _, _, _, _, rfl⟩, eq⟩ := startTeardown_eq (cmd := cmd) up
  rw [eq]
  rfl

theorem startTeardown_flights : (startTeardown slot cmd m).fab.flights =
    m.fab.flights.filter fun f => !(f.slot == slot && f.sent.isNone) := by
  obtain ⟨p, cores, ⟨_, _, _, _, _, rfl⟩, eq⟩ := startTeardown_eq (cmd := cmd) up
  rw [eq]
  rfl

theorem startTeardown_threads : (startTeardown slot cmd m).threads = (stopThreads slot m).threads := by
  obtain ⟨p, cores, ⟨_, _, _, _, _, rfl⟩, eq⟩ := startTeardown_eq (cmd := cmd) up
  rw [eq]
  rfl

end

theorem stopThreads_stopped {slot : Nat} {m : Module} {e : Nat × Thread} (h : e ∈ (stopThreads slot m).threads)
    (own : (m.ctx slot).r.cores.getLsbD (e.1 / 256) = true) : e.2.running = false ∧ e.2.load = none := by
  obtain ⟨a, -, rfl⟩ := List.mem_map.1 h
  by_cases mine : (m.ctx slot).r.cores.getLsbD (a.1 / 256) = true
  · simp only [mine, if_true, and_self]
  · simp only [mine] at own
    exact absurd own mine

/-! The end of a teardown -/

/-- The second module has the contexts, partitions and functions of the first. -/
structure SameHolders (m q : Module) : Prop where
  ctxs : q.ctxs = m.ctxs
  parts : q.parts = m.parts
  funs : q.funs = m.funs

theorem SameHolders.refl (m : Module) : SameHolders m m := ⟨rfl, rfl, rfl⟩

theorem SameHolders.trans {m p q : Module} (h : SameHolders m p) (g : SameHolders p q) : SameHolders m q :=
  ⟨g.ctxs.trans h.ctxs, g.parts.trans h.parts, g.funs.trans h.funs⟩

theorem SameHolders.foldl {α : Type} {op : Module → α → Module} (h : ∀ m a, SameHolders m (op m a)) (l : List α) (m : Module) :
    SameHolders m (l.foldl op m) :=
  foldl_keeps (fun p a hp => hp.trans (h p a)) l (.refl m)

theorem dropBms_holders (p : Bookmark → Bool) (m : Module) : SameHolders m (dropBms p m) :=
  (SameHolders.foldl (op := fun m fr => clearFrame fr m) (fun _ _ => ⟨rfl, rfl, rfl⟩) _ m).trans ⟨rfl, rfl, rfl⟩

theorem clearPages_holders (slot : Nat) (m : Module) : SameHolders m (clearPages slot m) :=
  .foldl (op := fun m fr => clearFrame fr m) (fun _ _ => ⟨rfl, rfl, rfl⟩) _ m

theorem zeroWindows_holders (x : Ctx) (m : Module) : SameHolders m (zeroWindows x m) :=
  .foldl (op := fun m cl => zeroRange (paStore cl (65536 * x.r.csBase.toNat))
    (paStore cl (65536 * (x.r.csBase.toNat + x.r.csSize.toNat))) m) (fun _ _ => ⟨rfl, rfl, rfl⟩) _ m

theorem led_holders (code sev : Nat) (pl : Place) (data : List Nat) (m : Module) : SameHolders m (led code sev pl data m) := by
  constructor <;> simp only [led_same]

theorem dropTlb_holders (slot : Nat) (m : Module) : SameHolders m (dropTlb slot m) := ⟨rfl, rfl, rfl⟩

theorem SameHolders.ite {c : Prop} [Decidable c] {m p q : Module} (h : SameHolders m p) (g : SameHolders m q) :
    SameHolders m (if c then p else q) := by
  split
  · exact h
  · exact g

/-- What a freed slot leaves of its bookmarks: unheld pages where the context keeps them, and otherwise none (13 R430). -/
def unpaged (slot : Nat) (x : Ctx) (m : Module) : Module :=
  let mine := fun (b : Bookmark) => b.job == x.r.job && b.part == x.part
  if x.tdKeep then { m with bms := m.bms.map fun b => if mine b then { b with dep := none } else b }
  else dropBms mine (clearPages slot m)

theorem unpaged_holders (slot : Nat) (x : Ctx) (m : Module) : SameHolders m (unpaged slot x m) :=
  .ite ⟨rfl, rfl, rfl⟩ ((clearPages_holders slot m).trans (dropBms_holders _ _))

/-- What a freed slot leaves in memory, and the entry of its end (03 R81; 13 R430). -/
def cleared (slot : Nat) (m : Module) : Module :=
  let x := m.ctx slot
  let q := unpaged slot x
    ((coresOf x.r.cores).foldl (fun m c => (zeroCore c m).updCore c CoreSt.released) (zeroWindows x m))
  dropTlb slot (if x.tdCmd = 0 then q else led 0x0201 sevInfo (atCtx q slot) [x.tdAt, x.tdTmo, x.tdCmd] q)

theorem cleared_holders (slot : Nat) (m : Module) : SameHolders m (cleared slot m) := by
  have zeroed := (zeroWindows_holders (m.ctx slot) m).trans (.foldl
    (op := fun m c => (zeroCore c m).updCore c CoreSt.released) (fun _ _ => ⟨rfl, rfl, rfl⟩) (coresOf (m.ctx slot).r.cores) _)
  exact ((zeroed.trans (unpaged_holders slot (m.ctx slot) _)).trans (.ite (.refl _) (led_holders ..))).trans (dropTlb_holders ..)

/-- A freed slot keeps the generation of its context and nothing else (03 R81; 10 R341; 13 R430). -/
theorem freeSlot_eq (slot : Nat) (m : Module) : freeSlot slot m =
    ({ cleared slot m with
       threads := (cleared slot m).threads.filter fun e => !((m.ctx slot).r.cores.getLsbD (e.1 / 256)),
       fab := { (cleared slot m).fab with
                groups := (cleared slot m).fab.groups.filter fun g => g.slot != slot,
                jobKeys := (cleared slot m).fab.jobKeys.filter fun k => k.1 != (m.ctx slot).r.job } }).setCtx slot
      { Ctx.init with gen := (m.ctx slot).gen } := rfl

theorem closeAdvance_open {p : Nat} {m : Module} (h : (m.part p).st ≠ .closing) : closeAdvance p m = m := by
  rw [closeAdvance]
  exact if_pos (.inl h)

theorem flrAll_none {backstop : Bool} {m : Module} (h : ∀ f : Nat, (m.func f).flr = none) : flrAll backstop m = m :=
  List.foldl_fixed' (fun f => by rw [flrFinish, h]) _

theorem sendCloses_none {s : State} (h : ∀ p : Nat, (s.mod.part p).closeRec = none) : sendCloses s = s :=
  List.foldl_fixed' (fun p => by rw [h]) _

end Sys2Proof.Machine

namespace Sys2Proof.Machine

open Sys2Proof.Safety

/-! What a read by the Librarian leaves as it is (03 R91 to R99; 11 R372) -/

section
variable {β : Type} {d : β} {k : Nat} {e : Nat × β}

theorem sparse_mem_of_drop {l : Sparse β} (h : e ∈ Sparse.drop l k) : e ∈ l := by
  induction l with
  | nil => exact h
  | cons a l ih =>
    rw [Sparse.drop] at h
    split at h
    · exact .tail _ (ih h)
    · rcases List.mem_cons.1 h with rfl | h
      · exact .head _
      · exact .tail _ (ih h)

theorem sparse_mem_put {x : β} {l : Sparse β} (h : e ∈ Sparse.put l k x) : e ∈ l ∨ e = (k, x) := by
  induction l with
  | nil => exact .inr (List.mem_singleton.1 h)
  | cons a l ih =>
    rw [Sparse.put] at h
    split at h
    · exact (List.mem_cons.1 h).symm.imp_left (.tail _)
    · split at h
      · exact (List.mem_cons.1 h).symm
      · rcases List.mem_cons.1 h with rfl | h
        · exact .inl (.head _)
        · exact (ih h).imp_left (.tail _)

theorem sparse_mem_set [DecidableEq β] {x : β} {l : Sparse β} (h : e ∈ Sparse.set d l k x) : e ∈ l ∨ e = (k, x) := by
  rw [Sparse.set] at h
  split at h
  · exact .inl (sparse_mem_of_drop h)
  · exact sparse_mem_put h

/-- A value that is not the default is listed. -/
theorem sparse_get_mem {l : Sparse β} (h : Sparse.get d l k ≠ d) : (k, Sparse.get d l k) ∈ l := by
  induction l with
  | nil => exact absurd rfl h
  | cons a l ih =>
    rw [Sparse.get_cons] at h ⊢
    split at h
    · next same => rw [if_pos same, same]; exact .head _
    · next other => rw [if_neg other]; exact .tail _ (ih h)

end

/-- The second module has the threads, transactions and context registers of the first, and commands on no other core. -/
structure SameWork (m q : Module) : Prop where
  threads : q.threads = m.threads
  fab : q.fab = m.fab
  regs : ∀ i, (q.ctx i).r = (m.ctx i).r
  cores : ∀ e ∈ q.cores, coreWork e.2 = true → ∃ b ∈ m.cores, b.1 = e.1 ∧ coreWork b.2 = true

namespace SameWork

theorem refl (m : Module) : SameWork m m := ⟨rfl, rfl, fun _ => rfl, fun e h w => ⟨e, h, rfl, w⟩⟩

theorem trans {m p q : Module} (h : SameWork m p) (g : SameWork p q) : SameWork m q := by
  refine ⟨g.threads.trans h.threads, g.fab.trans h.fab, fun i => (g.regs i).trans (h.regs i), fun e he we => ?_⟩
  obtain ⟨b, hb, eb, wb⟩ := g.cores e he we
  obtain ⟨a, ha, ea, wa⟩ := h.cores b hb wb
  exact ⟨a, ha, ea.trans eb, wa⟩

theorem of_eq {m q : Module} (threads : q.threads = m.threads) (fab : q.fab = m.fab) (ctxs : q.ctxs = m.ctxs)
    (cores : q.cores = m.cores) : SameWork m q :=
  ⟨threads, fab, fun i => by rw [Module.ctx, Module.ctx, ctxs], fun e h w => ⟨e, cores ▸ h, rfl, w⟩⟩

theorem foldl {α : Type} {op : Module → α → Module} (h : ∀ m a, SameWork m (op m a)) (l : List α) (m : Module) :
    SameWork m (l.foldl op m) :=
  foldl_keeps (fun p a hp => hp.trans (h p a)) l (refl m)

theorem updCore {c : Nat} {f : CoreSt → CoreSt} (m : Module) (h : ∀ x, coreWork (f x) = coreWork x := by intro; rfl) :
    SameWork m (m.updCore c f) := by
  refine ⟨rfl, rfl, fun _ => rfl, fun e he we => ?_⟩
  rcases sparse_mem_set he with he | rfl
  · exact ⟨e, he, rfl, we⟩
  · rw [h] at we
    have listed : m.core c ≠ CoreSt.init := fun init => by rw [init] at we; exact absurd we (by decide)
    exact ⟨(c, m.core c), sparse_get_mem listed, rfl, we⟩

theorem updCtx {slot : Nat} {f : Ctx → Ctx} (m : Module) (h : ∀ x, (f x).r = x.r := by intro; rfl) : SameWork m (m.updCtx slot f) := by
  refine ⟨rfl, rfl, fun i => ?_, fun e he we => ⟨e, he, rfl, we⟩⟩
  rw [Module.updCtx_eq, Module.setCtx_ctx]
  split
  · next same => rw [h, same]
  · rfl

theorem ite {c : Prop} [Decidable c] {m p q : Module} (h : SameWork m p) (g : SameWork m q) :
    SameWork m (if c then p else q) := by
  split
  · exact h
  · exact g

end SameWork

theorem led_work (code sev : Nat) (pl : Place) (data : List Nat) (m : Module) : SameWork m (led code sev pl data m) := by
  apply SameWork.of_eq <;> simp only [led_same]

theorem sramErr_work (errs : Sparse Nat) (m : Module) : SameWork m { m with sramErr := errs } := .of_eq rfl rfl rfl rfl

theorem sumErr_work (errs lost : Sparse Nat) (m : Module) : SameWork m { m with sramErr := errs, sumBad := lost } :=
  .of_eq rfl rfl rfl rfl

theorem tlb_work (tlb : Sparse Word) (m : Module) : SameWork m { m with tlb := tlb } := .of_eq rfl rfl rfl rfl

theorem countSram_work (pa : Nat) (m : Module) : SameWork m (countSram pa m) := by
  unfold countSram
  split
  · exact .updCore m
  · split
    · exact .of_eq rfl rfl rfl rfl
    · exact .updCore m

theorem readSummary_work (g : Nat) (m : Module) : SameWork m (readSummary g m) := by
  unfold readSummary
  split
  · exact .refl m
  · exact (sramErr_work _ m).trans (countSram_work ..)
  · exact (sumErr_work _ _ m).trans (led_work ..)

theorem decodeRead_work (g src : Nat) (m : Module) : SameWork m (decodeRead g src m) := by
  apply SameWork.of_eq <;> simp only [decodeRead_same]

theorem readGran_work (g src : Nat) (m : Module) : SameWork m (readGran g src m) :=
  .ite (.ite (.refl m) (decodeRead_work ..)) (.ite (.refl m)
    (.ite (readSummary_work g m) ((readSummary_work g m).trans (decodeRead_work ..))))

theorem readWord_work (pa : Nat) (m : Module) : SameWork m (readWord pa m) := by
  unfold readWord
  split
  · exact .refl m
  · exact (sramErr_work _ m).trans (countSram_work ..)
  · exact .of_eq rfl rfl rfl rfl

theorem readPas_work (pas : List Nat) (m : Module) : SameWork m (readPas pas m).1 :=
  (SameWork.foldl (fun p g => readGran_work g 0 p) _ m).trans (.foldl (fun p k => readWord_work (8 * k) p) _ _)

theorem readEntry_work (pa n : Nat) (m : Module) : SameWork m (readEntry pa n m).1 := readPas_work _ m

theorem leafAddr_work (part ptbase vpn : Nat) (m : Module) : SameWork m (leafAddr part ptbase vpn m).1 := by
  have read := readEntry_work (paMain ptbase 0 + 8 * (vpn / 8192)) 8 m
  unfold leafAddr
  dsimp only
  repeat' split
  · exact .refl m
  all_goals exact read

theorem pteOf_work (slot vpn : Nat) (m : Module) : SameWork m (pteOf slot vpn m).1 := by
  have leaf := leafAddr_work (m.ctx slot).part (m.ctx slot).r.ptbase.toNat vpn m
  unfold pteOf
  dsimp only
  split
  · exact .refl m
  · split
    · exact leaf
    · exact leaf
    · have read (pa : Nat) := leaf.trans (readEntry_work pa 8 _)
      split
      · exact read _
      · split
        · exact read _
        · exact (read _).trans (tlb_work _ _)

theorem trPage_work (slot : Nat) (k : Acc) (remote : Bool) (off : Nat) (m : Module) :
    SameWork m (trPage slot k remote off m).1 := by
  have entry := pteOf_work slot (off / 65536) m
  unfold trPage
  dsimp only
  repeat' split
  all_goals exact entry

theorem trLocal_work (slot : Nat) (k : Acc) (remote : Bool) (eng : Option Nat) (c : Word) (m : Module) :
    SameWork m (trLocal slot k remote eng c m).1 := by
  unfold trLocal
  split
  · exact trPage_work ..
  · exact .refl m

theorem trKv_work (slot : Nat) (k : Acc) (remote : Bool) (w : Kv) (off : Nat) (m : Module) :
    SameWork m (trKv slot k remote w off m).1 := by
  unfold trKv
  extract_lets x key cached e r look
  have looked : SameWork m look.1 := by
    unfold look
    split
    · exact .refl m
    · have own : SameWork m r.1 := trLocal_work ..
      split
      · next pa _ =>
        have read := own.trans (readEntry_work pa 4 _)
        dsimp only
        split
        · exact read
        · split
          · exact read
          · exact read.trans (tlb_work _ _)
      all_goals exact own
  repeat' split
  all_goals exact looked

theorem resolve_work (slot : Nat) (k : Acc) (eng : Option Nat) (c : Word) (m : Module) :
    SameWork m (resolve slot k eng c m).1 := by
  unfold resolve resolveLocal
  split
  · split
    · split
      · exact trKv_work ..
      · exact trPage_work ..
    · split
      · exact .refl m
      · exact .refl m
    · exact .refl m
  · split
    · exact .refl m
    · exact .refl m

/-- Work of an engine that changes nothing of `SameWork`, whether or not it stops. -/
def KeepsWork {α : Type} (w : EngM α) : Prop := ∀ m, SameWork m (w.run m).2

namespace KeepsWork

variable {α β : Type}

theorem pure (a : α) : KeepsWork (Pure.pure a : EngM α) := fun m => .refl m

theorem stop (s : Stop) : KeepsWork (Machine.stop s : EngM α) := fun m => .refl m

theorem get : KeepsWork (MonadState.get : EngM Module) := fun m => .refl m

theorem act {f : Module → Module × α} (h : ∀ m, SameWork m (f m).1) : KeepsWork (Machine.act f) := h

theorem bind {x : EngM α} {f : α → EngM β} (h : KeepsWork x) (g : ∀ a, KeepsWork (f a)) : KeepsWork (x >>= f) := by
  intro m
  have first := h m
  rw [ExceptT.run_bind]
  change SameWork m (StateT.bind x.run _ m).2
  rw [StateT.bind]
  change SameWork m (x.run m).2 at first
  generalize x.run m = r at first ⊢
  obtain ⟨_ | a, p⟩ := r
  · exact first
  · exact first.trans (g a p)

theorem mapM {f : α → EngM β} (h : ∀ a, KeepsWork (f a)) (l : List α) : KeepsWork (l.mapM f) := by
  induction l with
  | nil => exact pure []
  | cons a l ih =>
    rw [List.mapM_cons]
    exact (h a).bind fun b => ih.bind fun bs => pure (b :: bs)

end KeepsWork

theorem resolveRun_work (slot : Nat) (k : Acc) (eng : Option Nat) (c : Word) (n : Nat) : KeepsWork (resolveRun slot k eng c n) := by
  unfold resolveRun
  refine (KeepsWork.act (resolve_work slot k eng c)).bind fun a => ?_
  split
  · exact .pure _
  all_goals exact .stop _

theorem readLocal_work (slot core : Nat) (self : Option Nat) (c : Word) (n : Nat) : KeepsWork (readLocal slot core self c n) := by
  unfold readLocal
  refine (KeepsWork.mapM (fun r => ?_) _).bind fun parts => .pure _
  refine KeepsWork.bind (resolveRun_work slot .read (some core) r.1 r.2) fun pas => KeepsWork.get.bind fun m => ?_
  dsimp only
  split
  · exact (KeepsWork.stop _).bind fun _ => .act (readPas_work pas)
  · exact .act (readPas_work pas)

theorem libRead_work (slot : Nat) (c : Word) (n : Nat) (m : Module) : SameWork m (libRead slot c n m).1 := by
  have read := readLocal_work slot noCore none c n m
  unfold libRead
  split <;> next run => rw [run] at read; exact read

/-! The tensors of a context that starts (11 R372, R390) -/

theorem updTensor_work (slot i : Nat) (f : Tensor → Tensor) (m : Module) : SameWork m (updTensor slot i f m) :=
  .updCtx m

theorem bindFrom_work (slot i : Nat) (t : Tensor) (bs : List (Byte × Bool)) (m : Module) : SameWork m (bindFrom slot i t bs m) :=
  .ite (updTensor_work ..) (.ite ((updTensor_work ..).trans (led_work ..)) (updTensor_work ..))

theorem bindAll_work (slot n : Nat) (bs : List (Byte × Bool)) (i : Nat) (m : Module) : SameWork m (bindAll slot n bs i m) := by
  induction n generalizing bs i m with
  | zero => exact .refl m
  | succ n ih => exact (SameWork.ite (.refl m) (bindFrom_work ..)).trans (ih ..)

theorem edTable_work (slot : Nat) (m : Module) : SameWork m (edTable slot m) := by
  have read := libRead_work slot (m.ctx slot).edtbase 32768 m
  unfold edTable
  dsimp only
  split
  · exact read.trans (bindAll_work ..)
  · exact read

theorem turnBases_work (slot : Nat) (m : Module) : SameWork m (turnBases slot m) :=
  .updCtx m fun x => by split <;> rfl

end Sys2Proof.Machine

namespace Sys2Proof.Machine

open Sys2Proof.Safety

/-! START (03 R75, R85; 13 R430; 18 R558) -/

/-- A thread runs from the entry with g3 zero. -/
def Started (entry : Word) (t : ThreadNo) (m : Module) : Prop :=
  (m.thread t).running = true ∧ (m.thread t).pc = BitVec.ofNat 64 (entry.toNat / 4 * 4) ∧ m.reg t 3 = 0

theorem startThread_self (slot : Nat) (entry : Word) (t : ThreadNo) (m : Module) :
    Started entry t (startThread slot t entry 0 m) := by
  obtain ⟨running, pc⟩ := startThread_started (slot := slot) (m := m) t entry 0
  exact ⟨running, pc, startThread_reg t entry 0 3⟩

theorem startThread_keeps {slot : Nat} {entry : Word} {t : ThreadNo} (u : ThreadNo) {m : Module} (h : Started entry t m) :
    Started entry t (startThread slot u entry 0 m) := by
  by_cases same : t = u
  · exact same ▸ startThread_self ..
  · rw [Started, Module.reg, startThread_thread, if_neg same]
    exact h

theorem startThreads_started {slot : Nat} {entry : Word} {t : ThreadNo} {l : List ThreadNo} (h : t ∈ l) (m : Module) :
    Started entry t (l.foldl (fun m u => startThread slot u entry 0 m) m) := by
  induction l generalizing m with
  | nil => cases h
  | cons u l ih =>
    rcases List.mem_cons.1 h with rfl | h
    · exact foldl_keeps (fun p u hp => startThread_keeps u hp) l (startThread_self ..)
    · exact ih h _

theorem startThreads_ctxs (slot : Nat) (entry : Word) (l : List ThreadNo) (m : Module) :
    (l.foldl (fun m u => startThread slot u entry 0 m) m).ctxs = m.ctxs :=
  foldl_keeps (I := fun q => q.ctxs = m.ctxs) (fun _ _ h => by simpa only [startThread_same] using h) l rfl

theorem startList_none {x : Ctx} (h : x.r.startmask = 0) : startList x = [] := by
  simp [startList, h]

theorem mem_startList {x : Ctx} {t : ThreadNo} (own : x.r.cores.getLsbD (t.toNat / 256) = true)
    (asked : x.r.startmask.getLsbD (t.toNat % 256) = true) : t ∈ startList x := by
  have bound := t.isLt
  refine List.mem_flatMap.2 ⟨t.toNat / 256, List.mem_filter.2 ⟨List.mem_range.2 (by omega), own⟩,
    List.mem_map.2 ⟨t.toNat % 256, List.mem_filter.2 ⟨List.mem_range.2 (Nat.mod_lt _ (by decide)), asked⟩, ?_⟩⟩
  rw [Nat.div_add_mod, BitVec.ofNat_toNat, BitVec.setWidth_eq]

section
variable {slot : Nat} {m q : Module}

theorem anyRunning_of_thread {t : ThreadNo} (own : (m.ctx slot).r.cores.getLsbD (t.toNat / 256) = true)
    (running : (m.thread t).running = true) : anyRunning m slot = true := by
  have listed : m.thread t ≠ Thread.idle := fun idle => by rw [idle] at running; exact absurd running (by decide)
  exact List.any_eq_true.2 ⟨_, sparse_get_mem listed, Bool.and_eq_true_iff.2 ⟨running, own⟩⟩

theorem settle_runs (h : anyRunning m slot = true) : settle slot m = m := if_neg (by simp [h])

/-- Nothing of a context runs or is outstanding (03 R85). -/
structure Rests (slot : Nat) (m : Module) : Prop where
  halted : anyRunning m slot = false
  settled : anyFlight m slot = false
  unworked : ∀ e ∈ m.cores, (m.ctx slot).r.cores.getLsbD e.1 = true → coreWork e.2 = false

theorem Rests.of_same (h : Rests slot m) (same : SameWork m q) : Rests slot q := by
  obtain ⟨halted, settled, unworked⟩ := h
  refine ⟨?_, ?_, fun e he own => Bool.eq_false_iff.2 fun work => ?_⟩
  · rwa [anyRunning, same.threads, same.regs]
  · rwa [anyFlight, same.fab]
  · obtain ⟨b, hb, key, busy⟩ := same.cores e he work
    rw [same.regs, ← key] at own
    exact absurd busy (by simp [unworked b hb own])

theorem settle_idle (h : Rests slot m) (running : (m.ctx slot).state = .running) :
    settle slot m = m.updCtx slot fun x => { x with state := .idle } := by
  obtain ⟨halted, settled, unworked⟩ := h
  obtain ⟨flights, waiting⟩ := Bool.or_eq_false_iff.1 settled
  have accesses : anyAccess m slot = false := by
    refine Bool.or_eq_false_iff.2 ⟨List.any_eq_false.2 fun f hf => ?_, List.any_eq_false.2 fun f hf => ?_⟩
    · simp [List.any_eq_false.1 flights f hf]
    · simp [List.any_eq_false.1 waiting f hf]
  have cores : (m.cores.all fun e => !((m.ctx slot).r.cores.getLsbD e.1 && coreWork e.2)) = true := by
    refine List.all_eq_true.2 fun e he => ?_
    cases own : (m.ctx slot).r.cores.getLsbD e.1
    · rfl
    · rw [unworked e he own]; rfl
  exact if_pos (by rw [running, halted, accesses, cores]; rfl)

end

/-- A context that has read its tables, before its threads start. -/
def readTables (slot : Nat) (m : Module) : Module := turnBases slot (edTable slot m)

theorem readTables_work (slot : Nat) (m : Module) : SameWork m (readTables slot m) := (edTable_work slot m).trans (turnBases_work slot _)

theorem progress_work (slot : Nat) (m : Module) : SameWork m (progress slot m) := .updCtx m

/-- A context that enters RUNNING (13 R420). -/
def entered (slot : Nat) (m : Module) : Module :=
  progress slot (m.updCtx slot fun x =>
    { x with state := .running, ovd := { x.ovd with nextCheck := m.now + x.ovd.win * 1000000 / 16 } })

theorem entered_work (slot : Nat) (m : Module) : SameWork m (entered slot m) := by
  refine SameWork.trans ?_ (progress_work slot _)
  exact .updCtx m

theorem entered_running (slot : Nat) (m : Module) : ((entered slot m).ctx slot).state = .running := by
  simp only [entered, progress, Module.updCtx_eq, Module.setCtx_ctx, if_true]

theorem startCtx_eq (slot : Nat) (m : Module) : startCtx slot m = settle slot (entered slot
    ((startList (m.ctx slot)).foldl (fun p t => startThread slot t (m.ctx slot).r.entry 0 p) (readTables slot m))) := rfl

/-- With no thread to start and nothing outstanding a context that starts is IDLE (03 R85). -/
theorem startCtx_idle {slot : Nat} {m : Module} (none : (m.ctx slot).r.startmask = 0) (rests : Rests slot m) :
    ((startCtx slot m).ctx slot).state = .idle := by
  have rests' := rests.of_same ((readTables_work slot m).trans (entered_work slot _))
  rw [startCtx_eq, startList_none none, List.foldl_nil, settle_idle rests' (entered_running ..), Module.updCtx_eq,
    Module.setCtx_ctx, if_pos rfl]

/-- A context that starts a thread is RUNNING, and the thread runs from the entry (03 R75). -/
theorem startCtx_runs {slot : Nat} {m : Module} {t : ThreadNo} (own : (m.ctx slot).r.cores.getLsbD (t.toNat / 256) = true)
    (asked : (m.ctx slot).r.startmask.getLsbD (t.toNat % 256) = true) :
    ((startCtx slot m).ctx slot).state = .running ∧ Started (m.ctx slot).r.entry t (startCtx slot m) := by
  have started := startThreads_started (slot := slot) (entry := (m.ctx slot).r.entry) (mem_startList own asked) (readTables slot m)
  have ctxs := startThreads_ctxs slot (m.ctx slot).r.entry (startList (m.ctx slot)) (readTables slot m)
  rw [startCtx_eq]
  generalize (startList (m.ctx slot)).foldl (fun p t => startThread slot t (m.ctx slot).r.entry 0 p) (readTables slot m) = p
    at started ctxs ⊢
  have regs : ((entered slot p).ctx slot).r = (m.ctx slot).r := by
    rw [(entered_work slot p).regs, Module.ctx, ctxs]
    exact (readTables_work slot m).regs slot
  have runs : anyRunning (entered slot p) slot = true := anyRunning_of_thread (t := t) (by rw [regs, own]) started.1
  rw [settle_runs runs]
  exact ⟨entered_running slot p, started⟩

/-! The four commands -/

theorem ctx_live {x : Ctx} (present : x.state ≠ .free) (live : x.state ≠ .teardown) : x.live = true := by
  rw [Ctx.live]
  split
  · contradiction
  · contradiction
  · rfl

section
variable {f : Fn} {slot : BitVec 6} {s : State} (on : s.mod.on = true) (lib : s.mod.boot.lib = true)
  (up : hostUp s.mod f.val = true)
include on lib up

theorem start_gives : Gives (.start f slot) s (ctxCommand f slot.toNat 1 Ctx.quiet (startCtx slot.toNat) s.mod) :=
  liftW_reaches on lib up _

theorem end_gives : ∀ e ∈ [(Instr.stop f slot, 2), (.delete f slot, 3), (.reset f slot, 4)],
    Gives e.1 s (endCtx f slot.toNat e.2 s.mod) := by
  simp only [List.forall_mem_cons, List.not_mem_nil, false_imp_iff, implies_true, and_true]
  exact ⟨liftW_reaches on lib up _, liftW_reaches on lib up _, liftW_reaches on lib up _⟩

end

/-! The end of a teardown, with no loan that closes and no function in reset -/

theorem freeSlot_ctx (slot j : Nat) (m : Module) :
    (freeSlot slot m).ctx j = if j = slot then { Ctx.init with gen := (m.ctx slot).gen } else m.ctx j := by
  rw [freeSlot_eq, Module.setCtx_ctx, Module.ctx]
  dsimp only
  rw [(cleared_holders slot m).ctxs]
  rfl

theorem freeSlot_part (slot p : Nat) (m : Module) : (freeSlot slot m).part p = m.part p := by
  rw [freeSlot_eq, Module.setCtx_part, Module.part]
  dsimp only
  rw [(cleared_holders slot m).parts]
  rfl

theorem freeSlot_func (slot f : Nat) (m : Module) : (freeSlot slot m).func f = m.func f := by
  rw [freeSlot_eq, Module.setCtx_func, Module.func]
  dsimp only
  rw [(cleared_holders slot m).funs]
  rfl

section
variable {slot : Nat} {m : Module}

theorem teardownComplete_waits (h : teardownReady m slot = false) : teardownComplete slot m = m := if_pos (by simp [h])

theorem teardownComplete_frees (parts : ∀ p : Nat, (m.part p).st ≠ .closing) (funs : ∀ f : Nat, (m.func f).flr = none)
    (h : teardownReady m slot = true) : teardownComplete slot m = freeSlot slot m := by
  rw [teardownComplete, if_neg (by simp [h])]
  dsimp only
  rw [closeAdvance_open (freeSlot_part slot _ m ▸ parts _)]
  exact flrAll_none fun f => freeSlot_func slot f m ▸ funs f

end

/-- TEARDOWN_COMPLETE sends no record of a close where none waits. -/
theorem teardownComplete_gives {slot : BitVec 6} {s : State} {q : Module} (on : s.mod.on = true) (lib : s.mod.boot.lib = true)
    (completes : teardownComplete slot.toNat s.mod = q) (closes : ∀ p : Nat, (q.part p).closeRec = none) :
    Gives (.teardownComplete slot) s q := by
  have sent : sendCloses { s with mod := q } = { s with mod := q } := sendCloses_none closes
  change liftCL (teardownComplete slot.toNat) s = _
  rw [liftCL, liftC, if_pos on]
  dsimp only
  rw [if_pos lib, completes, sent, ite_self]

/-- Settles O30: what each command makes of a context in each of its states, and the end of its teardown. -/
theorem contextCommands : Obligations.ContextCommands := by
  refine ⟨fun f slot s on lib => ?_, fun slot s on lib => ?_⟩
  · intro m i x up holds present
    refine ⟨fun quiet => ?_, fun refuses => ?_, fun live e he => ?_, fun ending => ?_⟩
    · have takes : Ctx.quiet x = true := by simpa [Ctx.quiet] using quiet
      have gives := start_gives (slot := slot) on lib up
      rw [ctxCommand_accepted holds present takes] at gives
      refine ⟨fun none halted settled unworked => ⟨_, gives, startCtx_idle none ⟨halted, settled, unworked⟩⟩,
        fun t own asked => ?_⟩
      obtain ⟨running, started⟩ := startCtx_runs own asked
      exact ⟨_, gives, running, started⟩
    · have ignored : Ctx.quiet x = false := by rcases refuses with h | h | h <;> simp [Ctx.quiet, h]
      have gives := start_gives (slot := slot) on lib up
      rw [ctxCommand_ignored holds present ignored] at gives
      exact ⟨_, gives, ctxRefused_keeps ..⟩
    · intro q
      have takes : Ctx.live x = true := ctx_live present live
      have gives := end_gives on lib up e he
      rw [endCtx, ctxCommand_accepted holds present takes] at gives
      have ctx : q.ctx i = _ := startTeardown_ctx (cmd := e.2) ⟨present, live⟩
      have writes : q.writes = _ := startTeardown_writes (cmd := e.2) ⟨present, live⟩
      have waiting : q.fab.waiting = _ := startTeardown_waiting (cmd := e.2) ⟨present, live⟩
      have flights : q.fab.flights = _ := startTeardown_flights (cmd := e.2) ⟨present, live⟩
      have threads : q.threads = _ := startTeardown_threads (cmd := e.2) ⟨present, live⟩
      rw [ctx, writes, waiting, flights, threads]
      refine ⟨gives, rfl, rfl, rfl, rfl, rfl, fun w hw => ?_, fun w hw => ?_, fun w hw own => ?_,
        fun t ht own => stopThreads_stopped ht own⟩
      · simpa using (List.mem_filter.1 hw).2
      · simpa using (List.mem_filter.1 hw).2
      · have sent := (List.mem_filter.1 hw).2
        rw [own] at sent
        simpa using sent
    · have ignored : Ctx.live x = false := by rw [Ctx.live, ending]
      have gives (e) (he : e ∈ [(Instr.stop f slot, 2), (.delete f slot, 3), (.reset f slot, 4)]) :
          ∃ q, Gives e.1 s q ∧ q.ctxs = m.ctxs := by
        have gives := end_gives on lib up e he
        rw [endCtx, ctxCommand_ignored holds present ignored] at gives
        exact ⟨_, gives, (ctxRefused_keeps ..).1⟩
      simpa only [List.forall_mem_cons, List.not_mem_nil, false_imp_iff, implies_true, and_true] using gives
  · intro m i x still funs
    refine ⟨fun waits => teardownComplete_gives on lib (teardownComplete_waits waits) fun p => (still p).2, fun ready => ?_⟩
    have frees := teardownComplete_frees (fun p => (still p).1) funs ready
    have closes (p : Nat) : ((freeSlot i m).part p).closeRec = none := by
      rw [freeSlot_part]
      exact (still p).2
    refine ⟨_, teardownComplete_gives on lib frees closes, ?_, ?_, fun j other => ?_, fun g hg => ?_, fun k hk => ?_, fun e he => ?_⟩
    · rw [freeSlot_ctx, if_pos rfl]; rfl
    · rw [freeSlot_ctx, if_pos rfl]
    · rw [freeSlot_ctx, if_neg other]
    · simpa using (List.mem_filter.1 hg).2
    · simpa using (List.mem_filter.1 hk).2
    · simpa using (List.mem_filter.1 he).2

end Sys2Proof.Machine

namespace Sys2Proof.Machine

/-! The Gelga encoding (O51, O52; 04 R122 to R124, Tables 4.1 to 4.15). A field of a concatenation is a field of the part that
holds it, so that the decoder finds in each layout what the encoder put there. -/

section
variable {v w start : Nat} {hi : BitVec v} {lo : BitVec w}

theorem field_last (h : start = 0) : (hi ++ lo).extractLsb' start w = lo := by
  rw [h, BitVec.extractLsb'_append_eq_right]

theorem field_whole (h : start = 0) : lo.extractLsb' start w = lo := by rw [h, BitVec.extractLsb'_eq_self]

theorem bit_above (h : w ≤ start) : (hi ++ lo).getLsbD start = hi.getLsbD (start - w) := by
  rw [BitVec.getLsbD_append, if_neg (Nat.not_lt.2 h)]

theorem bit_last {b : Bool} (h : start = 0) : (hi ++ BitVec.ofBool b).getLsbD start = b := by
  rw [h, BitVec.getLsbD_append, if_pos Nat.one_pos, BitVec.getLsbD_ofBool]
  simp

end

/-! Layouts of one word (Table 4.1) -/

section
variable (op : BitVec 6) (rd ra rb : Reg) (fn : BitVec 8) (i : BitVec 14) (k lane : BitVec 2) (a : BitVec 6) (b : Bool)
  (h : BitVec 16) (c : CtrNo)

@[simp] theorem encR_wOp : wOp (encR op rd ra rb fn) = op.toNat := by
  unfold wOp encR
  simp (disch := decide) only [BitVec.extractLsb'_append_eq_of_le, field_whole]

@[simp] theorem encR_wRd : wRd (encR op rd ra rb fn) = rd := by
  unfold wRd encR
  simp (disch := decide) only [BitVec.extractLsb'_append_eq_of_le, field_last]

@[simp] theorem encR_wRa : wRa (encR op rd ra rb fn) = ra := by
  unfold wRa encR
  simp (disch := decide) only [BitVec.extractLsb'_append_eq_of_le, field_last]

@[simp] theorem encR_wRb : wRb (encR op rd ra rb fn) = rb := by
  unfold wRb encR
  simp (disch := decide) only [BitVec.extractLsb'_append_eq_of_le, field_last]

@[simp] theorem encR_wFn : wFn (encR op rd ra rb fn) = fn.toNat := by
  unfold wFn encR
  simp (disch := decide) only [field_last]

@[simp] theorem encI_wOp : wOp (encI op rd ra i) = op.toNat := by
  unfold wOp encI
  simp (disch := decide) only [BitVec.extractLsb'_append_eq_of_le, field_whole]

@[simp] theorem encI_wRd : wRd (encI op rd ra i) = rd := by
  unfold wRd encI
  simp (disch := decide) only [BitVec.extractLsb'_append_eq_of_le, field_last]

@[simp] theorem encI_wRa : wRa (encI op rd ra i) = ra := by
  unfold wRa encI
  simp (disch := decide) only [BitVec.extractLsb'_append_eq_of_le, field_last]

@[simp] theorem encI_wImm : wImm (encI op rd ra i) = i := by
  unfold wImm encI
  simp (disch := decide) only [field_last]

@[simp] theorem encC_wOp : wOp (encC op rd c) = op.toNat := by
  unfold wOp encC
  simp (disch := decide) only [BitVec.extractLsb'_append_eq_of_le, field_whole]

@[simp] theorem encC_wRd : wRd (encC op rd c) = rd := by
  unfold wRd encC
  simp (disch := decide) only [BitVec.extractLsb'_append_eq_of_le, field_last]

@[simp] theorem encC_counter : (encC op rd c).extractLsb' 11 9 = c := by
  unfold encC
  simp (disch := decide) only [BitVec.extractLsb'_append_eq_of_le, field_last]

theorem encShi_wOp : wOp (encShi k rd ra a) = 6 := by
  unfold wOp encShi
  simp (disch := decide) only [BitVec.extractLsb'_append_eq_of_le, field_whole]
  rfl

theorem decodeShi_enc (t : ThreadNo) : decodeShi t (wRd (encShi k rd ra a)) (wRa (encShi k rd ra a)) (wImm (encShi k rd ra a)) =
    match k.toNat with
    | 0 => .shiSll t rd ra a
    | 1 => .shiSrl t rd ra a
    | 2 => .shiSra t rd ra a
    | _ => .shiRor t rd ra a := by
  unfold decodeShi wRd wRa wImm encShi
  simp (disch := decide) only [BitVec.extractLsb'_extractLsb'_of_le, BitVec.extractLsb'_append_eq_of_le, field_last] <;>
  rfl

theorem encM_wOp (k : BitVec 1) : wOp (encM k rd lane h) = 7 := by
  unfold wOp encM
  simp (disch := decide) only [BitVec.extractLsb'_append_eq_of_le, field_whole]
  rfl

theorem decodeMov_enc (t : ThreadNo) : decodeMov t (encM (BitVec.ofBool b) rd lane h) =
    if b then .movk t rd lane h else .movi t rd lane h := by
  unfold decodeMov wRd encM
  simp (disch := decide) only [BitVec.extractLsb'_append_eq_of_le, field_last, bit_above, bit_last]

end

/-! Engine commands (Tables 4.8 to 4.15) -/

theorem words_join (c : Word) : c.extractLsb' 32 32 ++ c.extractLsb' 0 32 = c := by
  rw [BitVec.extractLsb'_append_extractLsb'_eq_extractLsb' (by decide)]
  exact BitVec.extractLsb'_eq_self

/-- The class of an engine command stands in bits 31 to 26 of its first word. -/
theorem first_wOp (c : Word) : wOp (c.extractLsb' 32 32) = (c.extractLsb' 58 6).toNat := by
  conv_rhs => rw [← words_join c]
  rw [BitVec.extractLsb'_append_eq_of_le (by decide)]
  rfl

section
variable (t : ThreadNo)

theorem mmaF_class (f : MmaF) : f.enc.extractLsb' 58 6 = 0x30 := by
  unfold MmaF.enc encDone
  simp (disch := decide) only [BitVec.extractLsb'_append_eq_of_le, field_whole]

theorem decodeMe_enc (f : MmaF) : decodeMe t f.enc = orUnallocated t (.meMma t f) := by
  unfold decodeMe decodeDone MmaF.enc encDone
  simp (disch := decide) only [BitVec.extractLsb'_append_eq_of_le, field_last, bit_above, bit_last]

theorem chainF_class (f : ChainF) : f.enc.extractLsb' 58 6 = 0x31 := by
  unfold ChainF.enc encDone
  simp (disch := decide) only [BitVec.extractLsb'_append_eq_of_le, field_whole]

theorem decodeVe_enc (f : ChainF) : decodeVe t f.enc = orUnallocated t (.veChain t f) := by
  unfold decodeVe decodeDone ChainF.enc encDone
  simp (disch := decide) only [BitVec.extractLsb'_append_eq_of_le, field_last, bit_above, bit_last]

theorem copyF_class (f : CopyF) : f.enc.extractLsb' 58 6 = 0x32 := by
  unfold CopyF.enc encDone
  simp (disch := decide) only [BitVec.extractLsb'_append_eq_of_le, field_whole]

theorem decodeTe_copy (f : CopyF) : decodeTe t f.enc = orUnallocated t (.teCopy t f) := by
  unfold decodeTe decodeDone CopyF.enc encDone
  simp (disch := decide) only [BitVec.extractLsb'_append_eq_of_le, field_last, bit_above, bit_last]
  rfl

theorem descF_class (f : DescF) : f.enc.extractLsb' 58 6 = 0x32 := by
  unfold DescF.enc encDone
  simp (disch := decide) only [BitVec.extractLsb'_append_eq_of_le, field_whole]

theorem decodeTe_desc (f : DescF) : decodeTe t f.enc = .teDesc t f := by
  unfold decodeTe decodeDone DescF.enc encDone
  simp (disch := decide) only [BitVec.extractLsb'_append_eq_of_le, field_last, bit_above, bit_last]
  rfl

theorem resF_class (sub : BitVec 4) (f : ResF) : (f.enc sub).extractLsb' 58 6 = 0x33 := by
  unfold ResF.enc encDone
  simp (disch := decide) only [BitVec.extractLsb'_append_eq_of_le, field_whole]

theorem decodeRes_enc (sub : BitVec 4) (f : ResF) : decodeRes t (f.enc sub) =
    match sub.toNat with
    | 0 => .resPush t f
    | 1 => .resPop t f
    | 2 => .resFree t f
    | _ => .unallocatedEncoding t := by
  unfold decodeRes decodeDone ResF.enc encDone
  simp (disch := decide) only [BitVec.extractLsb'_append_eq_of_le, field_last, bit_above, bit_last] <;>
  rfl

end

theorem orUnallocated_wf {t : ThreadNo} {c : Instr} (wf : c.wf = true) : orUnallocated t c = c := if_pos wf

/-! Classes (Table 4.2) -/

section
variable (t : ThreadNo) (rd ra rb : Reg) (fn : BitVec 8)

theorem decodeGelga_alu : decodeGelga t (encR 0x00 rd ra rb fn) 0 = decodeAlu t rd ra rb fn.toNat := by
  simp [decodeGelga]

theorem decodeGelga_fp : decodeGelga t (encR 0x08 rd ra rb fn) 0 = decodeFp t rd ra rb fn.toNat := by
  simp [decodeGelga]

theorem decodeGelga_atom : decodeGelga t (encR 0x1C rd ra rb fn) 0 = decodeAtom t rd ra rb fn.toNat := by
  simp [decodeGelga]

theorem decodeGelga_sync : decodeGelga t (encR 0x28 rd ra rb fn) 0 = decodeSync t rd fn.toNat := by
  simp [decodeGelga]

theorem decodeGelga_shi (k : BitVec 2) (a : BitVec 6) : decodeGelga t (encShi k rd ra a) 0 =
    match k.toNat with
    | 0 => .shiSll t rd ra a
    | 1 => .shiSrl t rd ra a
    | 2 => .shiSra t rd ra a
    | _ => .shiRor t rd ra a := by
  simp [decodeGelga, encShi_wOp, decodeShi_enc]

theorem decodeGelga_mov (k : Bool) (lane : BitVec 2) (i : BitVec 16) : decodeGelga t (encM (BitVec.ofBool k) rd lane i) 0 =
    if k then .movk t rd lane i else .movi t rd lane i := by
  simp [decodeGelga, encM_wOp, decodeMov_enc]

/-- The layout of JAL and DUE.R: an opcode, a register and 20 bits. -/
theorem encJ_wOp (op : BitVec 6) (o : BitVec 20) : wOp (op ++ rd ++ o) = op.toNat := by
  unfold wOp
  simp (disch := decide) only [BitVec.extractLsb'_append_eq_of_le, field_whole]

theorem decodeGelga_jal (o : BitVec 20) : decodeGelga t ((0x26 : BitVec 6) ++ rd ++ o) 0 = .jal t rd o := by
  have op : wOp ((0x26 : BitVec 6) ++ rd ++ o) = 0x26 := encJ_wOp ..
  unfold decodeGelga wRd
  rw [op]
  simp (disch := decide) only [BitVec.extractLsb'_append_eq_of_le, field_last]

theorem decodeGelga_dueI (f : BitVec 26) : decodeGelga t ((0x3E : BitVec 6) ++ f) 0 = .dueI t f := by
  have op : wOp ((0x3E : BitVec 6) ++ f) = 0x3E := by
    unfold wOp
    simp (disch := decide) only [BitVec.extractLsb'_append_eq_of_le, field_whole]
    rfl
  unfold decodeGelga
  rw [op]
  simp (disch := decide) only [field_last]

theorem decodeGelga_dueR : decodeGelga t ((0x3F : BitVec 6) ++ ra ++ (0 : BitVec 20)) 0 = .dueR t ra := by
  have op : wOp ((0x3F : BitVec 6) ++ ra ++ (0 : BitVec 20)) = 0x3F := encJ_wOp ..
  unfold decodeGelga wRd
  rw [op]
  simp (disch := decide) only [BitVec.extractLsb'_append_eq_of_le, field_last]

end

/-- The decoder of the class takes both words of an engine command. -/
theorem decodeGelga_mma (t : ThreadNo) (f : MmaF) :
    decodeGelga t (f.enc.extractLsb' 32 32) (f.enc.extractLsb' 0 32) = orUnallocated t (.meMma t f) := by
  simp [decodeGelga, first_wOp, mmaF_class, words_join, decodeMe_enc]

theorem decodeGelga_chain (t : ThreadNo) (f : ChainF) :
    decodeGelga t (f.enc.extractLsb' 32 32) (f.enc.extractLsb' 0 32) = orUnallocated t (.veChain t f) := by
  simp [decodeGelga, first_wOp, chainF_class, words_join, decodeVe_enc]

theorem decodeGelga_copy (t : ThreadNo) (f : CopyF) :
    decodeGelga t (f.enc.extractLsb' 32 32) (f.enc.extractLsb' 0 32) = orUnallocated t (.teCopy t f) := by
  simp [decodeGelga, first_wOp, copyF_class, words_join, decodeTe_copy]

theorem decodeGelga_desc (t : ThreadNo) (f : DescF) :
    decodeGelga t (f.enc.extractLsb' 32 32) (f.enc.extractLsb' 0 32) = .teDesc t f := by
  simp [decodeGelga, first_wOp, descF_class, words_join, decodeTe_desc]

theorem decodeGelga_res (t : ThreadNo) (sub : BitVec 4) (f : ResF) :
    decodeGelga t ((f.enc sub).extractLsb' 32 32) ((f.enc sub).extractLsb' 0 32) = decodeRes t (f.enc sub) := by
  simp [decodeGelga, first_wOp, resF_class, words_join]

/-- Settles O52: the decoder of its class gives each command back. -/
theorem gelgaRoundTrip : Obligations.GelgaRoundTrip := by
  intro c t w0 w1 wf issues enc
  cases c with
  | add | sub | and | or | xor | sll | srl | sra | slt | sltu | min | max | minu | maxu | mul | mulh | mulhu | div | divu
  | rem | remu =>
    cases issues; cases enc
    exact decodeGelga_alu ..
  | fadd | fsub | fmul | fdiv | fmin | fmax | fmadd | feq | flt | fle | fsqrt | fcvtSL | fcvtLS =>
    cases issues; cases enc
    exact decodeGelga_fp ..
  | aadd32 | aadd64 | aswp32 | aswp64 | acas32 | acas64 =>
    cases issues; cases enc
    exact decodeGelga_atom ..
  | fenceL | fenceG | fencePt | halt | stamp =>
    cases issues; cases enc
    exact decodeGelga_sync ..
  | shiSll | shiSrl | shiSra | shiRor =>
    cases issues; cases enc
    exact decodeGelga_shi ..
  | movi =>
    cases issues; cases enc
    exact decodeGelga_mov _ _ false ..
  | movk =>
    cases issues; cases enc
    exact decodeGelga_mov _ _ true ..
  | addi | andi | ori | xori | slti | ld8u | ld16u | ld32u | ld64 | ld8s | ld16s | ld32s | st8 | st16 | st32 | st64
  | beq | bne | blt | bge | bltu | bgeu | jalr | wait | cinc | crd | tstart =>
    cases issues; cases enc
    simp [decodeGelga]
  | jal =>
    cases issues; cases enc
    exact decodeGelga_jal ..
  | dueI =>
    cases issues; cases enc
    exact decodeGelga_dueI ..
  | dueR =>
    cases issues; cases enc
    exact decodeGelga_dueR ..
  | meMma t f =>
    cases issues; cases enc
    exact (decodeGelga_mma t f).trans (orUnallocated_wf wf)
  | veChain t f =>
    cases issues; cases enc
    exact (decodeGelga_chain t f).trans (orUnallocated_wf wf)
  | teCopy t f =>
    cases issues; cases enc
    exact (decodeGelga_copy t f).trans (orUnallocated_wf wf)
  | teDesc t f =>
    cases issues; cases enc
    exact decodeGelga_desc t f
  | resPush t f | resPop t f | resFree t f =>
    cases issues; cases enc
    exact (decodeGelga_res ..).trans (decodeRes_enc ..)
  | _ => cases enc

/-- Settles O51: the decoder evaluates on each word. -/
theorem gelgaWords : Obligations.GelgaWords := fun _ =>
  ⟨rfl, rfl, rfl, rfl, rfl, rfl, rfl, rfl, rfl, rfl, rfl, rfl, rfl, rfl, rfl, rfl, rfl, _, rfl, rfl, rfl, rfl, rfl⟩

end Sys2Proof.Machine

namespace Sys2Proof.Machine

open Sys2Proof.Safety

/-! General registers (O2; 04 R126) -/

/-- Settles O2: by what reads back after a write. -/
theorem generalRegisterReadAfterWrite : Obligations.GeneralRegisterReadAfterWrite := fun x r q v bad =>
  ⟨x.reg_zero, x.mark_zero, if_pos rfl,
    fun nonzero => ⟨by rw [Thread.setReg_reg, if_pos ⟨rfl, nonzero⟩], by rw [Thread.setReg_mark, if_pos ⟨rfl, nonzero⟩]⟩,
    fun other => ⟨by rw [Thread.setReg_reg, if_neg fun h => other h.1], by rw [Thread.setReg_mark, if_neg fun h => other h.1]⟩⟩

/-! Integer instructions (O3; 04 R129 to R131, Tables 4.2 and 4.3). Each writes rd with what a function of its operands gives;
what is left to show of each is that its function on words is the one on numbers. -/

section
variable (a b : Word)

theorem shiftLeft_eq_ofNat (n : Nat) : a <<< n = BitVec.ofNat 64 (a.toNat * 2 ^ n) := by
  rw [← Nat.shiftLeft_eq]
  exact BitVec.eq_of_toNat_eq (by simp)

theorem ushiftRight_eq_ofNat (n : Nat) : a >>> n = BitVec.ofNat 64 (a.toNat / 2 ^ n) := by
  rw [← Nat.shiftRight_eq_div_pow, ← BitVec.toNat_ushiftRight, BitVec.ofNat_toNat, BitVec.setWidth_eq]

theorem sshiftRight_eq_ofInt (n : Nat) : a.sshiftRight n = BitVec.ofInt 64 (a.toInt / 2 ^ n) := by
  have quotient : (a.sshiftRight n).toInt = a.toInt / 2 ^ n := by
    rw [BitVec.toInt_sshiftRight, Int.shiftRight_eq_div_pow]
    norm_cast
  rw [← quotient, BitVec.ofInt_toInt]

theorem mul_eq_ofInt : a * b = BitVec.ofInt 64 (a.toInt * b.toInt) := by
  rw [BitVec.ofInt_mul, BitVec.ofInt_toInt, BitVec.ofInt_toInt]

theorem flag_slt : flag (a.slt b) = if a.toInt < b.toInt then 1 else 0 := by simp [flag, BitVec.slt]

theorem flag_ult : flag (a.ult b) = if a.toNat < b.toNat then 1 else 0 := by simp [flag, BitVec.ult]

theorem min_slt : (if a.slt b then a else b) = BitVec.ofInt 64 (Min.min a.toInt b.toInt) := by
  rw [BitVec.slt_eq_decide]
  by_cases less : a.toInt < b.toInt
  · rw [if_pos (decide_eq_true less), min_eq_left less.le, BitVec.ofInt_toInt]
  · rw [if_neg (by simpa using less), min_eq_right (not_lt.1 less), BitVec.ofInt_toInt]

theorem max_slt : (if a.slt b then b else a) = BitVec.ofInt 64 (Max.max a.toInt b.toInt) := by
  rw [BitVec.slt_eq_decide]
  by_cases less : a.toInt < b.toInt
  · rw [if_pos (decide_eq_true less), max_eq_right less.le, BitVec.ofInt_toInt]
  · rw [if_neg (by simpa using less), max_eq_left (not_lt.1 less), BitVec.ofInt_toInt]

theorem min_ult : (if a.ult b then a else b) = BitVec.ofNat 64 (Min.min a.toNat b.toNat) := by
  rw [BitVec.ult_eq_decide]
  by_cases less : a.toNat < b.toNat
  · rw [if_pos (decide_eq_true less), min_eq_left less.le, BitVec.ofNat_toNat, BitVec.setWidth_eq]
  · rw [if_neg (by simpa using less), min_eq_right (not_lt.1 less), BitVec.ofNat_toNat, BitVec.setWidth_eq]

theorem max_ult : (if a.ult b then b else a) = BitVec.ofNat 64 (Max.max a.toNat b.toNat) := by
  rw [BitVec.ult_eq_decide]
  by_cases less : a.toNat < b.toNat
  · rw [if_pos (decide_eq_true less), max_eq_right less.le, BitVec.ofNat_toNat, BitVec.setWidth_eq]
  · rw [if_neg (by simpa using less), max_eq_left (not_lt.1 less), BitVec.ofNat_toNat, BitVec.setWidth_eq]

theorem getLsbD_rotateRight_eq (n : BitVec 6) {k : Nat} (small : k < 64) :
    (a.rotateRight n.toNat).getLsbD k = a.getLsbD ((k + n.toNat) % 64) := by
  have amount : n.toNat < 64 := n.isLt
  rw [BitVec.getLsbD_rotateRight, Nat.mod_eq_of_lt amount]
  by_cases within : k < 64 - n.toNat
  · rw [decide_eq_true within, cond_true, Nat.add_comm, Nat.mod_eq_of_lt (by omega)]
  · rw [decide_eq_false within, cond_false, decide_eq_true small, Bool.true_and]
    congr 1
    omega

theorem imm14_toInt (i : BitVec 14) : (imm14 i).toInt = i.toInt := BitVec.toInt_signExtend_of_le (by decide)

theorem imm14_eq_ofInt (i : BitVec 14) : imm14 i = BitVec.ofInt 64 i.toInt := by rw [← imm14_toInt, BitVec.ofInt_toInt]

theorem movi_eq_ofNat (h : BitVec 16) (n : Nat) : h.zeroExtend 64 <<< n = BitVec.ofNat 64 (h.toNat * 2 ^ n) := by
  rw [shiftLeft_eq_ofNat, BitVec.toNat_setWidth, Nat.mod_eq_of_lt (by omega)]

/-- MOVK changes the bits of its lane alone. -/
theorem putLane_getLsbD (w : Word) (lane : BitVec 2) (h : BitVec 16) {k : Nat} (small : k < 64) :
    (putLane w lane h).getLsbD k = if k / 16 = lane.toNat then h.getLsbD (k % 16) else w.getLsbD k := by
  have ones (j : Nat) : (0xFFFF#64).getLsbD j = decide (j < 16) := by
    rw [BitVec.getLsbD_ofNat, show 0xFFFF = 2 ^ 16 - 1 from rfl, Nat.testBit_two_pow_sub_one]
    by_cases low : j < 16
    · simp [low, show j < 64 by omega]
    · simp [low]
  have bits : (putLane w lane h).getLsbD k =
      (w.getLsbD k && !(!decide (k < 16 * lane.toNat) && decide (k - 16 * lane.toNat < 16)) ||
        !decide (k < 16 * lane.toNat) && h.getLsbD (k - 16 * lane.toNat)) := by
    have inside : k - 16 * lane.toNat < 64 := by omega
    simp [putLane, ones, small, inside, -BitVec.getLsbD_eq_getElem]
  rw [bits]
  by_cases inLane : k / 16 = lane.toNat
  · rw [if_pos inLane, decide_eq_false (by omega), decide_eq_true (by omega), show k - 16 * lane.toNat = k % 16 by omega]
    simp
  · rw [if_neg inLane]
    by_cases below : k < 16 * lane.toNat
    · simp [below]
    · have above : 16 ≤ k - 16 * lane.toNat := by omega
      simp [below, Nat.not_lt.2 above, BitVec.getLsbD_of_ge h _ above]

end

/-! Division (04 R131) -/

section
variable {a b : Word}

theorem divS_zero : divS a 0 = BitVec.allOnes 64 := rfl

theorem divS_eq_sdiv (h : b ≠ 0) : divS a b = a.sdiv b := by
  rw [divS, if_neg h]
  exact BitVec.eq_of_toInt_eq (by rw [BitVec.toInt_ofInt, BitVec.toInt_sdiv])

theorem remS_eq_srem (h : b ≠ 0) : remS a b = a.srem b := by
  rw [remS, if_neg h, ← BitVec.toInt_srem, BitVec.ofInt_toInt]

/-- The quotient that R131 rounds toward zero, with its remainder, where it is no overflow. -/
theorem sdiv_srem (h : b ≠ 0) (fits : a ≠ BitVec.ofInt 64 (-(2 ^ 63)) ∨ b ≠ BitVec.allOnes 64) :
    a.toInt = (a.sdiv b).toInt * b.toInt + (a.srem b).toInt ∧ (a.srem b).toInt.natAbs < b.toInt.natAbs ∧
      ((a.srem b).toInt = 0 ∨ ((a.srem b).toInt < 0 ↔ a.toInt < 0)) := by
  rw [BitVec.toInt_sdiv_of_ne_or_ne a b fits, BitVec.toInt_srem]
  refine ⟨(Int.tdiv_mul_add_tmod ..).symm, ?_, ?_⟩
  · rw [Int.natAbs_tmod]
    exact Nat.mod_lt _ (Int.natAbs_pos.2 fun zero => h (BitVec.eq_of_toInt_eq (zero.trans rfl)))
  · have sign := Int.sign_tmod a.toInt b.toInt
    split at sign
    · exact .inl (Int.sign_eq_zero_iff_zero.1 sign)
    · exact .inr (by rw [← Int.sign_eq_neg_one_iff_neg, sign, Int.sign_eq_neg_one_iff_neg])

end

/-! The instructions -/

section
variable {t : ThreadNo} {rd ra rb : Reg} {s : State} {slot : Nat} {m : Module} {c : Instr} {v : Word} (issues : Issues t s slot m)
include issues

theorem alu3_gives {f : Word → Word → Word} (is : exec c s = scalar c t (alu3 t rd ra rb f) s)
    (value : f (m.reg t ra) (m.reg t rb) = v) : Gives c s (wrote slot t rd v (m.mark t ra || m.mark t rb) m) :=
  is.trans (scalar_next issues (value ▸ rfl))

theorem alu2_gives {f : Word → Word} (is : exec c s = scalar c t (alu2 t rd ra f) s) (value : f (m.reg t ra) = v) :
    Gives c s (wrote slot t rd v (m.mark t ra) m) :=
  is.trans (scalar_next issues (value ▸ rfl))

end

/-- Settles O3: each instruction by its function on words. -/
theorem integerInstructionResults : Obligations.IntegerInstructionResults := by
  refine ⟨fun t rd ra rb s slot m issues => ?_, fun t rd ra rb s slot m issues => ?_,
    fun t rd ra i n lane h s slot m issues => ?_⟩
  · exact ⟨alu3_gives issues rfl rfl, alu3_gives issues rfl rfl, alu3_gives issues rfl rfl, alu3_gives issues rfl rfl,
      alu3_gives issues rfl rfl, alu3_gives issues rfl (shiftLeft_eq_ofNat ..), alu3_gives issues rfl (ushiftRight_eq_ofNat ..),
      alu3_gives issues rfl (sshiftRight_eq_ofInt ..), alu3_gives issues rfl (flag_slt ..), alu3_gives issues rfl (flag_ult ..),
      alu3_gives issues rfl (min_slt ..), alu3_gives issues rfl (max_slt ..), alu3_gives issues rfl (min_ult ..),
      alu3_gives issues rfl (max_ult ..), alu3_gives issues rfl (mul_eq_ofInt ..), alu3_gives issues rfl rfl,
      alu3_gives issues rfl rfl⟩
  · refine ⟨fun zero => ?_, fun least minusOne => ?_, fun nonzero => ⟨?_, ?_, fun fits => ?_⟩⟩
    · exact ⟨alu3_gives issues rfl (if_pos zero), alu3_gives issues rfl (if_pos zero), alu3_gives issues rfl (if_pos zero),
        alu3_gives issues rfl (if_pos zero)⟩
    · have quotient : divS (m.reg t ra) (m.reg t rb) = BitVec.ofInt 64 (-(2 ^ 63)) := by rw [least, minusOne]; decide
      have remainder : remS (m.reg t ra) (m.reg t rb) = 0 := by rw [least, minusOne]; decide
      exact ⟨alu3_gives issues rfl quotient, alu3_gives issues rfl remainder⟩
    · exact alu3_gives issues rfl (if_neg nonzero)
    · exact alu3_gives issues rfl (if_neg nonzero)
    · exact ⟨_, _, alu3_gives issues rfl (divS_eq_sdiv nonzero), alu3_gives issues rfl (remS_eq_srem nonzero),
        sdiv_srem nonzero fits⟩
  · have less : flag ((m.reg t ra).slt (imm14 i)) = if (m.reg t ra).toInt < i.toInt then 1 else 0 := by
      rw [flag_slt, imm14_toInt]
    refine ⟨alu2_gives issues rfl (by rw [imm14_eq_ofInt]), alu2_gives issues rfl (by rw [imm14_eq_ofInt]),
      alu2_gives issues rfl (by rw [imm14_eq_ofInt]), alu2_gives issues rfl (by rw [imm14_eq_ofInt]),
      alu2_gives issues rfl less, alu2_gives issues rfl (shiftLeft_eq_ofNat ..), alu2_gives issues rfl (ushiftRight_eq_ofNat ..),
      alu2_gives issues rfl (sshiftRight_eq_ofInt ..), ?_, ?_, ?_⟩
    · exact ⟨_, alu2_gives issues rfl rfl, fun k small => getLsbD_rotateRight_eq _ n small⟩
    · rw [← movi_eq_ofNat]
      exact scalar_issues issues _ (bodyMovi t rd lane h)
    · exact ⟨_, scalar_issues issues _ (bodyMovk t rd lane h), fun k small => putLane_getLsbD _ lane h small⟩

end Sys2Proof.Machine

namespace Sys2Proof.Machine

open Sys2Proof.Safety FVal

/-! FP32 instructions (O4; 02 R46; 04 R132, Table 4.4). The order and the equality of values are those of the numbers and
infinities that they are. -/

theorem lt_finite {x y : FVal} (hx : x.Finite) (hy : y.Finite) : FVal.lt x y = decide (x.toRat < y.toRat) := by
  obtain ⟨n, k, e, rfl⟩ := hx
  obtain ⟨n', k', e', rfl⟩ := hy
  rw [← count_mul_zpow (Int.min_le_left e e'), ← count_mul_zpow (Int.min_le_right e e')]
  exact decide_eq_decide.2 ((mul_lt_mul_iff_left₀ (by positivity)).trans Int.cast_lt).symm

theorem eqv_finite {x y : FVal} (hx : x.Finite) (hy : y.Finite) : FVal.eqv x y = decide (x.toRat = y.toRat) := by
  rw [FVal.eqv, hx.not_nan, hy.not_nan, lt_finite hx hy, lt_finite hy hx, Bool.eq_iff_iff]
  simp only [Bool.not_false, Bool.true_and, Bool.and_eq_true, Bool.not_eq_true', decide_eq_false_iff_not, not_lt, decide_eq_true_eq]
  exact ⟨fun ⟨h, g⟩ => le_antisymm g h, fun h => ⟨h.ge, h.le⟩⟩

theorem fvLe_finite {x y : FVal} (hx : x.Finite) (hy : y.Finite) : fvLe x y = decide (x.toRat ≤ y.toRat) := by
  rw [fvLe, lt_finite hx hy, eqv_finite hx hy, Bool.eq_iff_iff]
  simp [le_iff_lt_or_eq]

theorem lt_unordered {x y : FVal} (h : x = .nan ∨ y = .nan) : FVal.lt x y = false := by
  obtain rfl | rfl := h
  · cases y <;> rfl
  · cases x <;> rfl

theorem eqv_unordered {x y : FVal} (h : x = .nan ∨ y = .nan) : FVal.eqv x y = false := by
  obtain rfl | rfl := h <;> simp [FVal.eqv, FVal.isNan]

theorem fvLe_unordered {x y : FVal} (h : x = .nan ∨ y = .nan) : fvLe x y = false := by
  rw [fvLe, lt_unordered h, eqv_unordered h]
  rfl

section
variable (n n' : Bool) (k : Nat) (e : Int)

theorem eqv_inf : FVal.eqv (.inf n) (.inf n') = decide (n = n') := by cases n <;> cases n' <;> rfl
theorem lt_inf : FVal.lt (.inf n) (.inf n') = decide (n = true ∧ n' = false) := by cases n <;> cases n' <;> rfl
theorem fvLe_inf : fvLe (.inf n) (.inf n') = decide (n = true ∨ n' = false) := by cases n <;> cases n' <;> rfl

theorem eqv_inf_fin : FVal.eqv (.inf n) (.fin n' k e) = false := by cases n <;> rfl
theorem lt_inf_fin : FVal.lt (.inf n) (.fin n' k e) = n := rfl
theorem fvLe_inf_fin : fvLe (.inf n) (.fin n' k e) = n := by cases n <;> rfl

theorem eqv_fin_inf : FVal.eqv (.fin n' k e) (.inf n) = false := by cases n <;> rfl
theorem lt_fin_inf : FVal.lt (.fin n' k e) (.inf n) = !n := rfl
theorem fvLe_fin_inf : fvLe (.fin n' k e) (.inf n) = !n := by cases n <;> rfl

end

theorem flag_decide (p : Prop) [Decidable p] : flag (decide p) = if p then 1 else 0 := by simp [flag]

theorem flag_not (b : Bool) : flag (!b) = if b then 0 else 1 := by cases b <;> rfl

section
variable {x : W32}

theorem toInt64_nan (h : f32 x = .nan) : toInt64 x = 0 := by rw [toInt64, h]

theorem toInt64_inf {n : Bool} (h : f32 x = .inf n) : toInt64 x = if n then -(2 ^ 63) else 2 ^ 63 - 1 := by rw [toInt64, h]

theorem toInt64_fin {n : Bool} {k : Nat} {e : Int} (h : f32 x = .fin n k e) : toInt64 x =
    Max.max (-(2 ^ 63)) (Min.min (2 ^ 63 - 1) (if n then -⌊(k : ℚ) * 2 ^ e⌋ else ⌊(k : ℚ) * 2 ^ e⌋)) := by
  obtain ⟨truncated, -⟩ := roundingModes k 0 e 0
  rw [sub_zero] at truncated
  rw [toInt64, h, ← truncated]

end

section
variable {t : ThreadNo} {rd ra rb : Reg} {s : State} {slot : Nat} {m : Module} {c : Instr} {v : Word} (issues : Issues t s slot m)
include issues

theorem fpWrite_gives {body : Body} {r : W32 × List Ev} {bad : Bool} (is : exec c s = scalar c t body s)
    (value : body slot m = fpWrite t rd r bad slot m) :
    Gives c s (wrote slot t rd (zext32 r.1) bad (countEvs slot t.core .ve none r.2 m)) :=
  is.trans (scalar_next issues value)

theorem fpCmp_gives {f : FVal → FVal → Bool} {x y : FVal} {b : Bool} (is : exec c s = scalar c t (fpCmp t rd ra rb f) s)
    (hx : f32 (lo32 (m.reg t ra)) = x) (hy : f32 (lo32 (m.reg t rb)) = y) (value : f x y = b) (word : flag b = v) :
    Gives c s (wrote slot t rd v (m.mark t ra || m.mark t rb) m) := by
  subst hx hy value word
  exact is.trans (scalar_issues issues _ _)

theorem fcvtLS_gives {i : Int} (value : toInt64 (lo32 (m.reg t ra)) = i) (word : BitVec.ofInt 64 i = v) :
    Gives (.fcvtLS t rd ra) s (wrote slot t rd v (m.mark t ra) m) := by
  subst value word
  exact scalar_issues issues _ (bodyFcvtLS t rd ra)

end

/-- Settles O4: the arithmetic instructions by their bodies, the compares by the order of the values. -/
theorem fp32InstructionResults : Obligations.Fp32InstructionResults := by
  refine ⟨fun t rd ra rb s slot m issues => ?_, fun t rd ra rb s slot m issues => ⟨fun unordered => ?_, ?_, ?_, ?_, ?_, ?_, ?_⟩⟩
  · exact ⟨fpWrite_gives issues rfl rfl, fpWrite_gives issues rfl rfl, fpWrite_gives issues rfl rfl,
      fpWrite_gives issues rfl rfl, fpWrite_gives issues rfl rfl, fpWrite_gives issues rfl rfl,
      fpWrite_gives issues rfl rfl, fpWrite_gives issues rfl rfl, fpWrite_gives issues rfl rfl⟩
  · exact ⟨fpCmp_gives issues rfl rfl rfl (eqv_unordered unordered) rfl,
      fpCmp_gives issues rfl rfl rfl (lt_unordered unordered) rfl,
      fpCmp_gives issues rfl rfl rfl (fvLe_unordered unordered) rfl⟩
  · intro n k e n' k' e' hx hy
    have fin := finite_fin n k e
    have fin' := finite_fin n' k' e'
    exact ⟨fpCmp_gives issues rfl hx hy (eqv_finite fin fin') (flag_decide _),
      fpCmp_gives issues rfl hx hy (lt_finite fin fin') (flag_decide _),
      fpCmp_gives issues rfl hx hy (fvLe_finite fin fin') (flag_decide _)⟩
  · exact fun n n' hx hy => ⟨fpCmp_gives issues rfl hx hy (eqv_inf n n') (flag_decide _),
      fpCmp_gives issues rfl hx hy (lt_inf n n') (flag_decide _),
      fpCmp_gives issues rfl hx hy (fvLe_inf n n') (flag_decide _)⟩
  · exact fun n n' k e => ⟨
      fun ⟨hx, hy⟩ => ⟨fpCmp_gives issues rfl hx hy (eqv_inf_fin ..) rfl, fpCmp_gives issues rfl hx hy (lt_inf_fin ..) rfl,
        fpCmp_gives issues rfl hx hy (fvLe_inf_fin ..) rfl⟩,
      fun ⟨hx, hy⟩ => ⟨fpCmp_gives issues rfl hx hy (eqv_fin_inf ..) rfl,
        fpCmp_gives issues rfl hx hy (lt_fin_inf ..) (flag_not n),
        fpCmp_gives issues rfl hx hy (fvLe_fin_inf ..) (flag_not n)⟩⟩
  · exact fun nan => fcvtLS_gives issues (toInt64_nan nan) rfl
  · exact fun n inf => fcvtLS_gives issues (toInt64_inf inf) (by cases n <;> rfl)
  · exact fun n k e fin => fcvtLS_gives issues (toInt64_fin fin) rfl

end Sys2Proof.Machine

namespace Sys2Proof.Machine

open Sys2Proof.Safety

/-! Branches and jumps (O6; 04 Table 4.6, R125, R129; 08 R279) -/

theorem signExtend_shiftLeft_two {n : Nat} (i : BitVec n) (narrow : n ≤ 64) :
    i.signExtend 64 <<< 2 = BitVec.ofInt 64 (4 * i.toInt) := by
  have extended : i.signExtend 64 = BitVec.ofInt 64 i.toInt := by
    rw [← BitVec.toInt_signExtend_of_le narrow, BitVec.ofInt_toInt]
  rw [BitVec.shiftLeft_eq_mul_twoPow, extended, mul_comm, BitVec.ofInt_mul]
  rfl

theorem off14_eq (o : BitVec 14) : off14 o = BitVec.ofInt 64 (4 * o.toInt) := signExtend_shiftLeft_two o (by decide)

theorem off20_eq (o : BitVec 20) : off20 o = BitVec.ofInt 64 (4 * o.toInt) := signExtend_shiftLeft_two o (by decide)

section
variable {t : ThreadNo} {rd ra rb : Reg} {o : BitVec 14} {slot : Nat} {m : Module} {f : Word → Word → Bool}

theorem branch_marked (bad : m.mark t ra = true ∨ m.mark t rb = true) : branch t ra rb o f slot m = useFault slot t m :=
  if_pos (by simpa using bad)

theorem branch_clean (cleanA : m.mark t ra = false) (cleanB : m.mark t rb = false) : branch t ra rb o f slot m =
    retireTo slot t (if f (m.reg t ra) (m.reg t rb) then
      BitVec.ofNat 64 (((m.thread t).pc + BitVec.ofInt 64 (4 * o.toInt)).toNat / 4 * 4) else (m.thread t).pc + 4) m := by
  rw [← off14_eq, ← target_eq]
  exact if_neg (by simp [cleanA, cleanB])

variable {s : State} {c : Instr} (issues : Issues t s slot m) (is : exec c s = scalar c t (branch t ra rb o f) s)
include issues is

theorem branch_gives {b : Bool} (cleanA : m.mark t ra = false) (cleanB : m.mark t rb = false)
    (value : f (m.reg t ra) (m.reg t rb) = b) : Gives c s (retireTo slot t (if b then
      BitVec.ofNat 64 (((m.thread t).pc + BitVec.ofInt 64 (4 * o.toInt)).toNat / 4 * 4) else (m.thread t).pc + 4) m) :=
  is.trans (scalar_next issues (value ▸ branch_clean cleanA cleanB))

theorem branch_faults (bad : m.mark t ra = true ∨ m.mark t rb = true) :
    Gives c s (ctxFault slot (poisonFault (m.thread t).pc t) m) :=
  is.trans (scalar_next issues (branch_marked bad))

end

/-- Settles O6: a branch by its test, a jump by its target, a marked operand by the fault it raises. -/
theorem branchesAndJumps : Obligations.BranchesAndJumps := by
  intro t rd ra rb o j s slot m issues a b pc low go
  have faults (bad : m.mark t ra = true ∨ m.mark t rb = true) :
      ∀ c ∈ [Instr.beq t ra rb o, .bne t ra rb o, .blt t ra rb o, .bge t ra rb o, .bltu t ra rb o, .bgeu t ra rb o],
        Gives c s (ctxFault slot (poisonFault pc t) m) := by
    simp only [List.forall_mem_cons, List.not_mem_nil, false_imp_iff, implies_true, and_true]
    exact ⟨branch_faults issues rfl bad, branch_faults issues rfl bad, branch_faults issues rfl bad,
      branch_faults issues rfl bad, branch_faults issues rfl bad, branch_faults issues rfl bad⟩
  refine ⟨fun cleanA cleanB => ⟨?_, ?_, ?_, ?_, ?_, ?_⟩, ?_, fun cleanA => ?_, fun bad c hc => ?_, fun bad => faults (.inr bad)⟩
  · exact branch_gives issues rfl cleanA cleanB (beq_eq_decide ..)
  · exact branch_gives issues rfl cleanA cleanB (by rw [bne, beq_eq_decide, decide_not])
  · exact branch_gives issues rfl cleanA cleanB (BitVec.slt_eq_decide ..)
  · exact branch_gives issues rfl cleanA cleanB (by rw [BitVec.slt_eq_decide, ← decide_not, decide_eq_decide, not_lt])
  · exact branch_gives issues rfl cleanA cleanB (BitVec.ult_eq_decide ..)
  · exact branch_gives issues rfl cleanA cleanB (by rw [BitVec.ult_eq_decide, ← decide_not, decide_eq_decide, not_lt])
  · refine scalar_next issues ?_
    rw [bodyJal, target_eq, off20_eq]
  · refine scalar_next issues ?_
    rw [bodyJalr, if_neg (by simp [cleanA]), target_eq, imm14_eq_ofInt]
  · rcases List.mem_append.1 (show c ∈ [_, _, _, _, _, _] ++ [Instr.jalr t rd ra o] from hc) with hc | hc
    · exact faults (.inl bad) c hc
    · obtain rfl := List.mem_singleton.1 hc
      exact scalar_next issues (if_pos bad)

end Sys2Proof.Machine

namespace Sys2Proof.Machine

open Sys2Proof.Safety

/-! The checks of an access, and the fetch (O58; 03 R78, R91 to R100). All that they change of the module is what reads of the
memories change, and the cached translations. -/

/-- A property that reads of the memories and cached translations keep. -/
structure ReadInv (I : Module → Prop) : Prop where
  read : ∀ pas {m}, I m → I (readPas pas m).1
  cache : ∀ tlb {m}, I m → I { m with tlb := tlb }

namespace ReadInv

variable {I : Module → Prop} (inv : ReadInv I) {m : Module} (h : I m)
include inv h

theorem leafAddr (part ptbase vpn : Nat) : I (Machine.leafAddr part ptbase vpn m).1 := by
  have entry := inv.read ((upTo 8).map (paMain ptbase 0 + 8 * (vpn / 8192) + ·)) h
  unfold Machine.leafAddr
  dsimp only
  repeat' split
  · exact h
  all_goals exact entry

theorem pteOf (slot vpn : Nat) : I (Machine.pteOf slot vpn m).1 := by
  have leaf := inv.leafAddr h (m.ctx slot).part (m.ctx slot).r.ptbase.toNat vpn
  unfold Machine.pteOf
  dsimp only
  split
  · exact h
  · split
    · exact leaf
    · exact leaf
    · next pa _ =>
      have entry := inv.read ((upTo 8).map (pa + ·)) leaf
      split
      · exact entry
      · split
        · exact entry
        · exact inv.cache _ entry

theorem trPage (slot : Nat) (k : Acc) (remote : Bool) (off : Nat) : I (Machine.trPage slot k remote off m).1 := by
  have entry := inv.pteOf h slot (off / 65536)
  unfold Machine.trPage
  dsimp only
  repeat' split
  all_goals exact entry

theorem trLocal (slot : Nat) (k : Acc) (remote : Bool) (eng : Option Nat) (c : Word) :
    I (Machine.trLocal slot k remote eng c m).1 := by
  unfold Machine.trLocal
  split
  · exact inv.trPage h ..
  · exact h

theorem trKv (slot : Nat) (k : Acc) (remote : Bool) (w : Kv) (off : Nat) : I (Machine.trKv slot k remote w off m).1 := by
  unfold Machine.trKv
  extract_lets x key cached e r look
  have looked : I look.1 := by
    unfold look
    split
    · exact h
    · have own : I r.1 := inv.trLocal h ..
      split
      · next pa _ =>
        have entry := inv.read ((upTo 4).map (pa + ·)) own
        dsimp only
        split
        · exact entry
        · split
          · exact entry
          · exact inv.cache _ entry
      all_goals exact own
  repeat' split
  all_goals exact looked

theorem resolve (slot : Nat) (k : Acc) (eng : Option Nat) (c : Word) : I (Machine.resolve slot k eng c m).1 := by
  unfold Machine.resolve resolveLocal
  split
  · split
    · split
      · exact inv.trKv h ..
      · exact inv.trPage h ..
    · split <;> exact h
    · exact h
  · split <;> exact h

omit h in
theorem resolveBytes (slot : Nat) (k : Acc) (eng : Option Nat) (n : Nat) (c : Word) {m : Module} (h : I m) :
    I (Machine.resolveBytes slot k eng n c m).1 := by
  induction n generalizing c m with
  | zero => exact h
  | succ n ih =>
    have first := inv.resolve h slot k eng c
    unfold Machine.resolveBytes
    dsimp only
    split
    · split <;> exact ih _ first
    · exact first

theorem fetchWord (slot : Nat) (t : ThreadNo) (pc : Word) : I (Machine.fetchWord slot t pc m).1 := by
  have resolved := inv.resolveBytes slot .fetch none 4 pc h
  unfold Machine.fetchWord
  dsimp only
  split
  · exact resolved
  · exact resolved
  · exact resolved
  · split <;> exact inv.read _ resolved

theorem fetchCheck (slot n : Nat) (t : ThreadNo) : I (Machine.fetchCheck slot n t m).1 := by
  have first := inv.fetchWord h slot t (m.thread t).pc
  unfold Machine.fetchCheck
  dsimp only
  split
  · exact inv.fetchWord first ..
  · exact first

end ReadInv

/-- What no check of an access changes. -/
def SameOutsideMemory (m p : Module) : Prop :=
  p.threads = m.threads ∧ p.ctxs = m.ctxs ∧ p.parts = m.parts ∧ p.ports = m.ports ∧ p.fab = m.fab ∧ p.time = m.time ∧
    p.writes = m.writes

theorem sameOutsideMemory_readInv (m : Module) : ReadInv (SameOutsideMemory m) where
  read pas p h := by
    unfold SameOutsideMemory
    simp only [readPas_same]
    exact h
  cache _ _ h := h

theorem fetchCheck_sameOutsideMemory (slot n : Nat) (t : ThreadNo) (m : Module) :
    SameOutsideMemory m (fetchCheck slot n t m).1 :=
  (sameOutsideMemory_readInv m).fetchCheck ⟨rfl, rfl, rfl, rfl, rfl, rfl, rfl⟩ slot n t

/-! The write of a result -/

section
variable (slot : Nat) (t : ThreadNo) (rd : Reg) (v : Word) (bad : Bool) (m : Module)

theorem wrote_thread (u : ThreadNo) : (wrote slot t rd v bad m).thread u =
    if u = t then { (m.thread t).setReg rd v bad with pc := (m.thread t).pc + 4, pfx := none, stall := .none }
    else m.thread u := by
  by_cases own : u = t <;> simp [wrote, retireI, retireTo, Module.setReg, own]

theorem wrote_reg (r : Reg) : (wrote slot t rd v bad m).reg t r = ((m.thread t).setReg rd v bad).reg r := by
  rw [Module.reg, wrote_thread, if_pos rfl]
  rfl

theorem wrote_mark (r : Reg) : (wrote slot t rd v bad m).mark t r = ((m.thread t).setReg rd v bad).mark r := by
  rw [Module.mark, wrote_thread, if_pos rfl]
  rfl

theorem wrote_ctx (k : Nat) : (wrote slot t rd v bad m).ctx k =
    if k = slot then { m.ctx slot with ovd := { (m.ctx slot).ovd with lastProgress := m.now } } else m.ctx k := by
  simp [wrote, retireI, retireTo, progress, Module.setReg]

end

/-- Settles O58: the fetch by what its checks keep, the write by the thread and the context that it leaves. -/
theorem registerInstructionsFrame : Obligations.RegisterInstructionsFrame := by
  refine ⟨fun slot n t m p fetch => ?_, fun slot t rd v bad m => ?_⟩
  · have same := fetchCheck_sameOutsideMemory slot n t m
    rwa [fetch] at same
  · refine ⟨fun nonzero => ?_, fun r other => ?_, ?_, ?_, fun u other => ?_, fun k other => ?_, ?_, rfl, rfl, rfl, rfl, rfl, rfl,
      rfl, rfl⟩
    · rw [wrote_reg, wrote_mark, Thread.setReg_reg, Thread.setReg_mark, if_pos ⟨rfl, nonzero⟩, if_pos ⟨rfl, nonzero⟩]
      exact ⟨rfl, rfl⟩
    · have unwritten : ¬(r = rd ∧ r ≠ 0) := fun ⟨same, nonzero⟩ => other.elim (· same) nonzero
      rw [wrote_reg, wrote_mark, Thread.setReg_reg, Thread.setReg_mark, if_neg unwritten, if_neg unwritten]
      exact ⟨rfl, rfl⟩
    · rw [wrote_thread, if_pos rfl]
    · rw [wrote_thread, if_pos rfl]
      exact Thread.setReg_running ..
    · rw [wrote_thread, if_neg other]
    · rw [wrote_ctx, if_neg other]
    · rw [wrote_ctx, if_pos rfl]

end Sys2Proof.Machine

namespace Sys2Proof.Machine

open Sys2Proof.Safety

/-! Due prefixes (O12; 04 R154 to R156; 09 R298) -/

/-- A command that issues without regard to a prefix. -/
theorem issueRaw_gives {c : Instr} {t : ThreadNo} {n slot : Nat} {s : State} {m p : Module} {body : Body}
    (enters : Enters t n s slot m) (is : exec c s = lift (issueRaw n t body) s) (e : body slot m = p) : Gives c s p := by
  rw [Gives, is, lift_on enters.on, issueRaw_enters enters, e]

/-- Below 2^25 the window of R155 begins before stamp 0: a value of F beyond its end would be due before it. -/
theorem dueImm_early {S f : Nat} (early : S < 2 ^ 25) (bits : f < 2 ^ 26) :
    dueImm S f = if f < S + 2 ^ 25 then f else 0 := by
  unfold dueImm
  dsimp only
  split <;> split <;> omega

theorem dueImm_window {S f : Nat} (late : 2 ^ 25 ≤ S) (bits : f < 2 ^ 26) :
    dueImm S f % 2 ^ 26 = f ∧ S ≤ dueImm S f + 2 ^ 25 ∧ dueImm S f < S + 2 ^ 25 := by
  unfold dueImm
  dsimp only
  split <;> omega

theorem dueStamp_imm (d : Due) (s : Nat) (imm : d.imm = true) : dueStamp d s = dueImm s d.f.toNat := if_pos imm

theorem dueStamp_reg (d : Due) (s : Nat) (reg : d.imm = false) : dueStamp d s = d.reg.toNat := if_neg (by simp [reg])

/-- What a scalar instruction does when it issues is what the launch of a held one does. -/
theorem exec_eq_scalar {c : Instr} {b : Body} {t : ThreadNo} (body : bodyOf c = some b) (thread : issuer c = some t) (s : State) :
    exec c s = scalar c t b s := by
  unfold bodyOf at body
  split at body
  all_goals cases body
  all_goals cases thread
  all_goals rfl

section
variable {t : ThreadNo} {s : State} {slot : Nat} {m : Module}

theorem duePrefix_imm (f : BitVec 26) : duePrefix t true f 0 slot m = m.updThread t fun x => { x with
    pc := x.pc + 4, stall := .none, pfx := some { imm := true, f := f, reg := 0, s := m.islandStamp t.core,
                                                  d := dueImm (m.islandStamp t.core) f.toNat, at_ := (m.thread t).pc } } := by
  rw [duePrefix]
  simp only [dueStamp_imm]

theorem duePrefix_reg (w : Word) : duePrefix t false 0 w slot m = m.updThread t fun x => { x with
    pc := x.pc + 4, stall := .none, pfx := some { imm := false, f := 0, reg := w, s := m.islandStamp t.core,
                                                  d := w.toNat, at_ := (m.thread t).pc } } := by
  rw [duePrefix]
  simp only [dueStamp_reg]

theorem issue_holds {c : Instr} {b : Body} {d : Due} (enters : Enters t 4 s slot m) (prefixed : (m.thread t).pfx = some d)
    (early : m.islandStamp t.core < d.d) : issue c t b s.mod = dueAdd slot { d := d.d, at_ := (m.thread t).pc, t := t }
      (m.updThread t fun x => { x with held := some (c, d.d), stall := .due }) := by
  rw [issue, issueRaw_enters enters]
  simp only [prefixed, if_pos early]

variable {c : Instr} {d : Nat} (owner : ownerOf m t.core = some slot) (held : (m.thread t).held = some (c, d))
include owner held

theorem dueLaunch_early (early : m.islandStamp t.core < d) : dueLaunch t m = m := by
  simp only [dueLaunch, owner, held, early, true_or, if_true]

theorem dueLaunch_due {b : Body} (body : bodyOf c = some b) (running : (m.ctx slot).state = .running)
    (due : d ≤ m.islandStamp t.core) : dueLaunch t m = b slot (dueDone slot { d := d, at_ := (m.thread t).pc, t := t }
      (m.updThread t fun x => { x with held := none, stall := .none, pfx := none })) := by
  have goes : ¬(m.islandStamp t.core < d ∨ (m.ctx slot).state ≠ .running) := by simp [running, due]
  simp only [dueLaunch, owner, held, goes, body, if_false]
  simp

end

/-- Settles O12: D by the window of its prefix, a held instruction by what its launch does. -/
theorem Gelga.dueLaunch : Obligations.DueLaunch := by
  refine ⟨fun t f ra s slot m enters => ?_, fun c b t s slot m d body thread enters prefixed early => ?_,
    fun t s slot c d b on owner held body running => ⟨fun early => ?_, fun due => ?_⟩⟩
  · have bits := f.isLt
    refine ⟨fun early => ?_, fun late => ?_, fun clean => ?_, fun bad => ?_⟩
    · rw [← dueImm_early early bits]
      exact issueRaw_gives enters rfl (duePrefix_imm f)
    · obtain ⟨congruent, low, high⟩ := dueImm_window late bits
      exact ⟨_, congruent, low, high, issueRaw_gives enters rfl (duePrefix_imm f)⟩
    · exact issueRaw_gives enters rfl ((if_neg (by simp [clean])).trans (duePrefix_reg _))
    · exact issueRaw_gives enters rfl (if_pos bad)
  · rw [Gives, exec_eq_scalar body thread, scalar, lift_on enters.on, issue_holds enters prefixed early]
  · exact (lift_on on).trans (by rw [dueLaunch_early owner held early])
  · exact (lift_on on).trans (by rw [dueLaunch_due owner held body running due])

end Sys2Proof.Machine

namespace Sys2Proof.Machine

open Sys2Proof.Safety

/-! Issue of engine commands (O13, O14; 04 R124, R138 to R143, R155, R158, R159; 08 R279) -/

theorem lift_gives {c : Instr} {k : Module → Module} {s : State} {p : Module} (on : s.mod.on = true) (is : exec c s = lift k s)
    (e : k s.mod = p) : Gives c s p := by
  rw [Gives, is, lift_on on, e]

section
variable {t : ThreadNo} {s : State} {slot : Nat} {m : Module} (enters : Enters t 8 s slot m)
include enters

section
variable {fin : Done} {rs : List Reg} {full : CoreSt → Bool} {put : Module → Iss → CoreSt → CoreSt}

theorem engIssue_marked (bad : ∃ r ∈ rs, m.mark t r = true) :
    engIssue t fin rs full put s.mod = ctxFault slot (poisonFault (m.thread t).pc t) m := by
  rw [engIssue, issueRaw_enters enters, if_pos (List.any_eq_true.2 bad)]
  rfl

variable (clean : ∀ r ∈ rs, m.mark t r = false)
include clean

theorem engIssue_clean : engIssue t fin rs full put s.mod =
    if 16 ≤ (m.thread t).outCmds then stallOn t .commands m
    else if full (m.core t.core) then stallOn t .queue m
    else issued slot t (issOf slot t fin m) (m.updCore t.core (put m (issOf slot t fin m))) := by
  rw [engIssue, issueRaw_enters enters, if_neg (by simpa using clean)]
  rfl

theorem engIssue_limit (many : 16 ≤ (m.thread t).outCmds) : engIssue t fin rs full put s.mod = stallOn t .commands m := by
  rw [engIssue_clean enters clean, if_pos many]

variable (few : (m.thread t).outCmds < 16)
include few

theorem engIssue_full (none_free : full (m.core t.core) = true) : engIssue t fin rs full put s.mod = stallOn t .queue m := by
  rw [engIssue_clean enters clean, if_neg (Nat.not_le.2 few), if_pos none_free]

theorem engIssue_enters (room : full (m.core t.core) = false) : engIssue t fin rs full put s.mod =
    issued slot t (issOf slot t fin m) (m.updCore t.core (put m (issOf slot t fin m))) := by
  rw [engIssue_clean enters clean, if_neg (Nat.not_le.2 few), if_neg (by simp [room])]

end

theorem allocated_gives {c : Instr} {ok : Bool} {k : Module → Module} {p : Module} (is : exec c s = lift (allocated ok t k) s)
    (code : ok = true) (e : k s.mod = p) : Gives c s p := by
  rw [Gives, is, lift_on enters.on, allocated, if_pos code, e]

theorem allocated_halts {c : Instr} {ok : Bool} {k : Module → Module} (is : exec c s = lift (allocated ok t k) s)
    (code : ok = false) : Gives c s (bodyUnallocated t slot m) := by
  rw [Gives, is, lift_on enters.on, allocated, if_neg (by simp [code]), issueRaw_enters enters]

section
variable {fin : Done} {rs : List Reg} {work : Module → TeWork} (clean : ∀ r ∈ rs, m.mark t r = false)
  (few : (m.thread t).outCmds < 16)
include clean few

theorem teIssue_enters (room : teHeld (m.core t.core) < 64) : teIssue t fin rs work s.mod =
    issued slot t (issOf slot t fin m)
      (m.updCore t.core fun c => { c with teQ := c.teQ ++ [{ iss := issOf slot t fin m, work := work m }] }) :=
  engIssue_enters enters clean few (decide_eq_false (Nat.not_le.2 room))

theorem teIssue_full (none_free : 64 ≤ teHeld (m.core t.core)) : teIssue t fin rs work s.mod = stallOn t .queue m :=
  engIssue_full enters clean few (decide_eq_true none_free)

end

end

/-- Settles O14: each limit by what the issue makes of it. -/
theorem engineCommandLimits : Obligations.EngineCommandLimits := by
  intro t s slot m enters
  refine ⟨fun f bad => allocated_halts enters rfl bad, fun f ok => ⟨fun marked => ?_, fun clean => ⟨fun many => ?_, fun few full => ?_⟩⟩,
    fun f => ⟨fun marked => ?_, fun clean => ⟨fun many => ?_, fun few full => ?_⟩⟩⟩
  · exact allocated_gives enters rfl ok (engIssue_marked enters marked)
  · exact allocated_gives enters rfl ok (engIssue_limit enters clean many)
  · exact allocated_gives enters rfl ok (engIssue_full enters clean few (decide_eq_true full))
  · exact lift_gives enters.on rfl (engIssue_marked enters ⟨f.ra, List.mem_singleton_self _, marked⟩)
  · exact lift_gives enters.on rfl (engIssue_limit enters (List.forall_mem_singleton.2 clean) many)
  · exact lift_gives enters.on rfl (teIssue_full enters (List.forall_mem_singleton.2 clean) few full)

theorem lo32_toNat (w : Word) : (lo32 w).toNat = w.toNat % 2 ^ 32 := BitVec.toNat_setWidth ..

theorem layerOf_eq (w : Word) : layerOf w = w.toNat % 2 ^ 16 := by rw [layerOf, field, pow_zero, Nat.div_one]

/-- RS is an operand of a chain with SRC 0b10 alone (R143). -/
theorem chain_clean {p : Reg → Prop} {f : ChainF} (others : ∀ r ∈ [f.ro, f.rc, f.rt], p r) (source : f.src = 2 → p f.rs) :
    ∀ r ∈ (if f.src = 2 then [f.rs] else []) ++ [f.ro, f.rc, f.rt], p r := by
  rw [List.forall_mem_append]
  refine ⟨?_, others⟩
  split
  · next named => exact List.forall_mem_singleton.2 (source named)
  · nofun

/-- Settles O13: each command by the queue it enters. -/
theorem engineCommandsEnterTheirQueues : Obligations.EngineCommandsEnterTheirQueues := by
  intro t s slot m enters few
  refine ⟨fun f ok clean room => ?_, fun f ok clean source => ?_, fun f ok clean room => ?_, fun f clean room => ?_,
    fun f room => ⟨fun clean => ⟨?_, ?_⟩, fun clean => ?_⟩⟩
  · exact allocated_gives enters rfl ok (engIssue_enters enters clean few (decide_eq_false (Nat.not_le.2 room)))
  · refine allocated_gives enters rfl ok ?_
    rw [veIssue, engIssue_enters enters (chain_clean clean source) few rfl]
    exact if_congr List.isEmpty_iff rfl rfl
  · rw [← lo32_toNat]
    exact allocated_gives enters rfl ok (teIssue_enters enters clean few room)
  · exact lift_gives enters.on rfl (teIssue_enters enters clean few room)
  · rw [← lo32_toNat, ← layerOf_eq]
    exact lift_gives enters.on rfl (teIssue_enters enters clean few room)
  · rw [← lo32_toNat, ← layerOf_eq]
    exact lift_gives enters.on rfl (teIssue_enters enters clean few room)
  · rw [← layerOf_eq]
    exact lift_gives enters.on rfl (teIssue_enters enters clean few room)

end Sys2Proof.Machine

namespace Sys2Proof.Machine

open Sys2Proof.Safety

/-! The matrix engine (O15; 04 R144; 05 R176 to R182) -/

/-- A piece of engine work that does not stop goes on with what it answers. -/
theorem runEng_ok {α : Type} {slot core : Nat} {e : Engine} {t : ThreadNo} {drop : Module → Module} {w : EngM α}
    {k : α → Module → Module} {m p : Module} {a : α} (run : w.run m = (.ok a, p)) : runEng slot core e t drop w k m = k a p := by
  rw [runEng, run]

theorem not_stopped {c : CoreSt} {e : Engine} (free : engHeld c e = false) : c.engStop.any (fun x => x.1 == e) = false :=
  (Bool.or_eq_false_iff.1 free).1

theorem dueReached_of_le {m : Module} {core : Nat} {i : Iss} (reached : ∀ d, i.due = some d → d ≤ m.islandStamp core) :
    dueReached m core i = true := by
  unfold dueReached
  split
  · next d due => exact decide_eq_true (reached d due)
  · rfl

section
variable {n : Nat} {m : Module}

theorem meStart_head {k : MeCmd} {q : List MeCmd} (queue : (m.core n).meQ = k :: q) (idle : (m.core n).meRun = none)
    (free : engHeld (m.core n) .me = false) (reached : dueReached m n k.iss = true) : meStart n m =
      countLate k.iss.slot n .me (some k.tag) (launchLate k.iss (m.core n).meAt) (m.updCore n fun c =>
        { c with meQ := q, meRun := some { cmd := k, rne := (m.ctx k.iss.slot).r.rnd, k := 0, emitting := false } }) := by
  simp only [meStart, queue]
  rw [if_neg (by simp [idle, free, reached])]

section
variable {r : MeRun} (runs : (m.core n).meRun = some r)
include runs

theorem meStepEnd_step {p : Module} (free : engHeld (m.core n) .me = false) (stepping : r.emitting = false)
    (left : r.k ≤ r.cmd.f.kt.toNat) (step : (meStep n r).run m = (.ok (), p)) : meStepEnd n m =
      if r.k = r.cmd.f.kt.toNat ∧ ¬r.cmd.f.emit then complete r.cmd.iss true (meIdle n (dropBlocks n .me p))
      else (dropBlocks n .me p).updCore n fun c => { c with meRun := some { r with k := r.k + 1 } } := by
  simp only [meStepEnd, runs]
  rw [if_neg (by simp [not_stopped free]), if_neg (by simp [stepping, left]), runEng_ok step]

theorem meEmit_begins (free : engHeld (m.core n) .me = false) (emits : r.cmd.f.emit = true) (last : r.k = r.cmd.f.kt.toNat + 1)
    (waits : r.emitting = false) (room : cartHeld (m.core n) < 16) :
    meEmit n m = m.updCore n fun c => { c with meRun := some { r with emitting := true } } := by
  simp only [meEmit, runs]
  rw [if_pos (by simp [free, emits, last, waits, room])]

theorem meEmitDone_tile (free : engHeld (m.core n) .me = false) (emitting : r.emitting = true) : meEmitDone n m =
    complete r.cmd.iss true (meIdle n (m.updCore n fun c =>
      { c with cart := c.cart ++ [accTile c r.cmd.f.acc.toNat r.cmd.tag] })) := by
  simp only [meEmitDone, runs]
  rw [if_neg (by simp [emitting]), if_neg (by simp [not_stopped free])]

end

end

/-- Settles O15: each command by what the ME does in the state it finds. -/
theorem matrixEngineCommands : Obligations.MatrixEngineCommands := by
  intro core s on n m c free
  refine ⟨fun k q queue idle reached => ?_, fun r p runs stepping left step => ⟨fun more => ?_, fun last quiet => ?_⟩,
    fun r runs emits last => ⟨fun waits room => ?_, fun emitting => ?_⟩⟩
  · exact lift_gives on rfl (meStart_head queue idle free (dueReached_of_le reached))
  · have goes : ¬(r.k = r.cmd.f.kt.toNat ∧ ¬r.cmd.f.emit) := fun ⟨last, quiet⟩ => more.elim (fun less => absurd last less.ne) quiet
    exact lift_gives on rfl ((meStepEnd_step runs free stepping left step).trans (if_neg goes))
  · exact lift_gives on rfl ((meStepEnd_step runs free stepping left step).trans (if_pos ⟨last, by simp [quiet]⟩))
  · exact lift_gives on rfl (meEmit_begins runs free emits last waits room)
  · exact lift_gives on rfl (meEmitDone_tile runs free emitting)

end Sys2Proof.Machine

namespace Sys2Proof.Machine

open Sys2Proof.Safety

/-! The transfer engine (O18; 04 R151; 07 R226, R237, R240; 11 R389) -/

section
variable {n : Nat} {m : Module}

/-- Reading the module hands it on as it is. -/
theorem run_get_bind {α : Type} (w : Module → EngM α) (m : Module) : (get >>= w).run m = (w m).run m := rfl

/-- A COPY between two addresses of this module starts with nothing to ask for. -/
theorem startMove_local {slot core : Nat} {r : TeRun} {v : Mover} {x : Row} {xs : List Row} (rows : v.rows = x :: xs)
    (src : isLocal m x.src = true) (dst : isLocal m x.dst = true) : (startMove slot core r v).run m = (.ok r, m) := by
  have here : (isLocal m x.src && isLocal m x.dst) = true := by simp [src, dst]
  simp only [startMove, rows]
  rw [run_get_bind, if_pos here]
  rfl

/-- With fewer than 16 commands moving data, a held engine alone keeps one back. -/
theorem movers_left (movers : ((m.core n).teRun.filter fun r => !r.done).length < 16) :
    decide (teMovers ≤ ((m.core n).teRun.filter fun r => !r.done).length) = false :=
  decide_eq_false (Nat.not_le.2 movers)

section
variable {k : TeCmd} {q : List TeCmd} {f : CopyF} {src dst : Word} {len : Nat} {tag : W32} (queue : (m.core n).teQ = k :: q)
  (work : k.work = .copy f src dst len tag) (free : engHeld (m.core n) .te = false)
  (movers : ((m.core n).teRun.filter fun r => !r.done).length < 16) (reached : dueReached m n k.iss = true)
include queue work free movers reached

theorem teStart_local (some_bytes : 0 < len) (here : isLocal m src = true) (there : isLocal m dst = true) : teStart n m =
    teTry n m.fab.uid (teLaunched n (TeRun.fresh k m.fab.uid none) (tePop n k (some tag) (newUid m).2)) := by
  simp only [teStart, queue]
  rw [if_neg (by simp [free, reached, movers_left movers])]
  simp only [work]
  rw [if_neg (by simp [here])]
  have mover : moverOf (.copy f src dst len tag) none = some
      { fmts := f.fmts, fmtd := f.fmtd, rnd := f.rnd, tag := tag, ttid := 0, tce := false, tctr := 0,
        rows := [{ src := src, dst := dst, n := len, base := 0 }] } := by
    simp only [moverOf, if_neg some_bytes.ne']
  have tagged : teTag (TeRun.fresh k m.fab.uid none) = some tag := by simp only [teTag, TeRun.fresh, work]
  rw [mover, ← tagged]
  exact runEng_ok (startMove_local rfl here there)

theorem teStart_foreign (here : isLocal m src = false) (there : isLocal m dst = false) : teStart n m =
    complete k.iss true (led 0x0511 sevWarn (atCore m n) [k.iss.at_.toNat, src.toNat, dst.toNat] (tePop n k (some tag) m)) := by
  simp only [teStart, queue]
  rw [if_neg (by simp [free, reached, movers_left movers])]
  simp only [work]
  rw [if_pos (by simp [here, there])]

end

theorem localDone_data {i : Nat} {r : TeRun} {p : Module} (started : (m.core n).teRun[i]? = some r) (waits : r.done = false)
    (free : engHeld (m.core n) .te = false) (phase : r.phase = .local_) (data : (teData n r).run m = (.ok (), p)) :
    localDone n i m = teFinish n { r with phase := .sending } (updTe n r.uid (fun _ => { r with phase := .sending }) p) := by
  simp only [localDone, started]
  rw [if_neg (by simp [waits, free]), if_pos phase, runEng_ok data]

theorem parkedRestart_push {i stage mb layer len : Nat} {k : TeCmd} {call : Word} {r : TeRun} {p : Module}
    (parked : (m.core n).tePark[i]? = some k) (work : k.work = .push stage call mb layer len)
    (room : rsvFull ((m.ctx k.iss.slot).rsvAt stage) len = false) (free : engHeld (m.core n) .te = false)
    (movers : ((m.core n).teRun.filter fun r => !r.done).length < 16)
    (begun : (beginPush k.iss.slot n stage call mb layer len (TeRun.fresh k m.fab.uid none)).run (newUid m).2 = (.ok r, p)) :
    parkedRestart n i m = teTry n m.fab.uid ((p.updCore n fun c => { c with tePark := c.tePark.eraseIdx i }).updCore n fun c =>
      { c with teRun := c.teRun ++ [r] }) := by
  simp only [parkedRestart, parked, work]
  rw [if_neg (by simp [room, free, movers_left movers])]
  exact runEng_ok begun

end

theorem teFinish_copy {core : Nat} {r : TeRun} {m : Module} {f : CopyF} {src dst : Word} {len : Nat} {tag : W32}
    (work : r.cmd.work = .copy f src dst len tag) (received : r.expect = 0) (settled : r.tmo = 0) :
    teFinish core r m = complete r.cmd.iss true (dropTe core r.uid m) := by
  have effects : teEffects r m = m := by simp only [teEffects, work]
  simp only [teFinish, work, teDone, effects, received, settled, if_true]
  rfl

/-- Settles O18: each command by what the TE does in the state it finds. -/
theorem transferEngineCommands : Obligations.TransferEngineCommands := by
  constructor
  · intro core s on n m c free movers
    refine ⟨?_, ?_, ?_⟩
    · intro k q f src dst len tag queue work some_bytes reached pop
      exact ⟨fun here there => lift_gives on rfl
          (teStart_local queue work free movers (dueReached_of_le reached) some_bytes here there),
        fun here there => lift_gives on rfl (teStart_foreign queue work free movers (dueReached_of_le reached) here there)⟩
    · exact fun i r p started waits phase data => lift_gives on rfl (localDone_data started waits free phase data)
    · exact fun i k stage call mb layer len r p parked work room begun => lift_gives on rfl
        (parkedRestart_push parked work room free movers begun)
  · exact fun core r m f src dst len tag work received settled => teFinish_copy work received settled

end Sys2Proof.Machine

namespace Sys2Proof.Machine

open Sys2Proof.Safety

/-! The chain unit (O17; 06 R187, R188, R191, R202, R206, R207, R209, R221, R223) -/

/-- A piece of engine work that does not stop hands its answer and its module to the next piece. -/
theorem run_bind_ok {α β : Type} {x : EngM α} {f : α → EngM β} {a : α} {m p : Module} (run : x.run m = (.ok a, p)) :
    (x >>= f).run m = (f a).run p := by
  rw [ExceptT.run_bind]
  change StateT.bind x.run _ m = _
  rw [StateT.bind, run]
  rfl

/-- A chain that has just started. -/
def ChainRun.fresh (k : ChainCmd) (d : ChainDesc) (tile : Option CartTile) (uid : Nat) : ChainRun :=
  { cmd := k, d := d, src := none, slipErr := [], tile := tile, copying := tile.isSome, pass := 0,
    passes := 1 + extraPasses d.width d.stages, uid := uid, unsettled := 0, ending := false }

/-- Forgetting remote operands and taking an identifier leave the cart as it is. -/
theorem newUid_dropBlocks_cart (n : Nat) (e : Engine) (p : Module) :
    ((newUid (dropBlocks n e p)).2.core n).cart = (p.core n).cart := by
  change ((dropBlocks n e p).core n).cart = _
  rw [dropBlocks, Module.updCore_eq, Module.setCore_core, if_pos rfl]

section
variable {n : Nat} {m : Module}

/-! Start (R191, R209, R221) -/

/-- The head of the queue begins when the unit is empty and the head's stamp and its source are there. -/
theorem chainStart_begins {k : ChainCmd} {q : List ChainCmd} (queue : (m.core n).veQ = k :: q) (empty : (m.core n).chains = [])
    (free : engHeld (m.core n) .ve = false) (reached : dueReached m n k.iss = true)
    (source : k.f.src = 0 → (m.core n).cart ≠ []) : chainStart n m = chainBegin n k m := by
  simp only [chainStart, queue, empty]
  exact if_neg (by simpa [free, reached] using source)

section
variable {k : ChainCmd} {d : ChainDesc} {p : Module} (read : (readChainDesc k.iss.slot n k.desc).run m = (.ok d, p))
  (aligned : chainAligned k d = true) (apart : chainLaps p n k d (1 + extraPasses d.width d.stages) = false)
include read aligned apart

/-- A chain that begins with its descriptor read enters the unit; one with a source in the cart takes the tile at its head. -/
theorem chainBegin_enters : chainBegin n k m = popChain n ((newUid (dropBlocks n .ve p)).2.updCore n fun c =>
    let tile := if k.f.src = 0 then c.cart.head? else none
    { c with chains := c.chains ++ [.fresh k d tile p.fab.uid], cart := if tile.isSome then c.cart.drop 1 else c.cart,
             cartBusy := c.cartBusy + (if tile.isSome then 1 else 0) }) := by
  refine runEng_ok ((run_bind_ok read).trans ?_)
  rw [if_neg (by simp [aligned]), run_get_bind, if_neg (by simp [apart])]
  rfl

theorem chainBegin_memory (src : k.f.src ≠ 0) : chainBegin n k m =
    popChain n ((newUid (dropBlocks n .ve p)).2.updCore n fun c =>
      { c with chains := c.chains ++ [.fresh k d none p.fab.uid] }) := by
  rw [chainBegin_enters read aligned apart]
  simp only [if_neg src]
  rfl

theorem chainBegin_cart {x : CartTile} {xs : List CartTile} (src : k.f.src = 0) (cart : (p.core n).cart = x :: xs) :
    chainBegin n k m = popChain n ((newUid (dropBlocks n .ve p)).2.updCore n fun c =>
      { c with cart := c.cart.drop 1, cartBusy := c.cartBusy + 1, chains := c.chains ++ [.fresh k d (some x) p.fab.uid] }) := by
  have head : ((newUid (dropBlocks n .ve p)).2.core n).cart.head? = some x := by
    rw [newUid_dropBlocks_cart, cart, List.head?_cons]
  rw [chainBegin_enters read aligned apart]
  refine congrArg (fun c => popChain n (Module.setCore _ n c)) ?_
  simp only [if_pos src, head]
  rfl

end

/-! Passes (R188, R206, R207, R223) -/

theorem cartSlotFree_copied {r : ChainRun} (alone : (m.core n).chains = [r]) (copying : r.copying = true) :
    cartSlotFree n m = m.updCore n fun c =>
      { c with cartBusy := c.cartBusy - 1, chains := [{ r with copying := false }] } := by
  refine congrArg (m.setCore n) ?_
  simp [alone, copying, List.findIdx?_cons]

section
variable {i : Nat} {r : ChainRun} {p : Module} (runs : (m.core n).chains[i]? = some r) (working : r.ending = false)
  (free : engHeld (m.core n) .ve = false)
include runs working free

theorem chainPassEnd_counts {x : PassIn} (more : r.pass + 1 < r.passes) (read : (readPass n r).run m = (.ok x, p)) :
    chainPassEnd n i m = updChain n r.uid (fun r => { r with pass := r.pass + 1 }) (dropBlocks n .ve p) := by
  simp only [chainPassEnd, runs]
  rw [if_neg (by simp [working, free]), if_pos more, runEng_ok read]

variable (last : r.passes ≤ r.pass + 1)
include last

theorem chainPassEnd_completes (wrote : (lastPass n r).run m = (.ok (.wrote 0), p)) :
    chainPassEnd n i m = complete r.cmd.iss true (dropChain n r.uid (dropBlocks n .ve p)) := by
  simp only [chainPassEnd, runs]
  rw [if_neg (by simp [working, free]), if_neg (Nat.not_lt.2 last)]
  exact runEng_ok wrote

theorem chainPassEnd_waits {k : Nat} (remote : k ≠ 0) (wrote : (lastPass n r).run m = (.ok (.wrote k), p)) :
    chainPassEnd n i m =
      updChain n r.uid (fun r => { r with pass := r.pass + 1, unsettled := k, ending := true }) (dropBlocks n .ve p) := by
  obtain ⟨j, rfl⟩ := Nat.exists_eq_succ_of_ne_zero remote
  simp only [chainPassEnd, runs]
  rw [if_neg (by simp [working, free]), if_neg (Nat.not_lt.2 last)]
  exact runEng_ok wrote

end

end

/-- Settles O17: a start by the place of its source, a pass by whether it is the last and what that one writes. -/
theorem chainCommands : Obligations.ChainCommands := by
  intro core s on n m c
  refine ⟨?_, fun r alone copying => lift_gives on rfl (cartSlotFree_copied alone copying), ?_⟩
  · intro k q d p queue empty free reached read passes aligned apart start
    have begins := chainStart_begins queue empty free (dueReached_of_le reached)
    refine ⟨fun src => lift_gives on rfl ?_, fun src x xs cart kept => lift_gives on rfl ?_⟩
    · exact (begins fun zero => absurd zero src).trans (chainBegin_memory read aligned apart src)
    · exact (begins fun _ => by simp [m, n, c, cart]).trans (chainBegin_cart read aligned apart src (kept.trans cart))
  · intro i r runs working free
    refine ⟨fun more x p read => lift_gives on rfl (chainPassEnd_counts runs working free more read),
      fun last k p wrote => ⟨?_, ?_⟩⟩
    · rintro rfl
      exact lift_gives on rfl (chainPassEnd_completes runs working free last wrote)
    · exact fun remote => lift_gives on rfl (chainPassEnd_waits runs working free last remote wrote)

end Sys2Proof.Machine

namespace Sys2Proof.Machine

open Sys2Proof.Safety

/-! Tags, departures and time-outs (O20; 07 R241 to R246; 10 R328, R329, R334) -/

/-! Grants of tags (07 R241 to R243) -/

section
variable {m : Module} {f : Flight} {tag : BitVec 16}

theorem shadowTx_member (member : (m.ctx f.slot).shadow.role = 0) : shadowTx f m = none := if_pos member

theorem tagFree_of_unused (unused : ∀ g ∈ m.fab.flights, g.x.tag ≠ tag) : tagFree m tag = true :=
  List.all_eq_true.2 fun g held => bne_iff_ne.2 (unused g held)

/-- A free tag goes to the transaction that is next, which is sent unless it is a contribution or of a shadow. -/
theorem tagGrant_grants (next : nextWaiting m (canGo m) = some f) (member : (m.ctx f.slot).shadow.role = 0)
    (sent : f.x.kind ≠ .coll) (unused : ∀ g ∈ m.fab.flights, g.x.tag ≠ tag) : tagGrant tag m = grantTag tag f m := by
  have whole : contributes f = false := by simp [contributes, sent]
  rw [tagGrant, if_neg (by simp [tagFree_of_unused unused]), next]
  dsimp only
  rw [shadowTx_member member]
  exact if_pos (by simp [whole])

theorem takeTag_waiting : (takeTag tag f m).fab.waiting = m.fab.waiting.erase f := rfl

theorem takeTag_turn : (takeTag tag f m).fab.turn = f.core := rfl

theorem takeTag_inc : Sparse.get 0 (takeTag tag f m).fab.tagInc tag.toNat = nextInc m tag :=
  (Sparse.get_set ..).trans (if_pos rfl)

end

/-! Departures (10 R328, R329) -/

section
variable {n i : Nat} {o : OutTx} {m : Module}

theorem reservedTx_plain (plain : o.x.ttid = 0) : reservedTx m n o.x = false := by simp [reservedTx, plain]

/-- A forwarded transaction outside the timetable leaves as it came: its port seals nothing and counts no miss. -/
theorem leave_forwarded (fwd : o.own = .fwd) (plain : o.x.ttid = 0) : leave n i o m =
    emitVc n o.x.vc.toNat (.tx o.x) (freeBuf o.inp o.x (m.updPort n fun p =>
      { p with oq := p.oq.eraseIdx i,
               clsTurn := Sparse.set 2 p.clsTurn (sendRank m n o) (txClass o.x),
               inTurn := Sparse.set 18 p.inTurn o.x.vc.toNat o.inp.num })) := by
  simp only [leave, fwd, plain, reservedTx_plain plain, OutOwn.seals, markGone]
  rfl

theorem sendTx_eligible (waits : (m.port n).oq[i]? = some o) (goes : eligible m n i o = true) :
    sendTx n i m = leave n i o m := by
  rw [sendTx, waits]
  exact if_pos goes

theorem heldLost_forwarded (fwd : o.own = .fwd) : heldLost o m = freeBuf o.inp o.x m := by
  rw [heldLost, outFlight, if_neg (by simp [fwd]), fwd]
  rfl

end

/-! Time-outs (07 R243, R244, R246) -/

section
variable {f : Flight} {m : Module} {t : ThreadNo}

theorem loadLost_whole (call : Word) (whole : ∀ l, (m.thread t).load = some l → loadParts l = 1) :
    loadLost t call m = m.updThread t fun x => { x with load := x.load.map fun l =>
      { l with value := some (BitVec.allOnes 64, false), timedOut := true } } := by
  simp only [loadLost, Module.updThread_eq]
  congr 2
  exact Option.map_congr fun l waits => if_pos (whole l waits)

/-- A remote load of a context that is on the module and not in teardown reads all ones after 2 ms (07 Table 7.5). -/
theorem flightTimedOut_load (who : f.who = .load t) (gen : (m.ctx f.slot).gen.toNat = f.gen)
    (present : (m.ctx f.slot).state ≠ .free) (up : (m.ctx f.slot).state ≠ .teardown)
    (whole : ∀ l, (m.thread t).load = some l → loadParts l = 1) :
    flightTimedOut f m = ((dropFlight f m).updCtx f.slot fun x =>
        { x with remtmo := BitVec.ofNat 32 (satAdd 32 x.remtmo.toNat 1) }).updThread t fun x =>
      { x with load := x.load.map fun l => { l with value := some (BitVec.allOnes 64, false), timedOut := true } } := by
  rw [flightTimedOut, issuerTimedOut, if_neg (by simp [who, Who.fills]), if_neg (by simp [gen, present])]
  dsimp only
  rw [if_neg (by simpa using up), who]
  exact loadLost_whole _ whole

end

/-! Time-outs by command, and held traffic (07 R243; 10 R334) -/

section
variable {s : State} (on : s.mod.on = true)
include on

section
variable {tag : BitVec 16} {f : Flight} {t : Nat} (found : (s.mod.fab.flights.find? fun f => f.x.tag == tag) = some f)
  (left : f.sent = some t)
include found left

theorem transactionTimeout_sent : Gives (.transactionTimeout tag) s
    (if t + 2000000 ≤ s.mod.now then flightTimedOut f s.mod else s.mod) := by
  change execTransactionTimeout tag s = _
  rw [execTransactionTimeout, lift_on on, found]
  dsimp only
  rw [left]
  rfl

theorem transactionTimeout_early (early : s.mod.now < t + 2000000) : Gives (.transactionTimeout tag) s s.mod := by
  simpa only [if_neg (Nat.not_le.2 early)] using transactionTimeout_sent on found left

theorem transactionTimeout_late (late : t + 2000000 ≤ s.mod.now) :
    Gives (.transactionTimeout tag) s (flightTimedOut f s.mod) := by
  simpa only [if_pos late] using transactionTimeout_sent on found left

end

/-- The head of the queue of a port that is not UP is discarded after 2 ms (10 R334). -/
theorem heldTrafficDiscard_forwarded {port : PortNo} {o : OutTx} {q : List OutTx} (held : (s.mod.port port.val).oq = o :: q)
    (down : (s.mod.port port.val).st ≠ .up) (late : o.since + 2000000 ≤ s.mod.now) (fwd : o.own = .fwd) :
    Gives (.heldTrafficDiscard port) s (freeBuf o.inp o.x (s.mod.updPort port.val fun p => { p with oq := q })) := by
  change execHeldTrafficDiscard port s = _
  rw [execHeldTrafficDiscard, lift_on on]
  dsimp only
  rw [held]
  exact congrArg (fun p => Host.Outcome.next { s with mod := p })
    ((if_neg (not_or.2 ⟨down, Nat.not_lt.2 late⟩)).trans (heldLost_forwarded fwd))

end

/-- Settles O20: a grant, a departure, a time-out by its stamp, held traffic, and the load that times out. -/
theorem transactionsLeaveAndTimeOut : Obligations.TransactionsLeaveAndTimeOut := by
  refine ⟨fun s on => ⟨fun tag f next member sent unused => ⟨?_, takeTag_waiting, takeTag_turn, takeTag_inc⟩,
    fun port i o waits goes fwd plain => ?_, fun tag f t found left => ⟨fun early => ?_, fun late => ?_⟩,
    fun port o q held down late fwd => ?_⟩, fun f m t who gen state whole => ?_⟩
  · exact lift_gives on rfl (tagGrant_grants next member sent unused)
  · exact lift_gives on rfl ((sendTx_eligible waits goes).trans (leave_forwarded fwd plain))
  · exact transactionTimeout_early on found left early
  · exact transactionTimeout_late on found left late
  · exact heldTrafficDiscard_forwarded on held down late fwd
  · have present : (m.ctx f.slot).state ≠ .free ∧ (m.ctx f.slot).state ≠ .teardown := by
      rcases state with h | h | h <;> simp [h]
    exact flightTimedOut_load who gen present.1 present.2 whole

end Sys2Proof.Machine

namespace Sys2Proof.Machine

open Sys2Proof.Safety

/-! Replies at their issuer, and what is switched on (O22; 07 R239 to R243; 10 R328, R333, R340, R348) -/

/-- A transaction that is switched on keeps its receive buffer (10 R328). -/
theorem rxTx_passes {rx : Rx} {take : Nat → Inp → Txn → Module → Took} {x : Txn} {m p : Module}
    (up : (m.port rx.port.val).st = .up) (empty : (m.port rx.port.val).rxq = []) (good : rx.good = true)
    (seq : rx.seq.toNat = (m.port rx.port.val).rxSeq)
    (h : take rx.port.val (.port rx.port.val x.vc.toNat (m.port rx.port.val).era) x (got rx x m) = .passed p) :
    rxTx rx take x m = p.updPort rx.port.val fun q => { q with rxq := [] } := by
  rw [rxTx_alone up empty good seq, rxOne]
  dsimp only
  rw [if_neg (by simp), h]

theorem got_thread (rx : Rx) (x : Txn) (m : Module) (t : ThreadNo) : (got rx x m).thread t = m.thread t := by
  simp only [Module.thread, got, rxAccept_same, Module.updPort_eq, Module.setPort_threads]

theorem got_now (rx : Rx) (x : Txn) (m : Module) : (got rx x m).now = m.now := by
  simp only [Module.now, got, rxAccept_same, Module.updPort_eq, Module.setPort_time]

theorem got_flightOf (rx : Rx) (x y : Txn) (m : Module) : flightOf (got rx x m) y = flightOf m y := by
  simp only [flightOf, got, rxAccept_same, Module.updPort_eq, Module.setPort_fab]

theorem got_issuerLive (rx : Rx) (x : Txn) (m : Module) (f : Flight) : issuerLive (got rx x m) f = issuerLive m f := by
  rw [issuerLive, issuerLive, Module.ctx, Module.ctx, got_ctxs]

/-! What the module makes of a reply -/

section
variable {n : Nat} {i : Inp} {x : Txn} {m : Module}

theorem txArrive_foreign (dst : x.dst ≠ ownNum m) : txArrive n i x m = .passed (switchTx x i m.now .fwd m) := if_pos dst

theorem txArrive_reply (dst : x.dst = ownNum m) (reply : isReply x = true) : txArrive n i x m = reply1 n x m := by
  rw [txArrive, if_neg (not_not.2 dst), if_pos reply]

theorem reply1_unauthentic (key : x.keyOk = false) : reply1 n x m = authFail n x m := if_pos (by simp [key])

section
variable (key : x.keyOk = true)
include key

theorem reply1_combined {id : Nat} (combined : x.tagless = some (id + 1)) (ack : x.kind = .ack) :
    reply1 n x m = .taken (combDone id m) := by
  rw [reply1, if_neg (by simp [key]), combined]
  exact congrArg Took.taken (if_pos ack)

variable (tagged : x.tagless = none)
include tagged

theorem reply1_answers {f : Flight} (found : flightOf m x = some f) : reply1 n x m = .taken (replyTo x f m) := by
  rw [reply1, if_neg (by simp [key]), tagged]
  dsimp only
  rw [found]

theorem reply1_stray (found : flightOf m x = none) :
    reply1 n x m = .taken (led 0x0507 sevInfo (atPort n) [x.tag.toNat, x.inc.toNat, x.src.toNat] m) := by
  rw [reply1, if_neg (by simp [key]), tagged]
  dsimp only
  rw [found]

end

end

/-! What the issuer sees -/

section
variable {x : Txn} {f : Flight} {m : Module}

theorem replyTo_ack (kind : x.kind = .ack) : replyTo x f m = flightAcked f m := by rw [replyTo, kind]

theorem replyTo_nack (kind : x.kind = .nack) : replyTo x f m = flightRefused f x.cause m := by rw [replyTo, kind]

theorem replyTo_readdata (kind : x.kind = .readdata) :
    replyTo x f m = flightData f (x.payload.zipIdx.map fun e => (e.1, x.bad.contains (e.2 / 8))) m := by rw [replyTo, kind]

end

section
variable {f : Flight} {m : Module} {t : ThreadNo}

@[simp] theorem dropFlight_issuerLive : issuerLive (dropFlight f m) f = issuerLive m f := rfl

theorem issuerWork_load (who : f.who = .load t) :
    issuerWork m f = (srcOf t, fun m => loadOver f.slot t (m.updThread t fun x => { x with load := none })) := by
  rw [issuerWork, who]

variable (live : issuerLive m f = true)
include live

theorem flightAcked_store (who : f.who = .store t) :
    flightAcked f m = settle f.slot (progress f.slot (dropFlight f m)) := by
  rw [flightAcked, issuerAcked, if_neg (by simp [who, Who.fills]), if_pos (dropFlight_issuerLive.trans live), who]
  rfl

theorem flightData_load {l : LoadWait} (data : List (Byte × Bool)) (who : f.who = .load t) (waits : (m.thread t).load = some l)
    (whole : loadParts l = 1) :
    flightData f data m = (progress f.slot (dropFlight f m)).updThread t fun z =>
      { z with load := some { l with value := some (BitVec.ofNat 64 (bytesNat data), anyBad data) } } := by
  have waits' : ((progress f.slot (dropFlight f m)).thread t).load = some l := waits
  rw [flightData]
  dsimp only
  rw [if_neg (by simp [live]), who]
  simp only [loadGot, Module.updThread_eq, waits', Option.map_some, if_pos whole]

theorem flightRefused_load (cause : NackCause) (who : f.who = .load t) :
    flightRefused f cause m = loadOver f.slot t ((ctxFault f.slot
      (pageFault (match cause with | .noTarget => .noTarget | .remoteDenied => .remoteDenied) (txCall f.x) t)
      (dropFlight f m)).updThread t fun z => { z with load := none }) := by
  have issues : ¬(!(issuerLive (dropFlight f m) f) || f.who.quiet) = true := by
    rw [who, dropFlight_issuerLive, live]
    exact Bool.false_ne_true
  unfold flightRefused
  dsimp only
  rw [if_neg (by simp [who, Who.fills]), if_neg issues, issuerWork_load who]
  cases cause <;> rfl

end

/-! The three kinds of reply -/

/-- A command is the arrival of a reply. -/
def IsReply (rx : Rx) (x : Txn) (c : Instr) : Prop := isReply x = true ∧ ∀ s, exec c s = lift (rxTx rx txArrive x) s

theorem ackReceive_is (rx : Rx) (y : Txn) : IsReply rx { y with kind := .ack } (.ackReceive rx y) := ⟨rfl, fun _ => rfl⟩

theorem nackReceive_is (rx : Rx) (y : Txn) : IsReply rx { y with kind := .nack } (.nackReceive rx y) := ⟨rfl, fun _ => rfl⟩

theorem readdataReceive_is (rx : Rx) (y : Txn) : IsReply rx { y with kind := .readdata } (.readdataReceive rx y) :=
  ⟨rfl, fun _ => rfl⟩

theorem replies_are (rx : Rx) (y : Txn) :
    ∀ e ∈ [(Instr.ackReceive rx y, TxKind.ack), (.nackReceive rx y, .nack), (.readdataReceive rx y, .readdata)],
      IsReply rx { y with kind := e.2 } e.1 := by
  simp only [List.forall_mem_cons, List.not_mem_nil, false_imp_iff, implies_true, and_true]
  exact ⟨ackReceive_is rx y, nackReceive_is rx y, readdataReceive_is rx y⟩

section
variable {rx : Rx} {x : Txn} {c : Instr} {s : State} (is : IsReply rx x c) (on : s.mod.on = true)
  (up : (s.mod.port rx.port.val).st = .up) (empty : (s.mod.port rx.port.val).rxq = []) (good : rx.good = true)
  (seq : rx.seq.toNat = (s.mod.port rx.port.val).rxSeq) (dst : x.dst = ownNum s.mod)
include is dst

theorem IsReply.arrives {i : Inp} : txArrive rx.port.val i x (got rx x s.mod) = reply1 rx.port.val x (got rx x s.mod) :=
  txArrive_reply (dst.trans (got_ownNum ..).symm) is.1

include on up empty good seq

theorem IsReply.taken {p : Module} (h : reply1 rx.port.val x (got rx x s.mod) = .taken p) : Gives c s (left rx x s.mod p) :=
  lift_gives on (is.2 s) (rxTx_takes up empty good seq ((is.arrives dst).trans h))

theorem IsReply.lost {p : Module} (h : reply1 rx.port.val x (got rx x s.mod) = .lost p) : Gives c s (left rx x s.mod p) :=
  lift_gives on (is.2 s) (rxTx_loses up empty good seq ((is.arrives dst).trans h))

theorem IsReply.answers {f : Flight} {p : Module} (key : x.keyOk = true) (tagged : x.tagless = none)
    (found : flightOf s.mod x = some f) (h : replyTo x f (got rx x s.mod) = p) : Gives c s (left rx x s.mod p) := by
  subst h
  exact is.taken on up empty good seq dst (reply1_answers key tagged ((got_flightOf ..).trans found))

end

/-- What is not for this module is taken in order and switched on (10 R333). -/
theorem transactionForward_foreign (rx : Rx) {y : Txn} {s : State} (dst : y.dst ≠ ownNum s.mod) :
    exec (.transactionForward rx y) s = lift (rxTx rx txArrive y) s := by
  change execTransactionForward rx y s = _
  rw [execTransactionForward, lift, lift, if_neg dst]

/-- Settles O22: each clause by what a reply does for its issuer, or by why it reaches none. -/
theorem repliesReachTheirIssuer : Obligations.RepliesReachTheirIssuer := by
  intro rx y s on m n up empty good seq
  refine ⟨fun dst key tagged => ⟨fun f found live =>
      have live' x : issuerLive (got rx x m) f = true := (got_issuerLive ..).trans live
      ⟨fun t who => ?_, fun t l who waits whole => ⟨?_, ?_⟩⟩,
    fun stray e he => ?_⟩, fun dst => ⟨fun id key combined => ?_, fun key e he => ?_⟩, fun dst => ?_⟩
  · exact (ackReceive_is rx y).answers on up empty good seq dst key tagged found
      ((replyTo_ack rfl).trans (flightAcked_store (live' _) who))
  · have waits' : ((got rx { y with kind := .readdata } m).thread t).load = some l := by rw [got_thread, waits]
    have value := flightData_load (live' { y with kind := .readdata })
      (y.payload.zipIdx.map fun e => (e.1, y.bad.contains (e.2 / 8))) who waits' whole
    exact (readdataReceive_is rx y).answers on up empty good seq dst key tagged found ((replyTo_readdata rfl).trans value)
  · exact (nackReceive_is rx y).answers on up empty good seq dst key tagged found
      ((replyTo_nack rfl).trans (flightRefused_load (live' _) _ who))
  · exact (replies_are rx y e he).taken on up empty good seq dst (reply1_stray key tagged ((got_flightOf ..).trans stray))
  · exact (ackReceive_is rx y).taken on up empty good seq dst
      (reply1_combined (x := { y with kind := .ack }) key combined rfl)
  · exact (replies_are rx y e he).lost on up empty good seq dst (reply1_unauthentic key)
  · refine lift_gives on (transactionForward_foreign rx dst) (rxTx_passes up empty good seq ?_)
    have foreign : y.dst ≠ ownNum (got rx y m) := by rwa [got_ownNum]
    exact (txArrive_foreign foreign).trans (by rw [got_now])

end Sys2Proof.Machine

namespace Sys2Proof.Machine

open Sys2Proof.Safety

/-! Patrol scrub, channel retirement, KV windows and BAR4 (O41; 08 R262 to R264, R276; 15 R493, R498, R499; 17 R525, R543) -/

/-! Reads of a granule (08 R262, R270, R276, R285) -/

section
variable {g : Nat} {m : Module}

theorem readSummary_whole (whole : Sparse.get 0 m.sramErr (sumPa g / 8) = 0) : readSummary g m = m := by
  rw [readSummary, whole]
  rfl

/-- Nothing is read of a die without a loan, but for its hidden frames. -/
theorem readGran_unloaned (src : Nat) (soft : hiddenGran g = false) (bare : dieHasLoan m (dieOfGran g) = false) :
    readGran g src m = m := by
  rw [readGran, if_neg (by simp [soft]), if_pos (by simp [bare])]

/-- A granule whose valid bit is clear is stepped over. -/
theorem readGran_invalid (src : Nat) (soft : hiddenGran g = false) (whole : Sparse.get 0 m.sramErr (sumPa g / 8) = 0)
    (invalid : NatSet.has m.valid g = false) : readGran g src m = m := by
  cases bare : dieHasLoan m (dieOfGran g) with
  | false => exact readGran_unloaned src soft bare
  | true =>
    rw [readGran, if_neg (by simp [soft]), if_neg (by simp [bare]), readSummary_whole whole]
    dsimp only
    rw [if_pos (by simp [invalid])]

/-- What is read is a granule of a hidden frame, or a valid one under a loan and a whole summary word. -/
theorem readGran_decodes (src : Nat)
    (read : hiddenGran g = true ∨ (dieHasLoan m (dieOfGran g) = true ∧ m.sumLost g = false ∧
      Sparse.get 0 m.sramErr (sumPa g / 8) = 0 ∧ NatSet.has m.valid g = true))
    (clean : NatSet.has m.bad g = false) : readGran g src m = decodeRead g src m := by
  by_cases hidden : hiddenGran g = true
  · rw [readGran, if_pos hidden, if_neg (by simp [clean])]
  · obtain ⟨loan, kept, whole, valid⟩ := read.resolve_left hidden
    rw [readGran, if_neg hidden, if_neg (by simp [loan]), readSummary_whole whole]
    dsimp only
    rw [if_neg (by simp [kept, valid, clean])]

theorem decodeRead_lost (src : Nat) (lost : decodeGran (m.stripe (stripeOf g)).retired (errsOf m g) = .lost) :
    decodeRead g src m = poisonGran g src m := by
  unfold decodeRead
  dsimp only
  rw [lost]

theorem poisonGran_bad (g src : Nat) (m : Module) : (poisonGran g src m).bad = NatSet.add m.bad g := by
  unfold poisonGran
  simp only [led_same]
  rfl

theorem poisonGran_memue (g src : Nat) (m : Module) :
    ((poisonGran g src m).stripe (stripeOf g)).memue = satAdd 32 (m.stripe (stripeOf g)).memue 1 := by
  unfold poisonGran
  simp only [led_parts, Module.updStripe_stripe, if_true]
  rfl

end

theorem patrolScrub_gives {s : State} (on : s.mod.on = true) (die : BitVec 3) (st : BitVec 2) :
    Gives (.patrolScrub die st) s (patrolScrub (4 * die.toNat + st.toNat) s.mod) := lift_on on

/-! Retirement of a channel (08 R263, R264) -/

section
variable {k ch : Nat} {m : Module}

theorem retire_first (trig : Nat) (spare : (m.stripe k).retired = none) :
    ((retire k ch trig m).stripe k).retired = some ch := by
  rw [retire, spare]
  simp only [led_parts, Module.updStripe_stripe, if_true]

/-- A second channel degrades the stripe, whose retired channel stays. -/
theorem retire_second {r : Nat} (trig : Nat) (first : (m.stripe k).retired = some r) (other : r ≠ ch) :
    (retire k ch trig m).stripe k = { m.stripe k with degraded := true, second := ch } := by
  rw [retire, first]
  dsimp only
  rw [if_neg other]
  simp only [toTray_parts, led_parts, Module.updStripe_stripe, if_true]

end

/-- MEMRET takes a channel of the ten that is not the retired one (18 R559). -/
theorem memretRetire_gives {s : State} (on : s.mod.on = true) (lib : s.mod.boot.lib = true) (up : hostUp s.mod 0 = true)
    {die : BitVec 3} {st : BitVec 2} {ch : BitVec 4} (ten : ch.toNat < 10)
    (fresh : (s.mod.stripe (4 * die.toNat + st.toNat)).retired ≠ some ch.toNat) :
    Gives (.memretRetire 0 die st ch) s (retire (4 * die.toNat + st.toNat) ch.toNat 2 s.mod) := by
  change execMemretRetire 0 die st ch s = _
  rw [execMemretRetire, liftW_reaches on lib up, memretRetire, physOnly, if_pos rfl, if_neg]
  simp only [not_or, Nat.not_lt]
  exact ⟨Nat.le_of_lt_succ ten, fresh⟩

/-! KV windows (15 R498, R499; 18 Table 18.7) -/

/-- A write of a gated register whose catalogue bit is set, at a state the register takes. -/
theorem onGated_takes {b slot off v : Nat} {w : By} {ok : Ctx → Bool} {f : Module → Module} {m : Module}
    (cat : catOn m b = true) (sees : seesCtx m w slot = true) (present : (m.ctx slot).state ≠ .free)
    (takes : ok (m.ctx slot) = true) : onGated b w slot off v ok f m = f m := by
  rw [onGated, if_pos (by simp [cat]), onCtx_takes sees present takes]

/-- Bits 43 to 16 of a word of 44 bits, in their place. -/
theorem field_window {v : Word} (h : v.toNat < 2 ^ 44) : field v 16 28 * 65536 = v.toNat / 65536 * 65536 := by
  unfold field
  omega

/-- No bit outside the fields of a word of a window is set. -/
theorem kvMask_fits {v : Word} (h : v.toNat < 2 ^ 44) (word : Nat) : v &&& ~~~kvMask word = 0 := by
  unfold kvMask
  split
  · exact and_not_low_eq_zero (n := 44) h
  · simp

section
variable {s : State} (on : s.mod.on = true) (lib : s.mod.boot.lib = true)
include on lib

theorem kvfree_gives {f : Option Fn} {slot : BitVec 6} {fr : BitVec 28} (up : reaches s.mod f = true)
    (sees : seesCtx s.mod f slot.toNat = true) (present : (s.mod.ctx slot.toNat).state ≠ .free)
    (cat : catOn s.mod 13 = true) (owns : frameOk s.mod (s.mod.ctx slot.toNat).part fr.toNat = true) (c : CtrNo) :
    Gives (.kvfree f slot c fr) s (addCtr slot.toNat c 1 (clearFrame fr.toNat s.mod)) := by
  change execKvfree f slot c fr s = _
  rw [execKvfree, liftW, liftL_lib on lib, if_pos up, kvFree, onGated_takes cat sees present owns]

theorem kvwinWrite_gives {f : Fn} {slot : BitVec 6} {word : BitVec 2} {v : Word} (up : hostUp s.mod f.val = true)
    (sees : seesCtx s.mod (some f) slot.toNat = true) (present : (s.mod.ctx slot.toNat).state ≠ .free)
    (cat : catOn s.mod 13 = true) (serving : (s.mod.part (s.mod.ctx slot.toNat).part).role = 1) (h : v.toNat < 2 ^ 44)
    (w : BitVec 2) (held : word.toNat ≤ 2) :
    Gives (.kvwinWrite f slot w word v) s (s.mod.updCtx slot.toNat fun x =>
      { x with kv := Sparse.upd { base := 0, len := 0, table := 0 } x.kv w.toNat fun k => k.set word.toNat v }) := by
  change execKvwinWrite f slot w word v s = _
  rw [execKvwinWrite, liftW_reaches on lib up, if_neg (by simp [held, sees]), rsvOk,
    if_neg (not_not.2 (kvMask_fits h _)), writeKvwin, onGated_takes cat sees present (by simp [serving])]

end

/-! BAR4 with the Librarian running (15 R493; 17 R525) -/

section
variable {m : Module} {f : Fn} {off : Nat} {ide : Bool}

section
variable (perst : m.boot.perstN = true) (lib : m.boot.lib = true)
include perst lib

theorem bar4Read_refused (bars : ideRefused m f ide = true) (n : Nat) : bar4Read f off n ide m = unsupported f m := by
  rw [bar4Read, if_neg (by simp [perst]), if_neg (by simp [lib]), if_pos (by simp [bars])]

theorem bar4Write_refused (bars : ideRefused m f ide = true) (d : List Byte) (ep : Bool) :
    bar4Write f off d ep ide m = unsupported f m := by
  rw [bar4Write, if_neg (by simp [perst]), if_neg (by simp [lib]), if_pos (by simp [bars])]

section
variable (up : hostUp m f.val = true) (takes : ideRefused m f ide = false)
include up takes

theorem bar4Read_unmapped {n : Nat} (unmapped : bar4Bytes m f off n = none) :
    bar4Read f off n ide m = unsupported f m := by
  rw [bar4Read, if_neg (by simp [perst]), if_neg (by simp [lib]), if_neg (by simp [up, takes]), unmapped]

theorem bar4Read_mapped {n : Nat} {pas : List Nat} (maps : bar4Bytes m f off n = some pas) :
    bar4Read f off n ide m =
      if anyBad (readPas pas m).2 then hostOut (.aer f.val false) (hostOut (.data f.val [] true) (readPas pas m).1)
      else hostOut (.data f.val ((readPas pas m).2.map (·.1)) false) (readPas pas m).1 := by
  rw [bar4Read, if_neg (by simp [perst]), if_neg (by simp [lib]), if_neg (by simp [up, takes]), maps]

theorem bar4Write_unmapped {d : List Byte} (unmapped : bar4Bytes m f off d.length = none) (ep : Bool) :
    bar4Write f off d ep ide m = unsupported f m := by
  rw [bar4Write, if_neg (by simp [perst]), if_neg (by simp [lib]), if_neg (by simp [up, takes]), unmapped]

theorem bar4Write_poisoned {d : List Byte} {pas : List Nat} (maps : bar4Bytes m f off d.length = some pas) :
    bar4Write f off d true ide m = led 0x0904 sevWarn atModule [f.val, off] (hostOut (.aer f.val true) m) := by
  rw [bar4Write, if_neg (by simp [perst]), if_neg (by simp [lib]), if_neg (by simp [up, takes]), maps]
  rfl

theorem bar4Write_mapped {d : List Byte} {pas : List Nat} (maps : bar4Bytes m f off d.length = some pas) :
    bar4Write f off d false ide m = hostStore f.val (pas.zip d) m := by
  rw [bar4Write, if_neg (by simp [perst]), if_neg (by simp [lib]), if_neg (by simp [up, takes]), maps]
  rfl

end

end

/-- A write of a function that is no act of 03 Table 3.10. -/
theorem hostStore_plain {n : Nat} {items : List (Nat × Byte)} (plain : writeAct m none none items = none) :
    hostStore n items m = putPas n items false m :=
  if_neg (by simp [plain])

theorem hostStore_act {n : Nat} {items : List (Nat × Byte)} (act : (writeAct m none none items).isSome = true) :
    hostStore n items m = undefFn n (putPas n items false m) := if_pos act

/-! The image store before the Librarian runs (17 R543) -/

/-- A byte of the store after bytes were written from an offset on: the written one, or what it was. -/
theorem get_storeBytes (d : List Byte) (off j : Nat) (st : Sparse Byte) (a : Nat) :
    Sparse.get 0 ((d.zipIdx j).foldl (fun st e => Sparse.set (0 : Byte) st (off + e.2) e.1) st) a =
      if off + j ≤ a ∧ a < off + j + d.length then d.getD (a - (off + j)) 0 else Sparse.get 0 st a := by
  induction d generalizing j st with
  | nil =>
    rw [if_neg (by simp only [List.length_nil]; omega)]
    rfl
  | cons b d ih =>
    rw [List.zipIdx_cons, List.foldl_cons, ih, Sparse.get_set]
    simp only [List.length_cons]
    rcases Nat.lt_trichotomy a (off + j) with before | rfl | after
    · rw [if_neg (by omega), if_neg (by omega), if_neg (by omega)]
    · rw [if_neg (by omega), if_pos rfl, if_pos (by omega), Nat.sub_self, List.getD_cons_zero]
    · have next : a - (off + j) = a - (off + (j + 1)) + 1 := by omega
      rw [if_neg (by omega : a ≠ off + j), next, List.getD_cons_succ]
      exact if_congr (by omega) rfl rfl

theorem windowHit_inside {len : Nat} (inside : off + len ≤ 2 ^ 26) : windowHit 0 off len = true := by
  rw [windowHit, decide_eq_true inside]
  rfl

section
variable (perst : m.boot.perstN = true) (lib : m.boot.lib = false)
include perst lib

theorem bar4Read_store {n : Nat} (inside : off + n ≤ 2 ^ 26) : bar4Read 0 off n ide m =
    hostOut (.data 0 ((upTo n).map fun i => Sparse.get 0 m.boot.store (off + i)) false) m := by
  rw [bar4Read, if_neg (by simp [perst]), if_pos (by simp [lib]), if_pos (windowHit_inside inside)]
  rfl

theorem bar4Write_store {d : List Byte} (inside : off + d.length ≤ 2 ^ 26) (window : m.boot.st = .window) :
    bar4Write 0 off d false ide m = { m with boot := { m.boot with
      store := d.zipIdx.foldl (fun st e => Sparse.set (0 : Byte) st (off + e.2) e.1) m.boot.store } } := by
  rw [bar4Write, if_neg (by simp [perst]), if_pos (by simp [lib]), if_neg (by simp [windowHit_inside inside]),
    if_neg Bool.false_ne_true, if_neg (not_not.2 window)]

end

end

/-- Settles O41: each clause by what its command answers, and the lost granule by what its read makes of it. -/
theorem memoryAndBar4 : Obligations.MemoryAndBar4 := by
  refine ⟨fun s on lib => ⟨fun die st => ⟨patrolScrub_gives on die st,
      fun soft => ⟨readGran_unloaned 1 soft, readGran_invalid 1 soft⟩,
      fun ch ten up => ⟨fun spare => ?_, fun r first other => ?_⟩⟩,
    fun g read clean lost => ?_,
    fun f slot c fr up sees present cat owns => kvfree_gives on lib up sees present cat owns c,
    fun f slot w v up sees present cat serving h => ?_⟩,
    fun f off n d ep ide s on perst => ⟨fun lib up takes => ⟨fun unmapped => ?_,
        fun pas maps => ⟨fun clean => ?_, fun marked => ?_⟩, fun unmapped => ?_,
        fun pas maps => ⟨fun poisoned => ?_, fun whole plain => ?_, fun whole act => ?_⟩⟩,
      fun lib up bars => ⟨?_, ?_⟩, fun lib => ⟨fun phys inside => ?_, fun phys inside whole window => ?_⟩⟩⟩
  · exact ⟨_, memretRetire_gives on lib up ten (by simp [spare]), retire_first 2 spare⟩
  · have second := retire_second 2 first other
    exact ⟨_, memretRetire_gives on lib up ten (by simp [first, other]), by rw [second, first], by rw [second], by rw [second]⟩
  · rw [readGran_decodes 0 read clean, decodeRead_lost 0 lost, poisonGran_bad]
    exact ⟨by simp, poisonGran_memue g 0 s.mod⟩
  · have writes {word : BitVec 2} := kvwinWrite_gives (word := word) on lib up sees present cat serving h w
    rw [← field_window h]
    exact ⟨writes (by decide), writes (by decide), writes (by decide)⟩
  · exact lift_gives on rfl (bar4Read_unmapped perst lib up takes unmapped)
  · exact lift_gives on rfl ((bar4Read_mapped perst lib up takes maps).trans (if_neg (by simp [clean])))
  · exact lift_gives on rfl ((bar4Read_mapped perst lib up takes maps).trans (if_pos marked))
  · exact lift_gives on rfl (bar4Write_unmapped perst lib up takes unmapped ep)
  · subst poisoned
    exact lift_gives on rfl (bar4Write_poisoned perst lib up takes maps)
  · subst whole
    exact lift_gives on rfl ((bar4Write_mapped perst lib up takes maps).trans (hostStore_plain plain))
  · subst whole
    exact lift_gives on rfl ((bar4Write_mapped perst lib up takes maps).trans (hostStore_act act))
  · exact lift_gives on rfl (bar4Read_refused perst lib bars n)
  · exact lift_gives on rfl (bar4Write_refused perst lib bars d ep)
  · subst phys
    exact lift_gives on rfl (bar4Read_store perst lib inside)
  · subst phys whole
    refine ⟨_, lift_gives on rfl (bar4Write_store perst lib inside window), fun i hi => ?_⟩
    rw [get_storeBytes, if_pos (by omega)]
    exact congrArg (d.getD · 0) (by omega)

end Sys2Proof.Machine

namespace Sys2Proof.Machine

open Sys2Proof.Safety

/-! The passage of time (O49; 09 R287, R288) -/

/-- What a port does by itself as time passes: frames leave it and entries are written, and its receive buffers stay. -/
structure SendsAlone (m p : Module) : Prop where
  frame : ∃ ports ledger out, p = { m with ports := ports, ledger := ledger, out := out }
  rxq : ∀ k, (p.port k).rxq = (m.port k).rxq

namespace SendsAlone

variable {m p q : Module}

theorem refl (m : Module) : SendsAlone m m := ⟨⟨m.ports, m.ledger, m.out, rfl⟩, fun _ => rfl⟩

theorem trans (h : SendsAlone m p) (g : SendsAlone p q) : SendsAlone m q := by
  obtain ⟨⟨_, _, _, rfl⟩, hrx⟩ := h
  obtain ⟨⟨_, _, _, rfl⟩, grx⟩ := g
  exact ⟨⟨_, _, _, rfl⟩, fun k => (grx k).trans (hrx k)⟩

end SendsAlone

theorem missEntry_sendsAlone (n : Nat) (m : Module) : SendsAlone m (missEntry n m) := by
  refine ⟨?_, fun k => ?_⟩
  · rw [missEntry]
    obtain ⟨_, _, h⟩ := led_frame (m := m.updPort n fun p => { p with missCount := 0 }) 0x0605 sevWarn (atPort n)
      [n, (m.port n).missFrame, (m.port n).missCount]
    rw [h]
    exact ⟨_, _, _, rfl⟩
  · by_cases h : k = n <;> simp [missEntry, h]

theorem flushPort_sendsAlone (n : Nat) (m : Module) : SendsAlone m (flushPort n m) := by
  refine ⟨?_, fun k => by simp only [flushPort_port_same]⟩
  obtain ⟨_, _, h⟩ := flushPort_frame (m := m) n
  rw [h]
  exact ⟨_, _, _, rfl⟩

theorem tickPort_sendsAlone (m : Module) (n : Nat) : SendsAlone m (tickPort m n) := by
  have entry : SendsAlone m
      (if (m.port n).missCount ≠ 0 ∧ (m.port n).missFrame < m.now / Config.frameNs then missEntry n m else m) := by
    split
    · exact missEntry_sendsAlone n m
    · exact .refl m
  rw [tickPort]
  split
  · exact entry
  · exact entry.trans (flushPort_sendsAlone ..)

theorem drainAll_empty {m : Module} (empty : ∀ n, n < 10 → (m.port n).rxq = []) : drainAll m = m := by
  refine List.foldlRecOn (motive := (· = m)) (upTo 10) _ rfl fun p hp n hn => ?_
  subst hp
  rw [if_pos (by simp [empty n (List.mem_range.1 hn)])]

theorem tickModule_off {m : Module} (off : m.on = false) : tickModule m = m := if_pos (by simp [off])

/-- One nanosecond of a module with empty receive buffers: the stamp, the activity noted, and what its ports send. -/
theorem tickModule_frame {m : Module} (on : m.on = true) (empty : ∀ n, n < 10 → (m.port n).rxq = []) :
    ∃ pm ports ledger out, tickModule m =
      { m with time := tickTime m.time, pm := pm, ports := ports, ledger := ledger, out := out } := by
  obtain ⟨⟨ports, ledger, out, h⟩, rxq⟩ := foldl_keeps (fun p n hp => hp.trans (tickPort_sendsAlone p n)) (upTo 10)
    (SendsAlone.refl (noteActivity { m with time := tickTime m.time }))
  rw [tickModule, if_neg (by simp [on])]
  dsimp only
  rw [drainAll_empty fun n hn => (rxq n).trans (empty n hn), h]
  exact ⟨_, ports, ledger, out, rfl⟩

/-! The stamp (09 R288) -/

/-- The rate correction leaves the stamp alone and changes what is to be removed by at most one count. -/
theorem rateStep_frame (t : Time) :
    ∃ a b, rateStep t = { t with rateAcc := a, slew8 := b } ∧ t.slew8 - 8 ≤ b ∧ b ≤ t.slew8 + 8 := by
  rw [rateStep]
  split
  · exact ⟨_, _, rfl, by omega, by omega⟩
  split
  · exact ⟨_, _, rfl, by omega, by omega⟩
  · exact ⟨_, t.slew8, rfl, by omega, by omega⟩

/-- With no rate to correct, nothing is added to the offset to be removed. -/
theorem rateStep_idle {t : Time} (rate : t.rate8 = 0) (acc : t.rateAcc.natAbs < 8192000) : rateStep t = t := by
  have unit : (8 * Config.exchangeNs : Int) = 8192000 := rfl
  have same : t.rateAcc + t.rate8 = t.rateAcc := by rw [rate, Int.add_zero]
  rw [rateStep, unit, same, if_neg (by omega), if_neg (by omega)]

theorem rateStep_now (t : Time) : (rateStep t).now = t.now := by
  obtain ⟨a, b, h, -⟩ := rateStep_frame t
  rw [h]

theorem rateStep_slewWait (t : Time) : (rateStep t).slewWait = t.slewWait := by
  obtain ⟨a, b, h, -⟩ := rateStep_frame t
  rw [h]

theorem tickTime_waits {t : Time} (wait : t.slewWait ≠ 0) :
    tickTime t = { rateStep t with now := t.now + 1, slewWait := t.slewWait - 1 } := by
  rw [tickTime, rateStep_slewWait, if_pos wait, rateStep_now]

section
variable {t : Time} (ready : t.slewWait = 0)
include ready

theorem tickTime_withholds (ahead : 8 ≤ (rateStep t).slew8) :
    tickTime t = { rateStep t with slew8 := (rateStep t).slew8 - 8, slewWait := 4095 } := by
  rw [tickTime, rateStep_slewWait, if_neg (not_not.2 ready), if_pos ahead]
  rfl

theorem tickTime_adds (behind : (rateStep t).slew8 ≤ -8) :
    tickTime t = { rateStep t with now := t.now + 2, slew8 := (rateStep t).slew8 + 8, slewWait := 4095 } := by
  rw [tickTime, rateStep_slewWait, if_neg (not_not.2 ready), if_neg (by omega), if_pos behind, rateStep_now]
  rfl

theorem tickTime_counts (below : (rateStep t).slew8 < 8) (above : -8 < (rateStep t).slew8) :
    tickTime t = { rateStep t with now := t.now + 1 } := by
  have free : (rateStep t).slewWait = 0 := (rateStep_slewWait t).trans ready
  rw [tickTime, if_neg (not_not.2 free), if_neg (by omega), if_neg (by omega), rateStep_now]

end

/-- What one nanosecond of the reference does to the stamp, and when it may slew again. -/
theorem tickTime_cases (t : Time) :
    ((tickTime t).now = t.now + 1) ∨
      (t.slewWait = 0 ∧ (tickTime t).slewWait = 4095 ∧ ((tickTime t).now = t.now ∨ (tickTime t).now = t.now + 2)) := by
  by_cases ready : t.slewWait = 0
  case neg => exact .inl (by rw [tickTime_waits ready])
  by_cases ahead : 8 ≤ (rateStep t).slew8
  · exact .inr ⟨ready, by rw [tickTime_withholds ready ahead], .inl (by rw [tickTime_withholds ready ahead, rateStep_now])⟩
  by_cases behind : (rateStep t).slew8 ≤ -8
  · exact .inr ⟨ready, by rw [tickTime_adds ready behind], .inr (by rw [tickTime_adds ready behind])⟩
  · exact .inl (by rw [tickTime_counts ready (by omega) (by omega)])

theorem tickTime_steady {t : Time} (rate : t.rate8 = 0) (acc : t.rateAcc.natAbs < 8192000) (slew : t.slew8.natAbs < 8) :
    (tickTime t).now = t.now + 1 ∧ (tickTime t).slew8 = t.slew8 := by
  have idle := rateStep_idle rate acc
  by_cases ready : t.slewWait = 0
  · rw [tickTime_counts ready (by rw [idle]; omega) (by rw [idle]; omega), idle]
    exact ⟨rfl, rfl⟩
  · rw [tickTime_waits ready, idle]
    exact ⟨rfl, rfl⟩

/-- Settles O49: the module by its ports, which leave all but their own frames and entries alone; the stamp by its cases. -/
theorem emptyQueueLetsTimePass : Obligations.EmptyQueueLetsTimePass := by
  refine ⟨fun s none => ⟨tick s, by rw [step, none], none, rfl, fun on empty => ?_, tickModule_off⟩, fun t => ?_⟩
  · obtain ⟨pm, ports, ledger, out, h⟩ := tickModule_frame on empty
    rw [tick, h]
    exact ⟨rfl, rfl, rfl, rfl, rfl, rfl, rfl⟩
  obtain ⟨a, b, frame, low, high⟩ := rateStep_frame t
  refine ⟨?_, fun slews => ?_, fun wait => ?_, fun ready => ⟨fun ahead => ?_, fun behind => ?_⟩, tickTime_steady⟩
  · have cases := tickTime_cases t
    omega
  · exact ((tickTime_cases t).resolve_left slews).imp_right And.left
  · rw [tickTime_waits wait]
    exact ⟨rfl, rfl⟩
  · rw [tickTime_withholds ready (by rw [frame]; dsimp only; omega), rateStep_now]
  · rw [tickTime_adds ready (by rw [frame]; dsimp only; omega)]

end Sys2Proof.Machine

namespace Sys2Proof.Machine

open Sys2Proof.Safety

/-! Alignment states and the stamp (O24; 09 R288 to R296, Table 9.1) -/

theorem enterAlign_first {a : Align} {m : Module} (h : m.time.align ≠ a) :
    (enterAlign a m).time =
      { m.time with align := a, everAligned := m.time.everAligned || decide (a = .aligned) } := by
  rw [enterAlign, if_neg h]
  simp only [led_same]

/-- Entering an alignment state changes nothing else of the time. -/
theorem enterAlign_time (a : Align) (m : Module) :
    ∃ e, (enterAlign a m).time = { m.time with align := a, everAligned := e } := by
  by_cases h : m.time.align = a
  · exact ⟨m.time.everAligned, by rw [enterAlign, if_pos h, ← h]⟩
  · exact ⟨_, enterAlign_first h⟩

theorem enterAlign_align (a : Align) (m : Module) : (enterAlign a m).time.align = a := by
  obtain ⟨e, h⟩ := enterAlign_time a m
  rw [h]

theorem enterAlign_run (a : Align) (m : Module) : (enterAlign a m).time.run = m.time.run := by
  obtain ⟨e, h⟩ := enterAlign_time a m
  rw [h]

theorem enterAlign_now (a : Align) (m : Module) : (enterAlign a m).now = m.now := by
  obtain ⟨e, h⟩ := enterAlign_time a m
  rw [Module.now, h]
  rfl

theorem setStamp_time (t : Nat) (m : Module) : (setStamp t m).time = { m.time with now := t } := by
  obtain ⟨y, h⟩ := accrueThrot_frame m
  rw [setStamp, h]

theorem judgeBound_time (o8 : Int) (m : Module) :
    (judgeBound o8 m).time = { m.time with outOfBound := decide (boundOf m < o8.natAbs) } := by
  rw [judgeBound]
  split
  case isTrue within => rw [decide_eq_false (Nat.not_lt.2 within)]
  case isFalse beyond =>
    rw [decide_eq_true (Nat.not_le.1 beyond)]
    split
    case isTrue already => rw [← already]
    case isFalse => simp only [toTray_same, led_same]

theorem clampRate_le (r : Int) : (clampRate r).natAbs ≤ 1998 := by
  rw [clampRate, Config.rateMax8]
  omega

/-- The corrected rate is within 244 ppm, and none for a parent in the same rack (09 R288, R290). -/
theorem correctRate_frame (o8 : Int) (m : Module) :
    ∃ r, correctRate o8 m = { m with time := { m.time with rate8 := r } } ∧ r.natAbs ≤ 1998 ∧
      (∀ w, m.topo.parents[m.time.parent]? = some w → w.sameRack = true → r = 0) := by
  refine ⟨_, rfl, ?_, fun w present same => ?_⟩
  · split
    · split
      · decide
      · exact clampRate_le _
    · decide
  · rw [parentOf, present]
    exact if_pos same

/-! A completed exchange (09 R294 to R296, Table 9.1) -/

/-- The first estimate steps the stamp. -/
theorem exchanged_first {m : Module} (first : m.time.align = .unaligned) (o8 : Int) :
    ∃ e, (exchanged o8 m).time = { m.time with
      now := ((m.now : Int) - (o8 + 4) / 8).toNat, align := .coarse, everAligned := e, run := 0,
      offset8 := o8 - 8 * ((o8 + 4) / 8), slew8 := o8 - 8 * ((o8 + 4) / 8),
      lastHeard := ((m.now : Int) - (o8 + 4) / 8).toNat } := by
  rw [exchanged, first]
  dsimp only
  obtain ⟨e, h⟩ := enterAlign_time .coarse { stepStamp o8 m with time := { (stepStamp o8 m).time with
    run := 0, offset8 := o8 - 8 * wholeOf o8, slew8 := o8 - 8 * wholeOf o8, lastHeard := (stepStamp o8 m).now } }
  rw [h]
  exact ⟨e, by rw [Module.now, stepStamp, setStamp_time]; rfl⟩

/-- Exchanges in a row within the bound, with one that has an offset o8. -/
def runWith (o8 : Int) (m : Module) : Nat := if o8.natAbs ≤ boundOf m then Nat.min 255 (m.time.run + 1) else 0

/-- The module after a later estimate, which is slewed, before its alignment state follows. -/
def slewed (o8 : Int) (m : Module) : Module :=
  judgeBound o8 (correctRate o8 { m with time := { m.time with run := runWith o8 m, offset8 := o8, slew8 := o8 } })

theorem slewed_time (o8 : Int) (m : Module) :
    ∃ r, (slewed o8 m).time = { m.time with
        run := runWith o8 m, offset8 := o8, slew8 := o8, rate8 := r, outOfBound := decide (boundOf m < o8.natAbs) } ∧
      r.natAbs ≤ 1998 ∧ (∀ w, m.topo.parents[m.time.parent]? = some w → w.sameRack = true → r = 0) := by
  obtain ⟨r, rate, le, same⟩ := correctRate_frame o8
    { m with time := { m.time with run := runWith o8 m, offset8 := o8, slew8 := o8 } }
  refine ⟨r, ?_, le, same⟩
  rw [slewed, rate, judgeBound_time]
  rfl

theorem exchanged_slews {m : Module} (later : m.time.align ≠ .unaligned) (o8 : Int) : exchanged o8 m =
    if (m.time.align = .coarse ∨ m.time.align = .holdover) ∧ Config.alignRuns ≤ runWith o8 m then
      enterAlign .aligned (slewed o8 m)
    else slewed o8 m := by
  rw [exchanged]
  split
  case h_1 first => exact absurd first later
  case h_2 => rfl

/-- The alignment state after an exchange that is not the first. -/
def alignWith (o8 : Int) (m : Module) : Align :=
  if (m.time.align = .coarse ∨ m.time.align = .holdover) ∧ Config.alignRuns ≤ runWith o8 m then .aligned
  else m.time.align

theorem exchanged_later {m : Module} (later : m.time.align ≠ .unaligned) (o8 : Int) :
    ∃ e r, (exchanged o8 m).time = { m.time with
        align := alignWith o8 m, everAligned := e, run := runWith o8 m, offset8 := o8, slew8 := o8, rate8 := r,
        outOfBound := decide (boundOf m < o8.natAbs) } ∧ r.natAbs ≤ 1998 ∧
      (∀ w, m.topo.parents[m.time.parent]? = some w → w.sameRack = true → r = 0) := by
  obtain ⟨r, slew, rate⟩ := slewed_time o8 m
  rw [exchanged_slews later, alignWith]
  split
  case isTrue =>
    obtain ⟨e, h⟩ := enterAlign_time .aligned (slewed o8 m)
    exact ⟨e, r, by rw [h, slew], rate⟩
  case isFalse => exact ⟨m.time.everAligned, r, slew, rate⟩

section
variable {o8 : Int} {m : Module}

theorem runWith_within (h : o8.natAbs ≤ boundOf m) : runWith o8 m = Nat.min 255 (m.time.run + 1) := if_pos h

theorem runWith_beyond (h : boundOf m < o8.natAbs) : runWith o8 m = 0 := if_neg (Nat.not_le.2 h)

/-- The sixteenth in a row within the bound. -/
theorem alignRuns_le_runWith : Config.alignRuns ≤ runWith o8 m ↔ o8.natAbs ≤ boundOf m ∧ 15 ≤ m.time.run := by
  rw [Config.alignRuns]
  rcases Nat.lt_or_ge (boundOf m) o8.natAbs with beyond | within
  · rw [runWith_beyond beyond]
    omega
  · rw [runWith_within within]
    exact Nat.le_min.trans (by omega)

theorem alignWith_aligned (h : m.time.align = .aligned) : alignWith o8 m = .aligned := by
  rw [alignWith, h]
  exact ite_self _

end

/-! The frames of an exchange (09 R292, R293, R301; 10 R360) -/

theorem gotCtl_topo (rx : Rx) (m : Module) : (gotCtl rx m).topo = m.topo := by
  simp only [gotCtl, rxAccept_same, Module.updPort_eq, Module.setPort_topo]

theorem gotCtl_time (rx : Rx) (m : Module) : (gotCtl rx m).time = m.time := by
  simp only [gotCtl, rxAccept_same, Module.updPort_eq, Module.setPort_time]

theorem gotCtl_fabKey (rx : Rx) (m : Module) : (gotCtl rx m).fabKey = m.fabKey := by
  simp only [gotCtl, rxAccept_same, Module.updPort_eq, Module.setPort_fabKey]

theorem gotCtl_st (rx : Rx) (m : Module) : ((gotCtl rx m).port rx.port.val).st = (m.port rx.port.val).st := by
  simp only [gotCtl, rxAccept_port_same, Module.updPort_eq, Module.setPort_port, if_true]

/-- A frame that the link passes on and whose GMAC holds, at an UP port. -/
theorem rxUp_passes {rx : Rx} {k : Nat → Module → Module} {m : Module} (up : (m.port rx.port.val).st = .up)
    (good : rx.good = true) (seq : rx.seq.toNat = (m.port rx.port.val).rxSeq) (auth : rx.auth = true)
    (key : m.fabKey.isSome = true) : rxUp rx k m = k rx.port.val (gotCtl rx m) := by
  rw [rxUp, rxCtl, if_neg (by simp [listens, up]), if_neg (by simp [rxOk, good, seq]), ← gotCtl]
  dsimp only
  rw [gotCtl_fabKey, if_pos (by simp [auth, key]), gotCtl_st, if_pos up]

/-- The module has heard a candidate parent. -/
def heard (m : Module) : Module := { m with time := { m.time with lastHeard := m.now } }

theorem fromParent_foreign {n : Nat} {m : Module} (foreign : isCandidate m n = false) (k : Module → Module) :
    fromParent n k m = m := if_pos (by simp [foreign])

theorem fromParent_present {n : Nat} {m : Module} {w : Parent} (present : m.topo.parents[m.time.parent]? = some w)
    (port : w.port.val = n) (k : Module → Module) : fromParent n k m = k (heard m) := by
  have candidate : isCandidate m n = true :=
    List.any_eq_true.2 ⟨w, List.mem_of_getElem? present, beq_iff_eq.2 port⟩
  have parent : parentOf (heard m) = some w := present
  rw [fromParent, if_neg (by simp [candidate]), ← heard]
  dsimp only
  rw [parent]
  exact if_pos port

theorem reqAt_sent {m : Module} {n t : Nat} (sent : (m.port n).reqSent = some (m.time.seqid, t)) :
    reqAt m n = some t := by
  simp [reqAt, sent]

theorem tryComplete_waits {m : Module} (unknown : m.time.t5 = none) (n : Nat) : tryComplete n m = m := by
  rw [tryComplete]
  split
  case h_1 known _ => exact nomatch unknown.symm.trans known
  case h_2 => rfl

/-- With all six stamps the exchange gives the link's delay and the offset (09 R293). -/
theorem tryComplete_completes {m : Module} {n t1 t2 t3 t4 t5 t6 : Nat} (h1 : m.time.t1 = some t1)
    (h2 : m.time.t2 = some t2) (h3 : reqAt m n = some t3) (h4 : m.time.t4 = some t4) (h5 : m.time.t5 = some t5)
    (h6 : m.time.t6 = some t6) : tryComplete n m =
      let d : Int := (((t6 : Int) - t3) - ((t5 : Int) - t4)) / 2 + (m.port n).linkasym
      exchanged ((t2 : Int) - t1 - d)
        { m.updPort n (fun z => { z with linkdelay := d.toNat, reqSent := none }) with time := m.time.clear } := by
  rw [tryComplete, h1, h2, h3, h4, h5, h6]

/-! Send stamps (09 R292, 10 R360) -/

/-- A frame that leaves is followed, at its port, by what the stamp of that moment makes of it. -/
theorem emit_after (n : Nat) (f : Frame) (m : Module) :
    ∃ p : Port, (emit n f m).port n = afterSend (crossAt m n f) f p ∧ p.cq = (m.port n).cq := by
  refine ⟨_, (Module.setPort_port ..).trans (if_pos rfl), ?_⟩
  change Port.cq ((m.setPort n _).port n) = _
  rw [Module.setPort_port, if_pos rfl]

/-! What the commands answer -/

/-- A SYNC of the present parent begins an exchange. -/
def syncTake (q : BitVec 16) (x : Nat) (m : Module) : Module :=
  { m with time := { m.time.clear with seqid := q.toNat, t2 := some x } }

/-- A FOLLOWUP of the present parent. -/
def followupTake (response : Bool) (q : BitVec 16) (x n : Nat) (m : Module) : Module :=
  if m.time.seqid ≠ q.toNat then m
  else if response then tryComplete n { m with time := { m.time with t5 := some x } }
  else if m.time.t2.isNone then m
  else emitCtl n (.delayreq q.toNat) { m with time := { m.time with t1 := some x } }

/-- A DELAYRESP of the present parent. -/
def delayrespTake (q : BitVec 16) (x y n : Nat) (m : Module) : Module :=
  if m.time.seqid ≠ q.toNat ∨ (reqAt m n).isNone then m
  else tryComplete n { m with time := { m.time with t4 := some x, t6 := some y } }

/-- The command is a frame that only a parent sends, with what it does where the present parent sent it. -/
def ParentFrame (rx : Rx) (c : Instr) (k : Nat → Module → Module) : Prop :=
  ∀ s, exec c s = lift (rxUp rx fun n => fromParent n (k n)) s

theorem parentFrame_sync (rx : Rx) (q : BitVec 16) (x : Nat) : ParentFrame rx (.syncReceive rx q x) fun _ => syncTake q x :=
  fun _ => rfl

theorem parentFrame_followup (rx : Rx) (r : Bool) (q : BitVec 16) (x : Nat) :
    ParentFrame rx (.followupReceive rx r q x) (followupTake r q x) := fun _ => rfl

theorem parentFrame_delayresp (rx : Rx) (q : BitVec 16) (x y : Nat) :
    ParentFrame rx (.delayrespReceive rx q x y) (delayrespTake q x y) := fun _ => rfl

section
variable {c : Instr} {k : Nat → Module → Module} {rx : Rx} {s : State} (on : s.mod.on = true)
  (up : (s.mod.port rx.port.val).st = .up) (good : rx.good = true) (seq : rx.seq.toNat = (s.mod.port rx.port.val).rxSeq)
  (auth : rx.auth = true) (key : s.mod.fabKey.isSome = true)
include on up good seq auth key

theorem delayreqReceive_gives (q : BitVec 16) (x : Nat) :
    Gives (.delayreqReceive rx q x) s (emitCtl rx.port.val (.delayresp q.toNat x) (gotCtl rx s.mod)) :=
  lift_gives on rfl (rxUp_passes up good seq auth key)

/-- At the port of no candidate parent the frame has no effect. -/
theorem parentFrame_foreign_gives (is : ParentFrame rx c k) (foreign : isCandidate s.mod rx.port.val = false) :
    Gives c s (gotCtl rx s.mod) := by
  have foreign' : isCandidate (gotCtl rx s.mod) rx.port.val = false := by rw [isCandidate, gotCtl_topo]; exact foreign
  exact lift_gives on (is s) ((rxUp_passes up good seq auth key).trans (fromParent_foreign foreign' _))

/-- The frame at the port of the present parent. -/
theorem parentFrame_present_gives (is : ParentFrame rx c k) {w : Parent} {p : Module}
    (present : s.mod.topo.parents[s.mod.time.parent]? = some w) (port : w.port = rx.port)
    (e : k rx.port.val (heard (gotCtl rx s.mod)) = p) : Gives c s p := by
  have present' : (gotCtl rx s.mod).topo.parents[(gotCtl rx s.mod).time.parent]? = some w := by
    rw [gotCtl_topo, gotCtl_time]; exact present
  exact lift_gives on (is s)
    ((rxUp_passes up good seq auth key).trans ((fromParent_present present' (congrArg Fin.val port) _).trans e))

end

section
variable {m : Module} {q : BitVec 16}

/-- A frame of another exchange. -/
theorem followupTake_other (other : m.time.seqid ≠ q.toNat) (r : Bool) (x n : Nat) : followupTake r q x n m = m :=
  if_pos other

theorem delayrespTake_other (other : m.time.seqid ≠ q.toNat) (x y n : Nat) : delayrespTake q x y n m = m :=
  if_pos (.inl other)

variable (same : m.time.seqid = q.toNat)
include same

/-- The follow-up of a SYNC: the child asks for the delay. -/
theorem followupTake_sync (begun : m.time.t2.isSome = true) (x n : Nat) : followupTake false q x n m =
    emitCtl n (.delayreq q.toNat) { m with time := { m.time with t1 := some x } } := by
  rw [followupTake, if_neg (not_not.2 same), if_neg Bool.false_ne_true,
    if_neg (by simp [← Option.not_isSome, begun])]

/-- The follow-up of a response, when the other five stamps are there. -/
theorem followupTake_completes {n t1 t2 t3 t4 t6 : Nat} (h1 : m.time.t1 = some t1) (h2 : m.time.t2 = some t2)
    (sent : (m.port n).reqSent = some (q.toNat, t3)) (h4 : m.time.t4 = some t4) (h6 : m.time.t6 = some t6) (x : Nat) :
    followupTake true q x n m =
      let d : Int := (((t6 : Int) - t3) - ((x : Int) - t4)) / 2 + (m.port n).linkasym
      exchanged ((t2 : Int) - t1 - d)
        { m.updPort n (fun z => { z with linkdelay := d.toNat, reqSent := none }) with time := m.time.clear } := by
  have left : reqAt { m with time := { m.time with t5 := some x } } n = some t3 := reqAt_sent (same ▸ sent)
  rw [followupTake, if_neg (not_not.2 same), if_pos rfl]
  exact tryComplete_completes (m := { m with time := { m.time with t5 := some x } }) h1 h2 left h4 rfl h6

theorem delayrespTake_waits {n t : Nat} (sent : (m.port n).reqSent = some (q.toNat, t)) (unknown : m.time.t5 = none)
    (x y : Nat) : delayrespTake q x y n m = { m with time := { m.time with t4 := some x, t6 := some y } } := by
  have left := reqAt_sent (m := m) (same ▸ sent)
  rw [delayrespTake, if_neg (by simp [same, left]), tryComplete_waits (by exact unknown)]

end

/-- Settles O24: each frame by what it gives at its port, the send stamps by what follows the frame that leaves, and a
completed exchange by whether it is the first. -/
theorem alignment : Obligations.Alignment := by
  refine ⟨fun rx q x y s on up good seq auth key => ?_, fun n i x e m => ?_, fun o8 m => ?_⟩
  · have sync := parentFrame_sync rx q x
    have followup (r : Bool) := parentFrame_followup rx r q x
    have delayresp := parentFrame_delayresp rx q x y
    refine ⟨delayreqReceive_gives on up good seq auth key q x, fun foreign => ?_, fun w present port => ?_⟩
    · have gives {c k} (is : ParentFrame rx c k) := parentFrame_foreign_gives on up good seq auth key is foreign
      simp only [List.forall_mem_cons, List.not_mem_nil, false_imp_iff, implies_true, and_true]
      exact ⟨gives sync, gives (followup true), gives (followup false), gives delayresp⟩
    have gives {c k q} (is : ParentFrame rx c k) :=
      parentFrame_present_gives (p := q) on up good seq auth key is present port
    generalize gotCtl rx s.mod = p at gives ⊢
    refine ⟨gives sync rfl, fun other => ?_,
      fun same => ⟨fun t2 => ?_, fun t1 t2 t3 h1 h2 sent => ⟨fun h5 => ?_, ?_⟩⟩⟩
    · have ignored (r : Bool) := gives (followup r) (followupTake_other (m := heard p) other r x rx.port.val)
      simp only [List.forall_mem_cons, List.not_mem_nil, false_imp_iff, implies_true, and_true]
      exact ⟨ignored true, ignored false, gives delayresp (delayrespTake_other (m := heard p) other x y rx.port.val)⟩
    · exact gives (followup false) (followupTake_sync (m := heard p) same t2 x rx.port.val)
    · exact gives delayresp (delayrespTake_waits (m := heard p) same sent h5 x y)
    · intro t4 t6 h4 h6
      exact gives (followup true) (followupTake_completes (m := heard p) same h1 h2 sent h4 h6 x)
  · refine ⟨?_, ?_, ?_⟩
    · obtain ⟨p, left, queue⟩ := emit_after n (.sync i e) m
      rw [left, afterSend, ← queue]
      rfl
    · obtain ⟨p, left, queue⟩ := emit_after n (.delayresp i x) m
      rw [left, afterSend, ← queue]
      rfl
    · obtain ⟨p, left, queue⟩ := emit_after n (.delayreq i) m
      rw [left, afterSend]
      rfl
  · intro b q
    have hb : boundOf m = b := rfl
    have hq : exchanged o8 m = q := rfl
    clear_value b q
    subst hb hq
    refine ⟨fun first => ?_, fun later => ?_, fun waits => ?_, fun aligned => ?_⟩
    · obtain ⟨e, h⟩ := exchanged_first first o8
      rw [Module.now, h]
      exact ⟨rfl, rfl, rfl, by dsimp only; omega⟩
    · obtain ⟨e, r, h, rate, copper⟩ := exchanged_later later o8
      rw [Module.now, h]
      exact ⟨rfl, rfl, runWith_within, runWith_beyond, decide_eq_true_iff, rate, copper⟩
    · have later : m.time.align ≠ .unaligned := fun first => by simp [first] at waits
      obtain ⟨e, r, h, -⟩ := exchanged_later later o8
      rw [h]
      refine ⟨fun within run => if_pos ⟨waits, alignRuns_le_runWith.2 ⟨within, run⟩⟩,
        fun short => if_neg fun ⟨_, runs⟩ => ?_⟩
      obtain ⟨within, run⟩ := alignRuns_le_runWith.1 runs
      omega
    · obtain ⟨e, r, h, -⟩ := exchanged_later (fun first => nomatch aligned.symm.trans first) o8
      rw [h]
      exact alignWith_aligned aligned

end Sys2Proof.Machine

namespace Sys2Proof.Machine

open Sys2Proof.Safety

/-! Alignment commands and the tray controller's messages (O26; 09 R289, R291, R292, R296; 10 R315, R342) -/

theorem syncDue_iff (m : Module) (p : Port) :
    syncDue m p = true ↔ p.syncFrame = 0 ∨ p.syncFrame + 64 ≤ m.now / 16000 + 1 := by
  rw [syncDue, Bool.or_eq_true, beq_iff_eq, decide_eq_true_iff]
  rfl

/-- The module in the place that a TOPO gives it, with the ports' LINKASYM and no parent heard yet. -/
def withTopo (b : TopoB) (m : Module) : Module :=
  (upTo 10).foldl (fun m n => m.updPort n fun p => { p with linkasym := asymOf b n })
    { m with topo := b, time := { m.time.clear with parent := 0 } }

/-- A TOPO leaves the threads and the contexts as they are. -/
theorem withTopo_same (b : TopoB) (m : Module) :
    (withTopo b m).topo = b ∧ (withTopo b m).threads = m.threads ∧ (withTopo b m).ctxs = m.ctxs :=
  foldl_keeps (op := fun m n => m.updPort n fun p => { p with linkasym := asymOf b n })
    (I := fun p => p.topo = b ∧ p.threads = m.threads ∧ p.ctxs = m.ctxs) (fun _ _ h => h) (upTo 10) ⟨rfl, rfl, rfl⟩

section
variable {s : State} (on : s.mod.on = true)
include on

section
variable {port : PortNo} (t8 : BitVec 3)

theorem alignmentExchange_due (up : (s.mod.port port.val).st = .up) (due : syncDue s.mod (s.mod.port port.val) = true) :
    Gives (.alignmentExchange port t8) s
      (emitCtl port.val (.sync (s.mod.port port.val).syncSeq t8) (s.mod.updPort port.val fun p =>
        { p with syncSeq := (p.syncSeq + 1) % 65536, syncFrame := s.mod.now / 16000 + 1 })) :=
  lift_gives on rfl (if_pos ⟨up, due⟩)

theorem alignmentExchange_early (early : ¬syncDue s.mod (s.mod.port port.val) = true) :
    Gives (.alignmentExchange port t8) s s.mod :=
  lift_gives on rfl (if_neg fun h => early h.2)

end

theorem holdoverEntry_gives (aligned : s.mod.time.align = .aligned) (child : s.mod.topo.timekeeper = false)
    (silent : s.mod.time.lastHeard + 8 * 1024000 ≤ s.mod.now) : ∃ q, Gives .holdoverEntry s q ∧
      q.time.align = .holdover ∧ q.time.run = 0 ∧ q.now = s.mod.now :=
  ⟨_, lift_gives on rfl (if_pos ⟨aligned, child, silent⟩), enterAlign_align .., enterAlign_run .., enterAlign_now ..⟩

variable (lib : s.mod.boot.lib = true)
include lib

/-- A command that the running Librarian carries out. -/
theorem liftL_gives {c : Instr} {k : Module → Module} {p : Module} (is : exec c s = liftL k s) (e : k s.mod = p) :
    Gives c s p := by
  rw [Gives, is, liftL_lib on lib, e]

theorem parentRetry_gives (holdover : s.mod.time.align = .holdover) (parents : s.mod.topo.parents ≠ []) :
    Gives .parentRetry s { s.mod with time := { s.mod.time.clear with
      parent := (s.mod.time.parent + 1) % s.mod.topo.parents.length, run := 0, lastTry := s.mod.now } } :=
  liftL_gives on lib rfl (if_pos ⟨holdover, parents⟩)

/-- STAMPLO answers the lower half and latches the upper one (09 R289). -/
theorem stamploRead_gives {f : Fn} (perst : s.mod.boot.perstN = true) (up : hostUp s.mod f.val = true) :
    Gives (.stamploRead f) s (hostOut (.stamplo f.val (BitVec.ofNat 32 s.mod.now))
      (s.mod.updFunc f.val fun x => { x with stamphi := BitVec.ofNat 32 (s.mod.now / 2 ^ 32) })) := by
  change execStamploRead f s = _
  rw [execStamploRead, liftRd, lift_on on, if_neg (by simp [perst]), if_pos (by simp [lib, up])]
  rfl

section
variable (spdm : s.mod.boot.spdm = true)
include spdm

/-- A message of the tray controller inside the SPDM session (17 R540). -/
theorem liftT_gives {c : Instr} {k : Module → Module} {p : Module} (is : exec c s = liftT k s) (e : k s.mod = p) :
    Gives c s p :=
  liftL_gives on lib is ((if_pos spdm).trans e)

theorem tkset_gives (keeper : s.mod.topo.timekeeper = true) (first : s.mod.time.align = .unaligned) (t : BitVec 64) :
    ∃ q, Gives (.tkset t) s q ∧ q.time.align = .aligned ∧ q.now = t.toNat ∧ q.time.everAligned = true := by
  refine ⟨_, liftT_gives on lib spdm rfl (if_pos ⟨keeper, first⟩), ?_⟩
  have entered : (setStamp t.toNat s.mod).time.align ≠ .aligned := by rw [setStamp_time, first]; decide
  rw [Module.now, enterAlign_first entered, setStamp_time]
  exact ⟨rfl, rfl, Bool.or_true _⟩

theorem topo_gives {b : TopoB} (wf : b.wf = true) : Gives (.topo b) s (withTopo b s.mod) := by
  change execTopo b s = _
  rw [execTopo, liftT, liftL_lib on lib, if_pos spdm, if_neg (by simp [wf]), withTopo]

theorem fabkey_gives (key : BitVec 256) : Gives (.fabkey key) s { s.mod with fabKey := some key } :=
  liftT_gives (k := fun m => { m with fabKey := some key }) on lib spdm rfl rfl

end

end

/-! The timetable (09 R311, R312) -/

section
variable {m : Module} {b : Bool} {f : Nat}

/-- Before the frame of a pending switch nothing is recorded. -/
theorem commitSwitch_early (early : ∀ w, m.tt.pend = some w → m.now < w.2 * 16000) : commitSwitch m = m := by
  rw [commitSwitch]
  split
  case h_1 b f pend => exact if_neg (Nat.not_le.2 (early _ pend))
  case h_2 => rfl

theorem commitSwitch_begun (pend : m.tt.pend = some (b, f)) (begun : f * 16000 ≤ m.now) :
    commitSwitch m = { m with tt := { m.tt with live := b, pend := none } } := by
  rw [commitSwitch, pend]
  exact if_pos begun

theorem liveBank_begun (pend : m.tt.pend = some (b, f)) (begun : f * 16000 ≤ m.now) : liveBank m = b := by
  rw [liveBank, pend]
  exact if_pos begun

theorem liveBank_early (pend : m.tt.pend = some (b, f)) (early : m.now < f * 16000) : liveBank m = m.tt.live := by
  rw [liveBank, pend]
  exact if_neg (Nat.not_le.2 early)

theorem not_cancels (new : b ≠ m.tt.live ∨ m.tt.pend = none) : ¬(b = m.tt.live ∧ m.tt.pend.isSome = true) := by
  rintro ⟨live, pend⟩
  rcases new with other | none
  · exact other live
  · simp [none] at pend

/-- A frame with 32 us to go is kept; an earlier one moves to the first that has them (R312). -/
theorem switchFrame_kept {now : Nat} (lead : now + 32000 ≤ f * 16000) : switchFrame now f = f :=
  if_neg (Nat.not_lt.2 lead)

theorem switchFrame_moved {now : Nat} (short : f * 16000 < now + 32000) :
    switchFrame now f = (now + 32000 + 15999) / 16000 := if_pos short

section
variable (early : ∀ w, m.tt.pend = some w → m.now < w.2 * 16000)
include early

theorem ttswitch_cancels (live : b = m.tt.live) (pend : m.tt.pend.isSome = true) :
    ttswitch b f m = { m with tt := { m.tt with pend := none } } := by
  rw [ttswitch, commitSwitch_early early]
  exact if_pos ⟨live, pend⟩

section
variable (new : b ≠ m.tt.live ∨ m.tt.pend = none)
include new

theorem ttswitch_refused {c n : Nat} (fault : bankFault m b = some (c, n)) : ttswitch b f m =
    led 0x0603 sevWarn atModule [c, n, f] { m with tt := { m.tt with cause := c, port := n } } := by
  rw [ttswitch, commitSwitch_early early]
  dsimp only
  rw [if_neg (not_cancels new), fault]

section
variable (ok : bankFault m b = none)
include ok

theorem ttswitch_accepted : ttswitch b f m =
    let fr := switchFrame m.now f
    let q := { m with tt := { m.tt with pend := some (b, fr), lastFrame := fr } }
    if fr = f then q else led 0x0604 sevWarn atModule [f, fr] q := by
  rw [ttswitch, commitSwitch_early early]
  dsimp only
  rw [if_neg (not_cancels new), ok]

theorem ttswitch_kept (lead : m.now + 32000 ≤ f * 16000) :
    ttswitch b f m = { m with tt := { m.tt with pend := some (b, f), lastFrame := f } } := by
  rw [ttswitch_accepted early new ok, switchFrame_kept lead]
  exact if_pos rfl

theorem ttswitch_moved (short : f * 16000 < m.now + 32000) : ttswitch b f m =
    let k := (m.now + 32000 + 15999) / 16000
    led 0x0604 sevWarn atModule [f, k] { m with tt := { m.tt with pend := some (b, k), lastFrame := k } } := by
  rw [ttswitch_accepted early new ok, switchFrame_moved short]
  exact if_neg (by omega)

end

end

end

end

/-- TTSW through the physical function, with its catalogue bit set (17 R547). -/
theorem ttsw_gives {s : State} {b : Bool} {f : BitVec 48} {p : Module} (on : s.mod.on = true) (lib : s.mod.boot.lib = true)
    (up : hostUp s.mod 0 = true) (cat : catOn s.mod 2 = true) (e : ttswitch b f.toNat s.mod = p) :
    Gives (.ttsw 0 b f) s p := by
  change execTtsw 0 b f s = _
  rw [execTtsw, liftW_reaches on lib (by exact up), writeTtsw, physOnly, if_pos rfl, gated, if_pos cat, e]

/-- Settles O26: each command by what it answers; a switch of the timetable by whether it cancels, its bank and its frame. -/
theorem stampAndTimetable : Obligations.StampAndTimetable := by
  intro s on lib
  refine ⟨fun port t8 up => ⟨fun due => ?_, fun early => ?_⟩, holdoverEntry_gives on,
    fun holdover parents => ⟨_, parentRetry_gives on lib holdover parents, rfl, rfl, holdover⟩,
    fun spdm => ⟨fun t keeper first => tkset_gives on lib spdm keeper first t,
      fun b wf => ⟨_, topo_gives on lib spdm wf, withTopo_same b s.mod⟩, fabkey_gives on lib spdm⟩,
    fun b f up cat early => ?_, fun b f pend => ⟨fun begun => ⟨?_, liveBank_begun pend begun⟩,
      fun early => ⟨?_, liveBank_early pend early⟩⟩, fun f perst up => stamploRead_gives on lib perst up⟩
  · exact alignmentExchange_due on t8 up ((syncDue_iff ..).2 due)
  · exact alignmentExchange_early on t8 fun due => early ((syncDue_iff ..).1 due)
  · exact ⟨fun live is => ttsw_gives on lib up cat (ttswitch_cancels early live is),
      fun new ok lead => ttsw_gives on lib up cat (ttswitch_kept early new ok lead),
      fun new ok short => ttsw_gives on lib up cat (ttswitch_moved early new ok short),
      fun c n new fault => ttsw_gives on lib up cat (ttswitch_refused early new fault)⟩
  · exact lift_gives on rfl (commitSwitch_begun pend begun)
  · exact lift_gives on rfl (commitSwitch_early fun w h => by cases pend.symm.trans h; exact early)

end Sys2Proof.Machine

namespace Sys2Proof.Machine

open Sys2Proof.Safety

/-! Control frames at a port (O23; 10 R318, R325, R326, R337, R342, R354 to R359) -/

/-! The state of a port that stops -/

section
variable {m : Module}

theorem freeBuf_port (i : Inp) (x : Txn) (k : Nat) : Sent.only (m.port k) ((freeBuf i x m).port k) := by
  unfold freeBuf
  split
  case h_1 n vc era =>
    split
    · exact Sent.only_upd n k (fun p => { p with owed := Sparse.upd 0 p.owed vc (· + creditsOf (.tx x)) })
        fun _ => ⟨_, _, _, _, _, _, _, _, _, _, _, _, rfl⟩
    · exact Sent.only_refl _
  case h_2 => exact Sent.only_refl _

theorem detDrop_port (n : Nat) (x : Txn) (inp : Inp) (own : OutOwn) (k : Nat) :
    Sent.only (m.port k) ((detDrop n x inp own m).port k) := by
  rw [detDrop, dropTx]
  simpa only [markGone_parts, Module.updPd_port] using freeBuf_port (m := markGone x own (m.updPd _ _)) inp x k

theorem dropDetoured_st (n k : Nat) : ((dropDetoured n m).port k).st = (m.port k).st := by
  have dropped := foldl_ports k _ (fun m (o : OutTx) => detDrop_port (m := m) n o.x o.inp o.own k)
    ((m.port n).oq.filter (·.x.det)) (m.updPort n fun p => { p with oq := p.oq.filter fun o => !o.x.det })
  rw [dropDetoured, (Sent.only_same dropped).1]
  by_cases h : k = n <;> simp [h]

theorem portStop_st (n : Nat) (st : PortSt) : ((portStop n st m).port n).st = st := by
  rw [portStop, dropDetoured_st]
  simp

theorem noteFailed_port (p : Pair) (k : Nat) : (noteFailed p m).port k = m.port k := by
  unfold noteFailed
  split
  case h_1 => rfl
  case h_2 =>
    split
    · rfl
    dsimp only
    split
    · simp only [led_parts, toTray_parts]
      rfl
    · rfl

theorem sendFault_port (ty : FaultType) (subject : BitVec 16) (k : Nat) :
    Sent.only (m.port k) ((sendFault ty subject m).port k) := by
  obtain ⟨-, -, -, -, same, -⟩ := applyFault_parts (m := each _ _ _) _
  rw [sendFault, same]
  exact foldl_ports k _ (fun m n => emitFault_port (m := m) n k _) _ _

/-- A port declared DOWN is DOWN (10 R326). -/
theorem portDown_st (n cause : Nat) : ((portDown n cause m).port n).st = .down := by
  rw [portDown, (Sent.only_same (sendFault_port ..)).1, noteFailed_port]
  simp only [led_parts, portStop_st]

end

/-! What the link asks for again (10 R325, R326) -/

section
variable {rx : Rx} {m : Module}

theorem rxReject_miswire (miswire : (m.port rx.port.val).st = .miswire) : rxReject rx m =
    m.updPort rx.port.val fun p => { p with lastRx := if rx.good then m.now else p.lastRx } := if_pos miswire

/-- The port once it has sent the k-th request for the frame it expects. -/
def asksAgain (rx : Rx) (k : Nat) (m : Module) : Module :=
  let n := rx.port.val
  let p := m.port n
  emitCtl n (.replay p.rxSeq) ((m.updPort n fun p => { p with lastRx := if rx.good then m.now else p.lastRx }).updPort n
    fun q => { q with replayAsked := (p.rxSeq, k) })

theorem asksAgain_port (rx : Rx) (k : Nat) (m : Module) :
    let p := m.port rx.port.val
    let q := (asksAgain rx k m).port rx.port.val
    q.st = p.st ∧ q.replayAsked = (p.rxSeq, k) ∧ q.rxSeq = p.rxSeq := by
  simp [asksAgain]

theorem rxReject_asks (carries : (m.port rx.port.val).st ≠ .miswire) : rxReject rx m =
    let p := m.port rx.port.val
    let k := if p.replayAsked.1 = p.rxSeq then p.replayAsked.2 + 1 else 1
    if 8 ≤ k then portDown rx.port.val 2 (asksAgain rx k m) else asksAgain rx k m := if_neg carries

end

/-! What the link makes of a control frame -/

section
variable {rx : Rx} {k : Nat → Module → Module} {m : Module} (up : (m.port rx.port.val).st = .up)
include up

theorem rxCtl_rejected (h : rx.good = false ∨ rx.seq.toNat ≠ (m.port rx.port.val).rxSeq) : rxCtl rx k m = rxReject rx m := by
  have fails : rxOk m rx = false := by rcases h with h | h <;> simp [rxOk, h]
  rw [rxCtl, if_neg (by simp [listens, up]), if_pos (by simp [fails])]

section
variable (good : rx.good = true) (seq : rx.seq.toNat = (m.port rx.port.val).rxSeq)
include good seq

/-- A frame in order is taken by the link; what more it does, it does only with its GMAC right (10 R342). -/
theorem rxCtl_taken : rxCtl rx k m =
    if rx.auth && m.fabKey.isSome then k rx.port.val (gotCtl rx m) else gotCtl rx m := by
  rw [rxCtl, if_neg (by simp [listens, up]), if_neg (by simp [rxOk, good, seq]), ← gotCtl]
  dsimp only
  rw [gotCtl_fabKey]

theorem rxCtl_unauthentic (auth : rx.auth = false) : rxCtl rx k m = gotCtl rx m := by
  rw [rxCtl_taken up good seq, if_neg (by simp [auth])]

theorem rxCtl_passes (auth : rx.auth = true) (key : m.fabKey.isSome = true) : rxCtl rx k m = k rx.port.val (gotCtl rx m) := by
  rw [rxCtl_taken up good seq, if_pos (by simp [auth, key])]

end

end

/-! What an authenticated frame does -/

section
variable {b : StatusB} {n : Nat} {m : Module}

/-- The module once it has noted what a STATUS says of the peer of port n. -/
def peerNoted (b : StatusB) (n : Nat) (m : Module) : Module :=
  noteInc b (m.updPort n fun x =>
    { x with peerport := b.port.val, peermod := b.modnum, peerInc := b.inc, peerRun := b.pstate == .run })

section
variable (up : (m.port n).st = .up)
include up

theorem statusTake_up : statusTake b n m =
    if b.pstate = .training then portDown n 3 (peerNoted b n m)
    else if !(peerOk (peerNoted b n m) n b) then misWire n b (peerNoted b n m)
    else detourEnd n b (peerNoted b n m) := by
  rw [statusTake, up]
  rfl

theorem statusTake_trains (training : b.pstate = .training) : statusTake b n m = portDown n 3 (peerNoted b n m) :=
  (statusTake_up up).trans (if_pos training)

variable (runs : b.pstate ≠ .training)
include runs

theorem statusTake_miswired (wrong : peerOk (peerNoted b n m) n b = false) :
    statusTake b n m = misWire n b (peerNoted b n m) := by
  rw [statusTake_up up, if_neg runs, if_pos (by simp [wrong])]

theorem statusTake_wired (ok : peerOk (peerNoted b n m) n b = true) :
    statusTake b n m = detourEnd n b (peerNoted b n m) := by
  rw [statusTake_up up, if_neg runs, if_neg (by simp [ok])]

end

theorem detourEnd_unloaded (unloaded : (m.port n).detour = false) : detourEnd n b m = m := if_neg (by simp [unloaded])

theorem detourEnd_run (run : b.pstate = .run) (detour : (m.port n).detour = true) (lib : m.boot.lib = true) :
    detourEnd n b m = led 0x0506 sevInfo (atPort n) [n] (m.updPort n fun x => { x with detour := false }) :=
  if_pos ⟨run, detour, lib⟩

end

section
variable {b : FaultB} {n : Nat} {m : Module}

/-- The FAULTs that the module still remembers (10 R355). -/
def recentFaults (m : Module) : List (Nat × Nat × Nat) := m.fab.seen.filter fun e => decide (m.now < e.2.2 + 100000000)

theorem remembers_iff (b : FaultB) (m : Module) :
    ((recentFaults m).any fun e => e.1 == b.reporter.toNat && e.2.1 == b.serial.toNat) = true ↔
      ∃ e ∈ recentFaults m, e.1 = b.reporter.toNat ∧ e.2.1 = b.serial.toNat := by
  simp only [List.any_eq_true, Bool.and_eq_true, beq_iff_eq]

theorem faultTake_known (known : ∃ e ∈ recentFaults m, e.1 = b.reporter.toNat ∧ e.2.1 = b.serial.toNat) :
    faultTake b n m = { m with fab := { m.fab with seen := recentFaults m } } := if_pos ((remembers_iff b m).2 known)

/-- A JOB FAULT seen first is flooded and applied; it names no failed pair (10 R355, R356). -/
theorem faultTake_job (new : ¬∃ e ∈ recentFaults m, e.1 = b.reporter.toNat ∧ e.2.1 = b.serial.toNat) (job : b.type = .job) :
    faultTake b n m =
      let q := each ((upPorts m).filter (· != n)) (fun k => emitFault k b)
        { m with fab := { m.fab with seen := recentFaults m ++ [(b.reporter.toNat, b.serial.toNat, m.now)] } }
      if q.boot.lib then applyFault b q else q := by
  refine (if_neg (mt (remembers_iff b m).1 new)).trans ?_
  dsimp only
  rw [if_neg (c := b.type ≠ .job ∧ _ ∧ _) fun other => other.1 job]
  rfl

end

/-! The commands -/

/-- The command is a control frame, with what it does at a port whose link passes it on. -/
def ControlFrame (rx : Rx) (c : Instr) (k : Nat → Module → Module) : Prop := ∀ s, exec c s = lift (rxCtl rx k) s

theorem controlFrames_are (rx : Rx) (e q : BitVec 16) (sb : StatusB) (fb : FaultB) (nb : FencedB) (r : Bool) (x y : Nat) :
    ∀ c ∈ [Instr.idleReceive rx, .replayReceive rx e, .statusReceive rx sb, .syncReceive rx q x, .followupReceive rx r q x,
        .delayreqReceive rx q x, .delayrespReceive rx q x y, .faultReceive rx fb, .fencedReceive rx nb],
      ∃ k, ControlFrame rx c k := by
  simp only [List.forall_mem_cons, List.not_mem_nil, false_imp_iff, implies_true, and_true]
  exact ⟨⟨_, fun _ => rfl⟩, ⟨_, fun _ => rfl⟩, ⟨_, fun _ => rfl⟩, ⟨_, fun _ => rfl⟩, ⟨_, fun _ => rfl⟩, ⟨_, fun _ => rfl⟩,
    ⟨_, fun _ => rfl⟩, ⟨_, fun _ => rfl⟩, ⟨_, fun _ => rfl⟩⟩

section
variable {rx : Rx} {s : State} (on : s.mod.on = true) (up : (s.mod.port rx.port.val).st = .up) (good : rx.good = true)
  (seq : rx.seq.toNat = (s.mod.port rx.port.val).rxSeq) (auth : rx.auth = true) (key : s.mod.fabKey.isSome = true)
include on up good seq auth key

theorem controlFrame_gives {c : Instr} {k : Nat → Module → Module} {p : Module} (is : ControlFrame rx c k)
    (e : k rx.port.val (gotCtl rx s.mod) = p) : Gives c s p :=
  lift_gives on (is s) ((rxCtl_passes up good seq auth key).trans e)

theorem idleReceive_gives : Gives (.idleReceive rx) s (gotCtl rx s.mod) :=
  lift_gives on rfl (rxUp_passes up good seq auth key)

theorem faultReceive_gives {b : FaultB} {p : Module} (e : faultTake b rx.port.val (gotCtl rx s.mod) = p) :
    Gives (.faultReceive rx b) s p :=
  lift_gives on rfl ((rxUp_passes up good seq auth key).trans e)

theorem statusReceive_gives {b : StatusB} {p : Module} (e : statusTake b rx.port.val (gotCtl rx s.mod) = p) :
    Gives (.statusReceive rx b) s p :=
  controlFrame_gives on up good seq auth key (fun _ => rfl) e

end

/-- Settles O23: each frame that passes by what it does, one that does not by what its link asks for. -/
theorem controlFrames : Obligations.ControlFrames := by
  refine ⟨fun rx s on up good seq auth key => ⟨idleReceive_gives on up good seq auth key, fun e => ?_, fun b => ?_,
      fun b => ?_, fun b => ?_⟩,
    fun rx s e q sb fb nb r x y on up c hc => ?_, fun rx m => ⟨fun miswire => ?_, fun carries => ?_⟩⟩
  · exact controlFrame_gives on up good seq auth key (fun _ => rfl) rfl
  · have gives {p} := statusReceive_gives (b := b) (p := p) on up good seq auth key
    have up' := (gotCtl_st rx s.mod).trans up
    intro q
    have hq : peerNoted b rx.port.val (gotCtl rx s.mod) = q := rfl
    clear_value q
    subst hq
    refine ⟨fun training => gives (statusTake_trains up' training),
      fun runs wrong => gives (statusTake_miswired up' runs wrong), fun runs ok => ⟨fun unloaded => gives ?_,
        fun detour run lib => gives ?_⟩⟩
    · exact (statusTake_wired up' runs ok).trans (detourEnd_unloaded unloaded)
    · exact (statusTake_wired up' runs ok).trans (detourEnd_run run detour lib)
  · intro old
    have hold : recentFaults (gotCtl rx s.mod) = old := rfl
    clear_value old
    subst hold
    exact ⟨fun known => faultReceive_gives on up good seq auth key (faultTake_known known),
      fun new job => faultReceive_gives on up good seq auth key (faultTake_job new job)⟩
  · exact controlFrame_gives on up good seq auth key (fun _ => rfl) rfl
  · obtain ⟨k, is⟩ := controlFrames_are rx e q sb fb nb r x y c hc
    exact ⟨fun bad => lift_gives on (is s) (rxCtl_rejected up bad),
      fun good seq auth => lift_gives on (is s) (rxCtl_unauthentic up good seq auth)⟩
  · rw [rxReject_miswire miswire]
    exact ⟨by simpa using miswire, rfl⟩
  · rw [rxReject_asks carries]
    dsimp only
    generalize (if (m.port rx.port.val).replayAsked.1 = _ then _ else 1) = k
    obtain ⟨st, asked, expects⟩ := asksAgain_port rx k m
    by_cases eighth : 8 ≤ k
    · rw [if_pos eighth, if_pos eighth]
      exact ⟨portDown_st .., fun fewer => absurd eighth (Nat.not_le.2 fewer)⟩
    · rw [if_neg eighth, if_neg eighth]
      exact ⟨st, fun _ => ⟨asked, expects⟩⟩

end Sys2Proof.Machine

namespace Sys2Proof.Machine

open Sys2Proof.Safety

/-! Link times and training (O25; 10 R318, R321, R326, R335, R358) -/

/-! What the commands compare -/

theorem hasPeer_iff (m : Module) (n : Nat) : hasPeer m n = true ↔ axisGet m.topo.lens (n / 2) ≠ 1 := bne_iff_ne

/-- STATUS is due every microsecond, and once in slot 0 of every frame of 16 us (10 Table 10.10). -/
theorem statusDue_iff (m : Module) (p : Port) : statusDue m p = true ↔ p.statusAt = 0 ∨ p.statusAt + 1000 ≤ m.now + 1 ∨
    (m.now % 16000 < 128 ∧ p.statusAt ≤ m.now - m.now % 16000) := by
  have slot0 : slotAt m.now = 0 ↔ m.now % 16000 < 128 := Nat.div_eq_zero_iff_lt (by decide)
  have start (h : m.now % 16000 < 128) : slotStart m.now = m.now - m.now % 16000 := by
    rw [slotStart]
    exact congrArg (m.now - ·) (Nat.mod_eq_of_lt h)
  rw [statusDue, Bool.or_eq_true, Bool.or_eq_true, Bool.and_eq_true, beq_iff_eq, beq_iff_eq, decide_eq_true_iff,
    decide_eq_true_iff, slot0, or_assoc]
  exact or_congr_right (or_congr_right (and_congr_right fun h => by rw [start h]))

/-- The lanes that fail are those of the port among the ones named (10 R321). -/
theorem laneMask_getLsbD (n : Nat) (fail : BitVec 16) {k : Nat} (h : k < 16) :
    (laneMask n fail).getLsbD k = (fail.getLsbD k && decide (k < lanesOf n)) := by
  rw [laneMask, BitVec.getLsbD_and, BitVec.getLsbD_ofNat, Nat.testBit_two_pow_sub_one, decide_eq_true h, Bool.true_and]

theorem lanesOf_le (n : Nat) : lanesOf n ≤ 16 := by
  unfold lanesOf
  split_ifs <;> omega

theorem laneMask_eq_zero (n : Nat) (fail : BitVec 16) :
    laneMask n fail = 0 ↔ ∀ k, k < lanesOf n → fail.getLsbD k = false := by
  constructor
  · intro trained k lane
    have bit := laneMask_getLsbD n fail (lane.trans_le (lanesOf_le n))
    rw [trained] at bit
    simpa [lane] using bit.symm
  · refine fun trained => BitVec.eq_of_getLsbD_eq fun k hk => ?_
    rw [laneMask_getLsbD n fail hk]
    by_cases lane : k < lanesOf n <;> simp [lane, trained]

theorem pstateOf_iff (p : Port) (ps : PState) : pstateOf p = some ps ↔ (p.st = .up ∧ ps = .run) ∨
    (p.st = .miswire ∧ ps = .miswire) ∨ (p.st = .training ∧ p.lanesUp = true ∧ ps = .training) := by
  unfold pstateOf
  cases p.st <;> simp [@eq_comm _ _ ps]

/-! A port that fails to train, and a detour -/

section
variable {m : Module}

theorem ringAxis_ownPair (m p : Module) (n : Nat) : ringAxis m (ownPair p n) = some (axisOf n) := by
  simp [ringAxis, ownPair]

theorem noteFailed_records {p : Pair} {k : Nat} (axis : ringAxis m p = some k) : p ∈ (noteFailed p m).fab.failedPairs := by
  rw [noteFailed, axis]
  dsimp only
  split
  case isTrue known => simpa using known
  case isFalse =>
    have added : p ∈ m.fab.failedPairs ++ [p] := List.mem_append_right _ (List.mem_singleton.2 rfl)
    split
    · simpa only [led_same, toTray_same] using added
    · exact added

/-- An entry of the ledger and a write of a port do not see each other. -/
theorem led_setPort (code sev : Nat) (pl : Place) (data : List Nat) (n : Nat) (x : Port) :
    led code sev pl data (m.setPort n x) = (led code sev pl data m).setPort n x := by
  unfold led toTray irq Module.setPort Module.now
  dsimp only
  split_ifs <;> rfl

theorem setPort_setPort {n : Nat} {x y : Port} (hx : x ≠ Port.init) (hy : y ≠ Port.init) :
    (m.setPort n x).setPort n y = m.setPort n y := by
  simp only [Module.setPort, Sparse.set, if_neg hx, if_neg hy, Sparse.put_put]

/-- The module once the detour of port n is loaded and nothing waits at the port. -/
def detourLoaded (n : Nat) (m : Module) : Module :=
  led 0x0505 sevInfo (atPort n) [n] (m.updPort n fun p => { p with detour := true, oq := [] })

/-- What the port held takes the detour (10 R335). -/
theorem moveHeld_detour (n : Nat) :
    moveHeld n (led 0x0505 sevInfo (atPort n) [n] (m.updPort n fun p => { p with detour := true })) =
      (m.port n).oq.foldl (fun m o => detourTx n o.x o.inp o.since o.own m) (detourLoaded n m) := by
  have detours {p : Port} (h : p.detour = true) : p ≠ Port.init := fun e => by simp [e, Port.init] at h
  simp only [moveHeld, detourLoaded, Module.updPort_eq, led_parts, Module.setPort_port, if_true]
  rw [← led_setPort, setPort_setPort (detours rfl) (detours rfl)]

end

/-! A command whose outcome a condition decides -/

section
variable {c : Instr} {s : State} {p : Prop} [Decidable p] {a b : Module} (gives : Gives c s (if p then a else b))
include gives

theorem gives_of_pos (h : p) : Gives c s a := by rwa [if_pos h] at gives

theorem gives_of_neg (h : ¬p) : Gives c s b := by rwa [if_neg h] at gives

end

/-! The commands of a port -/

section
variable {s : State} (on : s.mod.on = true) {port : PortNo}
include on

section
variable (carries : (s.mod.port port.val).st = .up ∨ (s.mod.port port.val).st = .miswire)

theorem linkSilenceTimeout_early (early : s.mod.now < (s.mod.port port.val).lastRx + 500) :
    Gives (.linkSilenceTimeout port) s s.mod :=
  lift_gives on rfl (if_neg fun h => Nat.not_le.2 early h.2)

include carries

theorem linkSilenceTimeout_late (late : (s.mod.port port.val).lastRx + 500 ≤ s.mod.now) :
    Gives (.linkSilenceTimeout port) s (portDown port.val 0 s.mod) := lift_gives on rfl (if_pos ⟨carries, late⟩)

theorem fecAlignmentLoss_down {lane : BitVec 4} (own : lane.toNat < lanesOf port.val) :
    Gives (.fecAlignmentLoss port lane) s (portDown port.val 1 s.mod) := lift_gives on rfl (if_pos ⟨carries, own⟩)

end

theorem trainingAttempt_begins (down : (s.mod.port port.val).st = .down ∨ (s.mod.port port.val).st = .peerFenced)
    (peer : axisGet s.mod.topo.lens (port.val / 2) ≠ 1) : Gives (.trainingAttempt port) s
      (s.mod.updPort port.val fun p => { p with st := .training, lanesUp := false }) :=
  lift_gives on rfl (if_pos ⟨down, (hasPeer_iff ..).2 peer⟩)

section
variable (training : (s.mod.port port.val).st = .training) (lanes : (s.mod.port port.val).lanesUp = false)
include training lanes

theorem trainingEnd_gives (fail : BitVec 16) : Gives (.trainingEnd port fail) s
    (if laneMask port.val fail = 0 then
      s.mod.updPort port.val fun p => linkFresh port.val s.mod.now { p with lanefail := 0, firstDone := true }
    else
      noteFailed (ownPair s.mod port.val) (led 0x0501 sevWarn (atPort port.val)
        [port.val, 4, (laneMask port.val fail).toNat]
        (s.mod.updPort port.val fun p => { p with st := .down, lanefail := laneMask port.val fail, firstDone := true }))) := by
  have waits : ¬((s.mod.port port.val).st ≠ .training ∨ (s.mod.port port.val).lanesUp = true) := by simp [training, lanes]
  change execTrainingEnd port fail s = _
  rw [execTrainingEnd, lift_on on]
  dsimp only
  rw [if_neg waits]

/-- A lane of the port fails: the port is DOWN, with its failed lanes and its pair recorded (10 R321). -/
theorem trainingEnd_fails {fail : BitVec 16} (fails : ∃ k, k < lanesOf port.val ∧ fail.getLsbD k = true) :
    ∃ q, Gives (.trainingEnd port fail) s q ∧ (q.port port.val).st = .down ∧
      ownPair s.mod port.val ∈ q.fab.failedPairs ∧
      ∀ k, k < 16 → (q.port port.val).lanefail.getLsbD k = (fail.getLsbD k && decide (k < lanesOf port.val)) := by
  have failed : laneMask port.val fail ≠ 0 := by
    obtain ⟨k, lane, bit⟩ := fails
    intro trained
    rw [(laneMask_eq_zero ..).1 trained k lane] at bit
    exact Bool.false_ne_true bit
  have gives := trainingEnd_gives on training lanes fail
  rw [if_neg failed] at gives
  refine ⟨_, gives, ?_, ?_, fun k hk => ?_⟩
  · simp [noteFailed_port]
  · exact noteFailed_records (ringAxis_ownPair ..)
  · rw [← laneMask_getLsbD _ _ hk]
    simp [noteFailed_port]

end

section
variable (up : (s.mod.port port.val).st = .up)

theorem idleSend_early (early : s.mod.now < (s.mod.port port.val).lastTx + 250) : Gives (.idleSend port) s s.mod :=
  lift_gives on rfl (if_neg fun h => Nat.not_le.2 early h.2)

include up

theorem idleSend_late (late : (s.mod.port port.val).lastTx + 250 ≤ s.mod.now) :
    Gives (.idleSend port) s (emitCtl port.val .idle s.mod) := lift_gives on rfl (if_pos ⟨up, late⟩)

end

theorem statusSend_gives {ps : PState} (sends : pstateOf (s.mod.port port.val) = some ps) : Gives (.statusSend port) s
    (if statusDue s.mod (s.mod.port port.val) then
      emitCtl port.val (.status (statusOf s.mod port ps))
        (s.mod.updPort port.val fun p => { p with statusAt := s.mod.now + 1 })
    else s.mod) := by
  change execStatusSend port s = _
  rw [execStatusSend, lift_on on]
  dsimp only
  rw [sends]

theorem fencedSend_gives (fencing : (s.mod.port port.val).st = .fencing) :
    let p := s.mod.port port.val
    Gives (.fencedSend port) s
      (if (p.lastTx < s.mod.lease.fencedAt ∨ p.lastTx + 1000 ≤ s.mod.now) ∧ 2 ≤ Sparse.get 0 p.credit 6 then
        emitVc port.val 6 (.fenced
          { modnum := ownNum s.mod, inc := s.mod.lease.inc, fstamp := s.mod.lease.fencedAt }) s.mod
      else s.mod) := by
  have credits (b : FencedB) : hasCredit s.mod port.val 6 (.fenced b) = true ↔
      2 ≤ Sparse.get 0 (s.mod.port port.val).credit 6 := by
    have takes : creditsOf (.fenced b) = 2 := by simp [creditsOf, frameBytes]
    rw [hasCredit, decide_eq_true_iff, takes]
  refine lift_gives on rfl (if_congr ?_ rfl rfl)
  rw [credits, and_iff_right fencing, and_comm]
  rfl

theorem detourLoad_gives (lib : s.mod.boot.lib = true)
    (down : (s.mod.port port.val).st = .down ∨ (s.mod.port port.val).st = .peerFenced)
    (unloaded : (s.mod.port port.val).detour = false) (peer : axisGet s.mod.topo.lens (port.val / 2) ≠ 1) :
    Gives (.detourLoad port) s ((s.mod.port port.val).oq.foldl
      (fun m o => detourTx port.val o.x o.inp o.since o.own m) (detourLoaded port.val s.mod)) :=
  liftL_gives on lib rfl ((if_pos ⟨down, unloaded, (hasPeer_iff ..).2 peer⟩).trans (moveHeld_detour port.val))

end

/-! The port dies' time-outs (10 R348, R349) -/

section
variable {s : State} (on : s.mod.on = true) {pd1 : Bool} {i : Nat}
include on

theorem reductionSlotExpire_gives {r : RSlot} (opened : (s.mod.pd (if pd1 then 1 else 0)).slots[i]? = some r) :
    let d := if pd1 then 1 else 0
    Gives (.reductionSlotExpire pd1 i) s
      (if s.mod.now < r.opened + 2000000 then s.mod
      else led 0x050A sevWarn (atPort (Config.ledgerNo 0x050A d)) [r.job.toNat, r.coll.group.toNat, r.coll.cser.toNat, r.contrib]
        (s.mod.updPd d fun p => { p with slots := p.slots.eraseIdx i })) := by
  change execReductionSlotExpire pd1 i s = _
  rw [execReductionSlotExpire, lift_on on]
  dsimp only
  rw [opened]
  rfl

theorem combinedAckTimeout_gives {k : Comb} {t : Nat} (waits : (s.mod.pd (if pd1 then 1 else 0)).combs[i]? = some k)
    (sent : k.sent = some t) :
    let d := if pd1 then 1 else 0
    Gives (.combinedAckTimeout pd1 i) s
      (if s.mod.now < t + 2000000 then s.mod
      else led 0x0509 sevWarn (atPort (Config.ledgerNo 0x0509 d))
        [k.x.job.toNat, k.x.coll.group.toNat, k.x.coll.cser.toNat, k.x.coll.shidx.toNat]
        (s.mod.updPd d fun p =>
          { p with combs := p.combs.eraseIdx i, unittmo := Nat.min (2 ^ 32 - 1) (p.unittmo + 1) })) := by
  change execCombinedAckTimeout pd1 i s = _
  rw [execCombinedAckTimeout, lift_on on]
  dsimp only
  rw [waits]
  dsimp only
  rw [sent]
  rfl

end

/-- Settles O25: each command by whether its time has come, the end of training by whether a lane failed, a detour by what the
port held. -/
theorem linkAndReductionTimeouts : Obligations.LinkAndReductionTimeouts := by
  refine ⟨fun port s on => ⟨fun carries => ⟨linkSilenceTimeout_late on carries, linkSilenceTimeout_early on,
      fun lane own => fecAlignmentLoss_down on carries own⟩, trainingAttempt_begins on,
      fun training lanes fail => ⟨fun trained => ?_, trainingEnd_fails on training lanes⟩,
      fun up => ⟨idleSend_late on up, idleSend_early on⟩, fun ps sends => ⟨fun due => ?_, fun early => ?_⟩,
      fun fencing => ⟨fun due => ?_, fun early => ?_⟩, fun lib down unloaded empty peer => ?_,
      fun o lib down unloaded held peer => ?_⟩,
    fun pd1 i s on => ⟨fun r opened => ⟨fun early => ?_, fun late => ?_⟩,
      fun k t waits sent => ⟨fun early => ?_, fun late => ?_⟩⟩⟩
  · exact gives_of_pos (trainingEnd_gives on training lanes fail) ((laneMask_eq_zero ..).2 trained)
  · exact gives_of_pos (statusSend_gives on ((pstateOf_iff ..).2 sends)) ((statusDue_iff ..).2 due)
  · exact gives_of_neg (statusSend_gives on ((pstateOf_iff ..).2 sends)) (mt (statusDue_iff ..).1 early)
  · exact gives_of_pos (fencedSend_gives on fencing) due
  · exact gives_of_neg (fencedSend_gives on fencing) early
  · have gives := detourLoad_gives on lib down unloaded peer
    rwa [empty] at gives
  · have gives := detourLoad_gives on lib down unloaded peer
    rwa [held] at gives
  · exact gives_of_pos (reductionSlotExpire_gives on opened) early
  · exact gives_of_neg (reductionSlotExpire_gives on opened) (Nat.not_lt.2 late)
  · exact gives_of_pos (combinedAckTimeout_gives on waits sent) early
  · exact gives_of_neg (combinedAckTimeout_gives on waits sent) (Nat.not_lt.2 late)

end Sys2Proof.Machine

namespace Sys2Proof.Machine

open Sys2Proof.Safety

/-! Editions and the bounds of the Reserves (O44; 11 R362, R372 to R379) -/

section
variable {s : State} (on : s.mod.on = true) (lib : s.mod.boot.lib = true)
include on lib

/-- A register write whose writer reaches the running Librarian. -/
theorem liftW_gives {c : Instr} {w : By} {k : Module → Module} {p : Module} (is : exec c s = liftW w k s)
    (up : reaches s.mod w = true) (e : k s.mod = p) : Gives c s p :=
  liftL_gives on lib is ((if_pos up).trans e)

/-- A write of a register of a context that its writer sees, at a state the register takes. -/
theorem ctxWrite_gives {c : Instr} {w : By} {slot off v : Nat} {ok : Ctx → Bool} {f : Module → Module} {p : Module}
    (is : exec c s = liftW w (onCtx w slot off v ok f) s) (up : reaches s.mod w = true)
    (sees : seesCtx s.mod w slot = true) (present : (s.mod.ctx slot).state ≠ .free)
    (takes : ok (s.mod.ctx slot) = true) (e : f s.mod = p) : Gives c s p :=
  liftW_gives on lib is up ((onCtx_takes sees present takes).trans e)

end

/-! Binding from an entry of the edition table (R372, R373) -/

theorem bindFrom_invalid {bs : List (Byte × Bool)} (invalid : edValid bs = false) (slot i : Nat) (t : Tensor)
    (m : Module) : bindFrom slot i t bs m = updTensor slot i (fun _ => Tensor.unbound) m :=
  if_pos (by simp [invalid])

theorem bindFrom_valid {slot i : Nat} {t : Tensor} {bs : List (Byte × Bool)} {m : Module} (valid : edValid bs = true)
    (room : bindingsOf (m.ctx slot) i (t.placed bs).stage (t.placed bs).layer < 8) :
    bindFrom slot i t bs m = updTensor slot i (fun _ => t.placed bs) m := by
  rw [bindFrom, if_neg (by simp [valid])]
  exact if_neg (Nat.not_le.2 room)

section
variable {s : State} (on : s.mod.on = true) (lib : s.mod.boot.lib = true)
include on lib

section
variable {w : By} {slot : BitVec 6} {k : BitVec 10} (up : reaches s.mod w = true)
  (sees : seesCtx s.mod w slot.toNat = true) (present : (s.mod.ctx slot.toNat).state ≠ .free)
include up sees present

theorem edbind_binds {p q : Module} {bs : List (Byte × Bool)}
    (idle : ((s.mod.ctx slot.toNat).tensor k.toNat).busy = false) (entry : edEntry slot.toNat k.toNat s.mod = (p, bs))
    (e : bindFrom slot.toNat k.toNat Tensor.unbound bs p = q) : Gives (.edbind w slot k) s q :=
  ctxWrite_gives on lib rfl up sees present rfl (by rw [if_neg (by simp [idle]), entry, e])

theorem edbind_busy (busy : ((s.mod.ctx slot.toNat).tensor k.toNat).busy = true) :
    Gives (.edbind w slot k) s (bindRefused slot.toNat k.toNat 2 s.mod) :=
  ctxWrite_gives on lib rfl up sees present rfl (if_pos busy)

/-! Claims and publications under OFF (R376 to R378) -/

section
variable (off : (s.mod.ctx slot.toNat).sched.mode = 0)
include off

theorem edclaim_claims (claimable : ((s.mod.ctx slot.toNat).tensor k.toNat).claimable = true)
    (first : ((s.mod.ctx slot.toNat).tensor k.toNat).waiting = []) (c : CtrNo) :
    Gives (.edclaim w slot c k) s
      (addCtr slot.toNat c 1 (updTensor slot.toNat k.toNat (fun t => { t with claimed := true }) s.mod)) :=
  ctxWrite_gives on lib rfl up sees present (beq_iff_eq.2 off) (if_pos (by simp [claimable, first]))

theorem edclaim_waits (waits : ((s.mod.ctx slot.toNat).tensor k.toNat).claimable = false ∨
    ((s.mod.ctx slot.toNat).tensor k.toNat).waiting ≠ []) (c : CtrNo) :
    Gives (.edclaim w slot c k) s
      (updTensor slot.toNat k.toNat (fun t => { t with waiting := t.waiting ++ [c] }) s.mod) :=
  ctxWrite_gives on lib rfl up sees present (beq_iff_eq.2 off)
    (if_neg (by rcases waits with blocked | behind <;> simp [*]))

theorem edpub_publishes (claimed : ((s.mod.ctx slot.toNat).tensor k.toNat).claimed = true) :
    Gives (.edpub w slot k) s (updTensor slot.toNat k.toNat Tensor.publish s.mod) :=
  ctxWrite_gives on lib rfl up sees present (beq_iff_eq.2 off) (if_pos claimed)

theorem edpub_refused (unclaimed : ((s.mod.ctx slot.toNat).tensor k.toNat).claimed = false) :
    Gives (.edpub w slot k) s (led 0x0703 sevWarn (atCtx s.mod slot.toNat) [k.toNat] s.mod) :=
  ctxWrite_gives on lib rfl up sees present (beq_iff_eq.2 off) (if_neg (by simp [unclaimed]))

end

/-- RSVHWM with every bit of its field written as 1: the field has 44 bits, so none of the mark stays. -/
theorem rsvhwmClear_gives (g : BitVec 4) : Gives (.rsvhwmClear w slot g) s
    (updRsv slot.toNat g.toNat (fun r => { r with hwm := 0 }) s.mod) := by
  have cleared (n : Nat) : (BitVec.ofNat 44 n &&& ~~~((0xFFFFFFFFFFF : Word).extractLsb' 0 44)).toNat = 0 := by
    rw [show ~~~((0xFFFFFFFFFFF : Word).extractLsb' 0 44) = 0#44 by decide, BitVec.and_zero]
    rfl
  exact ctxWrite_gives on lib rfl up sees present rfl (by simp only [cleared])

end

section
variable {slot : BitVec 6} {k : BitVec 10} {c : CtrNo} {cs : List CtrNo}
  (waiting : ((s.mod.ctx slot.toNat).tensor k.toNat).waiting = c :: cs)
include waiting

theorem claimGrant_grants (claimable : ((s.mod.ctx slot.toNat).tensor k.toNat).claimable = true) :
    Gives (.claimGrant slot k) s (addCtr slot.toNat c 1
      (updTensor slot.toNat k.toNat (fun t => { t with claimed := true, waiting := cs }) s.mod)) :=
  liftL_gives on lib rfl (by simp only [claimGrant, waiting, if_pos claimable])

theorem claimGrant_waits (blocked : ((s.mod.ctx slot.toNat).tensor k.toNat).claimable = false) :
    Gives (.claimGrant slot k) s s.mod :=
  liftL_gives on lib rfl (by simp [claimGrant, waiting, blocked])

end

/-! Bounds of a Reserve (R362; 18 Table 18.7) -/

section
variable {f : Fn} {slot : BitVec 6} {g : BitVec 4} {v : Word} (up : hostUp s.mod f.val = true)
  (sees : seesCtx s.mod (some f) slot.toNat = true) (present : (s.mod.ctx slot.toNat).state ≠ .free)
  (fits : v.toNat < 2 ^ 44)
include up sees present fits

/-- A write of a bound with no bit outside its field. -/
theorem rsvboundWrite_gives (lim : Bool) : Gives (.rsvboundWrite f slot g lim v) s
    (if ((s.mod.ctx slot.toNat).rsvAt g.toNat).dir = [] then
      updRsv slot.toNat g.toNat (fun r =>
        if lim then { r with lim := v.toNat / 65536 * 65536 }
        else { r with base := v.toNat / 65536 * 65536, top := v.toNat / 65536 * 65536 }) s.mod
    else led 0x0701 sevWarn (atCtx s.mod slot.toNat) [g.toNat, v.toNat] s.mod) := by
  have inField : v &&& ~~~0xFFFFFFFFFFF = 0 := and_not_low_eq_zero (n := 44) fits
  refine liftW_gives on lib rfl up ?_
  rw [if_pos sees, rsvOk, if_neg (not_not.2 inField), rsvBound, onCtx_takes sees present rfl, field_window fits]
  by_cases empty : ((s.mod.ctx slot.toNat).rsvAt g.toNat).dir = [] <;> simp [empty]

end

end

/-- Settles O44, command by command. -/
theorem editionsAndReserves : Obligations.EditionsAndReserves := by
  intro slot s on lib m i x upd present
  refine ⟨fun w k up sees => ⟨fun p bs idle entry => ?_, edbind_busy on lib up sees present, fun off => ?_⟩,
    fun k c cs waiting => ⟨claimGrant_grants on lib waiting, claimGrant_waits on lib waiting⟩,
    fun f g v up sees fits => ⟨fun empty => ?_, fun held b => ?_, fun w reader _ => ?_⟩⟩
  · have binds {q : Module} := edbind_binds (q := q) on lib up sees present idle entry
    exact ⟨fun invalid => binds (bindFrom_invalid invalid ..), fun valid room => binds (bindFrom_valid valid room)⟩
  · exact ⟨fun c => ⟨fun claimable first => edclaim_claims on lib up sees present off claimable first c,
      fun waits => edclaim_waits on lib up sees present off waits c⟩,
      edpub_publishes on lib up sees present off, edpub_refused on lib up sees present off⟩
  · have base := rsvboundWrite_gives (g := g) on lib up sees present fits false
    have limit := rsvboundWrite_gives (g := g) on lib up sees present fits true
    rw [if_pos empty] at base limit
    exact ⟨base, limit⟩
  · have writes := rsvboundWrite_gives (g := g) on lib up sees present fits b
    rwa [if_neg held] at writes
  · obtain ⟨seen, reached⟩ : seesCtx s.mod w i = true ∧ reaches s.mod w = true := by
      rcases List.mem_pair.1 reader with rfl | rfl
      · exact ⟨rfl, rfl⟩
      · exact ⟨sees, up⟩
    exact rsvhwmClear_gives on lib reached seen present g

end Sys2Proof.Machine

namespace Sys2Proof.Machine

open Sys2Proof.Safety

/-! Units, modes and variants (O43; 11 R380 to R400; 14 R453) -/

/-! What the operations of the scheduler do to their context -/

section
variable (slot : Nat) (m : Module)

theorem updSched_ctx (f : Sched → Sched) :
    (updSched slot f m).ctx slot = { m.ctx slot with sched := f (m.ctx slot).sched } := by
  rw [updSched, Module.updCtx_eq, Module.setCtx_ctx, if_pos rfl]

theorem updStage_ctx (g : Nat) (f : Stage → Stage) : (updStage slot g f m).ctx slot =
    { m.ctx slot with sched :=
      { (m.ctx slot).sched with stages := Sparse.upd Stage.init (m.ctx slot).sched.stages g f } } := by
  rw [updStage, Module.updCtx_eq, Module.setCtx_ctx, if_pos rfl]

theorem updStage_stage (g k : Nat) (f : Stage → Stage) : ((updStage slot g f m).ctx slot).stage k =
    if k = g then f ((m.ctx slot).stage g) else (m.ctx slot).stage k := by
  rw [updStage_ctx]
  exact Sparse.get_upd ..

theorem updStage_unitSt (g : Nat) (f : Stage → Stage) (u : PUnit) :
    unitSt ((updStage slot g f m).ctx slot) u = unitSt (m.ctx slot) u := by
  rw [updStage_ctx]
  rfl

theorem markUnit_stage (i : Nat) (st : UnitSt) (k : Nat) :
    ((markUnit slot i st m).ctx slot).stage k = (m.ctx slot).stage k := by
  rw [markUnit, updSched_ctx]
  rfl

theorem markUnit_unitSt (i : Nat) (st : UnitSt) (u : PUnit) :
    unitSt ((markUnit slot i st m).ctx slot) u = if u.idx = i then st else unitSt (m.ctx slot) u := by
  rw [markUnit, updSched_ctx]
  exact Sparse.get_set ..

theorem addCtr_ctx (c : CtrNo) (v : W32) : (addCtr slot c v m).ctx slot =
    { m.ctx slot with ctrs := Sparse.upd 0 (m.ctx slot).ctrs c.toNat (· + v) } := by
  rw [addCtr, Module.updCtx_eq, Module.setCtx_ctx, if_pos rfl]

theorem addCtr_stage (c : CtrNo) (v : W32) (k : Nat) :
    ((addCtr slot c v m).ctx slot).stage k = (m.ctx slot).stage k := by
  rw [addCtr_ctx]
  rfl

end

/-! What is kept where stages turn, or a counter goes up -/

/-- The second context has the step number, the units and the running units of the first. -/
structure SameUnits (x y : Ctx) : Prop where
  stepnum : y.stepnum = x.stepnum
  units : y.sched.units = x.sched.units
  running : ∀ g, (y.stage g).running = (x.stage g).running

theorem SameUnits.refl (x : Ctx) : SameUnits x x := ⟨rfl, rfl, fun _ => rfl⟩

theorem SameUnits.trans {x y z : Ctx} (h : SameUnits x y) (k : SameUnits y z) : SameUnits x z :=
  ⟨k.stepnum.trans h.stepnum, k.units.trans h.units, fun g => (k.running g).trans (h.running g)⟩

theorem SameUnits.unitSt {x y : Ctx} (h : SameUnits x y) (u : PUnit) : unitSt y u = unitSt x u := by
  rw [Machine.unitSt, h.units, Machine.unitSt]

section
variable {slot : Nat} {m : Module}

theorem addCtr_sameUnits (c : CtrNo) (v : W32) : SameUnits (m.ctx slot) ((addCtr slot c v m).ctx slot) := by
  rw [addCtr_ctx]
  exact ⟨rfl, rfl, fun _ => rfl⟩

theorem bumpDone_sameUnits (u : PUnit) : SameUnits (m.ctx slot) ((bumpDone slot u m).ctx slot) := by
  unfold bumpDone bumpCtr
  split
  · exact addCtr_sameUnits ..
  · exact .refl _

/-- A change of a stage that leaves its running unit. -/
theorem updStage_sameUnits {f : Stage → Stage} (keeps : ∀ g, (f g).running = g.running) (k : Nat) :
    SameUnits (m.ctx slot) ((updStage slot k f m).ctx slot) where
  stepnum := by rw [updStage_ctx]
  units := by rw [updStage_ctx]
  running g := by
    rw [updStage_stage]
    split
    next same => rw [keeps, same]
    next => rfl

theorem sendTurn_sameUnits (k : Nat) : SameUnits (m.ctx slot) ((sendTurn slot k m).ctx slot) := by
  unfold sendTurn
  dsimp only
  split_ifs
  · exact .refl _
  · exact addCtr_sameUnits ..
  · simp only [request_parts]
    exact .refl _

theorem maybeTurn_sameUnits (plan : List PUnit) (k : Nat) :
    SameUnits (m.ctx slot) ((maybeTurn slot plan k m).ctx slot) := by
  unfold maybeTurn
  split
  · refine .trans (updStage_sameUnits (fun g => ?_) k) (sendTurn_sameUnits k)
    rfl
  · exact .refl _

theorem turnAll_sameUnits (plan : List PUnit) (n : Nat) :
    SameUnits (m.ctx slot) ((turnAll slot plan n m).ctx slot) := by
  induction n generalizing m with
  | zero => exact .refl _
  | succ n ih =>
    exact (foldl_keeps (I := fun p => SameUnits (m.ctx slot) (p.ctx slot))
      (fun p k h => h.trans (maybeTurn_sameUnits plan k)) (upTo 16) (.refl _)).trans ih

/-- Where no stage turns, turning changes nothing. -/
theorem turnAll_none {plan : List PUnit} (stay : ∀ k < 16, turns (m.ctx slot) plan k = none) (n : Nat) :
    turnAll slot plan n m = m := by
  have round : (upTo 16).foldl (fun m k => maybeTurn slot plan k m) m = m :=
    List.foldlRecOn (motive := (· = m)) (upTo 16) _ rfl fun p same k inside => by
      rw [same, maybeTurn, stay k (List.mem_range.1 inside)]
  induction n with
  | zero => rfl
  | succ n ih => rw [turnAll, round, ih]

end

/-! Dispatch (R383) -/

theorem runLib_ok {α : Type} {slot : Nat} {w : EngM α} {k : α → Module → Module} {a : α} {m p : Module}
    (run : w.run m = (.ok a, p)) : runLib slot w k m = k a p := by
  rw [runLib, run]

/-- A stage with its unit dispatched. -/
def Stage.dispatched (i now : Nat) (g : Stage) : Stage := { g with running := some (i, now), count := g.count + 1 }

/-- The module once a unit's dispatch entry is written: the stage runs the unit, and its counter c goes up. -/
def dispatched (slot : Nat) (c : CtrNo) (u : PUnit) (m : Module) : Module :=
  addCtr slot c 1 (markUnit slot u.idx .running (updStage slot u.stage (Stage.dispatched u.idx m.now) m))

/-- A unit with no tensors and no demand on a Reserve is dispatched once its entry is written. -/
theorem dispatch_writes {slot : Nat} {plan : List PUnit} {u : PUnit} {p r : Module} (plain : keeps (p.ctx slot) u = false)
    (tensors : u.tens = []) (kind : u.kind ≠ 0)
    (wrote : (writeLocal slot noCore none
      (((p.ctx slot).stage u.stage).cfg0 + BitVec.ofNat 64 (8 * (((p.ctx slot).stage u.stage).count % 16)))
      ((leBytes 8 (u.idx * 2 ^ 52)).map fun b => wb b false)).run p = (.ok (), r)) :
    dispatch slot plan u p = dispatched slot (((p.ctx slot).stage u.stage).cfg1.extractLsb' 9 9) u r := by
  have word : dispatchWord u false = u.idx * 2 ^ 52 := Nat.add_zero _
  simp only [dispatch, plain, word]
  rw [runLib_ok wrote]
  simp only [tensors, List.foldl_nil, kind, false_and, if_false]
  rfl

theorem dispatched_stage (slot : Nat) (c : CtrNo) (u : PUnit) (m : Module) :
    ((dispatched slot c u m).ctx slot).stage u.stage = Stage.dispatched u.idx m.now ((m.ctx slot).stage u.stage) := by
  rw [dispatched, addCtr_stage, markUnit_stage, updStage_stage, if_pos rfl]

theorem dispatched_unitSt (slot : Nat) (c : CtrNo) (u : PUnit) (m : Module) (v : PUnit) :
    unitSt ((dispatched slot c u m).ctx slot) v = if v.idx = u.idx then .running else unitSt (m.ctx slot) v := by
  rw [dispatched, (addCtr_sameUnits ..).unitSt, markUnit_unitSt, updStage_unitSt]

/-! Completion (R384, R388) -/

theorem normCheck_noNorm {plan : List PUnit} (noNorm : ∀ y ∈ plan, y.norm = false) (slot : Nat) (m : Module) :
    normCheck slot plan m = m := by
  have none : plan.any (·.norm) = false := List.any_eq_false.2 fun y inside => by simp [noNorm y inside]
  simp [normCheck, none]

/-- An update unit with no tensors completes in a plan without NORM units. -/
theorem finishUnit_update {slot : Nat} {plan : List PUnit} {u : PUnit} {m : Module} (kind : u.kind = 2)
    (tensors : u.tens = []) (noNorm : ∀ y ∈ plan, y.norm = false) (t0 : Nat) :
    finishUnit slot plan u t0 m = bumpDone slot u (markUnit slot u.idx .done
      (updStage slot u.stage (fun g => { g with running := none }) m)) := by
  simp [finishUnit, kind, tensors, normCheck_noNorm noNorm]

/-- What an update unit that completes leaves, whatever turns then (R383). -/
theorem finishUnit_ctx {slot : Nat} {plan : List PUnit} {u : PUnit} {p q : Module} (kind : u.kind = 2)
    (tensors : u.tens = []) (noNorm : ∀ y ∈ plan, y.norm = false) (t0 : Nat)
    (after : SameUnits ((finishUnit slot plan u t0 p).ctx slot) (q.ctx slot)) :
    ((q.ctx slot).stage u.stage).running = none ∧ (q.ctx slot).stepnum = (p.ctx slot).stepnum ∧
      ∀ v : PUnit, unitSt (q.ctx slot) v = if v.idx = u.idx then .done else unitSt (p.ctx slot) v := by
  rw [finishUnit_update kind tensors noNorm] at after
  have done := (bumpDone_sameUnits u).trans after
  refine ⟨?_, ?_, fun v => ?_⟩
  · rw [done.running, markUnit_stage, updStage_stage, if_pos rfl]
  · rw [done.stepnum, markUnit, updSched_ctx, updStage_ctx]
  · rw [done.unitSt, markUnit_unitSt, updStage_unitSt]

/-- The step goes on while a unit of its plan waits. -/
theorem stepEnd_waits {slot : Nat} {plan : List PUnit} {v : PUnit} {m : Module} (inside : v ∈ plan)
    (waits : unitSt (m.ctx slot) v = .waiting) : stepEnd slot plan m = m := by
  have unsettled : plan.all (isSettled (m.ctx slot)) = false :=
    List.all_eq_false.2 ⟨v, inside, by simp [isSettled, waits]⟩
  exact if_pos (by simp [unsettled])

theorem parseReports_length (n : Nat) (bs : List Byte) : (parseReports n bs).length = n := by
  induction n generalizing bs with
  | zero => rfl
  | succ n ih => rw [parseReports, List.length_cons, ih]

/-- Reports of the step before the present one that name no straggler and ask for no other variant are only marked as
evaluated. -/
theorem evaluate_keeps {slot : Nat} {rs : List Report} {m : Module} (reported : rs ≠ [])
    (fresh : ∀ r ∈ rs, r.step + 1 = (m.ctx slot).stepnum.toNat) (level : stragglers (m.ctx slot) rs = [])
    (stays : chooseVariant (m.ctx slot) rs = none) : evaluate slot rs m =
      updSched slot (fun d => { d with evald := (m.ctx slot).stepnum.toNat + 1 }) m := by
  have all : rs.all (fun r => r.step + 1 == (m.ctx slot).stepnum.toNat) = true := by simpa using fresh
  rw [evaluate, if_neg (by simp [reported, all])]
  simp only [level, stays, List.foldl_nil]

section
variable {s : State} (on : s.mod.on = true) (lib : s.mod.boot.lib = true)
include on lib

section
variable {slot : BitVec 6}

theorem unitDispatch_holds (g : BitVec 4) (held : mayDispatch (s.mod.ctx slot.toNat) = false) :
    Gives (.unitDispatch slot g) s s.mod :=
  liftL_gives on lib rfl (if_pos (by simp [held]))

theorem unitDispatch_dispatches {g : BitVec 4} {plan : List PUnit} {p : Module} {u : PUnit}
    (may : mayDispatch (s.mod.ctx slot.toNat) = true) (reads : (planM slot.toNat).run s.mod = (.ok plan, p))
    (stay : ∀ k < 16, turns (p.ctx slot.toNat) plan k = none) (choice : choices (p.ctx slot.toNat) plan g.toNat = [u]) :
    Gives (.unitDispatch slot g) s (dispatch slot.toNat plan u p) := by
  refine liftL_gives on lib rfl ?_
  rw [unitDispatch, if_neg (by simp [may]), runLib_ok reads]
  simp only [turnAll_none stay, choice]

theorem unitdone_finishes {w : By} {k : BitVec 12} {g t0 : Nat} {plan : List PUnit} {p : Module} {u : PUnit}
    (up : reaches s.mod w = true) (sees : seesCtx s.mod w slot.toNat = true)
    (present : (s.mod.ctx slot.toNat).state ≠ .free) (runs : runningStage (s.mod.ctx slot.toNat) k.toNat = some (g, t0))
    (reads : (planM slot.toNat).run s.mod = (.ok plan, p)) (found : plan.find? (fun u => u.idx == k.toNat) = some u) :
    ∃ q, SameUnits ((finishUnit slot.toNat plan u t0 p).ctx slot.toNat) (q.ctx slot.toNat) ∧
      Gives (.unitdone w slot k) s (stepEnd slot.toNat plan q) := by
  refine ⟨_, ?_, ctxWrite_gives on lib rfl up sees present rfl (by simp only [runs, runLib_ok reads, found]; rfl)⟩
  split
  · exact turnAll_sameUnits plan 16
  · exact .refl _

/-! The start of a step (14 R453) -/

theorem stepStart_starts (running : (s.mod.ctx slot.toNat).state = .running) (held : (s.mod.ctx slot.toNat).held = true)
    (hold : (s.mod.ctx slot.toNat).bm.hold = false)
    (due : stepStart (s.mod.ctx slot.toNat) (s.mod.ctx slot.toNat).stepnum.toNat ≤ s.mod.now) :
    Gives (.stepStart slot) s (progress slot.toNat (updSched slot.toNat (fun d => { d with started := true }) s.mod)) :=
  liftL_gives on lib rfl (if_pos ⟨running, held, by simp [hold], due⟩)

/-! Modes and variants (R380, R396 to R400) -/

section
variable {f : Fn} (up : hostUp s.mod f.val = true) (sees : seesCtx s.mod (some f) slot.toNat = true)
  (quiet : (s.mod.ctx slot.toNat).state = .created ∨ (s.mod.ctx slot.toNat).state = .idle)
include up sees quiet

theorem quietWrite_gives {c : Instr} {off v : Nat} {h : Sched → Sched} {k : Module → Module}
    (is : exec c s = liftW (some f) k s) (writes : k s.mod = quietWrite (some f) slot.toNat off v true h s.mod) :
    Gives c s (updSched slot.toNat h s.mod) := by
  have present : (s.mod.ctx slot.toNat).state ≠ .free := by rcases quiet with h | h <;> simp [h]
  refine liftW_gives on lib is up (writes.trans ?_)
  rw [quietWrite, onCtx_takes sees present rfl, if_pos (by simpa [Ctx.quiet] using quiet)]

theorem varcurWrite_gives (v : BitVec 2) :
    Gives (.varcurWrite f slot v) s (updSched slot.toNat (fun d => d.setVar v.toNat) s.mod) :=
  quietWrite_gives on lib up sees quiet rfl rfl

theorem schedmodeWrite_gives {v : BitVec 2} (named : v ≠ 3) (fixed : v = 1 → catOn s.mod 5 = true)
    (dataflow : v = 2 → catOn s.mod 6 = true) :
    Gives (.schedmodeWrite f slot v) s (updSched slot.toNat (fun d => { d with mode := v.toNat }) s.mod) := by
  have modes : ∀ v : BitVec 2, v ≠ 3 → v = 0 ∨ v = 1 ∨ v = 2 := by decide
  refine quietWrite_gives (off := offSchedmode) (v := v.toNat) on lib up sees quiet rfl ?_
  rcases modes v named with rfl | rfl | rfl
  · rfl
  · simp [writeMode, fixed rfl]
  · simp [writeMode, dataflow rfl]

end

/-! Variants (R397 to R400) -/

theorem variantEvaluate_keeps {bs : List (Byte × Bool)} {p : Module}
    (running : (s.mod.ctx slot.toNat).state = .running) (mode : (s.mod.ctx slot.toNat).sched.mode ≠ 0)
    (cat : catOn s.mod 7 = true) (area : (s.mod.ctx slot.toNat).sched.coordArea ≠ 0)
    (here : isLocal s.mod (s.mod.ctx slot.toNat).sched.coordArea = true)
    (once : (s.mod.ctx slot.toNat).sched.evald ≠ (s.mod.ctx slot.toNat).stepnum.toNat + 1)
    (note : (s.mod.ctx slot.toNat).sched.note = none) (notices : (s.mod.ctx slot.toNat).sched.notices = [])
    (reads : (readLocal slot.toNat noCore none (s.mod.ctx slot.toNat).sched.coordArea
      (256 * (jobMembers s.mod slot.toNat).length)).run s.mod = (.ok bs, p)) :
    Gives (.variantEvaluate slot) s
      (evaluate slot.toNat (parseReports (jobMembers s.mod slot.toNat).length (bs.map (·.1))) p) := by
  refine liftL_gives on lib rfl ?_
  rw [variantEvaluate, if_neg (by simpa [running, mode, cat, here, once, note, notices] using area), runLib_ok reads]

theorem varnoteReceive_gives {job : BitVec 16} (live : jobCtx s.mod job = some slot.toNat) (v : BitVec 2) (n : BitVec 32)
    (fr : Word) : Gives (.varnoteReceive job v n fr) s (takeNotice slot.toNat v.toNat n.toNat fr.toNat s.mod) := by
  change execVarnoteReceive job v n fr s = _
  rw [execVarnoteReceive, liftL_lib on lib, live]

end
end

/-! A notice sent again (R399; log 111) -/

/-- The scheduler as it waits for a member's acknowledgement of a notice sent now. -/
def Sched.awaits (k : BitVec 16) (now : Nat) (d : Sched) : Sched :=
  { d with notices := (d.notices.filter fun e => e.1 != k.toNat) ++ [(k.toNat, now)] }

theorem sendNotice_sends {slot : Nat} {k : BitVec 16} {n : Nat × Nat × Nat} {m : Module}
    (note : (m.ctx slot).sched.note = some n) : ∃ fl,
      sendNotice slot k m = request fl (updSched slot (Sched.awaits k m.now) m) ∧
        fl.who = .notice k ∧ fl.x.dst = k ∧ fl.x.kind = .write := by
  simp only [sendNotice, note]
  exact ⟨_, rfl, rfl, rfl, rfl⟩

theorem varnoteResend_sends {slot : Nat} {k : BitVec 16} {t : Nat} {m : Module}
    (notices : (m.ctx slot).sched.notices = [(k.toNat, t)]) (late : t + Config.txTimeout ≤ m.now)
    (waiting : m.fab.waiting = []) (flights : m.fab.flights = []) : varnoteResend slot k m = sendNotice slot k m := by
  simp [varnoteResend, notices, late, waiting, flights]

theorem awaits_only {k : BitVec 16} {t : Nat} {d : Sched} (notices : d.notices = [(k.toNat, t)]) (now : Nat) :
    (d.awaits k now).notices = [(k.toNat, now)] := by
  simp [Sched.awaits, notices]

/-- Settles O43, command by command; after UNITDONE, the stages that turn leave every unit as it is (SameUnits). -/
theorem scheduling : Obligations.Scheduling := by
  intro slot s on lib m i x
  refine ⟨fun g plan p r u may reads stay choice plain tensors kind wrote => ?_,
    fun held g => unitDispatch_holds on lib g held,
    fun w k g t0 plan p u v up sees present runs reads found kind tensors noNorm inside other waits => ?_,
    stepStart_starts on lib,
    fun f v up sees quiet => ⟨varcurWrite_gives on lib up sees quiet v, schedmodeWrite_gives on lib up sees quiet⟩,
    fun bs p running mode cat area here once note notices members reads => ?_,
    fun v n fr live => varnoteReceive_gives on lib live v n fr,
    fun k t n notices note late waiting flights => ?_⟩
  · have gives := unitDispatch_dispatches on lib may reads stay choice
    rw [dispatch_writes plain tensors kind wrote] at gives
    have stage := dispatched_stage i (((p.ctx i).stage u.stage).cfg1.extractLsb' 9 9) u r
    have units := dispatched_unitSt i (((p.ctx i).stage u.stage).cfg1.extractLsb' 9 9) u r
    exact ⟨_, gives, congrArg Stage.running stage, congrArg Stage.count stage, (units u).trans (if_pos rfl),
      fun v other => (units v).trans (if_neg other)⟩
  · obtain ⟨q, turned, gives⟩ := unitdone_finishes on lib up sees present runs reads found
    obtain ⟨idle, step, units⟩ := finishUnit_ctx kind tensors noNorm t0 turned
    rw [stepEnd_waits inside (((units v).trans (if_neg other)).trans waits)] at gives
    exact ⟨q, gives, (units u).trans (if_pos rfl), idle, step⟩
  · intro rs fresh level stays
    have gives := variantEvaluate_keeps on lib running mode cat area here once note notices reads
    have reported : rs ≠ [] := List.ne_nil_of_length_pos <| by
      rw [parseReports_length]
      exact List.length_pos_iff.2 members
    rwa [evaluate_keeps reported fresh level stays] at gives
  · obtain ⟨fl, sends, who, dst, kind⟩ := sendNotice_sends (k := k) note
    have again := (varnoteResend_sends notices late waiting flights).trans sends
    refine ⟨_, fl, liftL_gives on lib rfl again, ?_, who, dst, kind, ?_⟩
    · exact congrArg (· ++ [fl]) waiting
    · simp only [request_parts, updSched_ctx]
      exact awaits_only notices _

end Sys2Proof.Machine

namespace Sys2Proof.Machine

open Sys2Proof.Safety

/-! What a fault makes of the contexts (03 R115, R117; 13 R436) -/

/-- A context after a fault: the first one is recorded, a later one counted (03 R115, R117). -/
def Ctx.latched (f : FaultInfo) (x : Ctx) : Ctx :=
  if x.state = .free ∨ (x.state = .teardown ∧ f.cause ≠ .escalated) then x
  else if x.fault.cause ≠ .none then { x with fault := { x.fault with count := satAdd 8 x.fault.count 1 } }
  else
    { x with state := if x.state = .teardown then .teardown else .faulted,
             fault := { cause := f.cause, sub := f.sub, count := 0, addr := f.addr, src := f.src } }

theorem latch_ctx (slot : Nat) (f : FaultInfo) (m : Module) (j : Nat) :
    (latch slot f m).ctx j = if j = slot then (m.ctx slot).latched f else m.ctx j := by
  unfold latch Ctx.latched
  dsimp only
  split
  · split
    · next same => rw [same]
    · rfl
  · split
    · rw [Module.updCtx_eq, Module.setCtx_ctx]
    · split <;> simp only [irq_parts, led_parts, Module.updCtx_eq, Module.setCtx_ctx]

/-- The faults that a module latches touch its contexts, its ledger and its outputs alone. -/
theorem applyFault_ctxs (b : FaultB) (m : Module) : ∃ l : List Nat,
    (applyFault b m).ctxs = (each l (fun i => latch i (outerFault .jobAbort 0 0)) m).ctxs := by
  unfold applyFault
  dsimp only
  split
  · simp only [led_same]
    exact ⟨_, rfl⟩
  · exact ⟨_, rfl⟩

section
variable {I : Ctx → Prop} (keep : ∀ f x, I x → I (x.latched f)) {m : Module} {j : Nat} (holds : I (m.ctx j))
include keep holds

theorem latch_keeps (slot : Nat) (f : FaultInfo) : I ((latch slot f m).ctx j) := by
  rw [latch_ctx]
  split
  · next same => exact same ▸ keep f _ holds
  · exact holds

/-- What every fault keeps of a context, a FAULT that the module sends keeps (10 R354 to R356). -/
theorem sendFault_keeps (ty : FaultType) (subject : BitVec 16) : I ((sendFault ty subject m).ctx j) := by
  have sent (l : List Nat) (b : FaultB) (p : Module) : (each l (fun n => emitFault n b) p).ctx j = p.ctx j :=
    foldl_keeps (I := fun q => q.ctx j = p.ctx j) (fun q n h => by simpa only [emitFault_parts] using h) l rfl
  unfold sendFault
  dsimp only
  obtain ⟨l, ctxs⟩ := applyFault_ctxs { type := ty, reporter := BitVec.ofNat 16 m.num, subject := subject,
                                        serial := BitVec.ofNat 32 m.fab.serial, dstamp := m.now } (each _ _ _)
  rw [Module.ctx, ctxs]
  exact foldl_keeps (I := fun q => I (q.ctx j)) (fun q i h => latch_keeps keep h i _) l (by rw [sent]; exact holds)

theorem ctxFault_keeps (slot : Nat) (f : FaultInfo) : I ((ctxFault slot f m).ctx j) := by
  have latched := latch_keeps keep holds slot f
  unfold ctxFault
  dsimp only
  split
  · refine sendFault_keeps keep ?_ _ _
    simpa only [led_parts] using latched
  · exact latched

end

/-- A context that has faulted, with perhaps more faults counted since (03 R117). -/
def Counted (x y : Ctx) : Prop := ∃ n, y = { x with fault := { x.fault with count := n } }

theorem latched_counted {x y : Ctx} (faulted : x.fault.cause ≠ .none) (f : FaultInfo) (h : Counted x y) :
    Counted x (y.latched f) := by
  obtain ⟨n, counted⟩ := h
  have again : y.fault.cause ≠ .none := by rw [counted]; exact faulted
  unfold Ctx.latched
  split
  · exact ⟨n, counted⟩
  · rw [counted]
    exact ⟨_, rfl⟩

/-- The first fault of a live context is the one it records (03 R115, R117). -/
theorem ctxFault_first {slot : Nat} {f : FaultInfo} {m : Module} (present : (m.ctx slot).state ≠ .free)
    (live : (m.ctx slot).state ≠ .teardown) (first : (m.ctx slot).fault.cause = .none) (cause : f.cause ≠ .none) :
    ∃ n, (ctxFault slot f m).ctx slot = { m.ctx slot with
      state := .faulted, fault := { cause := f.cause, sub := f.sub, count := n, addr := f.addr, src := f.src } } := by
  have latched : (latch slot f m).ctx slot = { m.ctx slot with
      state := .faulted, fault := { cause := f.cause, sub := f.sub, count := 0, addr := f.addr, src := f.src } } := by
    rw [latch_ctx, if_pos rfl, Ctx.latched, if_neg (by simp [present, live]), if_neg (by simp [first]), if_neg live]
  have faulted : ((latch slot f m).ctx slot).fault.cause ≠ .none := by rw [latched]; exact cause
  have counted : Counted ((latch slot f m).ctx slot) ((ctxFault slot f m).ctx slot) := by
    unfold ctxFault
    dsimp only
    split
    · refine sendFault_keeps (I := Counted _) (fun g y => latched_counted faulted g) ?_ _ _
      simp only [led_parts]
      exact ⟨_, rfl⟩
    · exact ⟨_, rfl⟩
  obtain ⟨n, counted⟩ := counted
  exact ⟨n, by rw [counted, latched]⟩

end Sys2Proof.Machine

namespace Sys2Proof.Machine

open Sys2Proof.Safety

/-! Taking contexts down (13 R425, R427, R430, R434, R440) -/

/-- What contexts, loans and functions stand on: boot state, clocks, timetable, lease, partitions, functions and bookmarks. -/
structure SameGround (m q : Module) : Prop where
  boot : q.boot = m.boot
  time : q.time = m.time
  tt : q.tt = m.tt
  lease : q.lease = m.lease
  layout : q.layout = m.layout
  parts : q.parts = m.parts
  funs : q.funs = m.funs
  bms : q.bms = m.bms

theorem SameGround.refl (m : Module) : SameGround m m := ⟨rfl, rfl, rfl, rfl, rfl, rfl, rfl, rfl⟩

theorem SameGround.trans {m p q : Module} (h : SameGround m p) (g : SameGround p q) : SameGround m q :=
  ⟨g.boot.trans h.boot, g.time.trans h.time, g.tt.trans h.tt, g.lease.trans h.lease, g.layout.trans h.layout,
    g.parts.trans h.parts, g.funs.trans h.funs, g.bms.trans h.bms⟩

theorem SameGround.each {op : Nat → Module → Module} (h : ∀ i m, SameGround m (op i m)) (l : List Nat) (m : Module) :
    SameGround m (each l op m) :=
  foldl_keeps (fun p i hp => hp.trans (h i p)) l (.refl m)

/-- A context whose teardown begins, unless it has begun before (13 R430). -/
def Ctx.tornDown (cmd now : Nat) (x : Ctx) : Ctx :=
  if x.state = .free ∨ x.state = .teardown then x
  else { x with state := .teardown, tdAt := now, tdCmd := cmd, tdKeep := x.r.keep, tdTmo := 0, fences := [],
                ovd := { x.ovd with work := [] } }

section
variable (slot cmd : Nat) (m : Module)

/-- The beginning of a teardown writes the slot of its context; of the fabric it takes transactions and nothing else. -/
theorem startTeardown_frame : startTeardown slot cmd m = m ∨
    ∃ mem valid bad summary draw threads cores writes cows flights waiting, ∃ oq : OutTx → Bool,
      startTeardown slot cmd m = ({ m with
        mem := mem, valid := valid, bad := bad, summary := summary, draw := draw, threads := threads, cores := cores,
        writes := writes, cows := cows, fab := { m.fab with flights := flights, waiting := waiting },
        ports := m.ports.map fun e => (e.1, { e.2 with oq := e.2.oq.filter oq }) } : Module).setCtx slot
          ((m.ctx slot).tornDown cmd m.now) := by
  by_cases down : (m.ctx slot).state = .free ∨ (m.ctx slot).state = .teardown
  · exact .inl (if_pos down)
  · obtain ⟨p, cores, ⟨_, _, _, _, _, rfl⟩, eq⟩ := startTeardown_eq (cmd := cmd) (not_or.1 down)
    rw [eq, Ctx.tornDown, if_neg down]
    exact .inr ⟨_, _, _, _, _, _, _, _, _, _, _, _, rfl⟩

theorem startTeardown_ground : SameGround m (startTeardown slot cmd m) := by
  rcases startTeardown_frame slot cmd m with eq | ⟨_, _, _, _, _, _, _, _, _, _, _, _, eq⟩ <;> rw [eq]
  · exact .refl m
  · exact ⟨rfl, rfl, rfl, rfl, rfl, rfl, rfl, rfl⟩

theorem startTeardown_slot (j : Nat) : (startTeardown slot cmd m).ctx j =
    if j = slot then (m.ctx slot).tornDown cmd m.now else m.ctx j := by
  by_cases down : (m.ctx slot).state = .free ∨ (m.ctx slot).state = .teardown
  · rw [startTeardown, if_pos down, Ctx.tornDown, if_pos down]
    split
    · next same => rw [same]
    · rfl
  · rcases startTeardown_frame slot cmd m with eq | ⟨_, _, _, _, _, _, _, _, _, _, _, _, eq⟩
    · have ctx := startTeardown_ctx (cmd := cmd) (not_or.1 down)
      rw [eq] at ctx
      exact absurd (congrArg Ctx.state ctx) (not_or.1 down).2
    · rw [eq, Module.setCtx_ctx]
      rfl

end

theorem ctxFault_ground (slot : Nat) (f : FaultInfo) (m : Module) : SameGround m (ctxFault slot f m) := by
  constructor <;> simp only [ctxFault_same]

theorem escalate_ground (slot : Nat) (m : Module) : SameGround m (escalate slot m) :=
  (ctxFault_ground ..).trans (startTeardown_ground ..)

/-- An operation that takes the context of its slot down, and leaves none in a state from which it could rise again. -/
structure TakesDown (op : Nat → Module → Module) : Prop where
  present : ∀ i m j, (m.ctx j).state ≠ .free → ((op i m).ctx j).state ≠ .free
  down : ∀ i m j, (m.ctx j).state = .teardown → ((op i m).ctx j).state = .teardown
  own : ∀ i m, (m.ctx i).state ≠ .free → ((op i m).ctx i).state = .teardown

/-- A fault changes the state of a live context alone (03 R115; 13 R425). -/
theorem latched_state (f : FaultInfo) (x : Ctx) : (x.latched f).state = x.state ∨
    (x.state ≠ .free ∧ x.state ≠ .teardown ∧ (x.latched f).state = .faulted) := by
  unfold Ctx.latched
  split
  · exact .inl rfl
  · next present =>
    split
    · exact .inl rfl
    · by_cases down : x.state = .teardown
      · exact .inl ((if_pos down).trans down.symm)
      · exact .inr ⟨(not_or.1 present).1, down, if_neg down⟩

theorem latched_present {x : Ctx} (f : FaultInfo) (h : x.state ≠ .free) : (x.latched f).state ≠ .free := by
  rcases latched_state f x with e | ⟨-, -, e⟩ <;> simp [e, h]

theorem latched_down {x : Ctx} (f : FaultInfo) (h : x.state = .teardown) : (x.latched f).state = .teardown :=
  (latched_state f x).elim (fun e => e.trans h) fun e => absurd h e.2.1

theorem tornDown_down {x : Ctx} (cmd now : Nat) (h : x.state ≠ .free) : (x.tornDown cmd now).state = .teardown := by
  unfold Ctx.tornDown
  split
  · next gone => exact gone.resolve_left h
  · rfl

theorem startTeardown_takesDown (cmd : Nat) : TakesDown fun i m => startTeardown i cmd m := by
  have present (i : Nat) (m : Module) (j : Nat) (h : (m.ctx j).state ≠ .free) : ((startTeardown i cmd m).ctx j).state = .teardown ∨
      ((startTeardown i cmd m).ctx j).state = (m.ctx j).state := by
    rw [startTeardown_slot]
    split
    · next same => exact .inl (tornDown_down _ _ (same ▸ h))
    · exact .inr rfl
  refine ⟨fun i m j h => ?_, fun i m j h => ?_, fun i m h => ?_⟩
  · rcases present i m j h with e | e <;> simp [e, h]
  · rcases present i m j (by simp [h]) with e | e <;> simp [e, h]
  · rw [startTeardown_slot, if_pos rfl]
    exact tornDown_down _ _ h

theorem escalate_takesDown : TakesDown escalate := by
  obtain ⟨present, down, own⟩ := startTeardown_takesDown 0
  have stays (i : Nat) (m : Module) (j : Nat) (h : (m.ctx j).state ≠ .free) := ctxFault_keeps (I := fun x => x.state ≠ .free)
    (fun f _ => latched_present f) h i (outerFault .escalated 0 0)
  have stopped (i : Nat) (m : Module) (j : Nat) (h : (m.ctx j).state = .teardown) := ctxFault_keeps (I := fun x => x.state = .teardown)
    (fun f _ => latched_down f) h i (outerFault .escalated 0 0)
  exact ⟨fun i m j h => present i _ j (stays i m j h), fun i m j h => down i _ j (stopped i m j h),
    fun i m h => own i _ (stays i m i h)⟩

section
variable {op : Nat → Module → Module} (takes : TakesDown op)
include takes

theorem TakesDown.each_down {j : Nat} (l : List Nat) {m : Module} (h : (m.ctx j).state = .teardown) :
    ((each l op m).ctx j).state = .teardown :=
  foldl_keeps (I := fun q => (q.ctx j).state = .teardown) (fun q i hq => takes.down i q j hq) l h

/-- Every context of the list that is on the module goes down. -/
theorem TakesDown.each_mem {j : Nat} {l : List Nat} (mem : j ∈ l) {m : Module} (h : (m.ctx j).state ≠ .free) :
    ((each l op m).ctx j).state = .teardown := by
  obtain ⟨a, b, rfl⟩ := List.append_of_mem mem
  have before := foldl_keeps (I := fun q => (q.ctx j).state ≠ .free) (fun q i hq => takes.present i q j hq) a h
  rw [each, List.foldl_append, List.foldl_cons]
  exact takes.each_down b (takes.own j _ before)

end

theorem mem_slotsWhere {m : Module} {t : Ctx → Bool} {i : Nat} (present : (m.ctx i).state ≠ .free) (test : t (m.ctx i) = true) :
    i ∈ slotsWhere m t := by
  have listed : m.ctx i ≠ Ctx.init := fun init => by rw [init] at present; exact present rfl
  refine List.mem_map.2 ⟨_, List.mem_filter.2 ⟨sparse_get_mem listed, ?_⟩, rfl⟩
  rw [← Module.ctx, test]
  simpa using present

/-- Every context that satisfies a test is taken down. -/
theorem TakesDown.each_slots {op : Nat → Module → Module} (takes : TakesDown op) {m p : Module} {t : Ctx → Bool} {i : Nat}
    (present : (m.ctx i).state ≠ .free) (test : t (m.ctx i) = true) (same : p.ctx i = m.ctx i) :
    ((each (slotsWhere m t) op p).ctx i).state = .teardown :=
  takes.each_mem (mem_slotsWhere present test) (by rw [same]; exact present)

end Sys2Proof.Machine

namespace Sys2Proof.Machine

open Sys2Proof.Safety

/-! The overdue monitor (O28; 13 R419 to R422) -/

section
variable {slot : Nat} {m : Module}

theorem lateWork_none {o : Ovd} {now : Nat} (inTime : ∀ w ∈ o.work, now ≤ w.d + o.grace * 1000) : lateWork o now = none := by
  have none_late : o.work.filter (fun w => decide (w.d + o.graceNs < now)) = [] :=
    List.filter_eq_nil_iff.2 fun w hw late =>
      absurd (of_decide_eq_true late) (Nat.not_lt.2 (inTime w hw))
  rw [lateWork, none_late, List.foldl_nil]

theorem lateWork_single {o : Ovd} {now : Nat} {w : DueWork} (work : o.work = [w]) (late : w.d + o.grace * 1000 < now) :
    lateWork o now = some w := by
  have is_late : o.work.filter (fun w => decide (w.d + o.graceNs < now)) = [w] := by
    rw [work]
    exact List.filter_cons_of_pos (decide_eq_true late)
  rw [lateWork, is_late]
  rfl

theorem windowOver_iff (o : Ovd) (now : Nat) : windowOver o now = true ↔ o.lastProgress + o.win * 1000000 ≤ now :=
  decide_eq_true_iff

theorem overdueCheck_waits (h : (m.ctx slot).state ≠ .running ∨ m.now < (m.ctx slot).ovd.nextCheck ∨ (m.ctx slot).held = true) :
    overdueCheck slot m = m := if_pos h

/-- The module with the next check of a context set (R421). -/
def checkMoved (slot : Nat) (m : Module) : Module :=
  m.updCtx slot fun x => { x with ovd := { x.ovd with nextCheck := m.now + x.ovd.win * 1000000 / 16 } }

section
variable (running : (m.ctx slot).state = .running) (due : (m.ctx slot).ovd.nextCheck ≤ m.now)
  (free : (m.ctx slot).held = false)
include running due free

theorem overdueCheck_due : overdueCheck slot m =
    match lateWork (m.ctx slot).ovd m.now with
    | some w => overdue slot 2 w.d w.at_ (srcOf w.t) (checkMoved slot m)
    | none => if windowOver (m.ctx slot).ovd m.now then overdue slot 1 0 0 0 (checkMoved slot m) else checkMoved slot m := by
  have held : ¬((m.ctx slot).state ≠ .running ∨ m.now < (m.ctx slot).ovd.nextCheck ∨ (m.ctx slot).held = true) := by
    rw [running, free]
    simpa using due
  rw [overdueCheck, if_neg held]
  rfl

end

/-- The module with the test that an overdue context failed noted, and its entry written (R422). -/
def overdueNoted (slot test d : Nat) (m : Module) : Module :=
  let p := m.updCtx slot fun x => { x with ovd := { x.ovd with test := test, lastStat := x.ovd.lastProgress } }
  led 0x0207 sevWarn (atCtx p slot) [test - 1, (m.ctx slot).ovd.lastProgress, d] p

theorem overdueNoted_ctx (test d : Nat) : (overdueNoted slot test d m).ctx slot =
    { m.ctx slot with ovd := { (m.ctx slot).ovd with test := test, lastStat := (m.ctx slot).ovd.lastProgress } } := by
  simp only [overdueNoted, led_parts, Module.updCtx_eq, Module.setCtx_ctx, if_true]

/-- What an overdue context records in its first fault (R422). -/
structure Overdue (test : Nat) (addr : Word) (src : BitVec 17) (last : Nat) (x : Ctx) : Prop where
  state : x.state = .faulted
  cause : x.fault.cause = .overdue
  addr : x.fault.addr = addr
  src : x.fault.src = src
  test : x.ovd.test = test
  last : x.ovd.lastStat = last

theorem overdue_faults (running : (m.ctx slot).state = .running) (first : (m.ctx slot).fault.cause = .none) (test d : Nat)
    (addr : Word) (src : BitVec 17) :
    Overdue test addr src (m.ctx slot).ovd.lastProgress ((overdue slot test d addr src m).ctx slot) := by
  have noted := overdueNoted_ctx (slot := slot) (m := m) test d
  obtain ⟨n, ctx⟩ := ctxFault_first (slot := slot) (f := outerFault .overdue addr src) (m := overdueNoted slot test d m)
    (by simp [noted, running]) (by simp [noted, running]) (by simp [noted, first]) (by simp [outerFault])
  have own : (overdue slot test d addr src m).ctx slot = _ := ctx
  rw [own, noted]
  exact ⟨rfl, rfl, rfl, rfl, rfl, rfl⟩

end

section
variable {s : State} {slot : BitVec 6} (on : s.mod.on = true)
include on

theorem overdueCheck_gives : Gives (.overdueCheck slot) s (overdueCheck slot.toNat s.mod) := lift_on on

theorem ovdwinWrite_gives {f : Fn} {v : Word} (lib : s.mod.boot.lib = true) (up : hostUp s.mod f.val = true)
    (present : (s.mod.ctx slot.toNat).state ≠ .free) (sees : seesCtx s.mod (some f) slot.toNat = true) (h : v.toNat < 2 ^ 16) :
    Gives (.ovdwinWrite f slot v) s (s.mod.updCtx slot.toNat fun x =>
      { x with ovd := { x.ovd with win := Nat.max 1 (Nat.min 60000 v.toNat) } }) := by
  have fits : v &&& ~~~0xFFFF = 0 := and_not_low_eq_zero (n := 16) h
  have whole : field v 0 16 = v.toNat := by
    unfold field
    omega
  change execOvdwinWrite f slot v s = _
  rw [execOvdwinWrite, liftW_reaches on lib up, if_pos sees, rsvOk, if_neg (not_not.2 fits), writeOvdwin,
    onCtx_takes sees present rfl, whole]

end

/-- Settles O28: a check that is due moves the next one; what it finds decides whether the context faults. -/
theorem overdueMonitor : Obligations.OverdueMonitor := by
  intro slot s on m i x next
  have gives : Gives (.overdueCheck slot) s (overdueCheck i m) := overdueCheck_gives on
  have moved : next.ctx i = { x with ovd := { x.ovd with nextCheck := m.now + x.ovd.win * 1000000 / 16 } } := by
    simp only [next, x, Module.updCtx_eq, Module.setCtx_ctx, if_true]
  have faults (running : x.state = .running) (first : x.fault.cause = .none) (test d : Nat) (addr : Word) (src : BitVec 17) :
      Overdue test addr src x.ovd.lastProgress ((overdue i test d addr src next).ctx i) := by
    simpa only [moved] using overdue_faults (m := next) (slot := i) (by rw [moved]; exact running)
      (by rw [moved]; exact first) test d addr src
  refine ⟨fun waits => overdueCheck_waits waits ▸ gives, fun running due free => ?_, fun f v lib up present sees fits => ?_⟩
  · rw [overdueCheck_due running due free] at gives
    refine ⟨fun inTime => ?_, fun w work late first => ?_⟩
    · rw [lateWork_none inTime] at gives
      refine ⟨fun within => ?_, fun expired first => ?_⟩
      · exact gives_of_neg gives (mt (windowOver_iff ..).1 (Nat.not_le.2 within))
      · obtain ⟨state, cause, -, -, test, last⟩ := faults running first 1 0 0 0
        exact ⟨_, gives_of_pos gives ((windowOver_iff ..).2 expired), state, cause, test, last⟩
    · rw [lateWork_single work late] at gives
      obtain ⟨state, cause, addr, src, test, -⟩ := faults running first 2 w.d w.at_ (srcOf w.t)
      exact ⟨_, gives, state, cause, test, addr, src⟩
  · exact ovdwinWrite_gives on lib up present (by simpa [seesCtx] using sees) fits

end Sys2Proof.Machine

namespace Sys2Proof.Machine

open Sys2Proof.Safety

/-! Fencing (13 R438 to R440; 10 R358; 14 R457; 15 R492) -/

/-- A change of every value that leaves the default as it is changes what each key reads as. -/
theorem sparse_get_map {β : Type} {d : β} {g : β → β} (default : g d = d) (l : Sparse β) (k : Nat) :
    Sparse.get d (l.map fun e => (e.1, g e.2)) k = g (Sparse.get d l k) := by
  induction l with
  | nil => exact default.symm
  | cons e l ih =>
    rw [List.map_cons, Sparse.get_cons, Sparse.get_cons, ih]
    split <;> rfl

/-- A port sends nothing but FENCED frames, and nothing waits at it (10 R358). -/
def PortFenced (m : Module) (n : Nat) : Prop := (m.port n).st = .fencing ∧ (m.port n).oq = []

theorem fencePorts_frame (m : Module) : ∃ ports, fencePorts m = { m with ports := ports } :=
  foldl_keeps (I := fun q => ∃ ports, q = { m with ports := ports }) (fun _ _ h => by
    obtain ⟨_, rfl⟩ := h
    exact ⟨_, rfl⟩) (upTo 10) ⟨m.ports, rfl⟩

theorem fencePorts_fences (m : Module) {n : Nat} (inside : n < 10) : PortFenced (fencePorts m) n := by
  have keeps (l : List Nat) (p : Module) (h : n ∈ l ∨ PortFenced p n) : PortFenced (l.foldl (fun m n => m.updPort n fun p =>
      { p with st := .fencing, oq := [], cq := [], replay := [], lanesUp := false, peerRun := false }) p) n := by
    induction l generalizing p with
    | nil => exact h.resolve_left (List.not_mem_nil)
    | cons a l ih =>
      refine ih _ ?_
      by_cases same : n = a
      · exact .inr (by simp [PortFenced, same])
      · refine h.imp (fun h => (List.mem_cons.1 h).resolve_left same) fun h => ?_
        simpa [PortFenced, same] using h
  exact keeps _ m (.inl (List.mem_range.2 inside))

section
variable {m : Module} (fenced : ∀ n < 10, PortFenced m n)
include fenced

theorem upPorts_none : upPorts m = [] := by
  refine List.filter_eq_nil_iff.2 fun n hn => ?_
  rw [(fenced n (List.mem_range.1 hn)).1]
  decide

/-- A module whose ports are fenced sends no FAULT (10 R354, R358). -/
theorem ctxFault_ports (slot : Nat) (f : FaultInfo) : (ctxFault slot f m).ports = m.ports := by
  have sends (ty : FaultType) (subject : BitVec 16) (p : Module) (same : p.ports = m.ports) : (sendFault ty subject p).ports = p.ports := by
    have none_up : upPorts { p with fab := { p.fab with
        serial := (p.fab.serial + 1) % 2 ^ 32, seen := p.fab.seen ++ [(p.num, p.fab.serial, p.now)] } } = [] :=
      upPorts_none (fun n hn => by simpa only [PortFenced, Module.port, same] using fenced n hn)
    unfold sendFault
    dsimp only
    rw [none_up]
    simp only [applyFault_same, each, List.foldl_nil]
  unfold ctxFault
  dsimp only
  split
  · rw [sends _ _ _ (by simp only [led_same, latch_same])]
    simp only [led_same, latch_same]
  · simp only [latch_same]

theorem startTeardown_fenced (slot cmd n : Nat) (inside : n < 10) : PortFenced (startTeardown slot cmd m) n := by
  rcases startTeardown_frame slot cmd m with eq | ⟨_, _, _, _, _, _, _, _, _, _, _, oq, eq⟩
  · rw [eq]
    exact fenced n inside
  · obtain ⟨st, empty⟩ := fenced n inside
    have port : (startTeardown slot cmd m).port n = { m.port n with oq := (m.port n).oq.filter oq } := by
      rw [eq, Module.setCtx_port]
      exact sparse_get_map (g := fun p : Port => { p with oq := p.oq.filter oq }) rfl _ n
    rw [PortFenced, port, empty]
    exact ⟨st, rfl⟩

theorem escalate_fenced (slot n : Nat) (inside : n < 10) : PortFenced (escalate slot m) n :=
  startTeardown_fenced (m := ctxFault slot _ m) (fun n hn => by
    rw [PortFenced, Module.port, ctxFault_ports fenced]
    exact fenced n hn) slot 0 n inside

end

/-! What clearing memory and closing a loan leave as it is -/

/-- The second module has the lease, the fabric, the ports, the contexts and the cores of the first, and no new bookmark. -/
structure SameLive (m q : Module) : Prop where
  lease : q.lease = m.lease
  fab : q.fab = m.fab
  ports : q.ports = m.ports
  ctxs : q.ctxs = m.ctxs
  cores : q.cores = m.cores
  bms : q.bms ⊆ m.bms

theorem SameLive.refl (m : Module) : SameLive m m := ⟨rfl, rfl, rfl, rfl, rfl, List.Subset.refl _⟩

theorem SameLive.trans {m p q : Module} (h : SameLive m p) (g : SameLive p q) : SameLive m q :=
  ⟨g.lease.trans h.lease, g.fab.trans h.fab, g.ports.trans h.ports, g.ctxs.trans h.ctxs,
    g.cores.trans h.cores, fun _ hb => h.bms (g.bms hb)⟩

theorem SameLive.foldl {op : Module → Nat → Module} (h : ∀ m i, SameLive m (op m i)) (l : List Nat) (m : Module) :
    SameLive m (l.foldl op m) :=
  foldl_keeps (fun p i hp => hp.trans (h p i)) l (.refl m)

theorem SameLive.updPart (p : Nat) (f : Part → Part) (m : Module) : SameLive m (m.updPart p f) :=
  ⟨rfl, rfl, rfl, rfl, rfl, List.Subset.refl _⟩

theorem led_live (code sev : Nat) (pl : Place) (data : List Nat) (m : Module) : SameLive m (led code sev pl data m) := by
  constructor <;> simp only [led_same, List.Subset.refl]

theorem clearFrames_live (frs : List Nat) (m : Module) : SameLive m (frs.foldl (fun m fr => clearFrame fr m) m) :=
  .foldl (op := fun m fr => clearFrame fr m) (fun _ _ => ⟨rfl, rfl, rfl, rfl, rfl, List.Subset.refl _⟩) frs m

theorem dropBms_live (t : Bookmark → Bool) (m : Module) : SameLive m (dropBms t m) :=
  (clearFrames_live _ m).trans ⟨rfl, rfl, rfl, rfl, rfl, fun _ hb => (List.mem_filter.1 hb).1⟩

theorem closeAdvance_live (p : Nat) (m : Module) : SameLive m (closeAdvance p m) := by
  unfold closeAdvance
  dsimp only
  split
  · exact .refl m
  · have dropped := dropBms_live (fun b => b.part == p) m
    have cleared (q : Module) : SameLive q ((diesOf q p).foldl (fun m d => clearDie d m) q) :=
      .foldl (op := fun m d => clearDie d m) (fun _ _ => ⟨rfl, rfl, rfl, rfl, rfl, List.Subset.refl _⟩) _ q
    refine SameLive.trans ?_ (.updPart p _ _)
    refine SameLive.trans ?_ (cleared _)
    exact dropped.trans (.updPart p _ _)

theorem irq_live (f v : Nat) (m : Module) : SameLive m (irq f v m) := ⟨rfl, rfl, rfl, rfl, rfl, List.Subset.refl _⟩

theorem setLoan_live (p : Nat) (st : LoanSt) (m : Module) : SameLive m (setLoan p st m) := by
  have set := SameLive.updPart p (fun q => { q with st := st }) m
  unfold setLoan
  dsimp only
  split
  · exact set.trans (irq_live 0 2 _)
  · exact (set.trans (irq_live _ 2 _)).trans (irq_live 0 2 _)
  · exact set.trans (irq_live 0 2 _)

/-- A module that has fenced itself: its job keys and bookmarks are gone, its ports fenced, and every context it held in
TEARDOWN (13 R440). -/
structure Fenced (m q : Module) : Prop where
  lease : q.lease.st = .fenced
  keys : q.fab.jobKeys = []
  bms : q.bms = []
  ports : ∀ n < 10, PortFenced q n
  down : ∀ i, (m.ctx i).state ≠ .free → (q.ctx i).state = .teardown

theorem Fenced.live {m p q : Module} (h : Fenced m p) (g : SameLive p q) : Fenced m q := by
  obtain ⟨lease, keys, bms, ports, down⟩ := h
  refine ⟨by rw [g.lease, lease], by rw [g.fab, keys], List.subset_nil.1 (bms ▸ g.bms), fun n hn => ?_, fun i hi => ?_⟩
  · rw [PortFenced, Module.port, g.ports]
    exact ports n hn
  · rw [Module.ctx, g.ctxs]
    exact down i hi

theorem Fenced.startTeardown {m p : Module} (h : Fenced m p) (slot cmd : Nat) : Fenced m (startTeardown slot cmd p) := by
  obtain ⟨lease, keys, bms, ports, down⟩ := h
  have ground := startTeardown_ground slot cmd p
  refine ⟨by rw [ground.lease, lease], ?_, by rw [ground.bms, bms], startTeardown_fenced ports slot cmd,
    fun i hi => (startTeardown_takesDown cmd).down slot p i (down i hi)⟩
  rcases startTeardown_frame slot cmd p with eq | ⟨_, _, _, _, _, _, _, _, _, _, _, _, eq⟩ <;> rw [eq] <;> exact keys

theorem Fenced.closeBegin {m p : Module} (h : Fenced m p) (k cause : Nat) : Fenced m (closeBegin k cause p) := by
  unfold Machine.closeBegin
  dsimp only
  refine Fenced.live ?_ (closeAdvance_live k _)
  refine foldl_keeps (I := Fenced m) (fun q i hq => hq.startTeardown i 0) _ ?_
  refine Fenced.live ?_ (led_live ..)
  exact (h.live (.updPart k _ p)).live (setLoan_live k .closing _)

/-- The module with its lease marked as lost, and the loss told (13 R440). -/
def leaseLost (m : Module) : Module :=
  let m := led 0x0302 sevFatal atModule [m.lease.s] m
  toTray .fenced { m with lease := { m.lease with st := .fenced, fencedAt := m.now } }

theorem leaseLost_ctx (m : Module) (i : Nat) : (leaseLost m).ctx i = m.ctx i :=
  ((toTray_parts _).2.2.1 i).trans ((led_parts ..).2.2.1 i)

theorem leaseLost_lease (m : Module) : (leaseLost m).lease.st = .fenced := by
  unfold leaseLost
  simp only [toTray_same]

/-- The module with its ports fenced and its contexts on their way down (10 R358; 13 R440). -/
def cutOff (m : Module) : Module := each (slotsWhere m fun _ => true) escalate (fencePorts m)

theorem cutOff_lease (m : Module) : (cutOff m).lease = m.lease := by
  obtain ⟨ports, frame⟩ := fencePorts_frame m
  rw [cutOff, (SameGround.each escalate_ground ..).lease, frame]

theorem cutOff_fenced (m : Module) : ∀ n < 10, PortFenced (cutOff m) n :=
  foldl_keeps (I := fun q => ∀ n < 10, PortFenced q n) (fun _ i h => escalate_fenced h i) _ fun _ hn => fencePorts_fences m hn

theorem cutOff_down {m : Module} {i : Nat} (present : (m.ctx i).state ≠ .free) : ((cutOff m).ctx i).state = .teardown := by
  obtain ⟨ports, frame⟩ := fencePorts_frame m
  exact escalate_takesDown.each_slots (t := fun _ => true) present rfl (by rw [frame]; rfl)

/-- The module that has fenced itself, before its open loans close (13 R440; 14 R457). -/
def fencedOff (m : Module) : Module :=
  let q := cutOff (leaseLost m)
  dropBms (fun _ => true) { q with fab := { q.fab with jobKeys := [] } }

theorem fencedOff_fenced (m : Module) : Fenced m (fencedOff m) := by
  have lease : (cutOff (leaseLost m)).lease.st = .fenced := by rw [cutOff_lease, leaseLost_lease]
  have fenced := cutOff_fenced (leaseLost m)
  have down (i : Nat) (hi : (m.ctx i).state ≠ .free) : ((cutOff (leaseLost m)).ctx i).state = .teardown :=
    cutOff_down (by rw [leaseLost_ctx]; exact hi)
  rw [fencedOff]
  generalize cutOff (leaseLost m) = q at lease fenced down ⊢
  have live := dropBms_live (fun _ => true) { q with fab := { q.fab with jobKeys := [] } }
  refine ⟨by rw [live.lease]; exact lease, by rw [live.fab], by simp [dropBms], fun n hn => ?_, fun i hi => ?_⟩
  · rw [PortFenced, Module.port, live.ports]
    exact fenced n hn
  · rw [Module.ctx, live.ctxs]
    exact down i hi

theorem fence_fenced {m : Module} (first : m.lease.st ≠ .fenced) : Fenced m (fence m) := by
  rw [fence, if_neg first]
  exact foldl_keeps (I := Fenced m) (fun q k h => (h.closeBegin k 2).live (.updPart k _ _)) _ (fencedOff_fenced m)

end Sys2Proof.Machine

namespace Sys2Proof.Machine

open Sys2Proof.Safety

/-! Renewals, the lease, lapse notices and dead peers (O35; 13 R438 to R442) -/

section
variable {m : Module}

theorem renewalSend_due (spdm : m.boot.spdm = true) (unfenced : m.lease.st ≠ .fenced)
    (due : m.lease.seq = 0 ∨ m.lease.last + 50000000 ≤ m.now) : renewalSend m =
      { m with lease := { m.lease with seq := m.lease.seq + 1, last := m.now, sent := m.lease.sent ++ [(m.lease.seq + 1, m.now)] },
               out := { m.out with tray := m.out.tray ++ [.renew (m.lease.seq + 1) (BitVec.ofNat 16 m.num) m.lease.inc m.now] } } := by
  have late : ¬(m.lease.seq ≠ 0 ∧ m.now < m.lease.last + 50000000) := by omega
  rw [renewalSend]
  dsimp only
  rw [if_neg (by simp only [unfenced, spdm, Config.renewNs, late]; decide)]
  exact if_pos spdm

theorem renewalAccept_extends {n t : Nat} (sent : m.lease.sent.find? (fun e => e.1 == n) = some (n, t))
    (unfenced : m.lease.st ≠ .fenced) : renewalAccept n m =
      { m with lease := { m.lease with st := .held, s := Nat.max m.lease.s t, sent := m.lease.sent.filter fun x => x.1 != n },
               boot := { m.boot with renewed := true } } := by
  rw [renewalAccept, sent]
  exact if_neg unfenced

theorem each_lease {op : Nat → Module → Module} (h : ∀ i p, (op i p).lease = p.lease) (l : List Nat) :
    (each l op m).lease = m.lease :=
  foldl_keeps (I := fun q => q.lease = m.lease) (fun q i hq => (h i q).trans hq) l rfl

/-- An incarnation that was not dead before is declared dead, once (13 R441, R442). -/
theorem declareDead_lease (lib : m.boot.lib = true) {a : BitVec 16} {b : BitVec 32} (new : (a, b) ∉ m.lease.dead) (t : Nat) :
    (declareDead a b t m).lease = { m.lease with
      dead := m.lease.dead ++ [(a, b)], deadCount := Nat.min (2 ^ 32 - 1) (m.lease.deadCount + 1), lastDead := a } := by
  rw [declareDead, if_neg (by simp [lib, new])]
  dsimp only
  have told (l : List Nat) (p : Module) : (each l (fun f => irq f 1) p).lease = p.lease :=
    each_lease (op := fun f => irq f 1) (fun _ _ => rfl) l
  have lowered (l : List Nat) (f : Ctx → Ctx) (p : Module) : (each l (fun i m => m.updCtx i f) p).lease = p.lease :=
    each_lease (op := fun i m => m.updCtx i f) (fun _ _ => rfl) l
  rw [told, lowered]
  simp only [led_same]
  rfl

end

/-- The records of closes that are sent change the partitions alone. -/
theorem sendCloses_mod (s : State) : ∃ parts, (sendCloses s).mod = { s.mod with parts := parts } := by
  refine List.foldlRecOn (motive := fun t : State => ∃ parts, t.mod = { s.mod with parts := parts }) _ _ ⟨_, rfl⟩
    fun t ⟨parts, h⟩ p _ => ?_
  split
  · split
    · exact ⟨_, by rw [h]; rfl⟩
    · exact ⟨parts, h⟩
  · exact ⟨parts, h⟩

/-- A command after which the module has fenced itself. -/
theorem liftC_fenced {f : Module → Module} {s : State} (on : s.mod.on = true) (fenced : Fenced s.mod (f s.mod)) :
    ∃ t, liftC f s = .next t ∧ Fenced s.mod t.mod := by
  rw [liftC, if_pos on]
  dsimp only
  refine ⟨_, rfl, ?_⟩
  split
  · obtain ⟨parts, sent⟩ := sendCloses_mod { s with mod := f s.mod }
    rw [sent]
    exact fenced.live ⟨rfl, rfl, rfl, rfl, rfl, List.Subset.refl _⟩
  · exact fenced

section
variable {s : State} (on : s.mod.on = true)
include on

theorem leaseExpiry_fences (held : s.mod.lease.st = .held) (expired : s.mod.lease.s + 150000000 ≤ s.mod.now) :
    ∃ t, exec .leaseExpiry s = .next t ∧ Fenced s.mod t.mod := by
  refine liftC_fenced on ?_
  rw [if_pos ⟨held, expired⟩]
  exact fence_fenced (by simp [held])

section
variable (lib : s.mod.boot.lib = true)
include lib

theorem peerDeadDeclare_gives {a : BitVec 16} {b : BitVec 32} {t : Nat} (bound : ∃ g ∈ s.mod.fab.groups, a ∈ g.members)
    (notice : s.mod.lease.notices = [(a, b, t)]) : Gives (.peerDeadDeclare a) s
      (if t + 300000000 ≤ s.mod.now ∧ (a, b) ∉ s.mod.lease.dead then declareDead a b t s.mod else s.mod) := by
  refine liftL_gives on lib rfl ?_
  have member : (s.mod.fab.groups.any fun g => g.members.contains a) = true := by simpa using bound
  rw [if_pos member, notice, List.find?_cons]
  have test : ((a, b, t).1 == a && decide ((a, b, t).2.2 + Config.deadNs ≤ s.mod.now) &&
      !(s.mod.lease.dead.contains (a, (a, b, t).2.1))) = decide (t + 300000000 ≤ s.mod.now ∧ (a, b) ∉ s.mod.lease.dead) := by
    have reach : decide (t + Config.deadNs ≤ s.mod.now) = decide (t + 300000000 ≤ s.mod.now) := rfl
    simp [reach]
  rw [test]
  by_cases late : t + 300000000 ≤ s.mod.now ∧ (a, b) ∉ s.mod.lease.dead
  · rw [if_pos late, decide_eq_true late]
  · rw [if_neg late, decide_eq_false late]
    rfl

section
variable (spdm : s.mod.boot.spdm = true)
include spdm

theorem lapseNotice_gives (a : BitVec 16) (b : BitVec 32) (t : Nat) : Gives (.lapseNotice a b t) s
    { s.mod with lease := { s.mod.lease with
        notices := (s.mod.lease.notices.filter fun n => !(n.1 == a && n.2.1 == b)) ++ [(a, b, t)] } } := by
  change execLapseNotice a b t s = _
  rw [execLapseNotice, liftT, liftL_lib on lib, if_pos spdm]

theorem renewalRefuse_fences {n t : Nat} (sent : s.mod.lease.sent.find? (fun e => e.1 == n) = some (n, t))
    (unfenced : s.mod.lease.st ≠ .fenced) : ∃ q, exec (.renewalRefuse n) s = .next q ∧ Fenced s.mod q.mod := by
  have asked : (s.mod.lease.sent.any fun e => e.1 == n) = true :=
    List.any_eq_true.2 ⟨_, List.mem_of_find?_eq_some sent, beq_self_eq_true n⟩
  refine liftC_fenced on ?_
  rw [if_pos (by simp [lib, spdm, asked, unfenced])]
  obtain ⟨lease, keys, bms, ports, down⟩ := fence_fenced (m := led 0x0301 sevError atModule [s.mod.lease.s] s.mod)
    (by simpa only [led_same] using unfenced)
  exact ⟨lease, keys, bms, ports, fun i hi => down i (by simpa only [led_parts] using hi)⟩

end

end

end

/-- Settles O35: what the tray controller answers, what its silence does, and what is said of a peer. -/
theorem leaseAndPeers : Obligations.LeaseAndPeers := by
  intro s on m l fences
  have fenced {c : Instr} (h : ∃ t, exec c s = .next t ∧ Fenced m t.mod) : fences c := by
    obtain ⟨t, eq, lease, keys, bms, ports, down⟩ := h
    exact ⟨t, eq, lease, keys, bms, ports, down⟩
  refine ⟨fun lib spdm => ⟨fun unfenced due => ?_, fun n t sent unfenced => ⟨?_, ?_⟩, fun a b t => ?_⟩, fun held expired => ?_,
    fun lib a b t bound notice => ⟨fun early => ?_, fun late new => ?_⟩⟩
  · exact liftL_gives on lib rfl (renewalSend_due spdm unfenced due)
  · exact liftT_gives on lib spdm rfl (renewalAccept_extends sent unfenced)
  · exact fenced (renewalRefuse_fences on lib spdm sent unfenced)
  · exact lapseNotice_gives on lib spdm a b t
  · exact fenced (leaseExpiry_fences on held expired)
  · exact gives_of_neg (peerDeadDeclare_gives on lib bound notice) (fun h => absurd h.1 (Nat.not_le.2 early))
  · have lease := declareDead_lease lib new t
    refine ⟨_, gives_of_pos (peerDeadDeclare_gives on lib bound notice) ⟨late, new⟩, ?_⟩
    rw [lease]
    exact ⟨List.mem_append_right _ (List.mem_singleton.2 rfl), rfl, rfl⟩

end Sys2Proof.Machine

namespace Sys2Proof.Machine

open Sys2Proof.Safety

/-! Engine resets (O31; 13 R426, Table 13.1; 18 Table 18.2) -/

theorem stopChain_stores (core : Nat) (r : ChainRun) (m : Module) : StoredIn m (stopChain core r m) := by
  unfold stopChain
  split
  · exact .refl m
  · exact cutShort_stores ..

theorem stopTe_stores (core : Nat) (r : TeRun) (m : Module) : StoredIn m (stopTe core r m) := by
  unfold stopTe
  split
  · exact .refl m
  · exact cutShort_stores ..

theorem cutEngine_stores (core : Nat) (e : Engine) (m : Module) : StoredIn m (cutEngine core e m) := by
  unfold cutEngine
  split
  · exact .refl m
  · exact .foldl (fun p r => stopChain_stores core r p) _ m
  · exact .foldl (fun p r => stopTe_stores core r p) _ m

/-- A core with one engine in reset since a stamp (13 R426). -/
def CoreSt.engineDown (e : Engine) (now : Nat) (c : CoreSt) : CoreSt :=
  { c.clearEngine e with
    engStop := c.engStop.filter (fun x => x.1 != e),
    engRst := c.engRst.filter (fun x => x.1 != e) ++ [(e, now)],
    rbuf := c.rbuf.filter fun b => b.e != e }

/-- The module with one engine of a core in reset, before the fault of the core's context. -/
def engineOut (core : Nat) (e : Engine) (m : Module) : Module :=
  let p := (cutEngine core e m).updCore core (CoreSt.engineDown e m.now)
  if e = .te then dropUnsent (fun f => f.core == core) p else p

section
variable (n : Nat) (e : Engine) (m : Module)

theorem engineReset_eq : engineReset n e m =
    match ownerOf (engineOut n e m) n with
    | some i => if ((engineOut n e m).ctx i).fault.cause = .none then ctxFault i (outerFault .escalated 0 0) (engineOut n e m)
                else engineOut n e m
    | none => engineOut n e m := rfl

theorem engineOut_frame : (engineOut n e m).ctxs = m.ctxs ∧ (engineOut n e m).core n = (m.core n).engineDown e m.now := by
  obtain ⟨_, _, _, _, _, stores⟩ := cutEngine_stores n e m
  unfold engineOut
  rw [stores]
  dsimp only
  have core (q : Module) (f : CoreSt → CoreSt) : (q.updCore n f).core n = f (q.core n) := by
    rw [Module.updCore_eq, Module.setCore_core, if_pos rfl]
  split
  · exact ⟨rfl, core _ _⟩
  · exact ⟨rfl, core _ _⟩

theorem engineReset_core : (engineReset n e m).core n = (m.core n).engineDown e m.now := by
  rw [engineReset_eq, ← (engineOut_frame n e m).2]
  split
  · split
    · simp only [ctxFault_parts]
    · rfl
  · rfl

end

/-- The context that owns the core of an engine in reset faults with ESCALATED (13 R425, R426). -/
theorem engineReset_faults {n i : Nat} {e : Engine} {m : Module} (owner : ownerOf m n = some i)
    (first : (m.ctx i).fault.cause = .none) (present : (m.ctx i).state ≠ .free) (live : (m.ctx i).state ≠ .teardown) :
    ((engineReset n e m).ctx i).state = .faulted ∧ ((engineReset n e m).ctx i).fault.cause = .escalated := by
  have ctxs := (engineOut_frame n e m).1
  have ctx : (engineOut n e m).ctx i = m.ctx i := congrArg (Sparse.get Ctx.init · i) ctxs
  have owner' : ownerOf (engineOut n e m) n = some i := by rw [ownerOf, ctxs]; exact owner
  rw [engineReset_eq, owner']
  dsimp only
  rw [ctx, if_pos first]
  obtain ⟨k, faulted⟩ := ctxFault_first (slot := i) (m := engineOut n e m) (f := outerFault .escalated 0 0)
    (by rwa [ctx]) (by rwa [ctx]) (by rwa [ctx]) (by simp [outerFault])
  rw [faulted]
  exact ⟨rfl, rfl⟩

theorem engineOf_num (e : Engine) : engineOf (BitVec.ofNat 2 e.num).toNat = some e := by cases e <;> rfl

section
variable {s : State} (on : s.mod.on = true) (lib : s.mod.boot.lib = true) (core : BitVec 9) (e : Engine)
include on lib

theorem engrst_gives (up : hostUp s.mod 0 = true) :
    Gives (.engrst 0 core (BitVec.ofNat 2 e.num)) s (engineReset core.toNat e s.mod) := by
  refine liftW_gives (w := some 0) on lib rfl up ?_
  rw [engrst, physOnly, if_pos rfl, engineOf_num]

theorem engineInternalCheck_gives : Gives (.engineInternalCheck core e) s (engineReset core.toNat e s.mod) := liftL_gives on lib rfl rfl

theorem engineStopTimeout_gives {t : Nat} (stopping : (s.mod.core core.toNat).engStop.find? (fun x => x.1 == e) = some (e, t)) :
    Gives (.engineStopTimeout core e) s
      (if t + 1000000 ≤ s.mod.now then engineReset core.toNat e s.mod else s.mod) := by
  change execEngineStopTimeout core e s = _
  rw [execEngineStopTimeout, liftL_lib on lib, stopping]
  rfl

theorem engineResetDone_gives {t : Nat} (resets : (e, t) ∈ (s.mod.core core.toNat).engRst) :
    Gives (.engineResetDone core e) s (led 0x0202 sevWarn (atCore s.mod core.toNat) [e.num, s.mod.now]
      (s.mod.updCore core.toNat fun k => { k with engRst := k.engRst.filter fun x => x.1 != e })) :=
  liftL_gives on lib rfl (if_pos (List.any_eq_true.2 ⟨_, resets, beq_self_eq_true e⟩))

theorem engineResetTimeout_gives {t : Nat} (resets : (s.mod.core core.toNat).engRst.find? (fun x => x.1 == e) = some (e, t)) :
    Gives (.engineResetTimeout core e) s
      (if t + 5000000 ≤ s.mod.now then partReset (partOfCore s.mod core.toNat) 0 s.mod else s.mod) := by
  change execEngineResetTimeout core e s = _
  rw [execEngineResetTimeout, liftL_lib on lib, resets]
  rfl

end

/-! Partition resets (13 R427, Table 13.1) -/

/-- A partition whose reset has begun (13 R427). -/
def Part.resetting (now trig : Nat) (q : Part) : Part := { q with rst := 1, rstAt := now, rstTrig := trig }

/-- A partition reset takes down every context of the partition. -/
theorem partReset_begins {p : Nat} {m : Module} (part : isPart m p = true) (idle : (m.part p).rst = 0) (k : Nat) :
    (partReset p k m).part p = (m.part p).resetting m.now k ∧
      ∀ i : Nat, (m.ctx i).state ≠ .free → (m.ctx i).part = p → ((partReset p k m).ctx i).state = .teardown := by
  rw [partReset, if_neg (by simp [part, idle])]
  dsimp only
  refine ⟨?_, fun i present inside => ?_⟩
  · rw [Module.part, (SameGround.each escalate_ground ..).parts, ← Module.part, Module.updPart_eq, Module.setPart_part, if_pos rfl]
    rfl
  · exact escalate_takesDown.each_slots (t := fun x => x.part == p) present (by simpa using inside) rfl

/-- No loan closes and no function is in reset, so that the end of a teardown is waited for by nothing else. -/
structure Still (m : Module) : Prop where
  parts : ∀ k, (m.part k).st ≠ .closing ∧ (m.part k).closeRec = none
  funs : ∀ f, (m.func f).flr = none

section
variable {m : Module}

theorem Still.freeSlot (h : Still m) (slot : Nat) : Still (freeSlot slot m) :=
  ⟨fun k => by rw [freeSlot_part]; exact h.parts k, fun f => by rw [freeSlot_func]; exact h.funs f⟩

theorem Still.freeSlots (h : Still m) (l : List Nat) : Still (each l Machine.freeSlot m) :=
  foldl_keeps (I := Still) (fun _ i hq => hq.freeSlot i) l h

end

/-- Time below nominal is all that accrues to a partition (01 R28). -/
theorem accrueThrot_part (m : Module) (k : Nat) : ∃ t, (accrueThrot m).part k = { m.part k with throt := t } := by
  unfold accrueThrot
  dsimp only
  refine foldl_keeps (I := fun q => ∃ t, q.part k = { m.part k with throt := t }) (fun q p ⟨t, h⟩ => ?_) _ ⟨_, rfl⟩
  rw [Module.updPart_eq, Module.setPart_part]
  split
  · next same => exact ⟨_, by rw [← same, h]⟩
  · exact ⟨t, h⟩

/-- A core at reset with its memory zeroed (08 R256). -/
def resetCore (m : Module) (c : Nat) : Module := (zeroCore c m).setCore c CoreSt.init

/-- A cluster store zeroed, with its count of corrected errors (08 R256). -/
def resetStore (m : Module) (cl : Nat) : Module := { zeroStore cl m with csce := Sparse.drop m.csce cl }

/-- The memories and cores of a die at reset. -/
def dieZeroed (d : Nat) (m : Module) : Module :=
  ((upTo 8).map (8 * d + ·)).foldl resetStore (((upTo 64).map (64 * d + ·)).foldl resetCore (accrueThrot m))

theorem resetDie_eq (d : Nat) (m : Module) : resetDie d m =
    { dieZeroed d m with threads := (dieZeroed d m).threads.filter fun e => e.1 / 256 / 64 != d } := rfl

theorem resetCores_core (l : List Nat) (m : Module) (c : Nat) :
    (l.foldl resetCore m).core c = if c ∈ l then CoreSt.init else m.core c := by
  induction l generalizing m with
  | nil => simp
  | cons a l ih =>
    have zeroed : (zeroCore a m).core c = m.core c := rfl
    rw [List.foldl_cons, ih, resetCore, Module.setCore_core, zeroed]
    by_cases same : c = a <;> simp [same]

section
variable (d : Nat) (m : Module)

/-- The reset of a die leaves its contexts, partitions and functions as they are (08 R256). -/
theorem resetDie_holders : SameHolders (accrueThrot m) (resetDie d m) := by
  have cores := SameHolders.foldl (op := resetCore) (fun _ _ => ⟨rfl, rfl, rfl⟩) ((upTo 64).map (64 * d + ·)) (accrueThrot m)
  have stores (p : Module) := SameHolders.foldl (op := resetStore) (fun _ _ => ⟨rfl, rfl, rfl⟩) ((upTo 8).map (8 * d + ·)) p
  have zeroed : SameHolders (accrueThrot m) (dieZeroed d m) := cores.trans (stores _)
  rw [resetDie_eq]
  generalize dieZeroed d m = q at zeroed ⊢
  exact ⟨zeroed.ctxs, zeroed.parts, zeroed.funs⟩

theorem accrueThrot_cores : (accrueThrot m).cores = m.cores := by
  obtain ⟨y, frame⟩ := accrueThrot_frame m
  rw [frame]

theorem resetStores_cores (l : List Nat) : (l.foldl resetStore m).cores = m.cores :=
  foldl_keeps (op := resetStore) (I := fun q => q.cores = m.cores) (fun _ _ h => h) l rfl

theorem dieZeroed_core (c : Nat) : (dieZeroed d m).core c = if c / 64 = d then CoreSt.init else m.core c := by
  rw [dieZeroed, Module.core, resetStores_cores, ← Module.core, resetCores_core, Module.core, accrueThrot_cores, ← Module.core]
  simp only [mem_die]

theorem resetDie_cores : (resetDie d m).cores = (dieZeroed d m).cores := by rw [resetDie_eq]

theorem resetDie_core (c : Nat) : (resetDie d m).core c = if c / 64 = d then CoreSt.init else m.core c :=
  (congrArg (Sparse.get CoreSt.init · c) (resetDie_cores d m)).trans (dieZeroed_core d m c)

theorem resetDie_ctx (i : Nat) : (resetDie d m).ctx i = m.ctx i := by
  obtain ⟨y, frame⟩ := accrueThrot_frame m
  rw [Module.ctx, (resetDie_holders d m).ctxs, frame]
  rfl

theorem Still.resetDie {m : Module} (h : Still m) (d : Nat) : Still (resetDie d m) := by
  obtain ⟨ctxs, parts, funs⟩ := resetDie_holders d m
  refine ⟨fun k => ?_, fun f => ?_⟩
  · obtain ⟨t, accrued⟩ := accrueThrot_part m k
    rw [Module.part, parts, ← Module.part, accrued]
    exact h.parts k
  · obtain ⟨y, frame⟩ := accrueThrot_frame m
    rw [Module.func, funs, frame]
    exact h.funs f

/-- The dies of a partition in reset. -/
def diesReset (p : Nat) (m : Module) : Module := (diesOf m p).foldl (fun m d => resetDie d m) m

theorem diesReset_ctx (p i : Nat) : (diesReset p m).ctx i = m.ctx i :=
  foldl_keeps (I := fun q => q.ctx i = m.ctx i) (fun q d h => (resetDie_ctx d q i).trans h) _ rfl

theorem diesReset_core {p c : Nat} (inside : c < 512) (own : partOfCore m c = p) : (diesReset p m).core c = CoreSt.init := by
  have die : c / 64 ∈ diesOf m p := List.mem_filter.2 ⟨List.mem_range.2 (by omega), by simpa [partOfCore, dieOfCore] using own⟩
  obtain ⟨a, b, split⟩ := List.append_of_mem die
  rw [diesReset, split, List.foldl_append, List.foldl_cons]
  refine foldl_keeps (I := fun q => q.core c = CoreSt.init) (fun q d h => ?_) b ?_
  · rw [resetDie_core, h, ite_self]
  · rw [resetDie_core, if_pos rfl]

theorem diesReset_still {m : Module} (h : Still m) (p : Nat) : Still (diesReset p m) :=
  foldl_keeps (I := Still) (fun _ d hq => hq.resetDie d) _ h

end

/-! The slots of a partition freed -/

theorem clearPages_live (slot : Nat) (m : Module) : SameLive m (clearPages slot m) := by
  unfold clearPages
  exact clearFrames_live _ m

theorem unpaged_cores (slot : Nat) (x : Ctx) (m : Module) : (unpaged slot x m).cores = m.cores := by
  have pages := (clearPages_live slot m).cores
  unfold unpaged
  dsimp only
  split
  · rfl
  · rw [(dropBms_live _ _).cores, pages]

theorem zeroWindows_live (x : Ctx) (m : Module) : SameLive m (zeroWindows x m) :=
  .foldl (op := fun m cl => zeroRange (paStore cl (65536 * x.r.csBase.toNat))
    (paStore cl (65536 * (x.r.csBase.toNat + x.r.csSize.toNat))) m) (fun _ _ => ⟨rfl, rfl, rfl, rfl, rfl, List.Subset.refl _⟩) _ m

/-- A core at reset is at reset once its context is freed (13 R430). -/
theorem cleared_core {slot c : Nat} {m : Module} (idle : m.core c = CoreSt.init) : (cleared slot m).core c = CoreSt.init := by
  have windows : (zeroWindows (m.ctx slot) m).core c = CoreSt.init := by rw [Module.core, (zeroWindows_live ..).cores]; exact idle
  have released := foldl_keeps (op := fun m c => (zeroCore c m).updCore c CoreSt.released) (I := fun q => q.core c = CoreSt.init)
    (fun q a h => by
      rw [Module.updCore_eq, Module.setCore_core]
      split
      · next same =>
        rw [← same]
        exact (congrArg CoreSt.released h).trans rfl
      · exact h) (coresOf (m.ctx slot).r.cores) windows
  unfold cleared
  dsimp only
  generalize (coresOf (m.ctx slot).r.cores).foldl _ _ = q at released ⊢
  rw [← released]
  refine congrArg (Sparse.get CoreSt.init · c) ?_
  change (ite _ _ _ : Module).cores = _
  split
  · exact unpaged_cores ..
  · rw [(led_live ..).cores, unpaged_cores]

theorem freeSlot_core {slot c : Nat} {m : Module} (idle : m.core c = CoreSt.init) : (freeSlot slot m).core c = CoreSt.init := by
  have cores : (freeSlot slot m).cores = (cleared slot m).cores := by rw [freeSlot_eq]; rfl
  exact (congrArg (Sparse.get CoreSt.init · c) cores).trans (cleared_core idle)

/-- The slots of a list freed: a context of the list is free, and a core or slot at rest stays so. -/
theorem freeSlots_free {i : Nat} {l : List Nat} {m : Module} (gone : i ∈ l ∨ (m.ctx i).state = .free) :
    ((each l freeSlot m).ctx i).state = .free := by
  induction l generalizing m with
  | nil => exact gone.resolve_left List.not_mem_nil
  | cons a l ih =>
    refine ih ?_
    rw [freeSlot_ctx]
    by_cases same : i = a
    · exact .inr (by rw [if_pos same]; rfl)
    · rw [if_neg same]
      exact gone.imp_left fun h => (List.mem_cons.1 h).resolve_left same

/-! The end of a partition reset (13 R427) -/

/-- A partition at reset: its dies zeroed and its slots free. -/
def partCleared (p : Nat) (m : Module) : Module :=
  (each (slotsWhere m fun x => x.part == p) freeSlot (diesReset p m)).updPart p fun q => { q with rst := 3 }

section
variable {p : Nat} {m : Module}

theorem partCleared_still (still : Still m) : Still (partCleared p m) := by
  have freed := (diesReset_still still p).freeSlots (slotsWhere m fun x => x.part == p)
  refine ⟨fun k => ?_, freed.funs⟩
  rw [partCleared, Module.updPart_eq, Module.setPart_part]
  split
  · exact freed.parts p
  · exact freed.parts k

theorem partIslands_still (still : Still m) (resets : (m.part p).rst = 1) (settled : ∀ i, anyFlight m i = false) :
    partIslands p m = partCleared p m := by
  have after := partCleared_still (p := p) still
  have quiet : ¬ ((m.part p).rst ≠ 1 ∨ (slotsWhere m fun x => x.part == p).any (fun i => anyFlight m i) = true) := by
    simp [resets, settled]
  rw [partIslands]
  dsimp only
  rw [if_neg quiet]
  change flrAll _ (closeAdvance p (partCleared p m)) = _
  rw [closeAdvance_open (after.parts p).1, flrAll_none after.funs]

theorem partCleared_part : ((partCleared p m).part p).rst = 3 := by
  rw [partCleared, Module.updPart_eq, Module.setPart_part, if_pos rfl]

theorem partCleared_free {i : Nat} (inside : (m.ctx i).part = p) : ((partCleared p m).ctx i).state = .free := by
  refine freeSlots_free (m := diesReset p m) ?_
  rw [diesReset_ctx]
  by_cases free : (m.ctx i).state = .free
  · exact .inr free
  · exact .inl (mem_slotsWhere free (by simpa using inside))

theorem partCleared_core {c : Nat} (inside : c < 512) (own : partOfCore m c = p) : (partCleared p m).core c = CoreSt.init :=
  foldl_keeps (I := fun q => q.core c = CoreSt.init) (fun _ _ h => freeSlot_core h) (slotsWhere m fun x => x.part == p)
    (diesReset_core m inside own)

end

section
variable {s : State} {part : BitVec 3} (on : s.mod.on = true) (lib : s.mod.boot.lib = true)
include on

theorem partitionResetTimeout_gives (resets : (s.mod.part part.toNat).rst ≠ 0) : Gives (.partitionResetTimeout part) s
    (if (s.mod.part part.toNat).rstAt + 40000000 ≤ s.mod.now then moduleReset 0 s.mod else s.mod) := by
  refine lift_gives on (k := fun m => if (m.part part.toNat).rst ≠ 0 ∧ (m.part part.toNat).rstAt + 40000000 ≤ m.now
    then moduleReset 0 m else m) rfl ?_
  by_cases late : (s.mod.part part.toNat).rstAt + 40000000 ≤ s.mod.now
  · exact (if_pos ⟨resets, late⟩).trans (if_pos late).symm
  · exact (if_neg fun h => late h.2).trans (if_neg late).symm

include lib

/-- PARTITION_RESET_ISLANDS sends no record of a close where none waits. -/
theorem partitionResetIslands_gives (still : Still s.mod) (resets : (s.mod.part part.toNat).rst = 1)
    (settled : ∀ i, anyFlight s.mod i = false) : Gives (.partitionResetIslands part) s (partCleared part.toNat s.mod) := by
  have sent := sendCloses_none (s := { s with mod := partCleared part.toNat s.mod }) fun k => ((partCleared_still still).parts k).2
  change liftCL (partIslands part.toNat) s = _
  rw [liftCL, liftC, if_pos on]
  dsimp only
  rw [if_pos lib, partIslands_still still resets settled, sent, ite_self]

theorem partrst_gives {f : Fn} (isPart : isPart s.mod part.toNat = true) (up : hostUp s.mod f.val = true)
    (sees : seesPart s.mod f.val part.toNat = true) : Gives (.partrst f part) s (partReset part.toNat 3 s.mod) :=
  liftW_gives (w := some f) on lib rfl up (if_pos (by rw [isPart, sees]; rfl))

theorem partitionReady_gives (ends : (s.mod.part part.toNat).rst = 3) : Gives (.partitionReady part) s
    (led 0x0203 sevWarn (atPart part.toNat) [Config.ledgerNo 0x0203 (s.mod.part part.toNat).rstTrig, s.mod.now]
      (s.mod.updPart part.toNat fun q => { q with rst := 0 })) :=
  liftL_gives on lib rfl (if_pos ends)

end

/-- What an engine loses at its reset (13 R426). -/
theorem engineDown_lost (e : Engine) (now : Nat) (c : CoreSt) : let d := c.engineDown e now
    (e = .me → d.meQ = [] ∧ d.meRun = none ∧ d.cart = [] ∧ d.acc = []) ∧
    (e = .ve → d.veQ = [] ∧ d.chains = []) ∧ (e = .te → d.teQ = [] ∧ d.teRun = [] ∧ d.tePark = []) := by
  cases e <;> simp [CoreSt.engineDown, CoreSt.clearEngine]

/-- Settles O31: an engine out of work faults its context, a partition reset takes down every context of its dies, and both
grow into the next larger reset when they are late. -/
theorem engineAndPartitionResets : Obligations.EngineAndPartitionResets := by
  refine ⟨fun core e s on lib => ?_, fun part s on lib => ?_⟩
  · intro n m q
    have down : q.core n = (m.core n).engineDown e m.now := engineReset_core ..
    refine ⟨fun up => engrst_gives on lib core e up, engineInternalCheck_gives on lib core e, fun t stopping => ?_, ?_,
      fun i owner first present live => engineReset_faults owner first present live,
      fun ⟨t, resets⟩ => engineResetDone_gives on lib core e resets, fun t resets => ?_⟩
    · have gives := engineStopTimeout_gives on lib core e stopping
      exact ⟨gives_of_pos gives, fun early => gives_of_neg gives (Nat.not_le.2 early)⟩
    · rw [down]
      exact ⟨List.mem_append_right _ (List.mem_singleton.2 rfl), engineDown_lost e m.now (m.core n)⟩
    · have gives := engineResetTimeout_gives on lib core e resets
      exact ⟨gives_of_pos gives, fun early => gives_of_neg gives (Nat.not_le.2 early)⟩
  · intro p m
    refine ⟨fun isPart idle => ⟨fun f up sees => ?_, liftL_gives on lib rfl rfl, fun k => ?_⟩, fun still funs resets settled => ?_,
      partitionReady_gives on lib, fun resets => ?_⟩
    · refine partrst_gives on lib isPart up ?_
      rcases sees with rfl | bound
      · rfl
      · exact Bool.or_eq_true_iff.2 (.inr bound)
    · obtain ⟨begins, down⟩ := partReset_begins isPart idle k
      intro q
      rw [begins]
      exact ⟨rfl, rfl, rfl, down⟩
    · exact ⟨_, partitionResetIslands_gives on lib ⟨still, funs⟩ resets settled, partCleared_part,
        fun i inside => partCleared_free inside, fun c inside own => partCleared_core inside own⟩
    · have gives := partitionResetTimeout_gives on resets
      exact ⟨gives_of_pos gives, fun early => gives_of_neg gives (Nat.not_le.2 early)⟩

end Sys2Proof.Machine

namespace Sys2Proof.Machine

open Sys2Proof.Safety

/-! Function Level Resets (O34; 13 R433, R434; 17 R530) -/

/-- A fold reaches what one of its steps establishes and every step keeps. -/
theorem foldl_reaches {α : Type} {op : Module → α → Module} {I : Module → Prop} (keep : ∀ m a, I m → I (op m a)) {a : α}
    (reach : ∀ m, I (op m a)) {l : List α} (mem : a ∈ l) (m : Module) : I (l.foldl op m) := by
  obtain ⟨l₁, l₂, rfl⟩ := List.append_of_mem mem
  rw [List.foldl_append, List.foldl_cons]
  exact foldl_keeps keep l₂ (reach _)

/-- An entry is listed still after another is put in, unless it is the one that its key reads as. -/
theorem sparse_put_keeps {β : Type} {d x : β} {l : Sparse β} {k : Nat} {e : Nat × β} (h : e ∈ l) :
    e ∈ Sparse.put l k x ∨ e = (k, Sparse.get d l k) := by
  induction l with
  | nil => exact absurd h List.not_mem_nil
  | cons a l ih =>
    rw [Sparse.put, Sparse.get_cons]
    by_cases same : k = a.1
    · rw [if_pos same, if_pos same]
      rcases List.mem_cons.1 h with rfl | later
      · exact .inr (by rw [same])
      · exact .inl (.tail _ later)
    · rw [if_neg same, if_neg same]
      split
      · exact .inl (.tail _ h)
      · rcases List.mem_cons.1 h with rfl | later
        · exact .inl (.head _)
        · exact (ih later).imp_left (.tail _)

theorem hasCtx_iff {m : Module} {p : Nat} : hasCtx m p = true ↔ ∃ e ∈ m.ctxs, e.2.state ≠ .free ∧ e.2.part = p := by
  rw [hasCtx, slotsWhere, Bool.not_eq_true', List.isEmpty_eq_false_iff, Ne, List.map_eq_nil_iff, List.filter_eq_nil_iff]
  simp

/-- A context that a read finds is listed. -/
theorem hasCtx_of_ctx {m : Module} {i : Nat} (present : (m.ctx i).state ≠ .free) : hasCtx m (m.ctx i).part = true := by
  have listed := mem_slotsWhere (t := fun x => x.part == (m.ctx i).part) present (beq_self_eq_true _)
  rw [hasCtx, Bool.not_eq_true', List.isEmpty_eq_false_iff]
  exact List.ne_nil_of_mem listed

theorem tornDown_part (cmd now : Nat) (x : Ctx) : (x.tornDown cmd now).part = x.part := by
  unfold Ctx.tornDown
  split <;> rfl

/-- A partition that holds a context holds it until the teardown ends (13 R430). -/
theorem startTeardown_hasCtx {m : Module} {p : Nat} (h : hasCtx m p = true) (slot cmd : Nat) :
    hasCtx (startTeardown slot cmd m) p = true := by
  by_cases down : (m.ctx slot).state = .free ∨ (m.ctx slot).state = .teardown
  · rwa [startTeardown, if_pos down]
  · obtain ⟨free, -⟩ := not_or.1 down
    have torn : ((startTeardown slot cmd m).ctx slot) = (m.ctx slot).tornDown cmd m.now := by rw [startTeardown_slot, if_pos rfl]
    have present : ((startTeardown slot cmd m).ctx slot).state ≠ .free := by rw [torn, tornDown_down _ _ free]; decide
    rcases startTeardown_frame slot cmd m with eq | ⟨_, _, _, _, _, _, _, _, _, _, _, _, eq⟩
    · rwa [eq]
    · have ctxs : (startTeardown slot cmd m).ctxs = Sparse.put m.ctxs slot ((m.ctx slot).tornDown cmd m.now) := by
        rw [eq]
        exact if_neg fun init => present (by rw [torn, init]; rfl)
      obtain ⟨e, listed, held, own⟩ := hasCtx_iff.1 h
      rcases sparse_put_keeps (d := Ctx.init) (k := slot) (x := (m.ctx slot).tornDown cmd m.now) listed with mem | rfl
      · exact hasCtx_iff.2 ⟨e, ctxs ▸ mem, held, own⟩
      · have kept := hasCtx_of_ctx present
        rw [torn, tornDown_part] at kept
        exact own ▸ kept

section
variable (ps : List Nat) (m : Module)

theorem drain_ground : SameGround m (drain ps m) := .each (fun i q => startTeardown_ground i 0 q) _ m

theorem drain_hasCtx {m : Module} {p : Nat} (h : hasCtx m p = true) : hasCtx (drain ps m) p = true :=
  foldl_keeps (I := fun q => hasCtx q p = true) (fun _ i hq => startTeardown_hasCtx hq i 0) _ h

theorem drain_down {ps : List Nat} {m : Module} {i : Nat} (present : (m.ctx i).state ≠ .free) (own : (m.ctx i).part ∈ ps) :
    ((drain ps m).ctx i).state = .teardown :=
  (startTeardown_takesDown 0).each_slots (t := fun x => ps.contains x.part) present (List.contains_iff_mem.2 own) rfl

theorem drain_empty {ps : List Nat} {m : Module} (empty : ∀ p ∈ ps, hasCtx m p = false) : drain ps m = m := by
  have none_listed : slotsWhere m (fun x => ps.contains x.part) = [] := by
    rw [slotsWhere, List.map_eq_nil_iff, List.filter_eq_nil_iff]
    intro e listed test
    obtain ⟨held, own⟩ := Bool.and_eq_true_iff.1 test
    have holds : hasCtx m e.2.part = true := hasCtx_iff.2 ⟨e, listed, by simpa using held, rfl⟩
    rw [empty _ (List.contains_iff_mem.1 own)] at holds
    exact Bool.false_ne_true holds
  rw [drain, none_listed]
  rfl

end

theorem flrParts_congr {m q : Module} (layout : q.layout = m.layout) (parts : q.parts = m.parts) (f : Nat) :
    flrParts q f = flrParts m f := by
  simp only [flrParts, isBound, isPart, boundFn, partOfDie, Module.part, layout, parts]
  rfl

/-- The module with an FLR of a function pending, its contexts on their way down (13 R433). -/
def flrPending (f : Nat) (m : Module) : Module :=
  drain (flrParts m f) (m.updFunc f fun x => { x with flr := some m.now })

section
variable {f : Nat} {m : Module}

theorem flr_pending (idle : (m.func f).flr = none) : flr f m = flrFinish f false (flrPending f m) := by
  rw [flr, idle]
  rfl

theorem flrPending_func : ((flrPending f m).func f).flr = some m.now := by
  rw [flrPending, Module.func, (drain_ground ..).funs, ← Module.func, Module.updFunc_eq, Module.setFunc_func, if_pos rfl]

theorem flrPending_parts : flrParts (flrPending f m) f = flrParts m f :=
  flrParts_congr (drain_ground ..).layout (drain_ground ..).parts f

theorem flrFinish_waits {back : Bool} (holds : ∃ p ∈ flrParts m f, hasCtx m p = true) : flrFinish f back m = m := by
  unfold flrFinish
  split
  · rfl
  · exact if_pos (List.any_eq_true.2 holds)

/-- The end of an FLR touches its function and the ledger alone. -/
theorem flrFinish_frame (back : Bool) : flrFinish f back m = m ∨
    ∃ code sev pl data, flrFinish f back m = led code sev pl data (m.updFunc f Func.afterFlr) := by
  unfold flrFinish
  split
  · exact .inl rfl
  · split
    · exact .inl rfl
    · exact .inr ⟨_, _, _, _, rfl⟩

theorem flrFinish_ctxs (back : Bool) : (flrFinish f back m).ctxs = m.ctxs := by
  rcases flrFinish_frame (f := f) (m := m) back with eq | ⟨_, _, _, _, eq⟩ <;> rw [eq]
  simp only [led_same]
  rfl

theorem flr_waits (idle : (m.func f).flr = none) (holds : ∃ p ∈ flrParts m f, hasCtx m p = true) : flr f m = flrPending f m := by
  obtain ⟨p, own, held⟩ := holds
  rw [flr_pending idle]
  exact flrFinish_waits ⟨p, by rwa [flrPending_parts], drain_hasCtx _ held⟩

theorem flr_ends (idle : (m.func f).flr = none) (empty : ∀ p ∈ flrParts m f, hasCtx m p = false) :
    (flr f m).func f = { Func.init with ide := (m.func f).ide } ∧ (flr f m).ctxs = m.ctxs := by
  have pending : flrPending f m = m.updFunc f fun x => { x with flr := some m.now } := drain_empty empty
  have free : ¬ (flrParts (flrPending f m) f).any (fun p => hasCtx (flrPending f m) p) = true := fun any => by
    obtain ⟨p, own, held⟩ := List.any_eq_true.1 any
    rw [flrPending_parts] at own
    rw [pending] at held
    exact Bool.false_ne_true ((empty p own).symm.trans held)
  refine ⟨?_, by rw [flr_pending idle, flrFinish_ctxs, pending]; rfl⟩
  rw [flr_pending idle, flrFinish, flrPending_func]
  dsimp only
  rw [if_neg free]
  simp only [led_parts, pending, Module.updFunc_eq, Module.setFunc_func, if_true]
  rfl

theorem flr_drains {i : Nat} (idle : (m.func f).flr = none) (present : (m.ctx i).state ≠ .free)
    (own : (m.ctx i).part ∈ flrParts m f) : ((flr f m).ctx i).state = .teardown := by
  rw [flr_pending idle, Module.ctx, flrFinish_ctxs]
  exact drain_down (m := m.updFunc f _) present own

/-- An FLR leaves the boot state, the clocks, the timetable and the partitions as they are. -/
theorem flr_keeps : (flr f m).boot = m.boot ∧ (flr f m).time = m.time ∧ (flr f m).tt = m.tt ∧ (flr f m).parts = m.parts := by
  by_cases idle : (m.func f).flr = none
  · have ground : SameGround (m.updFunc f fun x => { x with flr := some m.now }) (flrPending f m) := drain_ground ..
    rw [flr_pending idle]
    rcases flrFinish_frame (f := f) (m := flrPending f m) false with eq | ⟨_, _, _, _, eq⟩ <;> rw [eq]
    · exact ⟨ground.boot, ground.time, ground.tt, ground.parts⟩
    · simp only [led_same]
      exact ⟨ground.boot, ground.time, ground.tt, ground.parts⟩
  · rw [flr, if_pos (Option.isSome_iff_ne_none.2 idle)]
    exact ⟨rfl, rfl, rfl, rfl⟩

end

/-! The commands of functions (13 R433, R434; 17 R522, R523) -/

section
variable {f : Fn} {s : State} (on : s.mod.on = true)
include on

theorem flr_gives : Gives (.flr f) s (if s.mod.boot.perstN = true ∧ hasFn s.mod f.val = true then flr f.val s.mod else s.mod) := by
  refine lift_gives on (k := fun m => if m.boot.perstN && hasFn m f.val then flr f.val m else m) rfl ?_
  simp only [Bool.and_eq_true]

theorem vfDisable_gives : Gives (.vfDisable f) s
    (if f ≠ 0 ∧ s.mod.boot.perstN = true ∧ hasFn s.mod f.val = true then flr f.val s.mod else s.mod) := lift_gives on rfl rfl

theorem d3hotTransition_gives (b : Bool) : Gives (.d3hotTransition f b) s
    (if s.mod.boot.perstN = true ∧ hasFn s.mod f.val = true then s.mod.updFunc f.val fun x => { x with d3hot := b } else s.mod) := by
  refine lift_gives on
    (k := fun m => if m.boot.perstN && hasFn m f.val then m.updFunc f.val fun x => { x with d3hot := b } else m) rfl ?_
  simp only [Bool.and_eq_true]

theorem sriovDisable_gives : Gives .sriovDisable s (if s.mod.boot.perstN = true then sriovDisable s.mod else s.mod) :=
  lift_gives on rfl rfl

end

section
variable {s : State} (on : s.mod.on = true) (lib : s.mod.boot.lib = true)
include on lib

theorem sriovEnable_gives (n : BitVec 4) : Gives (.sriovEnable n) s
    (if s.mod.boot.perstN = true ∧ s.mod.boot.ready = true ∧ n.toNat ≤ 8 then
      (if catOn s.mod 1 then { s.mod with boot := { s.mod.boot with numvfs := n.toNat, sriovOff := none } }
        else led 0x0901 sevWarn atModule [0, 1, 0] s.mod)
     else s.mod) := by
  refine liftL_gives on lib (k := fun m =>
    if !m.boot.perstN || !m.boot.ready || decide (8 < n.toNat) then m
    else if catOn m 1 then { m with boot := { m.boot with numvfs := n.toNat, sriovOff := none } }
    else led 0x0901 sevWarn atModule [0, 1, 0] m) rfl ?_
  by_cases taken : s.mod.boot.perstN = true ∧ s.mod.boot.ready = true ∧ n.toNat ≤ 8
  · rw [if_pos taken]
    exact if_neg (by simp [taken])
  · rw [if_neg taken]
    exact if_pos (by_contra fun lets => taken (by simpa [and_assoc] using lets))

end

/-- Nothing but functions changes where functions alone are written. -/
theorem setFuncs_frame {op : Module → Nat → Module} (writes : ∀ m f, ∃ funs, op m f = { m with funs := funs }) (l : List Nat)
    (m : Module) : ∃ funs, l.foldl op m = { m with funs := funs } :=
  foldl_keeps (I := fun q => ∃ funs, q = { m with funs := funs }) (fun q f ⟨_, h⟩ => by
    obtain ⟨funs, eq⟩ := writes q f
    exact ⟨funs, by rw [eq, h]⟩) l ⟨m.funs, rfl⟩

/-- A virtual function is gone (17 R523). -/
def vfGone (m : Module) (f : Nat) : Module := if f = 0 then m else m.setFunc f Func.init

theorem vfGone_frame (m : Module) (f : Nat) : ∃ funs, vfGone m f = { m with funs := funs } := by
  unfold vfGone
  split
  · exact ⟨_, rfl⟩
  · exact ⟨_, rfl⟩

section
variable {m : Module} (enabled : m.boot.numvfs ≠ 0)
include enabled

theorem sriovDisable_eq : sriovDisable m =
    let q := (upTo 9).foldl vfGone (drain (upTo 8) m)
    { q with boot := { q.boot with numvfs := 0, sriovOff := some q.now } } := if_neg enabled

theorem sriovDisable_boot : (sriovDisable m).boot.numvfs = 0 ∧ (sriovDisable m).boot.sriovOff = some m.now := by
  have ground := drain_ground (upTo 8) m
  obtain ⟨funs, frame⟩ := setFuncs_frame vfGone_frame (upTo 9) (drain (upTo 8) m)
  rw [sriovDisable_eq enabled, frame]
  exact ⟨rfl, congrArg (fun t : Time => some t.now) ground.time⟩

theorem sriovDisable_func {n : Nat} (vf : 1 ≤ n) (listed : n ≤ 8) : (sriovDisable m).func n = Func.init := by
  rw [sriovDisable_eq enabled]
  refine foldl_reaches (I := fun q => q.func n = Func.init) (fun q f h => ?_) (a := n) (fun q => ?_) (List.mem_range.2 (by omega)) _
  · unfold vfGone
    split
    · exact h
    · rw [Module.setFunc_func]
      split
      · rfl
      · exact h
  · rw [vfGone, if_neg (by omega), Module.setFunc_func, if_pos rfl]

theorem sriovDisable_drains {i : Nat} (present : (m.ctx i).state ≠ .free) (own : (m.ctx i).part < 8) :
    ((sriovDisable m).ctx i).state = .teardown := by
  obtain ⟨funs, frame⟩ := setFuncs_frame vfGone_frame (upTo 9) (drain (upTo 8) m)
  rw [sriovDisable_eq enabled, frame]
  exact drain_down present (List.mem_range.2 own)

end

/-! The backstop of an FLR (13 R434) -/

theorem partReset_parts (k trig : Nat) (m : Module) : (partReset k trig m).layout = m.layout ∧ ∀ j, (partReset k trig m).part j =
    if j = k ∧ isPart m k = true ∧ (m.part k).rst = 0 then (m.part k).resetting m.now trig else m.part j := by
  by_cases begins : isPart m k = true ∧ (m.part k).rst = 0
  · obtain ⟨part, idle⟩ := begins
    rw [partReset, if_neg (by simp [part, idle])]
    refine ⟨(SameGround.each escalate_ground ..).layout, fun j => ?_⟩
    dsimp only
    rw [Module.part, (SameGround.each escalate_ground ..).parts, ← Module.part, Module.updPart_eq, Module.setPart_part]
    simp only [part, idle, and_self, and_true]
    rfl
  · have stays : partReset k trig m = m := if_pos (by
      simp only [Bool.or_eq_true, Bool.not_eq_true', bne_iff_ne]
      by_cases part : isPart m k = true
      · exact .inr fun idle => begins ⟨part, idle⟩
      · exact .inl (Bool.eq_false_iff.2 part))
    rw [stays]
    exact ⟨rfl, fun j => (if_neg fun h => begins h.2).symm⟩

/-- Each partition of a list that is not in reset already is reset. -/
theorem partResets_begin {p : Nat} {l : List Nat} (listed : p ∈ l) {m : Module} (part : isPart m p = true) (idle : (m.part p).rst = 0)
    (trig : Nat) : ((each l (fun k => partReset k trig) m).part p).rst = 1 := by
  have part_of {q : Module} (h : q.layout = m.layout) : isPart q p = true := by
    rw [← part, isPart, isPart, partOfDie, partOfDie, h]
  have keep (q : Module) (k : Nat) (h : q.layout = m.layout ∧ (q.part p).rst = 1) :
      (partReset k trig q).layout = m.layout ∧ ((partReset k trig q).part p).rst = 1 := by
    obtain ⟨layout, parts⟩ := partReset_parts k trig q
    refine ⟨layout.trans h.1, ?_⟩
    rw [parts]
    split
    · rfl
    · exact h.2
  have stay (q : Module) (k : Nat) (h : q.layout = m.layout ∧ ((q.part p).rst = 0 ∨ (q.part p).rst = 1)) :
      (partReset k trig q).layout = m.layout ∧ (((partReset k trig q).part p).rst = 0 ∨ ((partReset k trig q).part p).rst = 1) := by
    obtain ⟨layout, parts⟩ := partReset_parts k trig q
    refine ⟨layout.trans h.1, ?_⟩
    rw [parts]
    split
    · exact .inr rfl
    · exact h.2
  obtain ⟨a, b, rfl⟩ := List.append_of_mem listed
  have before := foldl_keeps (op := fun m k => partReset k trig m) stay a ⟨rfl, .inl idle⟩
  rw [each, List.foldl_append, List.foldl_cons]
  generalize a.foldl _ m = q at before ⊢
  refine (foldl_keeps keep b ⟨(partReset_parts p trig q).1.trans before.1, ?_⟩).2
  rw [(partReset_parts p trig q).2]
  by_cases now_idle : (q.part p).rst = 0
  · rw [if_pos ⟨rfl, part_of before.1, now_idle⟩]
    rfl
  · rw [if_neg fun h => now_idle h.2.2]
    exact before.2.resolve_left now_idle

/-- The module after the backstop of an FLR: every partition that still drains is in reset. -/
def backstopped (f : Nat) (m : Module) : Module :=
  let q := each ((flrParts m f).filter fun p => hasCtx m p) (fun p => partReset p 2) m
  if (q.func f).flr.isNone then { q with boot := { q.boot with sriovOff := none } } else q

section
variable {f : Fn} {s : State} (on : s.mod.on = true) (lib : s.mod.boot.lib = true)
include on lib

theorem flrBackstop_idle (idle : drainingSince s.mod f.val = none) : Gives (.flrBackstop f) s s.mod := by
  change execFlrBackstop f s = _
  rw [execFlrBackstop, liftL_lib on lib, idle]

theorem flrBackstop_gives {t : Nat} (drains : drainingSince s.mod f.val = some t) : Gives (.flrBackstop f) s
    (if t + 90000000 ≤ s.mod.now then backstopped f.val s.mod else s.mod) := by
  change execFlrBackstop f s = _
  rw [execFlrBackstop, liftL_lib on lib, drains]
  rfl

end

/-! PERST# (17 R523, R531) -/

/-- A function after PERST#: an FLR of the physical one stays pending. -/
def funcPerst (m : Module) (f : Nat) : Module :=
  m.setFunc f { Func.init with flr := if f = 0 then (m.func f).flr else none }

/-- The module with PERST# low. -/
def perstLow (m : Module) : Module := { m with boot := { m.boot with perstN := false } }

/-- What PERST# makes of a module that runs. -/
def perst (m : Module) : Module :=
  let q := (upTo 9).foldl funcPerst (flr 0 (perstLow m))
  { q with boot := { q.boot with numvfs := 0 } }

section
variable (m : Module)

theorem perst_frame : ∃ funs, perst m =
    { flr 0 (perstLow m) with funs := funs, boot := { (flr 0 (perstLow m)).boot with numvfs := 0 } } := by
  obtain ⟨funs, frame⟩ := setFuncs_frame (op := funcPerst) (fun _ _ => ⟨_, rfl⟩) (upTo 9) (flr 0 (perstLow m))
  exact ⟨funs, by rw [perst, frame]⟩

theorem perst_keeps : (perst m).boot = { m.boot with perstN := false, numvfs := 0 } ∧ (perst m).time = m.time ∧ (perst m).tt = m.tt ∧
    (perst m).parts = m.parts := by
  obtain ⟨funs, frame⟩ := perst_frame m
  obtain ⟨boot, time, tt, parts⟩ := flr_keeps (f := 0) (m := perstLow m)
  rw [frame]
  dsimp only
  rw [boot]
  exact ⟨rfl, time, tt, parts⟩

theorem funcPersts_func {n : Nat} (listed : n ≤ 8) :
    (((upTo 9).foldl funcPerst m).func n).ide = false ∧ (((upTo 9).foldl funcPerst m).func n).queues = [] := by
  refine foldl_reaches (op := funcPerst) (I := fun q => (q.func n).ide = false ∧ (q.func n).queues = []) (fun q f h => ?_) (a := n)
    (fun q => ?_) (List.mem_range.2 (by omega)) m
  · rw [funcPerst, Module.setFunc_func]
    split
    · exact ⟨rfl, rfl⟩
    · exact h
  · rw [funcPerst, Module.setFunc_func, if_pos rfl]
    exact ⟨rfl, rfl⟩

theorem perst_func {n : Nat} (listed : n ≤ 8) : ((perst m).func n).ide = false ∧ ((perst m).func n).queues = [] := by
  have low := funcPersts_func (flr 0 (perstLow m)) listed
  unfold perst
  generalize (upTo 9).foldl funcPerst _ = q at low ⊢
  exact low

theorem perst_drains {m : Module} {i : Nat} (idle : (m.func 0).flr = none) (present : (m.ctx i).state ≠ .free)
    (own : (m.ctx i).part ∈ flrParts m 0) : ((perst m).ctx i).state = .teardown := by
  obtain ⟨funs, frame⟩ := perst_frame m
  rw [frame]
  exact flr_drains (m := perstLow m) idle present own

end

theorem perstAssert_gives {s : State} : Gives .perstAssert s (if s.mod.on = true then perst s.mod else perstLow s.mod) := rfl

theorem perstDeassert_gives {s : State} : Gives .perstDeassert s
    (if s.mod.boot.perstN = true then s.mod else linkUp { s.mod with boot := { s.mod.boot with perstN := true } }) := rfl

/-- Settles O34: an FLR drains the partitions of its function and ends with the last context, the backstop resets what drains
for 90 ms, and PERST# acts as an FLR of the physical function. -/
theorem functionResets : Obligations.FunctionResets := by
  intro f s on m k drained
  refine ⟨fun link fn => ⟨gives_of_pos (flr_gives on) ⟨link, fn⟩, fun vf => gives_of_pos (vfDisable_gives on) ⟨vf, link, fn⟩,
      fun b => gives_of_pos (d3hotTransition_gives on b) ⟨link, fn⟩⟩,
    fun gone => ?_, gives_of_neg (vfDisable_gives on) fun h => h.1 rfl, fun pending => if_pos pending,
    fun idle => ⟨flr_ends idle, fun holds => ?_⟩, fun lib n => ⟨fun link ready size => ?_, fun out => ?_⟩,
    fun link => gives_of_pos (sriovDisable_gives on) link,
    fun link => gives_of_neg (sriovDisable_gives on) (by rw [link]; exact Bool.false_ne_true),
    fun none_enabled => if_pos none_enabled, fun enabled => ?_,
    fun lib => ⟨flrBackstop_idle on lib, fun t drains => ?_⟩, ?_, fun u => ?_⟩
  · have refused : ¬ (m.boot.perstN = true ∧ hasFn m k = true) := fun h => by rcases gone with g | g <;> simp [g] at h
    exact ⟨gives_of_neg (flr_gives on) refused, gives_of_neg (vfDisable_gives on) fun h => refused h.2,
      fun b => gives_of_neg (d3hotTransition_gives on b) refused⟩
  · refine ⟨?_, fun i present own => flr_drains idle present own⟩
    rw [flr_waits idle holds]
    exact flrPending_func
  · exact gives_of_pos (sriovEnable_gives on lib n) ⟨link, ready, size⟩
  · exact gives_of_neg (sriovEnable_gives on lib n) fun ⟨link, ready, size⟩ => by
      rcases out with h | h | h
      · exact Bool.false_ne_true (h.symm.trans link)
      · exact Bool.false_ne_true (h.symm.trans ready)
      · exact absurd size (Nat.not_le.2 h)
  · exact ⟨(sriovDisable_boot enabled).1, (sriovDisable_boot enabled).2, fun n vf listed => sriovDisable_func enabled vf listed,
      fun i present own => sriovDisable_drains enabled present own⟩
  · have gives := flrBackstop_gives on lib drains
    refine ⟨fun early => gives_of_neg gives (Nat.not_le.2 early), fun late => ⟨gives_of_pos gives late, fun p own holds idle => ?_⟩⟩
    have part : isPart m p = true := (Bool.and_eq_true_iff.1 (List.mem_filter.1 own).2).1
    exact partResets_begin (List.mem_filter.2 ⟨own, holds⟩) part idle 2
  · obtain ⟨boot, time, tt, parts⟩ := perst_keeps m
    refine ⟨perst m, gives_of_pos perstAssert_gives on, by rw [boot], by rw [boot], by rw [boot], time, tt, fun p => ?_,
      fun n listed => perst_func m listed, fun idle i present own => perst_drains idle present own⟩
    rw [Module.part, parts]
    rfl
  · exact ⟨fun off => gives_of_neg perstAssert_gives (by rw [off]; exact Bool.false_ne_true), gives_of_pos perstDeassert_gives,
      fun low => gives_of_neg perstDeassert_gives (by rw [low]; exact Bool.false_ne_true)⟩

end Sys2Proof.Machine

namespace Sys2Proof.Machine

open Sys2Proof.Safety

/-! What a module reset leaves (O32; 13 R428; 17 R538) -/

/-- The second module differs from the first in the boot state, the attestation log, retired channels and outputs alone, and has
its image, its rails and its readiness. -/
def BootOnly (m q : Module) : Prop := ∃ boot att stripes ledger out,
  q = { m with boot := boot, att := att, stripes := stripes, ledger := ledger, out := out } ∧
    boot.ready = m.boot.ready ∧ boot.store = m.boot.store ∧ boot.rails = m.boot.rails

theorem BootOnly.refl (m : Module) : BootOnly m m := ⟨_, _, _, _, _, rfl, rfl, rfl, rfl⟩

theorem BootOnly.trans {m p q : Module} (h : BootOnly m p) (g : BootOnly p q) : BootOnly m q := by
  obtain ⟨_, _, _, _, _, rfl, ready, store, rails⟩ := h
  obtain ⟨_, _, _, _, _, rfl, ready', store', rails'⟩ := g
  exact ⟨_, _, _, _, _, rfl, ready'.trans ready, store'.trans store, rails'.trans rails⟩

theorem led_bootOnly (code sev : Nat) (pl : Place) (data : List Nat) (m : Module) : BootOnly m (led code sev pl data m) := by
  obtain ⟨_, _, frame⟩ := led_frame (m := m) code sev pl data
  exact ⟨_, _, _, _, _, frame, rfl, rfl, rfl⟩

theorem attest_bootOnly (e : BitVec 512) (m : Module) : BootOnly m (attest e m) := by
  obtain ⟨_, frame⟩ := attest_frame e m
  exact ⟨_, _, _, _, _, frame, rfl, rfl, rfl⟩

theorem retire_bootOnly (k ch trig : Nat) (m : Module) : BootOnly m (retire k ch trig m) := by
  obtain ⟨_, _, _, frame⟩ := retire_frame (m := m) k ch trig
  exact ⟨_, _, _, _, _, frame, rfl, rfl, rfl⟩

theorem linkUp_bootOnly (m : Module) : BootOnly m (linkUp m) := by
  unfold linkUp
  split
  · exact led_bootOnly ..
  · exact .refl m

theorem startLib_bootOnly (m : Module) : BootOnly m (startLib m) := by
  unfold startLib
  dsimp only
  refine BootOnly.trans ?_ (linkUp_bootOnly _)
  refine foldl_keeps (I := BootOnly m) (fun q k h => h.trans (retire_bootOnly ..)) _ ?_
  have started : BootOnly m { m with boot := { m.boot with st := .running, cause := 0, lib := true, restartClose := true } } :=
    ⟨_, _, _, _, _, rfl, rfl, rfl, rfl⟩
  have attested (e) := (started.trans (attest_bootOnly Config.romDigest _)).trans (attest_bootOnly e _)
  split
  · exact attested _
  · exact (attested _).trans (led_bootOnly ..)

theorem bootRom_bootOnly (m : Module) : BootOnly m (bootRom m) := by
  have opened : BootOnly m { m with boot := { m.boot with inReset := false, st := .window } } := ⟨_, _, _, _, _, rfl, rfl, rfl, rfl⟩
  unfold bootRom
  dsimp only
  split
  · exact .refl m
  · split
    · exact opened
    · unfold bootCheck
      split
      · exact opened.trans ⟨_, _, _, _, _, rfl, rfl, rfl, rfl⟩
      · exact opened.trans (startLib_bootOnly _)

/-- A module that a pin holds is in reset (17 R538, R539). -/
theorem moduleReset_held (k : Nat) {m : Module} (held : m.boot.rstN = false ∨ m.boot.refclk = false) : (moduleReset k m).on = false := by
  have waits : moduleReset k m = wiped k m := if_pos (by
    change (!(m.boot.rails && true && m.boot.rstN && m.boot.refclk)) = true
    rcases held with h | h <;> simp [h])
  rw [waits]
  exact Bool.and_false _

/-- The boot ROM without an image opens the window (17 R541, R544). -/
theorem bootRom_opens {m : Module} (rails : m.boot.rails = true) (reset : m.boot.inReset = true) (rstN : m.boot.rstN = true)
    (refclk : m.boot.refclk = true) (store : m.boot.store = []) :
    bootRom m = { m with boot := { m.boot with inReset := false, st := .window } } := by
  rw [bootRom, if_neg (by simp [rails, reset, rstN, refclk])]
  exact if_pos (List.isEmpty_iff.2 store)

section
variable {s : State}

theorem liftPin_gives {c : Instr} {k : Module → Module} {p : Module} (is : exec c s = liftPin k s) (e : k s.mod = p) : Gives c s p := by
  rw [Gives, is, liftPin, e]

theorem rstNAssert_gives : Gives .rstNAssert s (if s.mod.boot.rails = true
    then moduleReset 4 { s.mod with boot := { s.mod.boot with rstN := false } }
    else { s.mod with boot := { s.mod.boot with rstN := false } }) := rfl

theorem refclkLoss_gives : Gives .refclkLoss s (if s.mod.boot.rails = true
    then moduleReset 5 { s.mod with boot := { s.mod.boot with refclk := false } }
    else { s.mod with boot := { s.mod.boot with refclk := false } }) := rfl

variable (rails : s.mod.boot.rails = true) (reset : s.mod.boot.inReset = true) (store : s.mod.boot.store = [])
include rails reset store

theorem rstNRelease_gives (refclk : s.mod.boot.refclk = true) : Gives .rstNRelease s
    { s.mod with boot := { s.mod.boot with rstN := true, inReset := false, st := .window } } :=
  liftPin_gives (k := fun m => bootRom { m with boot := { m.boot with rstN := true } }) rfl
    (bootRom_opens (m := { s.mod with boot := { s.mod.boot with rstN := true } }) rails reset rfl refclk store)

theorem refclkReturn_gives (rstN : s.mod.boot.rstN = true) : Gives .refclkReturn s
    { s.mod with boot := { s.mod.boot with refclk := true, inReset := false, st := .window } } :=
  liftPin_gives (k := fun m => bootRom { m with boot := { m.boot with refclk := true } }) rfl
    (bootRom_opens (m := { s.mod with boot := { s.mod.boot with refclk := true } }) rails reset rstN rfl store)

end

/-- Settles O32: what resets the module, how the pins hold it, and that the boot that follows adds nothing but its own traces. -/
theorem moduleResets : Obligations.ModuleResets := by
  refine ⟨fun s => ⟨fun on => ⟨fun lib => ⟨fun up => ?_, liftL_gives on lib rfl rfl⟩,
      fun pd1 => lift_gives on rfl rfl⟩, fun rails => ?_,
    fun rails reset store => ⟨rstNRelease_gives rails reset store, refclkReturn_gives rails reset store⟩⟩, fun k m => ?_⟩
  · exact liftW_gives (w := some 0) on lib rfl up rfl
  · exact ⟨gives_of_pos rstNAssert_gives rails, moduleReset_held 4 (.inl rfl), gives_of_pos refclkLoss_gives rails,
      moduleReset_held 5 (.inr rfl)⟩
  · obtain ⟨_, _, _, _, _, frame, ready, store, rails⟩ := bootRom_bootOnly (wiped k m)
    intro q
    rw [show q = _ from frame]
    exact ⟨rfl, rfl, rfl, rfl, rfl, rfl, fun _ => rfl, rfl, rfl, rfl, rfl, rfl, ready, store, rails⟩

end Sys2Proof.Machine

namespace Sys2Proof.Machine

open Sys2Proof.Safety

/-! The ledger window (O60; 13 R447, R448, Table 13.7; 15 R497) -/

theorem Entry.shownTo_iff {e : Entry} {p : Nat} :
    e.shownTo p = true ↔ (e.part = p ∧ e.scope ∈ [1, 2, 3, 5]) ∨ (e.scope = 0 ∧ e.code / 256 = 3) := by
  simp [Entry.shownTo, scPart, scCtx, scCore, scStripe, scModule, or_assoc]

section
variable {m : Module} {f : Fn} {e : Entry}

theorem seesEntry_phys : seesEntry m 0 e = true := rfl

theorem seesEntry_unbound (vf : f ≠ 0) (unbound : partOfFn m f.val = none) : seesEntry m f e = false := by
  rw [seesEntry, unbound, beq_eq_false_iff_ne.2 vf]
  rfl

/-- A virtual function sees an entry of its partition's current loan (15 R497). -/
theorem seesEntry_bound {p : Nat} (vf : f ≠ 0) (bound : partOfFn m f.val = some p) : seesEntry m f e =
    (((m.part p).st == .open_ || (m.part p).st == .closing) && e.shownTo p && decide ((m.part p).openedAt ≤ e.stamp)) := by
  rw [seesEntry, bound, beq_eq_false_iff_ne.2 vf]
  rfl

end

/-- The word of the ledger window at an entry's index. -/
def windowWord (m : Module) (f : Fn) (e : Entry) (j : Nat) : Word := if seesEntry m f e = true then wordOf (entryBytes e) (8 * j) else 0

section
variable {s : State} {f : Fn} {i j : Nat} {e : Entry} (index : i < 65536) (word : j < 8)
include index word

theorem readBar0_window : readBar0 s f (0xC00000 + 64 * i + 8 * j) = wordOf (ledgerWin s.mod f i) (8 * j) := by
  have entry : (0xC00000 + 64 * i + 8 * j - 0xC00000) / 64 = i := by omega
  have within : (0xC00000 + 64 * i + 8 * j) % 64 = 8 * j := by omega
  unfold readBar0
  dsimp only
  iterate 11 rw [if_neg (by omega)]
  rw [if_pos (by omega), entry, within]

/-- A read of the ledger window gives the word of its entry, or zero where the function does not see the entry. -/
theorem readHost_window (up : hostUp s.mod f.val = true) (lib : s.mod.boot.lib = true)
    (kept : s.mod.ledger.entries.find? (fun e => e.seq % 65536 == i) = some e) :
    readHost s f (0xC00000 + 64 * i + 8 * j) 8 = some (windowWord s.mod f e j).toNat := by
  have aligned : (0xC00000 + 64 * i + 8 * j) / 8 * 8 = 0xC00000 + 64 * i + 8 * j := by omega
  have shown : wordOf (ledgerWin s.mod f i) (8 * j) = windowWord s.mod f e j := by
    rw [ledgerWin, show Config.ledgerMax = 65536 from rfl, kept, windowWord]
    dsimp only
    split
    · rfl
    · simp [wordOf, leNat]
  rw [readHost, up, lib, aligned, readBar0_window index word, shown]
  exact if_pos (c := 8 = 8 ∧ (0xC00000 + 64 * i + 8 * j) % 8 = 0) ⟨rfl, by omega⟩

end

/-- Settles O60: the physical function reads every entry, and a virtual one those of its current loan that R448 shows it. -/
theorem ledgerWindow : Obligations.LedgerWindow := by
  intro s f i j e index word up lib kept m reads entry
  have gives := readHost_window index word up lib kept
  have sees (h : seesEntry m f e = true) : reads entry := gives.trans (by rw [windowWord, if_pos h])
  have hidden (h : seesEntry m f e = false) : reads 0 := gives.trans (by rw [windowWord, if_neg (by simp [m, h])])
  refine ⟨fun phys => sees (phys ▸ seesEntry_phys), fun vf unbound => hidden (seesEntry_unbound vf unbound), fun vf p bound => ?_⟩
  intro q shown
  have entry_seen := seesEntry_bound (e := e) vf bound
  refine ⟨fun no_loan => hidden ?_, fun loan => ⟨fun older => hidden ?_, fun other => hidden ?_, fun since own => sees ?_⟩⟩
  · rw [entry_seen]
    rcases no_loan with h | h <;> rw [show (m.part p).st = _ from h] <;> rfl
  · rw [entry_seen, decide_eq_false (Nat.not_le.2 older), Bool.and_false]
  · rw [entry_seen, Bool.eq_false_iff.2 fun h => other (Entry.shownTo_iff.1 h), Bool.and_false, Bool.false_and]
  · rw [entry_seen, Entry.shownTo_iff.2 own, decide_eq_true since]
    rcases loan with h | h <;> rw [show (m.part p).st = _ from h] <;> rfl

end Sys2Proof.Machine

namespace Sys2Proof.Machine

open Sys2Proof.Safety

/-! Writes of memory leave the bookmarks and the contexts as they are (08 R268; 14 R455) -/

theorem writeGran_bms (w : Writer) (g : Nat) (items : List (Nat × WByte)) (m : Module) : (writeGran w g items m).bms = m.bms := by
  have summary : (readSummary g m).bms = m.bms := by simp only [readSummary_same]
  have gran : (readGran g 0 (readSummary g m)).bms = m.bms := by simp only [readGran_same, readSummary_same]
  unfold writeGran
  split
  · simp only [led_same]
  · dsimp only
    split
    · exact summary
    · split
      · exact summary
      · split
        · split
          · exact gran
          · exact gran
        · exact summary

theorem writeWord_bms (k : Nat) (items : List (Nat × WByte)) (mark : Bool) (m : Module) : (writeWord k items mark m).bms = m.bms := by
  unfold writeWord
  split
  · rfl
  · simp only [readWord_same]

theorem writePas_holds (w : Writer) (items : List (Nat × Byte)) (mark : Bool) (m : Module) :
    (writePas w items mark m).bms = m.bms ∧ (writePas w items mark m).ctxs = m.ctxs :=
  ⟨foldl_keeps (I := fun q => q.bms = m.bms) (fun _ _ h => (writeWord_bms ..).trans h) _
    (foldl_keeps (I := fun q => q.bms = m.bms) (fun _ _ h => (writeGran_bms ..).trans h) _ rfl), writeBytes_ctxs ..⟩

theorem setPte_holds (slot vpn : Nat) (f : Nat → Nat) (m : Module) :
    (setPte slot vpn f m).bms = m.bms ∧ (setPte slot vpn f m).ctxs = m.ctxs := by
  unfold setPte
  split
  · exact writePas_holds ..
  · exact ⟨rfl, rfl⟩

theorem cowAll_holds (slot : Nat) (on : Bool) (rg : Sparse (Nat × Nat × Nat)) (m : Module) :
    (cowAll slot on rg m).bms = m.bms ∧ (cowAll slot on rg m).ctxs = m.ctxs :=
  foldl_keeps (I := fun q => q.bms = m.bms ∧ q.ctxs = m.ctxs)
    (fun _ _ h => ⟨(setPte_holds ..).1.trans h.1, (setPte_holds ..).2.trans h.2⟩) _ ⟨rfl, rfl⟩

/-- No page lies in a bookmark without regions. -/
theorem cowAll_nil (slot : Nat) (on : Bool) (m : Module) : cowAll slot on [] m = m := by
  have none_listed : regionPages m slot [] = [] := List.filter_eq_nil_iff.2 fun _ _ => Bool.false_ne_true
  rw [cowAll, none_listed]
  rfl

/-! Gated registers of a context (17 R547, R549) -/

/-- A write of a gated register at a state the register refuses. -/
theorem onGated_refuses {b slot off v : Nat} {w : By} {ok : Ctx → Bool} {f : Module → Module} {m : Module} (cat : catOn m b = true)
    (sees : seesCtx m w slot = true) (refuses : ok (m.ctx slot) = false) : onGated b w slot off v ok f m = ctxRefused w slot off v m := by
  rw [onGated, if_pos (by simp [cat]), onCtx, if_neg (by simp [sees])]
  exact if_pos (by simp [refuses])

/-! Bookmarks taken (O42; 14 R450 to R454) -/

section
variable {s : State} {slot : BitVec 6} {w : Option Fn} (on : s.mod.on = true) (lib : s.mod.boot.lib = true)
  (up : reaches s.mod w = true) (sees : seesCtx s.mod w slot.toNat = true) (cat : catOn s.mod 9 = true)
include on lib up sees cat

theorem bmtake_takes (present : (s.mod.ctx slot.toNat).state ≠ .free) (off : (s.mod.ctx slot.toNat).sched.mode = 0) (n : BitVec 32) :
    Gives (.bmtake w slot n) s (takeBookmark slot.toNat n.toNat (shadowBoundary slot.toNat s.mod)) :=
  liftW_gives (w := w) on lib rfl up (onGated_takes cat sees present (beq_iff_eq.2 off))

theorem bmtake_refused (runs : (s.mod.ctx slot.toNat).sched.mode ≠ 0) (n : BitVec 32) :
    Gives (.bmtake w slot n) s (ctxRefused w slot.toNat offBmtake n.toNat s.mod) :=
  liftW_gives (w := w) on lib rfl up (onGated_refuses cat sees (beq_eq_false_iff_ne.2 runs))

end

/-- The bookmark of a step, as the context stands (14 R452, R454). -/
def Ctx.bookmark (n : Nat) (x : Ctx) : Bookmark :=
  { job := x.r.job, part := x.part, step := n, copies := [], lost := false, mixed := early x n, rsv := x.rsv,
    tensors := x.tensors, sched := x.sched, stepnum := x.stepnum, ctrs := x.ctrs, ptbase := x.r.ptbase,
    regions := x.bm.rgn, dep := none }

/-- A context without deposits starts none (14 R461). -/
theorem startDep_off {slot n : Nat} {m : Module} (off : (m.ctx slot).dep.k = 0) : startDep slot n m = m := by
  unfold startDep
  dsimp only
  split
  · rfl
  · exact if_pos (by simp [depositOn, off])

/-- The module with a bookmark of a context joined to those it keeps, and copy-on-write set in its regions (14 R452). -/
def booked (slot : Nat) (b : Bookmark) (m : Module) : Module :=
  dropTlb slot (cowAll slot true (m.ctx slot).bm.rgn { m with bms := m.bms ++ [b] })

theorem booked_holds (slot : Nat) (b : Bookmark) (m : Module) :
    (booked slot b m).bms = m.bms ++ [b] ∧ (booked slot b m).ctx slot = m.ctx slot := by
  obtain ⟨bms, ctxs⟩ := cowAll_holds slot true (m.ctx slot).bm.rgn { m with bms := m.bms ++ [b] }
  unfold booked
  exact ⟨bms, congrArg (Sparse.get Ctx.init · slot) ctxs⟩

theorem takeBookmark_eq (slot n : Nat) (m : Module) : takeBookmark slot n m =
    let job := (m.ctx slot).r.job
    let q := abandonDep slot job m
    let back := ((bmOf q job).map fun b => b.copies.map (·.2)).getD []
    let p := back.foldl (fun q fr => pushPool slot fr q) (dropBms (fun b => b.job == job) q)
    startDep slot n (booked slot { (p.ctx slot).bookmark n with job := job } p) := rfl

/-- A job's first bookmark joins those of the module. -/
theorem takeBookmark_first {slot n : Nat} {m : Module} (first : bmOf m (m.ctx slot).r.job = none) (off : (m.ctx slot).dep.k = 0) :
    (m.ctx slot).bookmark n ∈ (takeBookmark slot n m).bms := by
  have kept : abandonDep slot (m.ctx slot).r.job m = m := by rw [abandonDep, first]
  have dropped := dropBms_live (fun b => b.job == (m.ctx slot).r.job) m
  have ctx : (dropBms (fun b => b.job == (m.ctx slot).r.job) m).ctx slot = m.ctx slot :=
    congrArg (Sparse.get Ctx.init · slot) dropped.ctxs
  obtain ⟨bms, after⟩ := booked_holds slot ((m.ctx slot).bookmark n) (dropBms (fun b => b.job == (m.ctx slot).r.job) m)
  rw [takeBookmark_eq]
  dsimp only
  rw [kept, first, Option.map_none, Option.getD_none, List.foldl_nil, ctx]
  change _ ∈ (startDep slot n (booked slot ((m.ctx slot).bookmark n) _)).bms
  rw [startDep_off (by rw [after, ctx, off]), bms]
  exact List.mem_append_right _ (List.mem_singleton.2 rfl)

/-- A shadow's admission at a step boundary leaves the rest of its context, and the bookmarks, as they are (14 R483). -/
theorem shadowBoundary_ctx (slot : Nat) (m : Module) : ∃ h, (shadowBoundary slot m).ctx slot = { m.ctx slot with shadow := h } := by
  rw [shadowBoundary, Module.updCtx_eq, Module.setCtx_ctx, if_pos rfl]
  split
  · exact ⟨_, rfl⟩
  · exact ⟨_, rfl⟩

theorem takeBookmark_records {slot : Nat} {m : Module} (first : bmOf m (m.ctx slot).r.job = none) (off : (m.ctx slot).dep.k = 0)
    (n : Nat) : (m.ctx slot).bookmark n ∈ (takeBookmark slot n (shadowBoundary slot m)).bms := by
  obtain ⟨h, ctx⟩ := shadowBoundary_ctx slot m
  have bms (job : BitVec 16) : bmOf (shadowBoundary slot m) job = bmOf m job := rfl
  have taken := takeBookmark_first (slot := slot) (n := n) (m := shadowBoundary slot m) (by rw [bms, ctx]; exact first)
    (by rw [ctx]; exact off)
  rw [ctx] at taken
  exact taken

end Sys2Proof.Machine

namespace Sys2Proof.Machine

open Sys2Proof.Safety

/-! Copies of the pages of a bookmark (14 R455, R456) -/

section
variable {slot vpn : Nat} {m : Module} {b : Bookmark} {e : Nat × Nat} (kept : bmOf m (m.ctx slot).r.job = some b)
  (mapped : leafOf slot vpn m = some e) (whole : b.lost = false)
include kept mapped whole

/-- An empty pool makes the bookmark LOST. -/
theorem copyPage_empty (empty : (popPool slot m).2 = none) :
    copyPage slot vpn m = uncow slot vpn (loseBm slot b (popPool slot m).1) := by
  unfold copyPage
  rw [kept, mapped]
  dsimp only
  rw [if_neg (by simp [whole]), empty]

theorem copyPage_copies {fr : Nat} (pooled : (popPool slot m).2 = some fr) : copyPage slot vpn m = uncow slot vpn
    (updBm b.job (fun b => { b with copies := b.copies ++ [(vpn, fr)] }) (copyFrame (pteFrame e.2) fr (popPool slot m).1)) := by
  unfold copyPage
  rw [kept, mapped]
  dsimp only
  rw [if_neg (by simp [whole]), pooled]

end

section
variable {s : State} (on : s.mod.on = true) (lib : s.mod.boot.lib = true) {k : Nat}
include on lib

theorem cowCopyDone_none (gone : s.mod.cows[k]? = none) : Gives (.cowCopyDone k) s s.mod := by
  change execCowCopyDone k s = _
  rw [execCowCopyDone, liftL_lib on lib, gone]

theorem cowCopyDone_gives {w : CowWait} (waits : s.mod.cows[k]? = some w) :
    Gives (.cowCopyDone k) s (copyPage w.slot w.vpn { s.mod with cows := s.mod.cows.eraseIdx k }) := by
  change execCowCopyDone k s = _
  rw [execCowCopyDone, liftL_lib on lib, waits]

end

/-! Bookmarks restored (14 R458) -/

/-- The module with the cause of a restore set. -/
def withCause (slot c : Nat) (m : Module) : Module := m.updCtx slot fun x => { x with bm := { x.bm with cause := c } }

theorem restoreBm_ctx (slot : Nat) (b : Bookmark) (m : Module) : ((restoreBm slot b m).ctx slot).stepnum = b.stepnum ∧
    ((restoreBm slot b m).ctx slot).ctrs = b.ctrs := by
  unfold restoreBm
  dsimp only
  rw [Module.updCtx_eq, Module.setCtx_ctx, if_pos rfl]
  exact ⟨rfl, rfl⟩

/-- A bookmark without pages restores the schedule alone. -/
theorem restoreBm_bare {slot : Nat} {b : Bookmark} (m : Module) (regions : b.regions = []) (copies : b.copies = []) :
    (restoreBm slot b m).ctx slot = withSchedule b (m.ctx slot) := by
  unfold restoreBm
  rw [regions, copies, List.foldl_nil]
  dsimp only
  rw [cowAll_nil, Module.updCtx_eq, Module.setCtx_ctx, if_pos rfl]
  rfl

section
variable {f : Fn} {slot : BitVec 6} {s : State} {n : BitVec 32} (on : s.mod.on = true) (lib : s.mod.boot.lib = true)
  (up : hostUp s.mod f.val = true) (sees : seesCtx s.mod (some f) slot.toNat = true) (cat : catOn s.mod 9 = true)
  (created : (s.mod.ctx slot.toNat).state = .created)
include on lib up sees cat created

theorem bmrestore_none (none_kept : bmOf s.mod (s.mod.ctx slot.toNat).r.job = none) :
    Gives (.bmrestore f slot n) s (withCause slot.toNat 3 s.mod) := by
  refine liftW_gives (w := some f) on lib rfl up ?_
  unfold bmRestore
  dsimp only
  rw [onGated_takes cat sees (by rw [created]; decide) (by rw [created, none_kept]; rfl), restoreCause, none_kept]
  split
  · next kept => exact absurd (none_kept.symm.trans kept) (Option.some_ne_none _).symm
  · rfl

variable {b : Bookmark} (kept : bmOf s.mod (s.mod.ctx slot.toNat).r.job = some b)
include kept

omit created in
/-- A context with other page tables refuses the restore. -/
theorem bmrestore_refused (other : b.ptbase ≠ (s.mod.ctx slot.toNat).r.ptbase) :
    Gives (.bmrestore f slot n) s (ctxRefused (some f) slot.toNat offBmrestore n.toNat s.mod) := by
  refine liftW_gives (w := some f) on lib rfl up ?_
  unfold bmRestore
  dsimp only
  refine onGated_refuses cat sees ?_
  rw [kept, Option.all_some, beq_eq_false_iff_ne.2 other, Bool.and_false]

variable (tables : b.ptbase = (s.mod.ctx slot.toNat).r.ptbase)
include tables

theorem bmrestore_gives {c : Nat} (cause : restoreCause s.mod (s.mod.ctx slot.toNat).r.job n.toNat = c) :
    Gives (.bmrestore f slot n) s
      (if c = 0 then restoreBm slot.toNat b (withCause slot.toNat c s.mod) else withCause slot.toNat c s.mod) := by
  refine liftW_gives (w := some f) on lib rfl up ?_
  unfold bmRestore
  dsimp only
  rw [onGated_takes cat sees (by rw [created]; decide)
    (by rw [created, kept, Option.all_some, beq_iff_eq.2 tables]; rfl), cause]
  split
  · next kept' =>
    obtain rfl := Option.some_inj.1 (kept.symm.trans kept')
    rfl
  · next gone => exact absurd (kept.symm.trans gone) (Option.some_ne_none _)

end

theorem restoreCause_kept {m : Module} {job : BitVec 16} {n : Nat} {b : Bookmark} (kept : bmOf m job = some b) :
    restoreCause m job n = if b.lost then 1 else if b.mixed then 2 else if b.step ≠ n then 4 else 0 := by
  rw [restoreCause, kept]

/-! Deposit regions and fills (14 R460, R470, R472) -/

/-- The function bound to a partition sees it. -/
theorem isBound_sees {m : Module} {f : Fn} {p : Nat} (bound : isBound m f.val p = true) :
    isPart m p = true ∧ seesPart m f.val p = true :=
  ⟨(Bool.and_eq_true_iff.1 bound).1, Bool.or_eq_true_iff.2 (.inr bound)⟩

section
variable {f : Fn} {p : BitVec 3} {a b : BitVec 16} {s : State} (on : s.mod.on = true) (lib : s.mod.boot.lib = true)
  (up : hostUp s.mod f.val = true) (bound : isBound s.mod f.val p.toNat = true)
include on lib up bound

/-- An even run of the partition's frames is taken where catalogue bit 10 is set. -/
theorem depholdWrite_gives {n c : BitVec 28} (cat : catOn s.mod 10 = true) (even : c.toNat % 2 = 0)
    (own : ∀ j < c.toNat, softFrame (n.toNat + j) = true ∧ partOfDie s.mod (dieOfFrame (n.toNat + j)) = p.toNat) :
    Gives (.depholdWrite f p a b n c) s (s.mod.updPart p.toNat fun q =>
      if c.toNat = 0 then { q with depmod := 0, depjob := 0, depFirst := 0, depCount := 0 }
      else { q with depmod := a, depjob := b, depFirst := n.toNat, depCount := c.toNat }) := by
  obtain ⟨part, sees⟩ := isBound_sees bound
  have frames : ((upTo c.toNat).all fun i => softFrame (n.toNat + i) && partOfDie s.mod (dieOfFrame (n.toNat + i)) == p.toNat) = true :=
    List.all_eq_true.2 fun j hj => by
      obtain ⟨soft, die⟩ := own j (List.mem_range.1 hj)
      rw [soft, beq_iff_eq.2 die]
      rfl
  refine liftW_gives (w := some f) on lib rfl up ?_
  rw [dephold, if_neg (by simp [part, sees]), if_neg (by rw [bound, even, frames]; decide), gated, if_pos cat]

theorem depholdWrite_odd {n c : BitVec 28} (odd : c.toNat % 2 = 1) :
    Gives (.depholdWrite f p a b n c) s (refused (some f) (atPart p.toNat) (partOff p.toNat 0x48) c.toNat s.mod) := by
  obtain ⟨part, sees⟩ := isBound_sees bound
  refine liftW_gives (w := some f) on lib rfl up ?_
  rw [dephold, if_neg (by simp [part, sees])]
  exact if_pos (by simp [odd])

theorem fillcmd_refused (n : BitVec 32) :
    Gives (.fillcmd f p a b 3 n) s (refused (some f) (atPart p.toNat) (partOff p.toNat 0x58) n.toNat s.mod) := by
  obtain ⟨part, sees⟩ := isBound_sees bound
  refine liftW_gives (w := some f) on lib rfl up ?_
  rw [fillCmd, if_neg (by simp [part, sees])]
  exact if_pos (by simp)

/-- A fill asks for its writes, or is refused with its cause. -/
theorem fillcmd_gives {k : BitVec 2} (kind : k ≠ 3) (n : BitVec 32) : Gives (.fillcmd f p a b k n) s
    (let c := fillCause s.mod p.toNat b k.toNat n.toNat
     if c ≠ 0 then s.mod.updPart p.toNat fun q => { q with fillCause := c, fillSt := 0 }
     else
      let fs := fillFlights s.mod p.toNat s.mod.fab.uid a b k.toNat n.toNat
      fs.foldl (fun q g => request g q) ((newUid s.mod).2.updPart p.toNat fun q =>
        { q with fillSpare := a, fillJob := b, fillKind := k.toNat, fillStep := n.toNat, fillPages := 0,
                 fillCause := 0, fillSt := 1, fillUid := s.mod.fab.uid, fillLeft := fs.length })) := by
  obtain ⟨part, sees⟩ := isBound_sees bound
  have source : k.toNat ≠ 3 := fun three => kind (BitVec.eq_of_toNat_eq three)
  refine liftW_gives (w := some f) on lib rfl up ?_
  rw [fillCmd, if_neg (by simp [part, sees]), if_neg (by simp [bound, source])]
  rfl

end

section
variable {s : State} (on : s.mod.on = true) (lib : s.mod.boot.lib = true)
include on lib

theorem fillEnd_gives (p : BitVec 3) : Gives (.fillEnd p) s
    (if (s.mod.part p.toNat).fillSt ≠ 1 ∨ (s.mod.part p.toNat).fillLeft ≠ 0 then s.mod
     else irq3 p.toNat (s.mod.updPart p.toNat fun q => { q with fillPages := fillCount s.mod p.toNat, fillSt := 2 })) :=
  liftL_gives on lib rfl rfl

end

/-! Deposits committed (13 R445; 14 R461) -/

theorem requests_eq (l : List Flight) (m : Module) :
    l.foldl (fun m f => request f m) m = { m with fab := { m.fab with waiting := m.fab.waiting ++ l } } := by
  induction l generalizing m with
  | nil => rw [List.append_nil]; rfl
  | cons f l ih => rw [List.foldl_cons, ih, request, List.append_assoc]; rfl

section
variable {j : BitVec 16} {m : Module} {b : Bookmark} {k : Nat}

theorem depositCommit_none (gone : bmOf m j = none ∨ jobCtx m j = none) : depositCommit j m = m := by
  unfold depositCommit
  split
  · next kept live => exact absurd gone (by simp [kept, live])
  · rfl

variable (kept : bmOf m j = some b) (live : jobCtx m j = some k)
include kept live

theorem depositCommit_idle (idle : b.dep = none) : depositCommit j m = m := by
  rw [depositCommit, kept, live]
  dsimp only
  rw [idle]

theorem depositCommit_waits {r : DepRun} (run : b.dep = some r) (left : r.left ≠ 0) : depositCommit j m = m := by
  rw [depositCommit, kept, live]
  dsimp only
  rw [run]
  exact if_pos left

/-- A deposit whose body is written is the newest one, and its header goes out. -/
theorem depositCommit_done {r : DepRun} (run : b.dep = some r) (settled : r.left = 0) :
    (depositCommit j m).fab.waiting = m.fab.waiting ++ r.head ∧
      ((depositCommit j m).ctx k).dep = { (m.ctx k).dep with
        slotA := if r.b then (m.ctx k).dep.slotA else 2, slotB := if r.b then 2 else (m.ctx k).dep.slotB,
        newestB := r.b, stepNew := b.step, abandoned := false } := by
  rw [depositCommit, kept, live]
  dsimp only
  rw [run]
  dsimp only
  rw [if_neg (not_not_intro settled), requests_eq, Module.updCtx_eq, Module.setCtx_ctx, if_pos rfl]
  exact ⟨rfl, rfl⟩

end

/-! The end of a collation (14 R468, R469) -/

theorem irq3_ctxs (p : Nat) (m : Module) : (irq3 p m).ctxs = m.ctxs := by
  unfold irq3
  split <;> rfl

theorem shadowCount_col (slot step : Nat) (ok : Bool) (failed : Nat) (m : Module) :
    ((shadowCount slot step ok failed m).ctx slot).col = (m.ctx slot).col := by
  unfold shadowCount
  split
  · rfl
  · split
    · rw [Module.updCtx_eq, Module.setCtx_ctx, if_pos rfl]
    · simp only [led_parts, Module.updCtx_eq, Module.setCtx_ctx, if_true]

section
variable {slot : Nat} {ps : List (Nat × List Byte)} {r : Bool} {m : Module}

theorem collationEnd_none (gone : (m.ctx slot).state = .free ∨ bmOf m (m.ctx slot).r.job = none) : collationEnd slot ps r m = m := by
  unfold collationEnd
  dsimp only
  split
  · rfl
  · rfl
  · next kept present => exact (gone.elim present fun h => Option.some_ne_none _ (kept.symm.trans h)).elim

/-- What a collation records in the registers of its context. -/
theorem collationEnd_col {b : Bookmark} (kept : bmOf m (m.ctx slot).r.job = some b) (present : (m.ctx slot).state ≠ .free) :
    ((collationEnd slot ps r m).ctx slot).col =
      (let c := colPages m slot b ps ColSum.zero
       { (m.ctx slot).col with compared := c.compared, mismatch := c.mismatch, firstFailed := c.first, failed := c.failed,
                               clean := decide (c.failed = 0) && decide (c.mismatch ≤ (m.ctx slot).col.fbmax) }) := by
  unfold collationEnd
  dsimp only
  split
  · next free => exact absurd free present
  · next gone _ => exact absurd (kept.symm.trans gone) (Option.some_ne_none _)
  · next b' kept' _ =>
    obtain rfl : b = b' := Option.some_inj.1 (kept.symm.trans kept')
    rw [shadowCount_col, Module.ctx, irq3_ctxs, Module.updPart_eq, Module.setPart_ctxs, ← Module.ctx, Module.updCtx_eq, Module.setCtx_ctx,
      if_pos rfl]

end

/-! Admission of a shadow (14 R483) -/

/-- SHADOWCFG as an admission writes it has ADMIT set. -/
theorem admitWord_admits {x : Ctx} (role : x.shadow.role < 4) : bit (admitWord x) 2 = true := by
  have small := x.shadow.modnum.isLt
  rw [bit, admitWord, BitVec.getLsbD_ofNat, Nat.testBit_eq_decide_div_mod_eq]
  simp only [Bool.and_eq_true, decide_eq_true_iff]
  omega

section
variable {f : Fn} {slot : BitVec 6} {s : State} (on : s.mod.on = true) (lib : s.mod.boot.lib = true)
  (up : hostUp s.mod f.val = true) (sees : seesCtx s.mod (some f) slot.toNat = true) (cat : catOn s.mod 11 = true)
  (role : (s.mod.ctx slot.toNat).shadow.role < 4)
include on lib up sees cat role

theorem shadowAdmit_admits (present : (s.mod.ctx slot.toNat).state ≠ .free) (clean : 8 ≤ (s.mod.ctx slot.toNat).shadow.clean)
    (shadows : (s.mod.ctx slot.toNat).shadow.role ≠ 0) :
    Gives (.shadowAdmit f slot) s (s.mod.updCtx slot.toNat fun y => { y with shadow := { y.shadow with admitted := true } }) := by
  refine liftW_gives (w := some f) (k := fun m => writeShadow (some f) slot.toNat (admitWord (m.ctx slot.toNat)) m) on lib rfl up ?_
  dsimp only
  rw [writeShadow, if_pos (admitWord_admits role), onGated_takes cat sees present (by simp [clean, shadows])]

theorem shadowAdmit_refused (unfit : (s.mod.ctx slot.toNat).shadow.clean < 8 ∨ (s.mod.ctx slot.toNat).shadow.role = 0) :
    Gives (.shadowAdmit f slot) s
      (ctxRefused (some f) slot.toNat offShadowcfg (admitWord (s.mod.ctx slot.toNat)).toNat s.mod) := by
  refine liftW_gives (w := some f) (k := fun m => writeShadow (some f) slot.toNat (admitWord (m.ctx slot.toNat)) m) on lib rfl up ?_
  rw [writeShadow, if_pos (admitWord_admits role), onGated_refuses cat sees ?_]
  simpa [imp_iff_not_or] using unfit

end

/-- Settles O42: each command on bookmarks, deposit regions, fills, collations and shadows, from the rule of its register. -/
theorem bookmarksAndDeposits : Obligations.BookmarksAndDeposits := by
  intro f slot s on lib up m i x
  refine ⟨fun w writer sees present cat n => ?_, fun first off n => ?_, fun k gone => cowCopyDone_none on lib gone,
    fun k w waits => ?_, fun n sees cat created => ?_,
    fun p a b bound => ?_, fun j => ?_, fun ps r => ?_, fun sees present cat role => ?_⟩
  · have reached : reaches m w = true := by
      rcases List.mem_pair.1 writer with rfl | rfl
      · rfl
      · exact up
    exact ⟨fun off => bmtake_takes on lib reached sees cat present off n, fun runs => bmtake_refused on lib reached sees cat runs n⟩
  · exact ⟨_, takeBookmark_records first off n, rfl, rfl, rfl, rfl, rfl, rfl, rfl, rfl, rfl⟩
  · exact ⟨cowCopyDone_gives on lib waits, fun b e kept mapped whole => ⟨copyPage_empty kept mapped whole,
      fun fr pooled => copyPage_copies kept mapped whole pooled⟩⟩
  · intro caused
    refine ⟨bmrestore_none on lib up sees cat created, fun b kept other => bmrestore_refused on lib up sees cat kept other,
      fun b kept tables => ?_⟩
    have gives {c : Nat} (cause : restoreCause m x.r.job n.toNat = c) := bmrestore_gives on lib up sees cat created kept tables cause
    have because := restoreCause_kept (n := n.toNat) kept
    refine ⟨fun lost => gives (c := 1) (by rw [because, lost]; rfl),
      fun whole mixed => gives (c := 2) (by rw [because, whole, mixed]; rfl),
      fun whole pure other => gives (c := 4) (by rw [because, whole, pure]; exact if_pos other),
      fun whole pure same => ⟨gives (c := 0) (by rw [because, whole, pure]; exact if_neg (not_not_intro same)), ?_⟩⟩
    intro q
    obtain ⟨stepnum, ctrs⟩ := restoreBm_ctx i b (caused 0)
    refine ⟨stepnum, ctrs, fun regions copies => ?_⟩
    have bare := restoreBm_bare (slot := i) (caused 0) regions copies
    have ctx : (caused 0).ctx i = { x with bm := { x.bm with cause := 0 } } := by
      simp only [caused, Module.updCtx_eq, Module.setCtx_ctx, if_true]
      rfl
    rw [show q.ctx i = _ from bare, ctx]
    exact ⟨rfl, created⟩
  · intro set
    have fill (k : BitVec 2) (n : BitVec 32) (kind : k ≠ 3) := fillcmd_gives (a := a) (b := b) on lib up bound kind n
    have ends := fillEnd_gives on lib p
    refine ⟨fun cat => ⟨depholdWrite_gives on lib up bound cat rfl fun j none_asked => absurd none_asked (Nat.not_lt_zero j),
        fun n c asked even own => ?_⟩, fun n c odd => depholdWrite_odd on lib up bound odd, fillcmd_refused on lib up bound,
      fun k n kind => ?_, gives_of_pos ends, fun runs settled => gives_of_neg ends fun h => h.elim (· runs) (· settled)⟩
    · have some_asked : c.toNat ≠ 0 := fun none_asked => asked (BitVec.eq_of_toNat_eq none_asked)
      have gives := depholdWrite_gives (a := a) (b := b) on lib up bound cat even own
      simp only [some_asked, if_false] at gives
      exact gives
    · exact ⟨gives_of_pos (fill k n kind), fun clean => gives_of_neg (fill k n kind) (not_not_intro clean)⟩
  · have commit {q : Module} (e : depositCommit j m = q) : Gives (.depositCommit j) s q := liftL_gives on lib rfl e
    refine ⟨fun gone => commit (depositCommit_none gone), fun b k kept live => ⟨fun idle => commit (depositCommit_idle kept live idle),
      fun r run => ⟨fun left => commit (depositCommit_waits kept live run left), fun settled => ?_⟩⟩⟩
    obtain ⟨waiting, dep⟩ := depositCommit_done kept live run settled
    refine ⟨_, commit rfl, ?_⟩
    rw [dep]
    exact ⟨rfl, rfl, rfl, fun second => if_pos second, fun first => by simp [first], waiting⟩
  · have ends {q : Module} (e : collationEnd i ps r m = q) : Gives (.collationEnd slot ps r) s q := liftL_gives on lib rfl e
    refine ⟨fun gone => ends (collationEnd_none gone), fun b kept present => ⟨_, ends rfl, ?_⟩⟩
    rw [collationEnd_col kept present]
    exact ⟨rfl, rfl, rfl, rfl, rfl⟩
  · exact ⟨fun clean shadows => shadowAdmit_admits on lib up sees cat role present clean shadows,
      fun unfit => shadowAdmit_refused on lib up sees cat role unfit⟩

end Sys2Proof.Machine

namespace Sys2Proof.Machine

/-! The queue of commands (O1; log 1) -/

/-- Settles O1: a step looks at the front of the queue first. -/
theorem stepRunsTheFrontCommand : Obligations.StepRunsTheFrontCommand := fun _ _ _ => rfl

end Sys2Proof.Machine

namespace Sys2Proof.Machine

open Sys2Proof.Safety

/-! Commits and events of the meter (16 R513, R520) -/

namespace Meter

/-- What a commit of the meter holds (R513). -/
def image (x : Meter) : Commit :=
  { seq := (x.newest.map (·.seq)).getD 0 + 1, mtime := x.mtime, mseq := x.mseq, total := x.total, unattr := x.unattr,
    loans := x.loans, paired := x.paired, idpub := x.idpub, tampered := x.tampered, log := x.log, closed := x.closed,
    opened := x.opened }

/-- Commit numbers increase. -/
theorem image_newer (x : Meter) :
    (∀ a, x.slotA = some a → a.seq < x.image.seq) ∧ (∀ b, x.slotB = some b → b.seq < x.image.seq) := by
  unfold image newest
  cases x.slotA <;> cases x.slotB
  case some.some a b =>
    by_cases older : a.seq ≤ b.seq
    · simp [older]
    · simp [older, (Nat.not_le.1 older).le]
  all_goals simp

/-- The second slot takes the next commit. -/
def intoB (x : Meter) : Bool :=
  match x.slotA, x.slotB with
  | some a, some b => decide (b.seq < a.seq)
  | some _, none => true
  | none, _ => false

theorem commit_eq (x : Meter) :
    x.commit = if x.intoB then { x with slotB := some x.image } else { x with slotA := some x.image } := rfl

/-- The second slot is written only while the first is in use. -/
theorem slotA_of_intoB {x : Meter} (h : x.intoB = true) : ∃ a, x.slotA = some a := by
  unfold intoB at h
  split at h
  · next a _ used _ => exact ⟨a, used⟩
  · next a used _ => exact ⟨a, used⟩
  · cases h

/-- The commit that was made last is the newer one. -/
theorem newest_commit (x : Meter) : x.commit.newest = some x.image := by
  obtain ⟨newerA, newerB⟩ := x.image_newer
  rw [commit_eq]
  split
  · next second =>
    obtain ⟨a, used⟩ := slotA_of_intoB second
    rw [newest, used]
    exact congrArg some (if_pos (newerA a used).le)
  · rw [newest]
    cases used : x.slotB with
    | none => rfl
    | some b => exact congrArg some (if_neg (Nat.not_le.2 (newerB b used)))

/-- A commit changes the slots alone, and puts what it holds into one of them. -/
theorem commit_frame (x : Meter) : ∃ a b, x.commit = { x with slotA := a, slotB := b } ∧
    (a = x.slotA ∨ a = some x.image) ∧ (b = x.slotB ∨ b = some x.image) := by
  rw [commit_eq]
  split
  · exact ⟨_, _, rfl, .inl rfl, .inr rfl⟩
  · exact ⟨_, _, rfl, .inr rfl, .inl rfl⟩

@[simp] theorem commit_same (x : Meter) : x.commit.loans = x.loans ∧ x.commit.log = x.log ∧ x.commit.queue = x.queue ∧
    x.commit.events = x.events ∧ x.commit.tampered = x.tampered ∧ x.commit.mseq = x.mseq ∧ x.commit.opened = x.opened := by
  obtain ⟨_, _, e, -⟩ := x.commit_frame
  simp only [e, and_self]

/-- The event log with room for an entry takes it (R520). -/
theorem event_room {x : Meter} (room : x.events.length < 1024) (e : MEvent) :
    x.event e = { x with events := x.events ++ [e] } := if_neg (Nat.not_le.2 room)

/-- An event changes the event log alone, and never takes it past its end (R520). -/
theorem event_frame (x : Meter) (e : MEvent) :
    ∃ es, x.event e = { x with events := es } ∧ es.length ≤ Nat.max 1024 x.events.length := by
  by_cases room : x.events.length < 1024
  · exact ⟨_, event_room room e, by rw [List.length_append, List.length_singleton]; exact (Nat.succ_le_of_lt room).trans (Nat.le_max_left ..)⟩
  · exact ⟨x.events, if_pos (Nat.not_lt.1 room), Nat.le_max_right ..⟩

/-- The newer commit lies in one of the slots. -/
theorem newest_mem {x : Meter} {c : Commit} (h : x.newest = some c) : x.slotA = some c ∨ x.slotB = some c := by
  unfold newest at h
  split at h
  · next a b usedA usedB =>
    cases h
    split
    · exact .inr usedB
    · exact .inl usedA
  · next a usedA _ => exact .inl (usedA.trans h)
  · exact .inr h

/-! Power-up (16 R506, R508) -/

/-- What a meter without a commit resumes from (R519). -/
def blank : Commit :=
  { seq := 0, mtime := 0, mseq := 0, total := 0, unattr := 0, loans := [], paired := false, idpub := 0, tampered := false,
    log := [], closed := [], opened := [] }

/-- A loan that was open when power was lost. -/
def suspend (l : MLoan) : MLoan := { l with suspended := true, co := { l.co with suspended := true } }

/-- The meter powered again, with what a commit holds. -/
def resumed (c : Commit) (x : Meter) : Meter :=
  { x with
    powered := true, ticks := 0, sub := 0, unsynced := true, firstSet := false, sets := [], entry := 0,
    dies := List.replicate 8 0, accEntry := 0, accDies := List.replicate 8 0, queue := [], mtime := c.mtime, mseq := c.mseq,
    total := c.total, unattr := c.unattr, paired := c.paired, idpub := c.idpub, tampered := c.tampered, log := c.log,
    closed := c.closed, opened := c.opened, loans := c.loans.map suspend }

/-- Power-up resumes the newer commit. -/
theorem powerUp_eq (x : Meter) : x.powerUp = (resumed (x.newest.getD blank) x).event .powerUp := by
  unfold powerUp
  dsimp only
  change event _ (match x.newest with | some c => _ | none => _) = _
  cases x.newest <;> rfl

/-! Loan records (16 R508 to R511) -/

/-- The dies of the loans that the meter holds. -/
def groups (x : Meter) : List (BitVec 8) := x.loans.map (·.co.lr.dies)

theorem resumed_groups (c : Commit) (x : Meter) : (resumed c x).groups = c.loans.map (·.co.lr.dies) := by
  rw [groups, resumed, List.map_map]
  rfl

/-- Groups of dies that loans may hold together. -/
def GroupsOk (gs : List (BitVec 8)) : Prop := (∀ g ∈ gs, g ≠ 0) ∧ gs.Pairwise fun a b => a &&& b = 0

theorem loansOk_iff {ls : List MLoan} : LoansOk ls ↔ GroupsOk (ls.map (·.co.lr.dies)) := by
  simp [LoansOk, GroupsOk, List.pairwise_map]

theorem apportion_groups (x : Meter) : x.apportion.groups = x.groups := by
  simp [groups, apportion]

theorem dies_ne_zero {d : BitVec 8} {p : BitVec 3} (ok : diesOk d p = true) : d ≠ 0 := by
  rintro rfl
  have none_in : diesIn 0#8 = [] := rfl
  simp [diesOk, none_in] at ok

/-- What the checks of Table 16.2 make sure of when none refuses an open: dies, disjoint from those of every loan, and room in
the log. -/
theorem refuseOpen_none {x : Meter} {r : LoanRec} (h : refuseOpen x r = none) : refuseAny x r = none ∧ x.tampered = false ∧
    r.dies ≠ 0 ∧ (∀ g ∈ x.groups, g &&& r.dies = 0) ∧ x.log.length + x.groups.length < logMax := by
  unfold refuseOpen at h
  split at h
  · cases h
  · next any =>
    have dies : diesOk r.dies r.part = true := by
      unfold refuseAny at any
      by_contra no
      rw [if_pos (by simp [no])] at any
      cases any
    split_ifs at h with tampered unsynced full meets
    refine ⟨any, Bool.eq_false_of_not_eq_true tampered, dies_ne_zero dies, fun g listed => ?_, ?_⟩
    · obtain ⟨l, held, rfl⟩ := List.mem_map.1 listed
      by_contra shared
      exact meets (List.any_eq_true.2 ⟨l, held, bne_iff_ne.2 shared⟩)
    · rw [groups, List.length_map]
      omega

/-- A loan as it begins, with the record that opened it. -/
def beginning (c : Cosigned) : MLoan := { co := c, energy := 0, duration := 0, suspended := false }

/-- An open that no check refuses (R508, R510). -/
theorem openRecord_takes {x : Meter} {r : LoanRec} (h : refuseOpen x r = none) :
    let c := cosign x r 0 0 false false
    openRecord r x = (commit { x.apportion with
      mseq := x.mseq + 1, opened := x.opened ++ [r.loanid],
      loans := x.apportion.loans ++ [beginning c] }, .cosigned c) := by
  rw [openRecord, h]
  rfl

theorem openRecord_refuses {x : Meter} {r : LoanRec} {k : Nat} (h : refuseOpen x r = some k) :
    openRecord r x = (x, .refused r k) := by rw [openRecord, h]

theorem closeRecord_refuses {x : Meter} {r : LoanRec} {k : Nat} (h : refuseAny x r = some k) :
    closeRecord r x = (x, .refused r k) := by rw [closeRecord, h]

/-- A close of a loan that the meter holds (R511): the loan leaves the table for the log. -/
theorem closeRecord_held {x : Meter} {r : LoanRec} (h : refuseAny x r = none) (held : ∃ l ∈ x.loans, l.co.lr.loanid = r.loanid) :
    ∃ energy duration suspended, let c := cosign x r energy duration suspended false
    closeRecord r x = (commit { x.apportion with
      mseq := x.mseq + 1, loans := x.apportion.loans.filter fun l => l.co.lr.loanid != r.loanid,
      log := x.log ++ [c], closed := x.closed ++ [c] }, .cosigned c) := by
  obtain ⟨l, found⟩ : ∃ l, (x.loans.find? fun l => l.co.lr.loanid == r.loanid) = some l := by
    obtain ⟨l, listed, same⟩ := held
    exact Option.isSome_iff_exists.1 (List.find?_isSome.2 ⟨l, listed, beq_iff_eq.2 same⟩)
  rw [closeRecord, h]
  dsimp only
  rw [found]
  exact ⟨_, _, _, rfl⟩

/-- A close of a loan that the meter does not hold: co-signed again where it is in the log, and NOTOPEN otherwise (R511). -/
theorem closeRecord_absent {x : Meter} {r : LoanRec} (h : refuseAny x r = none) (absent : ∀ l ∈ x.loans, l.co.lr.loanid ≠ r.loanid) :
    (∃ d ∈ x.closed, d.lr.loanid = r.loanid ∧ closeRecord r x = (x.commit, .cosigned (signed { d with rep := true }))) ∨
    (∀ d ∈ x.closed, d.lr.loanid ≠ r.loanid) ∧
      closeRecord r x = (commit { x with mseq := x.mseq + 1 }, .cosigned (cosign x r 0 0 false true)) := by
  have unheld : (x.loans.find? fun l => l.co.lr.loanid == r.loanid) = none :=
    List.find?_eq_none.2 fun l listed => by simpa using absent l listed
  rw [closeRecord, h]
  dsimp only
  rw [unheld]
  dsimp only
  split
  · next d found => exact .inl ⟨d, List.mem_of_find?_eq_some found, by simpa using List.find?_some found, rfl⟩
  · next unknown => exact .inr ⟨fun d listed => by simpa using List.find?_eq_none.1 unknown d listed, rfl⟩

end Meter

/-- The meter once its case switch has opened (R518). -/
def Meter.caseOpened (x : Meter) : Meter := (({ x with tampered := true } : Meter).event .tamper).commit

/-- The meter once ACK_LOG has dropped the entries up to one (R515). -/
def Meter.acked (n : Nat) (x : Meter) : Meter :=
  ({ x with log := x.log.filter fun c => decide (n < c.mseq) } : Meter).reply .ok

/-! What a step does to the meter -/

/-- What the bounds of the meter and its TAMPERED mark speak of is as it was. -/
structure SameTables (x y : Meter) : Prop where
  groups : y.groups = x.groups := by rfl
  log : y.log = x.log := by rfl
  queue : y.queue = x.queue := by rfl
  events : y.events = x.events := by rfl
  tampered : y.tampered = x.tampered := by rfl
  slotA : y.slotA = x.slotA := by rfl
  slotB : y.slotB = x.slotB := by rfl

/-- What one action of the meter does to its tables, its marks and its commits (16 R508 to R520). -/
inductive MeterMove : Meter → Meter → Prop
  | same {x y : Meter} (h : SameTables x y) : MeterMove x y
  | queue (x : Meter) (q : List LoanRec) (h : q.length ≤ Nat.max Meter.queueMax x.queue.length) : MeterMove x { x with queue := q }
  | commit (x : Meter) : MeterMove x x.commit
  | event (x : Meter) (e : MEvent) : MeterMove x (x.event e)
  | tamper (x : Meter) : MeterMove x x.caseOpened
  | openLoan (x : Meter) (l : MLoan) (dies : l.co.lr.dies ≠ 0) (apart : ∀ g ∈ x.groups, g &&& l.co.lr.dies = 0)
      (room : x.log.length + x.groups.length < Meter.logMax) : MeterMove x { x with loans := x.loans ++ [l] }
  | closeLoan (x : Meter) (c : Cosigned) (t : MLoan → Bool) (held : ∃ l ∈ x.loans, t l = false) :
      MeterMove x { x with loans := x.loans.filter t, log := x.log ++ [c] }
  | ackLog (x : Meter) (t : Cosigned → Bool) : MeterMove x { x with log := x.log.filter t }
  | powerUp (x : Meter) : MeterMove x x.powerUp

/-- A run of such actions. -/
abbrev MeterMoves : Meter → Meter → Prop := Relation.ReflTransGen MeterMove

theorem SameTables.moves {x y : Meter} (h : SameTables x y) : MeterMoves x y := .single (.same h)

theorem tickMeter_moves (x : Meter) : MeterMoves x (tickMeter x) := by
  refine SameTables.moves ?_
  unfold tickMeter
  split
  · exact {}
  split
  · exact {}
  · refine { groups := ?_ }
    rw [Meter.groups, Meter.groups, List.map_map]
    refine List.map_congr_left fun l _ => ?_
    dsimp only [Function.comp_apply]
    split <;> rfl

theorem apportion_moves (x : Meter) : MeterMoves x x.apportion :=
  SameTables.moves { groups := x.apportion_groups }

theorem openRecord_moves (r : LoanRec) (x : Meter) : MeterMoves x (Meter.openRecord r x).1 := by
  cases h : Meter.refuseOpen x r with
  | some k => rw [Meter.openRecord_refuses h]
  | none =>
    obtain ⟨-, -, dies, apart, room⟩ := Meter.refuseOpen_none h
    rw [← x.apportion_groups] at apart room
    rw [Meter.openRecord_takes h]
    refine (((apportion_moves x).tail ?_).tail (.openLoan { x.apportion with
      mseq := x.mseq + 1, opened := x.opened ++ [r.loanid] } (Meter.beginning (Meter.cosign x r 0 0 false false)) dies apart room)).tail (.commit _)
    exact .same {}

theorem closeRecord_moves (r : LoanRec) (x : Meter) : MeterMoves x (Meter.closeRecord r x).1 := by
  cases h : Meter.refuseAny x r with
  | some k => rw [Meter.closeRecord_refuses h]
  | none =>
    by_cases held : ∃ l ∈ x.loans, l.co.lr.loanid = r.loanid
    · obtain ⟨e, d, sus, eq⟩ := Meter.closeRecord_held h held
      rw [eq]
      refine (((apportion_moves x).tail ?_).tail (.closeLoan { x.apportion with
        mseq := x.mseq + 1, closed := x.closed ++ [Meter.cosign x r e d sus false] } (Meter.cosign x r e d sus false) _ ?_)).tail
        (.commit _)
      · exact .same {}
      · obtain ⟨l, listed, same⟩ := held
        exact ⟨_, List.mem_map_of_mem listed, by simp [same]⟩
    · rcases Meter.closeRecord_absent h (by simpa using held) with ⟨d, -, -, eq⟩ | ⟨-, eq⟩ <;> rw [eq]
      · exact .single (.commit x)
      · exact (Relation.ReflTransGen.single (.same {})).tail (.commit _)

theorem snapshot_moves (x : Meter) (part : Option Nat) : MeterMoves x (x.snapshot part).1 :=
  (Relation.ReflTransGen.single (.same (y := { x with mseq := x.mseq + 1 }) {})).tail (.commit _)

theorem reply_moves (r : MReply) (x : Meter) : MeterMoves x (x.reply r) := SameTables.moves {}

theorem setTime_moves (ms : Nat) (x : Meter) : MeterMoves x (x.setTime ms) := by
  refine Relation.ReflTransGen.head (.event x .timeSet) (SameTables.moves ?_)
  unfold Meter.setTime
  dsimp only
  split
  · split <;> exact {}
  · split <;> exact {}

theorem pairWith_moves (ok : Bool) (idpub : BitVec 256) (address : Byte) (x : Meter) : MeterMoves x (x.pairWith ok idpub address) := by
  unfold Meter.pairWith
  split
  · refine Relation.ReflTransGen.trans (b := _) ?_ (reply_moves .ok _)
    exact (SameTables.moves (y := { x with paired := true, idpub := idpub, address := address })
      {}).tail (.event _ .paired)
  · exact reply_moves ..

theorem arrive_moves (s : State) : MeterMoves s.meter (arrive s).meter := by
  refine List.foldlRecOn (motive := fun t : State => MeterMoves s.meter t.meter) _ _ .refl fun t ht q _ => ?_
  split
  · split
    · next room =>
      refine ht.tail (.queue _ _ (le_trans ?_ (Nat.le_max_left ..)))
      simp only [Bool.and_eq_true, decide_eq_true_eq] at room
      rw [List.length_append, List.length_singleton]
      exact room.1
    · exact ht
  · exact ht

theorem takeRecord_moves (isOpen : Bool) {k : LoanRec → Meter → Meter × MAnswer} (h : ∀ r x, MeterMoves x (k r x).1) (s : State) :
    MeterMoves s.meter (takeRecord isOpen k s).meter := by
  have arrived := arrive_moves s
  unfold takeRecord
  dsimp only
  split
  · exact arrived
  · next r q queued =>
    split
    · exact arrived
    · refine (arrived.tail (.queue _ q ?_)).trans (h ..)
      rw [queued]
      exact (Nat.le_succ _).trans (Nat.le_max_right ..)

theorem liftM_moves {f : State → State} (s : State) (h : MeterMoves s.meter (f s).meter) :
    ∀ t, liftM f s = .next t → MeterMoves s.meter t.meter := by
  rintro _ ⟨⟩
  split
  · exact h
  · exact .refl

theorem liftMtr_moves {f : Meter → Meter} (h : ∀ x, MeterMoves x (f x)) (s : State) :
    ∀ t, liftMtr f s = .next t → MeterMoves s.meter t.meter := liftM_moves s (h _)

theorem execMeterPowerUp_moves (s : State) : ∀ t, execMeterPowerUp s = .next t → MeterMoves s.meter t.meter := by
  rintro _ ⟨⟩
  split
  · exact .refl
  · exact .single (.powerUp _)

theorem execMtrAnswerReady_moves (f : Fn) (s : State) : ∀ t, execMtrAnswerReady f s = .next t → MeterMoves s.meter t.meter := by
  rintro _ ⟨⟩
  split
  · exact .refl
  · split
    · exact .refl
    · dsimp only
      split
      · exact snapshot_moves s.meter (if f = 0 then none else some ((partOfFn s.mod f.val).getD 8))
      · exact .refl

theorem execMeterListOpen_moves (s : State) : ∀ t, execMeterListOpen s = .next t → MeterMoves s.meter t.meter := by
  refine liftM_moves s ?_
  dsimp only
  split <;> exact arrive_moves s

theorem execMeterRecordDrop_moves (s : State) : ∀ t, execMeterRecordDrop s = .next t → MeterMoves s.meter t.meter := by
  refine liftM_moves s ?_
  dsimp only
  split <;> exact arrive_moves s

theorem acked_moves (n : Nat) (x : Meter) : MeterMoves x (x.acked n) :=
  (Relation.ReflTransGen.single (.ackLog x _)).trans (reply_moves ..)

theorem sample_moves (entry : Nat) (dies : List Nat) (x : Meter) : MeterMoves x (x.sample entry dies) := SameTables.moves {}

/-- Every command takes the meter along a run of its actions. -/
theorem exec_moves (c : Instr) (s : State) : ∀ t, exec c s = .next t → MeterMoves s.meter t.meter := by
  by_cases h : OfMeter c
  · cases h with
    | supplySag =>
      rintro _ ⟨⟩
      refine SameTables.moves ?_
      dsimp only
      split <;> exact {}
    | powerLoss =>
      rintro _ ⟨⟩
      exact SameTables.moves {}
    | mtrAnswerReady f => exact execMtrAnswerReady_moves f s
    | meterPowerUp => exact execMeterPowerUp_moves s
    | meterApportion => exact liftMtr_moves apportion_moves s
    | meterCommit => exact liftMtr_moves (fun x => .single (.commit x)) s
    | meterOpenRecord => exact liftM_moves s (takeRecord_moves _ openRecord_moves s)
    | meterCloseRecord => exact liftM_moves s (takeRecord_moves _ closeRecord_moves s)
    | meterListOpen => exact execMeterListOpen_moves s
    | meterRecordDrop => exact execMeterRecordDrop_moves s
    | caseSwitchOpen => exact liftMtr_moves (fun x => .single (.tamper x)) s
    | readSnapshot => exact liftMtr_moves (fun x => (snapshot_moves x none).trans (reply_moves ..)) s
    | meterSample e d => exact liftMtr_moves (sample_moves e d) s
    | readId | readLog n | readEvents i => exact liftMtr_moves (reply_moves _) s
    | ackLog n => exact liftMtr_moves (acked_moves n) s
    | setTime n => exact liftMtr_moves (setTime_moves n) s
    | pair ok id adr => exact liftMtr_moves (pairWith_moves ok id adr) s
  · obtain ⟨t, ht, -, same⟩ := exec_module_inPlace h s
    rintro t' e
    rw [ht] at e
    cases e
    rw [same]

theorem step_moves {s t : State} (h : step s = .next t) : MeterMoves s.meter t.meter := by
  unfold step at h
  split at h
  · cases h
    exact tickMeter_moves s.meter
  · next c r _ => exact exec_moves c { s with pending := r } t h


/-! The bounds of the meter (O53, O54; 16 R508 to R510, R515, R520) -/

/-- The bounds of a loan table, by the dies of its loans, and of a closed-loan log beside it. -/
structure TableOk (gs : List (BitVec 8)) (log : List Cosigned) : Prop where
  groups : Meter.GroupsOk gs
  room : log.length + gs.length ≤ Meter.logMax

theorem tableOk_iff {ls : List MLoan} {log : List Cosigned} :
    TableOk (ls.map (·.co.lr.dies)) log ↔ LoansOk ls ∧ log.length + ls.length ≤ Meter.logMax := by
  rw [Meter.loansOk_iff, ← List.length_map (f := fun l : MLoan => l.co.lr.dies)]
  exact ⟨fun h => ⟨h.groups, h.room⟩, fun h => ⟨h.1, h.2⟩⟩

theorem commitOk_iff {c : Commit} : CommitOk c ↔ TableOk (c.loans.map (·.co.lr.dies)) c.log := tableOk_iff.symm

theorem meterOk_iff {x : Meter} : MeterOk x ↔ TableOk x.groups x.log ∧ x.queue.length ≤ Meter.queueMax ∧ x.events.length ≤ 1024 ∧
    (∀ c, x.slotA = some c → CommitOk c) ∧ ∀ c, x.slotB = some c → CommitOk c := by
  rw [Meter.groups, tableOk_iff]
  exact ⟨fun ⟨a, b, c, d, e, f⟩ => ⟨⟨a, b⟩, c, d, e, f⟩, fun ⟨⟨a, b⟩, c, d, e, f⟩ => ⟨a, b, c, d, e, f⟩⟩

/-- A new loan on dies of its own, with room in the log for its close. -/
theorem TableOk.append {gs : List (BitVec 8)} {log : List Cosigned} (h : TableOk gs log) {d : BitVec 8} (dies : d ≠ 0)
    (apart : ∀ g ∈ gs, g &&& d = 0) (room : log.length + gs.length < Meter.logMax) : TableOk (gs ++ [d]) log := by
  obtain ⟨⟨nonempty, disjoint⟩, -⟩ := h
  refine ⟨⟨fun g listed => ?_, List.pairwise_append.2 ⟨disjoint, List.pairwise_singleton .., fun g listed e last => ?_⟩⟩, ?_⟩
  · rcases List.mem_append.1 listed with old | new
    · exact nonempty g old
    · rwa [List.mem_singleton.1 new]
  · rw [List.mem_singleton.1 last]
    exact apart g listed
  · rw [List.length_append, List.length_singleton]
    exact room

/-- Fewer loans, and no more entries than went from the table into the log. -/
theorem TableOk.sublist {gs gs' : List (BitVec 8)} {log log' : List Cosigned} (h : TableOk gs log) (less : gs'.Sublist gs)
    (room : log'.length + gs'.length ≤ log.length + gs.length) : TableOk gs' log' := by
  obtain ⟨⟨nonempty, disjoint⟩, bound⟩ := h
  exact ⟨⟨fun g listed => nonempty g (less.subset listed), disjoint.sublist less⟩, room.trans bound⟩

/-- A meter within its bounds commits what is within them. -/
theorem meterOk_image {x : Meter} (h : MeterOk x) : CommitOk x.image := ⟨h.loans, h.log⟩

theorem meterOk_commit {x : Meter} (h : MeterOk x) : MeterOk x.commit := by
  obtain ⟨a, b, eq, oldA, oldB⟩ := x.commit_frame
  rw [eq]
  refine { h with slotA := ?_, slotB := ?_ }
  · rcases oldA with rfl | rfl
    · exact h.slotA
    · rintro _ ⟨⟩
      exact meterOk_image h
  · rcases oldB with rfl | rfl
    · exact h.slotB
    · rintro _ ⟨⟩
      exact meterOk_image h

theorem meterOk_event {x : Meter} (h : MeterOk x) (e : MEvent) : MeterOk (x.event e) := by
  obtain ⟨es, eq, bound⟩ := x.event_frame e
  rw [eq]
  exact { h with events := bound.trans (Nat.max_le.2 ⟨le_refl _, h.events⟩) }

theorem meterOk_powerUp {x : Meter} (h : MeterOk x) : MeterOk x.powerUp := by
  have held : CommitOk (x.newest.getD Meter.blank) := by
    cases found : x.newest with
    | none => exact ⟨⟨fun _ listed => (nomatch listed), .nil⟩, Nat.zero_le _⟩
    | some c => exact (Meter.newest_mem found).elim (h.slotA c) (h.slotB c)
  rw [Meter.powerUp_eq]
  refine meterOk_event (meterOk_iff.2 ?_) _
  refine ⟨?_, Nat.zero_le _, h.events, h.slotA, h.slotB⟩
  rw [Meter.resumed_groups]
  exact commitOk_iff.1 held

/-- Every action of the meter keeps it within its bounds. -/
theorem meterOk_move {x y : Meter} (h : MeterOk x) (move : MeterMove x y) : MeterOk y := by
  obtain ⟨table, queue, events, slotA, slotB⟩ := meterOk_iff.1 h
  cases move with
  | same g =>
    refine meterOk_iff.2 ?_
    rw [g.groups, g.log, g.queue, g.events, g.slotA, g.slotB]
    exact ⟨table, queue, events, slotA, slotB⟩
  | queue q bound => exact { h with queue := bound.trans (Nat.max_le.2 ⟨le_refl _, queue⟩) }
  | commit => exact meterOk_commit h
  | event e => exact meterOk_event h e
  | tamper => exact meterOk_commit (meterOk_event (x := { x with tampered := true }) { h with } _)
  | openLoan l dies apart room =>
    refine meterOk_iff.2 ⟨?_, queue, events, slotA, slotB⟩
    rw [Meter.groups, List.map_append]
    exact table.append dies apart room
  | closeLoan c t held =>
    refine meterOk_iff.2 ⟨table.sublist (List.filter_sublist.map _) ?_, queue, events, slotA, slotB⟩
    obtain ⟨l, listed, closed⟩ := held
    have fewer := List.length_filter_lt_length_iff_exists (p := t).2 ⟨l, listed, by simp [closed]⟩
    simp only [List.length_append, List.length_singleton, Meter.groups, List.length_map]
    omega
  | ackLog t =>
    exact meterOk_iff.2 ⟨table.sublist (.refl _) (Nat.add_le_add_right (List.length_filter_le ..) _), queue, events, slotA, slotB⟩
  | powerUp => exact meterOk_powerUp h

/-- Settles O53: a step takes the meter along a run of its actions, and each of them keeps it within its bounds. -/
theorem meterStaysWithinBounds : Obligations.MeterStaysWithinBounds := fun _ _ ok next =>
  (step_moves next).head_induction_on (motive := fun x _ => MeterOk x → MeterOk _) id (fun move _ ih ok => ih (meterOk_move ok move)) ok

/-- Settles O54: the tables of a meter at reset are empty, and TAMPERED is clear. -/
theorem meterWithinBoundsAtReset : Obligations.MeterWithinBoundsAtReset :=
  ⟨⟨⟨by decide, .nil⟩, by decide, by decide, by decide, (fun _ h => nomatch h), (fun _ h => nomatch h)⟩, fun h => nomatch h⟩


/-! TAMPERED (O55; 16 R513, R518, R520) -/

/-- TAMPERED is set and the newer commit holds it. -/
def TamperHeld (x : Meter) : Prop := x.tampered = true ∧ (x.newest.map (·.tampered)) = some true

theorem tamperHeld_commit {x : Meter} (h : x.tampered = true) : TamperHeld x.commit :=
  ⟨by simp [h], by rw [Meter.newest_commit]; exact congrArg some h⟩

theorem event_newest (x : Meter) (e : MEvent) : (x.event e).newest = x.newest ∧ (x.event e).tampered = x.tampered := by
  obtain ⟨_, eq, -⟩ := x.event_frame e
  rw [eq]
  exact ⟨rfl, rfl⟩

theorem caseOpened_held (x : Meter) : TamperHeld x.caseOpened := tamperHeld_commit (event_newest ..).2

/-- The meter that lost power resumes with the mark of its newer commit. -/
theorem powerUp_tampered (x : Meter) : x.powerUp.newest = x.newest ∧
    x.powerUp.tampered = (x.newest.map (·.tampered)).getD false := by
  obtain ⟨newest, tampered⟩ := event_newest (Meter.resumed (x.newest.getD Meter.blank) x) .powerUp
  rw [Meter.powerUp_eq, newest, tampered]
  refine ⟨rfl, ?_⟩
  cases x.newest <;> rfl

/-- Every action of the meter keeps the agreement, and none clears TAMPERED. -/
theorem tamper_move {x y : Meter} (kept : TamperKept x) (move : MeterMove x y) :
    TamperKept y ∧ (x.tampered = true → y.tampered = true) := by
  cases move with
  | same g =>
    have newest : y.newest = x.newest := by rw [Meter.newest, Meter.newest, g.slotA, g.slotB]
    rw [TamperKept, newest, g.tampered]
    exact ⟨kept, id⟩
  | commit => exact ⟨fun h => (tamperHeld_commit (by simpa using h)).2, fun h => by simpa using h⟩
  | event e =>
    obtain ⟨newest, tampered⟩ := event_newest x e
    rw [TamperKept, newest, tampered]
    exact ⟨kept, id⟩
  | tamper =>
    obtain ⟨set, held⟩ := caseOpened_held x
    exact ⟨fun _ => held, fun _ => set⟩
  | powerUp =>
    obtain ⟨newest, tampered⟩ := powerUp_tampered x
    rw [TamperKept, newest, tampered]
    refine ⟨fun h => ?_, fun h => by rw [kept h]; rfl⟩
    cases found : x.newest.map (·.tampered) with
    | none => rw [found] at h; cases h
    | some b => rw [found] at h; exact congrArg some h
  | queue | openLoan | closeLoan | ackLog => exact ⟨kept, id⟩

theorem tamper_moves {x y : Meter} (kept : TamperKept x) (moves : MeterMoves x y) :
    TamperKept y ∧ (x.tampered = true → y.tampered = true) := by
  induction moves with
  | refl => exact ⟨kept, id⟩
  | tail _ move ih =>
    obtain ⟨kept', stays⟩ := ih
    obtain ⟨kept'', stays'⟩ := tamper_move kept' move
    exact ⟨kept'', fun h => stays' (stays h)⟩

/-- A command of the meter while its 72 V entry is live. -/
theorem liftMtr_answers {c : Instr} {f : Meter → Meter} {s : State} (powered : s.meter.powered = true) (is : exec c s = liftMtr f s) :
    exec c s = .next { s with meter := f s.meter } := by
  rw [is, liftMtr, liftM, if_pos powered]

theorem caseSwitchOpen_sets {s : State} (powered : s.meter.powered = true) : ∃ y, exec .caseSwitchOpen s = .next { s with meter := y } ∧
    y.tampered = true ∧ (y.newest.map (·.tampered)) = some true ∧
    (s.meter.events.length < 1024 → y.events = s.meter.events ++ [.tamper]) := by
  obtain ⟨set, held⟩ := caseOpened_held s.meter
  refine ⟨s.meter.caseOpened, liftMtr_answers powered rfl, set, held, fun room => ?_⟩
  rw [Meter.caseOpened, Meter.event_room (x := { s.meter with tampered := true }) room]
  exact (Meter.commit_same _).2.2.2.1

/-- Settles O55: the agreement along a run of the meter's actions, the case switch, and the records of a tampered meter. -/
theorem tamperedIsPermanent : Obligations.TamperedIsPermanent := by
  refine ⟨fun s t kept next => tamper_moves kept (step_moves next), fun s => caseSwitchOpen_sets, fun x r tampered => ⟨fun opens => ?_, ?_⟩⟩
  · obtain ⟨-, clear, -⟩ := Meter.refuseOpen_none opens
    rw [tampered] at clear
    cases clear
  · intro passes held
    obtain ⟨e, d, sus, eq⟩ := Meter.closeRecord_held passes held
    rw [eq]
    exact ⟨_, rfl, rfl, tampered⟩

end Sys2Proof.Machine

namespace Sys2Proof.Machine

open Sys2Proof.Safety

/-! Apportioning (O39; 16 R505, R508) -/

namespace Meter

theorem sum_eq (l : List Nat) : sum l = l.sum := List.sum_eq_foldl.symm

/-- What the dies of a mask add up to, each by its weight. -/
def weight (f : Nat → Nat) (d : BitVec 8) : Nat := ((diesIn d).map f).sum

/-- The weight of a mask, bit by bit. -/
theorem weight_eq (f : Nat → Nat) (d : BitVec 8) : weight f d = ((upTo 8).map fun i => if d.getLsbD i then f i else 0).sum := by
  rw [List.sum_map_ite, weight, diesIn]
  simp

theorem weight_union (f : Nat → Nat) {a b : BitVec 8} (apart : a &&& b = 0) : weight f (a ||| b) = weight f a + weight f b := by
  simp only [weight_eq, ← List.sum_map_add]
  refine congrArg List.sum (List.map_congr_left fun i _ => ?_)
  have one : (a &&& b).getLsbD i = false := by rw [apart]; exact BitVec.getLsbD_zero
  rw [BitVec.getLsbD_and] at one
  rw [BitVec.getLsbD_or]
  cases ha : a.getLsbD i <;> cases hb : b.getLsbD i <;> simp_all

theorem weight_le (f : Nat → Nat) (d : BitVec 8) : weight f d ≤ ((upTo 8).map f).sum := by
  rw [weight_eq]
  refine List.sum_le_sum fun i _ => ?_
  split
  · exact le_refl _
  · exact Nat.zero_le _

/-- A group that meets none of a list does not meet their union. -/
theorem apart_union {d : BitVec 8} {gs : List (BitVec 8)} (apart : ∀ g ∈ gs, d &&& g = 0) : d &&& gs.foldr (· ||| ·) 0 = 0 := by
  induction gs with
  | nil => exact BitVec.and_zero
  | cons g gs ih =>
    obtain ⟨first, rest⟩ := List.forall_mem_cons.1 apart
    rw [List.foldr_cons, BitVec.and_or_distrib_left, first, ih rest]
    rfl

/-- Disjoint groups of dies weigh no more than all dies together. -/
theorem weights_le (f : Nat → Nat) {gs : List (BitVec 8)} (disjoint : gs.Pairwise fun a b => a &&& b = 0) :
    (gs.map (weight f)).sum ≤ ((upTo 8).map f).sum := by
  have union : (gs.map (weight f)).sum = weight f (gs.foldr (· ||| ·) 0) := by
    induction disjoint with
    | nil => rfl
    | cons apart _ ih => rw [List.map_cons, List.sum_cons, List.foldr_cons, weight_union f (apart_union apart), ih]
  rw [union]
  exact weight_le f _

/-- What a die and its eighth of the common energy add to a loan, in eighths. -/
def dieShare (x : Meter) (k : Nat) : Nat := 8 * x.accDies.getD k 0 + (x.accEntry - x.accDies.sum)

theorem dieShare_sum (x : Meter) (ds : List Nat) :
    (ds.map x.dieShare).sum = 8 * (ds.map fun k => x.accDies.getD k 0).sum + (x.accEntry - x.accDies.sum) * ds.length := by
  unfold dieShare
  rw [List.sum_map_add, List.sum_map_mul_left, List.map_const', List.sum_replicate, smul_eq_mul, Nat.mul_comm ds.length]

theorem share_eq (x : Meter) (l : MLoan) : share x l = if l.suspended then 0 else weight x.dieShare l.co.lr.dies := by
  rw [weight, dieShare_sum, ← sum_eq, ← sum_eq]
  rfl

/-- All dies together accrue the whole entry energy. -/
theorem dieShare_total {x : Meter} (eight : x.accDies.length = 8) (covered : x.accDies.sum ≤ x.accEntry) :
    ((upTo 8).map x.dieShare).sum = 8 * x.accEntry := by
  have dies : (upTo 8).map (fun k => x.accDies.getD k 0) = x.accDies :=
    List.ext_getElem (by simp [upTo, eight]) fun k _ inside => by simp [upTo, inside]
  rw [dieShare_sum, dies, upTo, List.length_range]
  omega

/-- The loans accrue no more than the entry energy. -/
theorem shares_le {x : Meter} (loans : LoansOk x.loans) (eight : x.accDies.length = 8) (covered : x.accDies.sum ≤ x.accEntry) :
    (x.loans.map (share x)).sum ≤ 8 * x.accEntry :=
  calc (x.loans.map (share x)).sum
      ≤ (x.loans.map fun l => weight x.dieShare l.co.lr.dies).sum := List.sum_le_sum fun l _ => by
        rw [share_eq]
        split
        · exact Nat.zero_le _
        · exact le_refl _
    _ = (x.groups.map (weight x.dieShare)).sum := by rw [groups, List.map_map]; rfl
    _ ≤ ((upTo 8).map x.dieShare).sum := weights_le _ (loansOk_iff.1 loans).2
    _ = 8 * x.accEntry := dieShare_total eight covered

end Meter

/-- Settles O39: what a loan accrues is the weight of its dies, and disjoint groups weigh no more than the entry energy. -/
theorem energyIsConserved : Obligations.EnergyIsConserved := by
  intro s powered eight
  refine ⟨s.meter.apportion, liftMtr_answers powered rfl, rfl, rfl, rfl, List.length_map .., fun i a b before after => ?_,
    fun loans covered => ?_⟩
  · have accrued : s.meter.apportion.loans[i]? = some { a with energy := a.energy + Meter.share s.meter a } := by
      rw [Meter.apportion, List.getElem?_map, before]
      rfl
    obtain rfl := Option.some.inj (accrued.symm.trans after)
    dsimp only
    rw [Meter.share_eq]
    rfl
  · have bound := Meter.shares_le loans eight covered
    have energies : (s.meter.apportion.loans.map (·.energy)).sum =
        (s.meter.loans.map (·.energy)).sum + (s.meter.loans.map (Meter.share s.meter)).sum := by
      rw [← List.sum_map_add, Meter.apportion, List.map_map]
      rfl
    have rest : s.meter.apportion.unattr = s.meter.unattr + (8 * s.meter.accEntry - (s.meter.loans.map (Meter.share s.meter)).sum) := by
      rw [Meter.apportion, ← Meter.sum_eq]
    rw [energies, rest]
    omega

end Sys2Proof.Machine

namespace Sys2Proof.Machine

open Sys2Proof.Safety

/-! Records over the meter link (O40; 16 R508 to R511) -/

/-- A record alone on the link enters an empty queue (R509), and the command of its kind handles it. -/
theorem takeRecord_alone {s : State} {r : LoanRec} (empty : s.meter.queue = []) (sent : s.toMeter = [.record r])
    (k : LoanRec → Meter → Meter × MAnswer) : takeRecord r.isOpen k s = { s with
      meter := (k r s.meter).1, toMeter := [], fromMeter := s.fromMeter ++ [(k r s.meter).2] } := by
  have arrived : arrive s = { s with toMeter := [], meter := { s.meter with queue := [r] } } := by
    rw [arrive, sent, List.foldl_cons, List.foldl_nil]
    dsimp only
    rw [if_pos (by simp [sent, empty, Meter.queueMax]), sent, empty]
    rfl
  have taken : ({ s.meter with queue := [] } : Meter) = s.meter := by rw [← empty]
  rw [takeRecord, arrived]
  dsimp only
  rw [if_neg (not_not.2 rfl), taken]

/-- A record that finds eight others is lost (R509). -/
theorem arrive_full {s : State} {r : LoanRec} (full : s.meter.queue.length = 8) (sent : s.toMeter = [.record r]) : arrive s = s := by
  rw [arrive, sent, List.foldl_cons, List.foldl_nil]
  exact if_neg (by simp [full, Meter.queueMax])

section
variable {s : State} (powered : s.meter.powered = true)
include powered

/-- A command of the meter and its link while the 72 V entry is live. -/
theorem liftM_powered (f : State → State) : liftM f s = .next (f s) := by
  rw [liftM, if_pos powered]

theorem meterListOpen_answers (asked : s.toMeter = [.list]) : exec .meterListOpen s =
    .next { s with toMeter := [], fromMeter := s.fromMeter ++ [.list (s.meter.loans.map (·.co))] } := by
  have stays : arrive s = s := by rw [arrive, asked]; rfl
  change execMeterListOpen s = _
  rw [execMeterListOpen, liftM_powered powered]
  dsimp only
  rw [stays, asked]

theorem meterRecordDrop_answers {r : LoanRec} (full : s.meter.queue.length = 8) (sent : s.toMeter = [.record r]) :
    exec .meterRecordDrop s = .next { s with toMeter := [] } := by
  change execMeterRecordDrop s = _
  rw [execMeterRecordDrop, liftM_powered powered]
  dsimp only
  rw [arrive_full full sent, sent]

variable (empty : s.meter.queue = []) {r : LoanRec} (sent : s.toMeter = [.record r])
include empty sent

theorem meterOpenRecord_answers (opens : r.isOpen = true) : exec .meterOpenRecord s = .next { s with
    meter := (Meter.openRecord r s.meter).1, toMeter := [], fromMeter := s.fromMeter ++ [(Meter.openRecord r s.meter).2] } :=
  (liftM_powered powered _).trans (congrArg _ (opens ▸ takeRecord_alone empty sent Meter.openRecord))

theorem meterCloseRecord_answers (closes : r.isOpen = false) : exec .meterCloseRecord s = .next { s with
    meter := (Meter.closeRecord r s.meter).1, toMeter := [], fromMeter := s.fromMeter ++ [(Meter.closeRecord r s.meter).2] } :=
  (liftM_powered powered _).trans (congrArg _ (closes ▸ takeRecord_alone empty sent Meter.closeRecord))

end

/-- An open that is co-signed (R508, R510): the loan is in the table, and in the commit made before the answer. -/
theorem Meter.openRecord_cosigns {x : Meter} {r : LoanRec} (passes : refuseOpen x r = none) : ∃ y c, openRecord r x = (y, .cosigned c) ∧
    c.lr = r ∧ c.mseq = x.mseq + 1 ∧ y.mseq = x.mseq + 1 ∧ c.mtime = x.mtime ∧ y.loans.length = x.loans.length + 1 ∧
    r.loanid ∈ y.opened ∧ (y.newest.map (·.loans)) = some y.loans := by
  refine ⟨_, _, openRecord_takes passes, rfl, rfl, by simp, rfl, ?_, ?_, ?_⟩
  · simp [apportion]
  · simp
  · simp [newest_commit, image]

/-- A close that is co-signed (R511): of a loan that the meter holds, or of one that it has never held. -/
theorem Meter.closeRecord_cosigns {x : Meter} {r : LoanRec} (passes : refuseAny x r = none) : ∃ y c, closeRecord r x = (y, .cosigned c) ∧
    ((∃ l ∈ x.loans, l.co.lr.loanid = r.loanid) → c.lr = r ∧ c.mseq = x.mseq + 1 ∧ c.notopen = false ∧
      (∀ l ∈ y.loans, l.co.lr.loanid ≠ r.loanid) ∧ c ∈ y.log) ∧
    ((∀ l ∈ x.loans, l.co.lr.loanid ≠ r.loanid) → (∀ d ∈ x.closed, d.lr.loanid ≠ r.loanid) → c.notopen = true ∧ c.energy = 0) := by
  by_cases held : ∃ l ∈ x.loans, l.co.lr.loanid = r.loanid
  · obtain ⟨e, d, sus, eq⟩ := closeRecord_held passes held
    refine ⟨_, _, eq, fun _ => ⟨rfl, rfl, rfl, fun l left => ?_, by simp⟩, fun absent => ?_⟩
    · rw [(commit_same _).1] at left
      simpa using (List.mem_filter.1 left).2
    · obtain ⟨l, listed, same⟩ := held
      exact absurd same (absent l listed)
  · have absent : ∀ l ∈ x.loans, l.co.lr.loanid ≠ r.loanid := by simpa using held
    rcases closeRecord_absent passes absent with ⟨d, listed, same, eq⟩ | ⟨-, eq⟩
    · exact ⟨_, _, eq, fun h => absurd h held, fun _ unknown => absurd same (unknown d listed)⟩
    · exact ⟨_, _, eq, fun h => absurd h held, fun _ _ => ⟨rfl, rfl⟩⟩

/-- Settles O40: a record alone on the link is handled as its checks allow. -/
theorem meterLoanRecords : Obligations.MeterLoanRecords := by
  intro s powered empty
  refine ⟨fun r sent => ⟨fun opens => ?_, fun closes => ?_⟩, meterListOpen_answers powered, fun u r live full sent => meterRecordDrop_answers live full sent⟩
  · rw [meterOpenRecord_answers powered empty sent opens]
    refine ⟨fun k refused => ?_, fun passes => ?_⟩
    · rw [Meter.openRecord_refuses refused]
    · obtain ⟨y, c, eq, known⟩ := Meter.openRecord_cosigns passes
      rw [eq]
      exact ⟨y, c, rfl, known⟩
  · rw [meterCloseRecord_answers powered empty sent closes]
    refine ⟨fun k refused => ?_, fun passes => ?_⟩
    · rw [Meter.closeRecord_refuses refused]
    · obtain ⟨y, c, eq, known⟩ := Meter.closeRecord_cosigns passes
      rw [eq]
      exact ⟨y, c, rfl, known⟩

end Sys2Proof.Machine

namespace Sys2Proof.Machine

open Sys2Proof.Safety

/-! The meter's port and clock (O38; 16 R503, R506, R513, R515 to R520) -/

namespace Meter

/-- A snapshot (R515, R516): the meter after it, and what it says of the newer commit. -/
theorem snapshot_says (x : Meter) (part : Option Nat) : ∃ y d, x.snapshot part = (y, d) ∧ d.mseq = x.mseq + 1 ∧ y.mseq = x.mseq + 1 ∧
    d.tampered = (x.newest.map (·.tampered)).getD false ∧
    (part = none → d.total = ((x.newest.map (·.total)).getD 0) / 8000 ∧
      d.loans.length = ((x.newest.map (·.loans.length)).getD 0)) ∧
    ∀ p, part = some p → d.total = 0 ∧ ∀ l ∈ d.loans, l.part.toNat = p := by
  refine ⟨_, _, rfl, rfl, (commit_same _).2.2.2.2.2.1, rfl, ?_, ?_⟩
  · rintro rfl
    refine ⟨rfl, (List.length_map _).trans ?_⟩
    cases x.newest <;> rfl
  · rintro p rfl
    exact ⟨rfl, fun l listed => beq_iff_eq.1 (List.mem_filter.1 listed).2⟩

section
variable {x : Meter} (room : x.events.length < 1024) {t : Nat}
include room

/-- The first SET_TIME after power-up may not take MTIME back before the newer commit (R506). -/
theorem setTime_first (fresh : x.firstSet = false) : x.setTime t =
    let y : Meter := { x with events := x.events ++ [.timeSet] }
    if (x.newest.map (·.mtime)).getD 0 ≤ t then ({ y with mtime := t, unsynced := false, firstSet := true } : Meter).reply .ok
    else y.reply .refused := by
  rw [setTime, event_room room]
  exact if_pos (by simp [fresh])

/-- A later one moves MTIME by no more than the hour allows (R506). -/
theorem setTime_later (set : x.firstSet = true) : x.setTime t =
    let y : Meter := { x with events := x.events ++ [.timeSet] }
    let moved := (t - x.mtime) + (x.mtime - t)
    let recent := x.sets.filter fun e => decide (x.ticks < e.1 + 3600000)
    if (recent.map (·.2)).sum + moved ≤ 1000 then ({ y with mtime := t, sets := recent ++ [(x.ticks, moved)] } : Meter).reply .ok
    else y.reply .refused := by
  rw [setTime, event_room room]
  dsimp only
  rw [if_neg (by simp [set])]
  rw [sum_eq]
  rfl

theorem pairWith_takes (free : x.loans = []) (k : BitVec 256) (a : Byte) : x.pairWith true k a =
    ({ x with paired := true, idpub := k, address := a, events := x.events ++ [.paired] } : Meter).reply .ok := by
  rw [pairWith, if_pos (by simp [free]), event_room (x := { x with paired := true, idpub := k, address := a }) room]

end

theorem pairWith_refuses {x : Meter} {ok : Bool} (no : ok = false ∨ x.loans ≠ []) (k : BitVec 256) (a : Byte) :
    x.pairWith ok k a = x.reply .refused := by
  refine if_neg ?_
  rcases no with rfl | lent
  · simp
  · simp [lent]

end Meter

theorem meterPowerUp_resumes {u : State} (off : u.meter.powered = false) :
    ∃ y, exec .meterPowerUp u = .next { u with meter := y, toMeter := [], fromMeter := [] } ∧ y.powered = true ∧
      y.unsynced = true ∧ y.mtime = (u.meter.newest.map (·.mtime)).getD 0 ∧ (∀ l ∈ y.loans, l.suspended = true) := by
  refine ⟨u.meter.powerUp, ?_, ?_⟩
  · change Host.Outcome.next (if _ then _ else _) = _
    rw [if_neg (by simp [off])]
  · obtain ⟨_, eq, -⟩ := (Meter.resumed (u.meter.newest.getD Meter.blank) u.meter).event_frame .powerUp
    rw [Meter.powerUp_eq, eq]
    refine ⟨rfl, rfl, ?_, fun l listed => ?_⟩
    · cases u.meter.newest <;> rfl
    · obtain ⟨_, -, rfl⟩ := List.mem_map.1 listed
      rfl

theorem readSnapshot_answers {s : State} (powered : s.meter.powered = true) {y : Meter} {d : Snap} (taken : s.meter.snapshot none = (y, d)) :
    exec .readSnapshot s = .next { s with meter := y.reply (.snap (.snapshot d)) } := by
  change execReadSnapshot s = _
  rw [execReadSnapshot, liftMtr, liftM, if_pos powered]
  dsimp only
  rw [taken]

/-! Meter requests of a function (16 R516; 17 R529) -/

section
variable {f : Fn} {s : State} (on : s.mod.on = true) (lib : s.mod.boot.lib = true)
include on lib

/-- A request is held until the meter answers it. -/
theorem mtrRequest_held {c : Instr} {req mseq : Nat} (up : hostUp s.mod f.val = true) (sees : seesFn s.mod f = true)
    (is : exec c s = liftW (some f) (mtrRequest f req mseq) s) :
    Gives c s (s.mod.updFunc f.val fun x => { x with mtrReq := some (req, mseq) }) :=
  liftW_gives (w := some f) on lib is up (if_pos sees)

theorem mtrLogEntry_gives (up : hostUp s.mod f.val = true) (sees : seesFn s.mod f = true) (n : BitVec 32) :
    (f = 0 → Gives (.mtrLogEntry f n) s (s.mod.updFunc f.val fun x => { x with mtrReq := some (2, n.toNat) })) ∧
    (f ≠ 0 → ∃ q, Gives (.mtrLogEntry f n) s q ∧ q.funs = s.mod.funs) := by
  refine ⟨fun phys => ?_, fun virt => ⟨_, liftW_gives (w := some f) on lib rfl up rfl, ?_⟩⟩
  · exact liftW_gives (w := some f) on lib rfl up ((if_pos phys).trans (if_pos sees))
  · rw [mtrLog, if_neg virt, if_pos sees, refused]
    simp only [led_same]

variable (powered : s.meter.powered = true)
include powered

theorem mtrAnswerReady_log {n : Nat} (asked : (s.mod.func f.val).mtrReq = some (2, n)) : Gives (.mtrAnswerReady f) s
    (irq f.val 2 (s.mod.updFunc f.val fun x =>
      { x with mtrReq := none, mtrdata := .logEntry (s.meter.log.find? fun c => c.mseq == n) })) := by
  have runs : (!s.mod.lib || !s.meter.powered) = false := by simp [Module.lib, on, lib, powered]
  change execMtrAnswerReady f s = _
  rw [execMtrAnswerReady, asked]
  dsimp only
  rw [runs, if_neg Bool.false_ne_true]
  rfl

theorem mtrAnswerReady_snapshot {n : Nat} (asked : (s.mod.func f.val).mtrReq = some (1, n)) : ∃ y d, exec (.mtrAnswerReady f) s =
      .next { s with meter := y, mod := irq f.val 2 (s.mod.updFunc f.val fun x =>
        { x with mtrReq := none, mtrdata := .snapshot d }) } ∧
    d.mseq = s.meter.mseq + 1 ∧ (f ≠ 0 → d.total = 0 ∧ ∀ l ∈ d.loans, l.part.toNat = (partOfFn s.mod f.val).getD 8) := by
  have runs : (!s.mod.lib || !s.meter.powered) = false := by simp [Module.lib, on, lib, powered]
  obtain ⟨y, d, taken, mseq, -, -, -, own⟩ :=
    s.meter.snapshot_says (if f = 0 then none else some ((partOfFn s.mod f.val).getD 8))
  refine ⟨y, d, ?_, mseq, fun virt => own _ (if_neg virt)⟩
  change execMtrAnswerReady f s = _
  rw [execMtrAnswerReady, asked]
  dsimp only
  rw [runs, if_neg Bool.false_ne_true, if_pos rfl, taken]

end

/-- Settles O38: each command of the port by what it answers; a function's request by what is held of it, and its answer. -/
theorem meterCommands : Obligations.MeterCommands := by
  refine ⟨fun s powered => ?_, fun f s on lib => ⟨fun up sees => ?_, fun powered => ?_⟩⟩
  · obtain ⟨y, d, taken, mseq, after, tampered, whole, -⟩ := s.meter.snapshot_says none
    have answer {c : Instr} {f : Meter → Meter} {y : Meter} (is : exec c s = liftMtr f s) (e : f s.meter = y) :
        exec c s = .next { s with meter := y } := e ▸ liftMtr_answers powered is
    refine ⟨fun e d => answer rfl rfl, answer rfl rfl, answer rfl rfl, fun n => answer rfl rfl, fun n => answer (f := Meter.acked n) rfl rfl,
      fun i => answer rfl rfl,
      ⟨y, d, readSnapshot_answers powered taken, mseq, after, (whole rfl).1, tampered, (whole rfl).2⟩,
      fun room => ⟨fun k a => ⟨fun free => answer rfl (Meter.pairWith_takes room free k a),
          fun lent => answer rfl (Meter.pairWith_refuses (.inr lent) k a), answer rfl (Meter.pairWith_refuses (.inl rfl) k a)⟩,
        fun t => ⟨fun fresh => ?_, fun set => ?_⟩, ?_⟩,
      fun u => meterPowerUp_resumes⟩
    · have first := Meter.setTime_first (t := t) room fresh
      exact ⟨fun reached => answer rfl (first.trans (if_pos reached)), fun early => answer rfl (first.trans (if_neg (Nat.not_le.2 early)))⟩
    · have later := Meter.setTime_later (t := t) room set
      exact ⟨fun within => answer rfl (later.trans (if_pos within)), fun beyond => answer rfl (later.trans (if_neg (Nat.not_le.2 beyond)))⟩
    · obtain ⟨y, opens, set, held, told⟩ := caseSwitchOpen_sets powered
      exact ⟨y, opens, set, held, told room⟩
  · exact ⟨mtrRequest_held on lib up sees rfl, mtrLogEntry_gives on lib up sees⟩
  · exact ⟨fun n => mtrAnswerReady_log on lib powered, fun n => mtrAnswerReady_snapshot on lib powered⟩

end Sys2Proof.Machine

namespace Sys2Proof.Machine

open Sys2Proof.Safety

/-! The module without its rails (O56; 17 R534) -/

/-- The outcome is a next state with the module of s. -/
def KeepsModule (o : Host.Outcome State Fault Refusal) (s : State) : Prop := ∃ t, o = .next t ∧ t.mod = s.mod

theorem next_keepsModule {s t : State} (h : t.mod = s.mod) : KeepsModule (.next t) s := ⟨t, rfl, h⟩

/-- A command that acts only under a condition that fails. -/
theorem next_idle {c : Prop} {_ : Decidable c} (no : ¬c) (s t : State) : KeepsModule (.next (if c then t else s)) s :=
  next_keepsModule (by rw [if_neg no])

theorem arrive_mod (s : State) : (arrive s).mod = s.mod := by
  refine List.foldlRecOn (motive := fun t : State => t.mod = s.mod) _ _ rfl fun t ht q _ => ?_
  split
  · split <;> exact ht
  · exact ht

theorem takeRecord_mod (isOpen : Bool) (k : LoanRec → Meter → Meter × MAnswer) (s : State) :
    (takeRecord isOpen k s).mod = s.mod := by
  unfold takeRecord
  dsimp only
  split
  · exact arrive_mod s
  · split <;> exact arrive_mod s

theorem liftM_keepsModule {f : State → State} (s : State) (h : (f s).mod = s.mod) : KeepsModule (liftM f s) s := by
  refine next_keepsModule ?_
  split
  · exact h
  · rfl

/-- A change of the meter alone, made while the 72 V entry is live (`liftMtr`). -/
theorem next_ite_meter_keepsModule {c : Prop} {_ : Decidable c} (s : State) (x : Meter) :
    KeepsModule (.next (if c then { s with meter := x } else s)) s := by
  refine next_keepsModule ?_
  split <;> rfl

theorem execMeterListOpen_keepsModule (s : State) : KeepsModule (execMeterListOpen s) s := by
  refine liftM_keepsModule s ?_
  dsimp only
  split <;> exact arrive_mod s

theorem execMeterRecordDrop_keepsModule (s : State) : KeepsModule (execMeterRecordDrop s) s := by
  refine liftM_keepsModule s ?_
  dsimp only
  split <;> exact arrive_mod s

theorem execMeterPowerUp_keepsModule (s : State) : KeepsModule (execMeterPowerUp s) s := by
  refine next_keepsModule ?_
  split <;> rfl

section
variable {s : State} (off : s.mod.boot.rails = false)
include off

theorem logic_off : ¬s.mod.on = true := by simp [Module.on, off]

theorem lib_off : ¬s.mod.lib = true := by simp [Module.lib, Module.on, off]

theorem execMtrAnswerReady_idle (f : Fn) : KeepsModule (execMtrAnswerReady f s) s := by
  refine next_keepsModule ?_
  split
  · rfl
  · rw [if_pos (by simp [lib_off off])]

/-- The meter's commands reach the module only through the Librarian, which does not run. -/
theorem exec_ofMeter_idle {c : Instr} (h : OfMeter c) (sag : c ≠ .supplySag) : KeepsModule (exec c s) s := by
  cases h with
  | supplySag => exact absurd rfl sag
  | powerLoss => exact next_keepsModule (if_neg (by simp [off]))
  | mtrAnswerReady f => exact execMtrAnswerReady_idle off f
  | meterPowerUp => exact execMeterPowerUp_keepsModule s
  | meterOpenRecord | meterCloseRecord => exact liftM_keepsModule s (takeRecord_mod ..)
  | meterListOpen => exact execMeterListOpen_keepsModule s
  | meterRecordDrop => exact execMeterRecordDrop_keepsModule s
  | _ => exact next_ite_meter_keepsModule ..

end

/-- Settles O56: a command that no pin makes acts only where the module's logic, or its Librarian, runs. -/
theorem unpoweredModuleDoesNothing : Obligations.UnpoweredModuleDoesNothing := by
  intro c s off
  cases c with
  | supplySag | pwrEnDeassert | perstAssert | perstDeassert | rstNAssert | rstNRelease | refclkLoss | refclkReturn =>
    exact .inl (by simp)
  | pwrEnAssert good => exact .inl (by cases good <;> simp)
  | thermalTrip x => exact .inr (next_keepsModule (if_neg (by simp [off])))
  | loanOpen => exact .inr (next_idle (by simp [lib_off off]) ..)
  | meterOpenAnswer | meterCloseCosign | restartLoanClose => exact .inr (next_idle (lib_off off) ..)
  | registerWrite f o size v =>
    refine .inr ?_
    change KeepsModule (execRegisterWrite f o size v s) s
    unfold execRegisterWrite
    dsimp only
    rw [if_pos (by simp [logic_off off])]
    exact next_keepsModule rfl
  | powerLoss | mtrAnswerReady | meterPowerUp | meterApportion | meterCommit | meterOpenRecord
  | meterCloseRecord | meterListOpen | meterRecordDrop | caseSwitchOpen | readId | readSnapshot | meterSample | readLog
  | ackLog | setTime | pair | readEvents => exact .inr (exec_ofMeter_idle off (by constructor) (by simp))
  | _ => exact .inr (next_idle (logic_off off) ..)

end Sys2Proof.Machine

namespace Sys2Proof.Machine

open Sys2Proof.Safety

/-! The power entry (O33; 17 R533 to R535, R538) -/

/-- Image, ledger, contexts and memory are gone with the rails (R534). -/
theorem powerOff_gone (m : Module) : (powerOff m).boot.rails = false ∧ (powerOff m).boot.store = [] ∧
    (powerOff m).ledger.entries = [] ∧ (powerOff m).ctxs = [] ∧ (powerOff m).mem = [] := ⟨rfl, rfl, rfl, rfl, rfl⟩

/-- The boot ROM clears no thermal trip, and makes none. -/
theorem bootRom_trip (m : Module) : (bootRom m).boot.trip = m.boot.trip := by
  unfold bootRom
  dsimp only
  split
  · rfl
  · split
    · rfl
    · unfold bootCheck
      split
      · rfl
      · rw [startLib_boot]

theorem bootRom_rails (m : Module) : (bootRom m).boot.rails = m.boot.rails := by
  obtain ⟨_, _, _, _, _, frame, -, -, rails⟩ := bootRom_bootOnly m
  rw [frame]
  exact rails

section
variable {s : State}

/-- PWR_EN with the entry live (R538): PWR_GOOD decides whether the rails start. -/
theorem pwrEnAssert_starts (off : s.mod.boot.rails = false) (powered : s.meter.powered = true) :
    (∃ q, Gives (.pwrEnAssert true) s q ∧ q.boot.rails = true ∧ q.boot.trip = false) ∧
    Gives (.pwrEnAssert false) s { s.mod with boot := { s.mod.boot with pwrEn := true, pwrGood := false } } := by
  have live : (s.mod.boot.rails || !s.meter.powered) = false := by simp [off, powered]
  have answer (good : Bool) : exec (.pwrEnAssert good) s = .next (if good then _ else _) :=
    congrArg Host.Outcome.next (if_neg (by simp [live]))
  exact ⟨⟨_, answer true, bootRom_rails _, bootRom_trip _⟩, answer false⟩

theorem rails_open (on : s.mod.boot.rails = true) :
    Gives .pwrEnDeassert s { powerOff s.mod with boot := { (powerOff s.mod).boot with pwrEn := false } } ∧
    (∀ x : Sensor, Gives (.thermalTrip x) s { powerOff s.mod with boot := { (powerOff s.mod).boot with trip := true } }) ∧
    exec .powerLoss s =
      .next { s with mod := powerOff s.mod, meter := { s.meter with powered := false }, toMeter := [], fromMeter := [] } := by
  refine ⟨?_, fun x => liftPin_gives rfl (if_pos on), ?_⟩
  · change execPwrEnDeassert s = _
    rw [execPwrEnDeassert, liftPin, if_pos on]
  · change execPowerLoss s = _
    rw [execPowerLoss, if_pos on]

/-- A sag disturbs the readings and, with the rails on, the module (R533). -/
theorem supplySag_disturbs : ∃ t, exec .supplySag s = .next t ∧ t.mod.boot.rails = s.mod.boot.rails ∧
    (s.mod.boot.rails = false → t.mod = { s.mod with draw := s.mod.draw + 9 }) ∧
    (s.meter.powered = false → t.meter = s.meter) ∧
    { t.meter with entry := s.meter.entry, dies := s.meter.dies } = s.meter ∧
    t = { s with mod := t.mod, meter := t.meter } := by
  refine ⟨_, rfl, ?_, fun off => if_neg (by simp [off]), fun off => if_neg (by simp [off]), ?_, rfl⟩
  · dsimp only
    split <;> rfl
  · dsimp only
    split <;> rfl

end

/-- Settles O33: what starts the rails, what opens them, and what a sag leaves. -/
theorem powerEntry : Obligations.PowerEntry := by
  refine fun s => ⟨pwrEnAssert_starts, fun on => ?_, supplySag_disturbs⟩
  obtain ⟨low, trip, loss⟩ := rails_open on
  have gone := powerOff_gone s.mod
  exact ⟨⟨_, low, gone, rfl⟩, fun x => ⟨_, trip x, gone, rfl⟩, _, loss, gone⟩

end Sys2Proof.Machine

namespace Sys2Proof.Machine

open Sys2Proof.Safety

/-! Register writes that act on nothing (O48; 17 R543, R547; 18 R549, R550) -/

section
variable {s : State} (on : s.mod.on = true)
include on

/-- A register write that is lost, or that leaves the module as it is. -/
theorem liftW_idle {c : Instr} {w : By} {k : Module → Module} (is : exec c s = liftW w k s)
    (idle : s.mod.boot.lib = true → k s.mod = s.mod) : Gives c s s.mod := by
  refine lift_gives on is ?_
  dsimp only
  split
  · next lib =>
    split
    · exact idle lib
    · rfl
  · rfl

end

section
variable {w : By} {slot off v : Nat} {ok : Ctx → Bool} {k : Module → Module} {m : Module}

theorem onCtx_unseen (unseen : seesCtx m w slot = false) : onCtx w slot off v ok k m = m := by
  rw [onCtx, if_pos (by simp [unseen])]

theorem onGated_unseen {b : Nat} (unseen : seesCtx m w slot = false) : onGated b w slot off v ok k m = m := by
  rw [onGated, if_pos (by simp [unseen]), onCtx_unseen unseen]

/-- A write of a gated register whose catalogue bit is clear (R547). -/
theorem onGated_shut {b : Nat} (sees : seesCtx m w slot = true) (shut : catOn m b = false) :
    onGated b w slot off v ok k m = led 0x0901 sevWarn atModule [ctxOff slot off, b, writerNo w] m := by
  rw [onGated, if_neg (by simp [sees, shut])]

/-- A virtual function does not see the context of a slot that it does not own (R550). -/
theorem seesCtx_unowned {f : Fn} (virt : f ≠ 0) (unowned : ownsSlot m f.val slot = false) : seesCtx m (some f) slot = false := by
  have number : f.val ≠ 0 := fun zero => virt (Fin.ext zero)
  simp [seesCtx, number, unowned]

end

/-- A write of a gated register of the physical function (R547). -/
theorem gated_shut {b off : Nat} {f : Fn} {m : Module} (shut : catOn m b = false) (k : Module → Module) :
    gated b off f k m = led 0x0901 sevWarn atModule [off, b, f.val] m := by
  rw [gated, if_neg (by simp [shut])]

/-- SHADOWCFG is gated whatever is written (17 R547). -/
theorem writeShadow_shut {w : By} {slot : Nat} {m : Module} (sees : seesCtx m w slot = true) (shut : catOn m 11 = false) (v : Word) :
    writeShadow w slot v m = led 0x0901 sevWarn atModule [ctxOff slot offShadowcfg, 11, writerNo w] m := by
  unfold writeShadow
  split
  · exact onGated_shut sees shut
  · exact onGated_shut sees shut

/-- BAR0 offset of a register of a context (18 Table 18.1). -/
theorem ctxOff_eq (slot off : Nat) : ctxOff slot off = 0x400000 + off + 0x10000 * slot := Nat.add_right_comm ..

section
variable {s : State} (on : s.mod.on = true) (lib : s.mod.boot.lib = true) (up : hostUp s.mod 0 = true)
include on lib up

theorem ttsw_shut (shut : catOn s.mod 2 = false) (bank : Bool) (frame : BitVec 48) :
    Gives (.ttsw 0 bank frame) s (led 0x0901 sevWarn atModule [0x98, 2, 0] s.mod) := by
  refine liftW_gives (w := some 0) on lib rfl up ?_
  rw [writeTtsw, physOnly, if_pos rfl]
  exact gated_shut shut _

theorem pwrcapWrite_shut (shut : catOn s.mod 15 = false) {v : Word} (fits : v.toNat < 2 ^ 13) :
    Gives (.pwrcapWrite 0 v) s (led 0x0901 sevWarn atModule [0x20, 15, 0] s.mod) := by
  refine liftW_gives (w := some 0) on lib rfl up ?_
  have fields : v &&& ~~~0x1FFF = 0 := and_not_low_eq_zero (n := 13) fits
  rw [if_pos rfl, rsvOk, if_neg (not_not.2 fields), writePwrcap, physOnly, if_pos rfl]
  exact gated_shut shut _

theorem shadowAdmit_shut (shut : catOn s.mod 11 = false) (slot : BitVec 6) :
    Gives (.shadowAdmit 0 slot) s (led 0x0901 sevWarn atModule [0x400548 + 0x10000 * slot.toNat, 11, 0] s.mod) := by
  have is : exec (.shadowAdmit 0 slot) s =
      liftW (some 0) (fun m => writeShadow (some 0) slot.toNat (admitWord (m.ctx slot.toNat)) m) s := rfl
  refine liftW_gives on lib is up ?_
  rw [writeShadow_shut rfl shut, ctxOff_eq]
  rfl

/-- A write of a gated register of a context through the physical function. -/
theorem onGated_shut_gives {c : Instr} {slot b r v off : Nat} {ok : Ctx → Bool} {k : Module → Module}
    (shut : catOn s.mod b = false) (at_ : 0x400000 + r = off) (is : exec c s = liftW (some 0) (onGated b (some 0) slot r v ok k) s) :
    Gives c s (led 0x0901 sevWarn atModule [off + 0x10000 * slot, b, 0] s.mod) := by
  refine liftW_gives (w := some 0) on lib is up ?_
  rw [onGated_shut rfl shut, ctxOff_eq, at_]
  rfl

end

/-- Settles O48: a write is lost before the Librarian runs, unseen through a function that has no part in its register, and told
where its catalogue bit is clear. -/
theorem registerWritesWithoutEffect : Obligations.RegisterWritesWithoutEffect := by
  intro f slot s e core bank frame v lay die st ch n fr ctr g g1 b4 u cat on
  refine ⟨fun early => ?_, fun virt => ?_, fun unowned virt => ?_, fun lib up => ?_⟩
  · have lost {c : Instr} {k : Module → Module} (is : exec c s = liftW (some f) k s) : Gives c s s.mod :=
      liftW_idle on is fun lib => absurd lib (by simp [early])
    simp only [List.forall_mem_cons]
    exact ⟨lost rfl, lost rfl, lost rfl, lost rfl, lost rfl, lost rfl, lost rfl, lost rfl, lost rfl, lost rfl, lost rfl, lost rfl,
      lost rfl, lost rfl, lost rfl, lost rfl, lost rfl, lost rfl, List.forall_mem_nil _⟩
  · simp only [List.forall_mem_cons]
    exact ⟨liftW_idle on rfl fun _ => if_neg virt, liftW_idle on rfl fun _ => if_neg virt, liftW_idle on rfl fun _ => if_neg virt,
      liftW_idle on rfl fun _ => if_neg virt, liftW_idle on rfl fun _ => if_neg virt, liftW_idle on rfl fun _ => if_neg virt,
      liftW_idle on rfl fun _ => if_pos virt, List.forall_mem_nil _⟩
  · have unseen := seesCtx_unowned virt unowned
    have ctx {c : Instr} {off v : Nat} {ok : Ctx → Bool} {k : Module → Module}
        (is : exec c s = liftW (some f) (onCtx (some f) slot.toNat off v ok k) s) : Gives c s s.mod :=
      liftW_idle on is fun _ => onCtx_unseen unseen
    have command {c : Instr} {code : Nat} {ok : Ctx → Bool} {k : Module → Module}
        (is : exec c s = liftW (some f) (ctxCommand f slot.toNat code ok k) s) : Gives c s s.mod := ctx is
    have gated {c : Instr} {b off v : Nat} {ok : Ctx → Bool} {k : Module → Module}
        (is : exec c s = liftW (some f) (onGated b (some f) slot.toNat off v ok k) s) : Gives c s s.mod :=
      liftW_idle on is fun _ => onGated_unseen unseen
    simp only [List.forall_mem_cons]
    exact ⟨command rfl, command rfl, command rfl, command rfl, gated rfl, gated rfl, gated rfl, gated rfl, ctx rfl, ctx rfl,
      liftW_idle on rfl fun _ => if_neg (by simp [unseen]), List.forall_mem_nil _⟩
  · have gate {c : Instr} {b r v off : Nat} {ok : Ctx → Bool} {k : Module → Module} (at_ : 0x400000 + r = off)
        (is : exec c s = liftW (some 0) (onGated b (some 0) slot.toNat r v ok k) s) (shut : catOn s.mod b = false) :=
      onGated_shut_gives on lib up shut at_ is
    exact ⟨fun shut => ttsw_shut on lib up shut bank frame, fun fits shut => pwrcapWrite_shut on lib up shut fits,
      gate rfl rfl, gate rfl rfl, gate rfl rfl, gate rfl rfl, gate rfl rfl, fun shut => shadowAdmit_shut on lib up shut slot⟩

end Sys2Proof.Machine

namespace Sys2Proof.Machine

open Sys2Proof.Safety

/-! Close records on the meter link (15 R490) -/

/-- Send the close record of one partition, if it is to be sent. -/
def sendClose (s : State) (p : Nat) : State :=
  match (s.mod.part p).closeRec with
  | some r =>
    if (s.mod.part p).closeSent = 0 then
      { s with mod := s.mod.updPart p fun q => { q with closeSent := s.mod.now + 1 },
               toMeter := s.toMeter ++ [.record r] }
    else s
  | none => s

theorem sendCloses_eq (s : State) : sendCloses s = (upTo 8).foldl sendClose s := rfl

/-- The second state is the first with some of its close records sent. -/
structure Sends (s t : State) : Prop where
  mod : ∃ parts, t.mod = { s.mod with parts := parts }
  part : ∀ k, ∃ c, t.mod.part k = { s.mod.part k with closeSent := c }
  fromMeter : t.fromMeter = s.fromMeter
  toMeter : s.toMeter <+: t.toMeter

theorem Sends.refl (s : State) : Sends s s := ⟨⟨_, rfl⟩, fun _ => ⟨_, rfl⟩, rfl, List.prefix_refl _⟩

theorem Sends.trans {s t u : State} (h : Sends s t) (g : Sends t u) : Sends s u := by
  obtain ⟨⟨_, mod⟩, part, fromMeter, toMeter⟩ := h
  obtain ⟨⟨parts, mod'⟩, part', fromMeter', toMeter'⟩ := g
  refine ⟨⟨parts, by rw [mod', mod]⟩, fun k => ?_, fromMeter'.trans fromMeter, toMeter.trans toMeter'⟩
  obtain ⟨_, e⟩ := part k
  obtain ⟨c, e'⟩ := part' k
  exact ⟨c, by rw [e', e]⟩

theorem sendClose_other (s : State) {p k : Nat} (other : k ≠ p) : (sendClose s p).mod.part k = s.mod.part k := by
  unfold sendClose
  split
  · split
    · simp [other]
    · rfl
  · rfl

theorem sendClose_sends (s : State) (p : Nat) : Sends s (sendClose s p) := by
  unfold sendClose
  split
  · split
    · refine ⟨⟨_, rfl⟩, fun k => ?_, rfl, List.prefix_append ..⟩
      rw [Module.updPart_eq, Module.setPart_part]
      split
      · next same => exact ⟨_, by rw [same]⟩
      · exact ⟨_, rfl⟩
    · exact .refl s
  · exact .refl s

theorem foldl_sends (ps : List Nat) (s : State) : Sends s (ps.foldl sendClose s) :=
  List.foldlRecOn (motive := Sends s) ps sendClose (.refl s) fun _ h p _ => h.trans (sendClose_sends _ p)

theorem foldl_sendClose_other {ps : List Nat} {k : Nat} (other : k ∉ ps) (s : State) :
    (ps.foldl sendClose s).mod.part k = s.mod.part k :=
  List.foldlRecOn (motive := fun t : State => t.mod.part k = s.mod.part k) ps sendClose rfl fun t h p listed =>
    (sendClose_other t fun same : k = p => other (same ▸ listed)).trans h

theorem sendCloses_sends (s : State) : Sends s (sendCloses s) := foldl_sends (upTo 8) s

/-- A close record that has not been sent is sent (R490). -/
theorem sendCloses_sent {s : State} {p : Nat} {r : LoanRec} (inside : p < 8) (record : (s.mod.part p).closeRec = some r)
    (unsent : (s.mod.part p).closeSent = 0) : .record r ∈ (sendCloses s).toMeter ∧
    (sendCloses s).mod.part p = { s.mod.part p with closeSent := s.mod.now + 1 } := by
  obtain ⟨before, after, split⟩ : ∃ before after, upTo 8 = before ++ p :: after := List.append_of_mem (List.mem_range.2 inside)
  have once : p ∉ before ++ after := (List.nodup_cons.1 (List.nodup_middle.1 (split ▸ List.nodup_range))).1
  obtain ⟨early, late⟩ := not_or.1 (mt List.mem_append.2 once)
  rw [sendCloses_eq, split, List.foldl_append, List.foldl_cons]
  have waits := foldl_sendClose_other early s
  obtain ⟨⟨_, mod⟩, -, -, -⟩ := foldl_sends before s
  generalize before.foldl sendClose s = t at waits mod ⊢
  have now : t.mod.now = s.mod.now := by rw [mod]; rfl
  have sends : sendClose t p = { t with
      mod := t.mod.updPart p fun q => { q with closeSent := t.mod.now + 1 }, toMeter := t.toMeter ++ [.record r] } := by
    unfold sendClose
    rw [waits, record]
    exact if_pos unsent
  have listed := (foldl_sends after (sendClose t p)).toMeter
  rw [sends] at listed
  rw [foldl_sendClose_other late, sends]
  refine ⟨listed.subset (List.mem_append_right _ (List.mem_singleton.2 rfl)), ?_⟩
  rw [Module.updPart_eq, Module.setPart_part, if_pos rfl, waits, now]

section
variable {s : State} (on : s.mod.on = true)
include on

/-- A command of the module, and what it sends. -/
theorem liftC_sends (f : Module → Module) : ∃ t, liftC f s = .next t ∧ Sends { s with mod := f s.mod } t := by
  rw [liftC, if_pos on]
  dsimp only
  refine ⟨_, rfl, ?_⟩
  split
  · exact sendCloses_sends _
  · exact .refl _

variable (lib : s.mod.boot.lib = true)
include lib

theorem liftCL_sends (f : Module → Module) : ∃ t, liftCL f s = .next t ∧ Sends { s with mod := f s.mod } t := by
  obtain ⟨t, answer, sends⟩ := liftC_sends on fun m => if m.boot.lib then f m else m
  rw [if_pos lib] at sends
  exact ⟨t, answer, sends⟩

/-- A command of the Librarian after which it still runs. -/
theorem liftCL_lib {f : Module → Module} (runs : (f s.mod).boot.lib = true) :
    liftCL f s = .next (sendCloses { s with mod := f s.mod }) := by
  rw [liftCL, liftC, if_pos on]
  dsimp only
  rw [if_pos lib, if_pos runs]

end

/-! The operations of a loan (15 R488 to R492) -/

/-- The second module is the first with one partition changed, as far as loans go. -/
structure Changes (p : Nat) (f : Part → Part) (m q : Module) : Prop where
  part : ∀ k, q.part k = if k = p then f (m.part p) else m.part k
  boot : q.boot = m.boot
  time : q.time = m.time
  lease : q.lease = m.lease

theorem Changes.trans {p : Nat} {f g : Part → Part} {m q r : Module} (h : Changes p f m q) (k : Changes p g q r) :
    Changes p (fun x => g (f x)) m r := by
  refine ⟨fun j => ?_, k.boot.trans h.boot, k.time.trans h.time, k.lease.trans h.lease⟩
  rw [k.part, h.part, h.part, if_pos rfl]
  split <;> rfl

/-- An operation that writes no partition. -/
theorem Changes.of_parts {p : Nat} {m q : Module} (parts : q.parts = m.parts) (boot : q.boot = m.boot) (time : q.time = m.time)
    (lease : q.lease = m.lease) : Changes p (fun x => x) m q := by
  refine ⟨fun k => ?_, boot, time, lease⟩
  rw [Module.part, parts]
  split
  · next same => rw [same]; rfl
  · rfl

theorem Changes.own {p : Nat} {f : Part → Part} {m q : Module} (h : Changes p f m q) : q.part p = f (m.part p) := by
  rw [h.part, if_pos rfl]

theorem updPart_changes (p : Nat) (f : Part → Part) (m : Module) : Changes p f m (m.updPart p f) :=
  ⟨fun _ => Module.setPart_part .., rfl, rfl, rfl⟩

section
variable (p : Nat) (m : Module)

theorem led_changes (code sev : Nat) (pl : Place) (data : List Nat) : Changes p (fun x => x) m (led code sev pl data m) := by
  apply Changes.of_parts <;> simp only [led_same]

/-- Dies are cleared in memory alone (08 R273). -/
theorem clearDies_frame (ds : List Nat) : ∃ mem valid bad dramErr summary sumBad, ds.foldl (fun m d => clearDie d m) m =
    { m with mem := mem, valid := valid, bad := bad, dramErr := dramErr, summary := summary, sumBad := sumBad } :=
  foldl_keeps (I := fun q => ∃ mem valid bad dramErr summary sumBad, q =
      { m with mem := mem, valid := valid, bad := bad, dramErr := dramErr, summary := summary, sumBad := sumBad })
    (fun _ _ h => by
      obtain ⟨_, _, _, _, _, _, rfl⟩ := h
      exact ⟨_, _, _, _, _, _, rfl⟩) ds ⟨_, _, _, _, _, _, rfl⟩

theorem clearDies_changes (ds : List Nat) : Changes p (fun x => x) m (ds.foldl (fun m d => clearDie d m) m) := by
  obtain ⟨_, _, _, _, _, _, eq⟩ := clearDies_frame m ds
  rw [eq]
  exact .of_parts rfl rfl rfl rfl

/-- An entry of the attestation log uses up no transport key. -/
theorem attest_transport (e : BitVec 512) : (attest e m).att.transport = m.att.transport := by
  unfold attest
  split <;> rfl

theorem attest_changes (e : BitVec 512) : Changes p (fun x => x) m (attest e m) := by
  obtain ⟨_, eq⟩ := attest_frame e m
  rw [eq]
  exact .of_parts rfl rfl rfl rfl

/-- A change of loan state writes its partition and raises interrupts (17 R529). -/
theorem setLoan_frame (st : LoanSt) : ∃ o, setLoan p st m = { m.updPart p (fun q => { q with st := st }) with out := o } := by
  unfold setLoan
  dsimp only
  split <;> exact ⟨_, rfl⟩

theorem setLoan_changes (st : LoanSt) : Changes p (fun x => { x with st := st }) m (setLoan p st m) := by
  obtain ⟨_, eq⟩ := setLoan_frame p m st
  rw [eq]
  exact ⟨fun _ => Module.setPart_part .., rfl, rfl, rfl⟩

theorem openFails_changes (refuse code : Nat) (id : Word) :
    Changes p (fun x => { x with refuse := refuse, metercode := code }) m (openFails p refuse code id m) :=
  (updPart_changes p _ m).trans (led_changes ..)

theorem setClose_changes (r : LoanRec) :
    Changes p (fun x => { x with closeRec := some r, closeAt := m.now, closeSent := 0, closeLogged := 0 }) m (setClose p r m) :=
  updPart_changes p _ m

/-- The last steps of a close change neither its cause nor the loan's state (R490). -/
theorem closeAdvance_part : ((closeAdvance p m).part p).st = (m.part p).st ∧
    ((closeAdvance p m).part p).closecause = (m.part p).closecause := by
  unfold closeAdvance
  dsimp only
  split
  · exact ⟨rfl, rfl⟩
  · have dropped : (dropBms (fun b => b.part == p) m).part p = m.part p :=
      congrArg (Sparse.get (Part.init 15) · p) (dropBms_holders ..).parts
    rw [(setClose_changes ..).own, (clearDies_changes ..).own, (updPart_changes ..).own, dropped]
    exact ⟨rfl, rfl⟩

end

/-- A close begins (R490): the loan is CLOSING with its cause, and every context of the partition goes down. -/
theorem closeBegin_begins (p cause : Nat) (m : Module) : ((closeBegin p cause m).part p).st = .closing ∧
    ((closeBegin p cause m).part p).closecause = cause ∧
    ∀ i, (m.ctx i).state ≠ .free → (m.ctx i).part = p → ((closeBegin p cause m).ctx i).state = .teardown := by
  unfold closeBegin
  dsimp only
  generalize told : led 0x0803 sevInfo (atPart p) _ _ = q
  have part : q.part p = { m.part p with st := .closing, closecause := cause, closeReq := false } := by
    rw [← told]
    exact (((updPart_changes ..).trans (setLoan_changes ..)).trans (led_changes ..)).own
  have ctx (i : Nat) : q.ctx i = m.ctx i := by
    rw [← told, (led_parts ..).2.2.1, Module.ctx, (setLoan_live ..).ctxs]
    rfl
  have ground : SameGround q (each (slotsWhere q fun x => x.part == p) (fun i => startTeardown i 0) q) :=
    .each (fun i q => startTeardown_ground i 0 q) _ q
  have down (i : Nat) (present : (q.ctx i).state ≠ .free) (own : (q.ctx i).part = p) :=
    (startTeardown_takesDown 0).each_slots (t := fun x => x.part == p) present (beq_iff_eq.2 own) rfl
  generalize each (slotsWhere q fun x => x.part == p) (fun i => startTeardown i 0) q = t at ground down ⊢
  have kept : t.part p = q.part p := congrArg (Sparse.get (Part.init 15) · p) ground.parts
  obtain ⟨st, closecause⟩ := closeAdvance_part p t
  refine ⟨by rw [st, kept, part], by rw [closecause, kept, part], fun i present own => ?_⟩
  rw [Module.ctx, (closeAdvance_live p t).ctxs]
  exact down i (by rwa [ctx]) (by rwa [ctx])

end Sys2Proof.Machine

namespace Sys2Proof.Machine

open Sys2Proof.Safety

/-! Opening a loan (O36; 15 R488, R489, R491) -/

/-- The module with its partition as an open asks for it (R489 step 1). -/
def asked (p : Nat) (m : Module) : Module :=
  m.updPart p fun q => { q with role := 0, secure := false, openAt := m.now, closeReq := false }

/-- The record of an open (R488). -/
def askedRec (p : Nat) (m : Module) : LoanRec := formRec (asked p m) p true 0 (m.part p).loanid (m.part p).tenant

/-- The module once an open has begun: it waits for the meter's answer. -/
def begun (p : Nat) (m : Module) : Module :=
  setLoan p .opening ((asked p m).updPart p fun q => { q with openRec := some (askedRec p m) })

/-- The module with the keys of a loan that the meter has co-signed (R489 step 3). -/
def keyed (p : Nat) (c : Cosigned) (m : Module) : Module :=
  let m := m.updPart p fun q =>
    { q with keyNo := some m.att.transport, loanrec := some c, openedAt := m.now, refuse := 0, metercode := 0 }
  { m with att := { m.att with transport := m.att.transport + 1 } }

/-- The module whose loan is OPEN, its frames cleared (R489 steps 4 and 5). -/
def granted (p : Nat) (c : Cosigned) (m : Module) : Module :=
  let m := keyed p c m
  let m := attest (coDigest c) ((diesOf m p).foldl (fun m d => clearDie d m) m)
  led 0x0801 sevInfo (atPart p) [c.lr.loanid.toNat, c.lr.tenant.toNat, c.mseq] (setLoan p .open_ m)

theorem loanOpened_eq (p : Nat) (c : Cosigned) (m : Module) : loanOpened p c m =
    if (granted p c m).lease.st = .fenced then closeBegin p 2 (granted p c m)
    else if ((granted p c m).part p).closeReq then closeBegin p 0 (granted p c m) else granted p c m := rfl

section
variable (p : Nat) (c : Cosigned) (m : Module)

theorem keyed_changes : Changes p (fun x => { x with
    keyNo := some m.att.transport, loanrec := some c, openedAt := m.now, refuse := 0, metercode := 0 }) m (keyed p c m) :=
  ⟨fun _ => Module.setPart_part .., rfl, rfl, rfl⟩

theorem granted_changes : Changes p (fun x => { x with
    keyNo := some m.att.transport, loanrec := some c, openedAt := m.now, refuse := 0, metercode := 0, st := .open_ }) m
    (granted p c m) :=
  ((((keyed_changes p c m).trans (clearDies_changes p _ _)).trans (attest_changes ..)).trans (setLoan_changes ..)).trans
    (led_changes ..)

theorem granted_transport : (granted p c m).att.transport = m.att.transport + 1 := by
  have key : (keyed p c m).att.transport = m.att.transport + 1 := rfl
  unfold granted
  dsimp only
  generalize keyed p c m = q at key ⊢
  obtain ⟨_, _, _, _, _, _, cleared⟩ := clearDies_frame q (diesOf q p)
  obtain ⟨_, opened⟩ := setLoan_frame p (attest (coDigest c) ((diesOf q p).foldl (fun m d => clearDie d m) q)) .open_
  simp only [led_same]
  rw [opened]
  change (attest _ _).att.transport = _
  rw [attest_transport, cleared]
  exact key

end

/-- A loan that the meter has co-signed and nothing ends at once is OPEN (R489, R491). -/
theorem loanOpened_opens {p : Nat} {m : Module} (c : Cosigned) (unfenced : m.lease.st ≠ .fenced) (stays : (m.part p).closeReq = false) :
    loanOpened p c m = granted p c m := by
  have changes := granted_changes p c m
  rw [loanOpened_eq, if_neg (by rw [changes.lease]; exact unfenced), if_neg (by rw [changes.own]; simp [stays])]

/-- LOANCMD OPEN of ROLE 0 on a CLOSED partition that may open (R489 step 1). -/
theorem loanOpen_begins {p : Nat} {m : Module} (isP : isPart m p = true) (ready : m.boot.ready = true) (identity : m.boot.identity = true)
    (closed : (m.part p).st = .closed) : loanOpen p 0 false m = begun p m := by
  rw [loanOpen, if_neg (by simp [isP]), if_neg (by simp [ready]), loanGates, if_neg (by decide), if_neg (by decide)]
  dsimp only
  rw [if_neg (by simp [identity]), if_neg (by simp [closed]), begun, askedRec, asked]

section
variable {s : State} (on : s.mod.on = true) (lib : s.mod.boot.lib = true)
include on lib

theorem lib_runs : s.mod.lib = true := by simp [Module.lib, on, lib]

theorem meterOpenAnswer_opens {c : Cosigned} {q : List MAnswer} {p : Nat} (answer : s.fromMeter = .cosigned c :: q)
    (opens : c.lr.isOpen = true) (own : openingOf s.mod c.lr = some p) (unfenced : s.mod.lease.st ≠ .fenced)
    (stays : (s.mod.part p).closeReq = false) (still : ∀ k : Nat, (s.mod.part k).closeRec = none) :
    exec .meterOpenAnswer s = .next { s with mod := granted p c s.mod, fromMeter := q } := by
  change execMeterOpenAnswer s = _
  rw [execMeterOpenAnswer, if_pos (lib_runs on lib), meterOpenAnswer, answer]
  dsimp only
  rw [if_neg (by simp [opens]), own]
  dsimp only
  rw [loanOpened_opens c unfenced stays, sendCloses_none fun k => ?_]
  rw [(granted_changes ..).part]
  split <;> exact still _

theorem meterOpenAnswer_refuses {r : LoanRec} {k : Nat} {q : List MAnswer} {p : Nat} (answer : s.fromMeter = .refused r k :: q)
    (opens : r.isOpen = true) (own : openingOf s.mod r = some p) : ∃ t, exec .meterOpenAnswer s = .next t ∧ t.fromMeter = q ∧
      t.mod.part p = { s.mod.part p with openRec := none, closeReq := false, refuse := 2, metercode := k, st := .closed } := by
  change ∃ t, execMeterOpenAnswer s = .next t ∧ _
  rw [execMeterOpenAnswer, if_pos (lib_runs on lib), meterOpenAnswer, answer]
  dsimp only
  rw [if_neg (by simp [opens]), own]
  exact ⟨_, rfl, rfl, (((updPart_changes ..).trans (openFails_changes ..)).trans (setLoan_changes ..)).own⟩

end

/-! The meter's silence (R489) -/

theorem meterTimeout_early {p : Nat} {m : Module} (early : m.now < (m.part p).openAt + 100000000) : meterTimeout p m = m := by
  unfold meterTimeout
  dsimp only
  split
  · rfl
  · exact if_pos (.inr early)

/-- The module once an open has failed for the meter's silence. -/
def timedOut (p : Nat) (r : LoanRec) (m : Module) : Module :=
  openFails p 1 0 r.loanid (m.updPart p fun q => { q with closecause := 4, closeReq := false })

/-- The close record of such an open (R489, R490). -/
def timedOutRec (p : Nat) (r : LoanRec) (m : Module) : LoanRec := formRec (timedOut p r m) p false 4 r.loanid r.tenant

theorem meterTimeout_late {p : Nat} {r : LoanRec} {m : Module} (record : (m.part p).openRec = some r) (opens : (m.part p).st = .opening)
    (late : (m.part p).openAt + 100000000 ≤ m.now) : meterTimeout p m =
    setClose p (timedOutRec p r m) (setLoan p .closing (timedOut p r m)) := by
  unfold meterTimeout
  dsimp only
  rw [record]
  dsimp only
  rw [if_neg (by simp [opens, late, Config.meterTimeoutNs]), timedOutRec, timedOut]

/-! The partition and the commands -/

section
variable (p : Nat) (m : Module)

theorem asked_changes : Changes p (fun q => { q with role := 0, secure := false, openAt := m.now, closeReq := false }) m (asked p m) :=
  updPart_changes ..

theorem begun_changes : Changes p (fun q => { q with
    role := 0, secure := false, openAt := m.now, closeReq := false, openRec := some (askedRec p m), st := .opening }) m (begun p m) :=
  ((asked_changes p m).trans (updPart_changes p (fun q => { q with openRec := some (askedRec p m) }) _)).trans (setLoan_changes ..)

theorem timedOut_changes (r : LoanRec) : Changes p (fun q => { q with
    closecause := 4, closeReq := false, refuse := 1, metercode := 0 }) m (timedOut p r m) :=
  (updPart_changes p (fun q => { q with closecause := 4, closeReq := false }) m).trans (openFails_changes ..)

/-- The record of an open names its loan, its partition, its dies and its time (R488). -/
theorem askedRec_asks : (askedRec p m).isOpen = true ∧ (askedRec p m).loanid = (m.part p).loanid ∧
    (askedRec p m).tenant = (m.part p).tenant ∧ (askedRec p m).part = BitVec.ofNat 3 p ∧ (askedRec p m).dies = diesMask m p ∧
    (askedRec p m).stamp = m.now :=
  ⟨rfl, rfl, rfl, rfl, rfl, rfl⟩

end

/-- The meter's silence for 100 ms ends in a close of cause 4 that is to be sent (R489). -/
theorem timedOut_closes {p : Nat} {r : LoanRec} {m : Module} (record : (m.part p).openRec = some r)
    (opens : (m.part p).st = .opening) (late : (m.part p).openAt + 100000000 ≤ m.now) : Changes p (fun q => { q with
      closecause := 4, closeReq := false, refuse := 1, metercode := 0, st := .closing,
      closeRec := some (timedOutRec p r m),
      closeAt := (setLoan p .closing (timedOut p r m)).now, closeSent := 0, closeLogged := 0 }) m (meterTimeout p m) := by
  rw [meterTimeout_late record opens late]
  exact ((timedOut_changes p m r).trans (setLoan_changes ..)).trans (setClose_changes ..)

/-- LOANCMD OPEN sends the meter the record of the open (R488, R489 step 1). -/
theorem openLoan_sends {s : State} {p : Nat} (lib : s.mod.lib = true) (up : hostUp s.mod 0 = true) (isP : isPart s.mod p = true)
    (ready : s.mod.boot.ready = true) (identity : s.mod.boot.identity = true) (closed : (s.mod.part p).st = .closed) :
    openLoan 0 p 0 false s = { s with mod := begun p s.mod, toMeter := s.toMeter ++ [.record (askedRec p s.mod)] } := by
  have begins : physPart 0 p 0x30 (loanWord 1 0 false) (loanOpen p 0 false) s.mod = begun p s.mod := by
    rw [physPart, if_neg (by simp [isP]), if_pos rfl, loanOpen_begins isP ready identity closed]
  rw [openLoan, if_pos (by simp [lib, reaches, up])]
  dsimp only
  rw [begins, (begun_changes p s.mod).own]
  exact if_pos ⟨rfl, closed⟩

/-- Settles O36, from what each operation writes of the partition (`Changes`) and what `sendCloses` sends after it. -/
theorem loanOpening : Obligations.LoanOpening := by
  intro part s on lib isP p m
  refine ⟨fun up ready identity closed => ?_, fun c q answer opens own unfenced stays still => ?_,
    fun r k q answer opens own => ?_, fun r record opens early still => ?_, fun r record opens late => ?_⟩
  · have runs : exec (.loanOpen 0 part 0 false) s = .next _ :=
      congrArg Host.Outcome.next (openLoan_sends (lib_runs on lib) up isP ready identity closed)
    have asks : (begun p m).part p = _ := (begun_changes p m).own
    obtain ⟨isOpen, loanid, tenant, named, dies, stamp⟩ := askedRec_asks p m
    refine ⟨_, askedRec p m, runs, ?_, ?_, rfl, rfl, isOpen, loanid, tenant, named.trans (BitVec.ofNat_toNat ..), dies, stamp, ?_⟩ <;>
      rw [asks]
  · have opened : (granted p c m).part p = _ := (granted_changes p c m).own
    refine ⟨_, meterOpenAnswer_opens on lib answer opens own unfenced stays still, rfl, rfl, ?_, ?_, ?_, granted_transport p c m⟩ <;>
      rw [opened]
  · obtain ⟨t, answers, taken, fails⟩ := meterOpenAnswer_refuses on lib answer opens own
    refine ⟨t, answers, taken, ?_, ?_, ?_, ?_⟩ <;> rw [fails]
  · have waits : meterTimeout p m = m := meterTimeout_early early
    change liftCL (meterTimeout p) s = _
    rw [liftCL_lib on lib (by rw [waits]; exact lib), waits, sendCloses_none still]
  · have ends := timedOut_closes record opens late
    obtain ⟨sent, sends⟩ := sendCloses_sent (s := { s with mod := meterTimeout p m }) part.isLt
      (congrArg Part.closeRec ends.own) (congrArg Part.closeSent ends.own)
    refine ⟨_, timedOutRec p r m, liftCL_lib on lib ((congrArg Boot.lib ends.boot).trans lib), ?_, ?_, ?_, rfl, rfl, rfl, sent⟩ <;>
      rw [sends, ends.own]

end Sys2Proof.Machine

namespace Sys2Proof.Machine

open Sys2Proof.Safety

/-! Closing a loan (O37; 15 R490 to R492) -/

section
variable (p : Nat) (c : Cosigned) (m : Module)

/-- The partition once the meter has co-signed its close record. -/
def closedPart (c : Cosigned) (x : Part) : Part :=
  { x with loanrec := some c, closeRec := none, openRec := none, secure := false, role := 0, st := .closed }

/-- The co-signed close record of a CLOSING loan closes it (R490). -/
theorem closed_changes (closing : (m.part p).st = .closing) : Changes p (closedPart c) m (closed p c m) := by
  have ends {q : Module} (told : Changes p (fun x => { x with loanrec := some c, closeRec := none }) m q) : Changes p (closedPart c) m
      (setLoan p .closed (q.updPart p fun x => { x with openRec := none, secure := false, role := 0 })) :=
    (told.trans (updPart_changes p (fun x => { x with openRec := none, secure := false, role := 0 }) q)).trans (setLoan_changes ..)
  have unkeys (g : Nat) (q : Module) : Changes p (fun x => x) q (q.updFunc g fun x => { x with ide := false }) :=
    .of_parts rfl rfl rfl rfl
  unfold closed
  dsimp only
  rw [if_pos closing]
  have told := ((updPart_changes p (fun x => { x with loanrec := some c, closeRec := none }) m).trans
    (attest_changes p _ (coDigest c))).trans (led_changes p _ 0x0804 sevInfo (atPart p)
      [c.lr.loanid.toNat, c.mseq, (if c.rep then 16 else 0) + (if c.notopen then 1 else 0)])
  split
  · exact ends (told.trans (unkeys ..))
  · exact ends told

/-- The close record of a loan that was open before a restart (R492). -/
def restartRec (cause : Nat) : LoanRec :=
  let p := c.lr.part.toNat
  let r := formRec m p false cause c.lr.loanid c.lr.tenant
  let r : LoanRec := { r with dies := c.lr.dies, role := c.lr.role, secure := c.lr.secure }
  { r with libsig := libSign (lrDigest r) }

theorem restartClose_eq (cause : Nat) : restartClose cause c m = setClose c.lr.part.toNat (restartRec c m cause) m := rfl

end

section
variable {s : State} (on : s.mod.on = true) (lib : s.mod.boot.lib = true)
include on lib

theorem loanClose_closes {part : BitVec 3} (up : hostUp s.mod 0 = true) (isP : isPart s.mod part.toNat = true)
    (opened : (s.mod.part part.toNat).st = .open_) : ∃ t, exec (.loanClose 0 part) s = .next t ∧
    Sends { s with mod := closeBegin part.toNat 0 s.mod } t := by
  obtain ⟨t, answers, sends⟩ := liftCL_sends on lib fun m => if reaches m (some 0) then loanClose 0 part.toNat m else m
  have begins : (if reaches s.mod (some 0) then loanClose 0 part.toNat s.mod else s.mod) = closeBegin part.toNat 0 s.mod := by
    rw [if_pos (show reaches s.mod (some 0) = true from up), loanClose, physPart, if_neg (by simp [isP]), if_pos rfl, opened]
  rw [begins] at sends
  exact ⟨t, answers, sends⟩

theorem meterCloseCosign_closes {c : Cosigned} {r : LoanRec} {q : List MAnswer} (answer : s.fromMeter = .cosigned c :: q)
    (closes : c.lr.isOpen = false) (record : (s.mod.part c.lr.part.toNat).closeRec = some r) (same : r.loanid = c.lr.loanid) :
    exec .meterCloseCosign s = .next { s with mod := closed c.lr.part.toNat c s.mod, fromMeter := q } := by
  change execMeterCloseCosign s = _
  rw [execMeterCloseCosign, if_pos (lib_runs on lib), meterCloseCosign, answer]
  dsimp only
  rw [if_neg (by simp [closes]), if_pos (by rw [record]; exact congrArg some same)]

/-- A close record that has waited 100 ms for its answer is sent again (R490). -/
theorem closeResend_sends {part : BitVec 3} {r : LoanRec} (record : (s.mod.part part.toNat).closeRec = some r)
    (sent : (s.mod.part part.toNat).closeSent ≠ 0) (late : (s.mod.part part.toNat).closeSent + 100000000 ≤ s.mod.now + 1) :
    exec (.closeResend part) s = .next
      (sendCloses { s with mod := s.mod.updPart part.toNat fun q => { q with closeSent := 0 } }) := by
  have due : (s.mod.part part.toNat).closeRec.isSome ∧ (s.mod.part part.toNat).closeSent ≠ 0 ∧
      (s.mod.part part.toNat).closeSent + Config.meterTimeoutNs ≤ s.mod.now + 1 := ⟨by rw [record]; rfl, sent, late⟩
  change liftCL _ s = _
  rw [liftCL_lib on lib]
  · rw [if_pos due]
  · rw [if_pos due]
    exact lib

/-- A close that lasts a second more is told of (R490). -/
theorem closeDelayLedger_gives {part : BitVec 3} {r : LoanRec} (record : (s.mod.part part.toNat).closeRec = some r)
    (late : (s.mod.part part.toNat).closeAt + ((s.mod.part part.toNat).closeLogged + 1) * 1000000000 ≤ s.mod.now) :
    Gives (.closeDelayLedger part) s
      (led 0x0805 sevWarn (atPart part.toNat) [r.loanid.toNat, (s.mod.part part.toNat).closeLogged + 1]
        (s.mod.updPart part.toNat fun q => { q with closeLogged := q.closeLogged + 1 })) := by
  rw [Gives]
  change execCloseDelayLedger part s = _
  rw [execCloseDelayLedger, liftL_lib on lib]
  dsimp only
  rw [record]
  exact congrArg (fun q => Host.Outcome.next { s with mod := q }) (if_pos late)

/-- The meter's list of open loans closes each of them (R492). -/
theorem restartLoanClose_closes {c : Cosigned} {q : List MAnswer} (restarted : s.mod.boot.restartClose = true)
    (listed : s.fromMeter = .list [c] :: q) : ∃ t cause, exec .restartLoanClose s = .next t ∧ t.mod.boot.restartClose = false ∧
    t.fromMeter = q ∧ .record (restartRec c s.mod cause) ∈ t.toMeter := by
  have closes (cause : Nat) : ((restartClose cause c s.mod).part c.lr.part.toNat).closeRec = some (restartRec c s.mod cause) ∧
      ((restartClose cause c s.mod).part c.lr.part.toNat).closeSent = 0 := by
    rw [restartClose_eq, (setClose_changes ..).own]
    exact ⟨rfl, rfl⟩
  change ∃ t cause, execRestartLoanClose s = .next t ∧ _
  rw [execRestartLoanClose, if_pos (lib_runs on lib), restartLoans, if_neg (by simp [restarted]), listed]
  dsimp only [List.foldl]
  generalize (if s.mod.boot.rstTrig = 6 then 3 else 1) = cause
  obtain ⟨record, unsent⟩ := closes cause
  generalize restartClose cause c s.mod = m at record unsent ⊢
  have sends := sendCloses_sends { s with mod := { m with boot := { m.boot with restartClose := false } }, fromMeter := q }
  obtain ⟨⟨_, mod⟩, -, taken, -⟩ := sends
  exact ⟨_, cause, rfl, by rw [mod], taken, (sendCloses_sent c.lr.part.isLt record unsent).1⟩

theorem restartLoanClose_asks (restarted : s.mod.boot.restartClose = true) (silent : s.fromMeter = []) (unasked : .list ∉ s.toMeter) :
    exec .restartLoanClose s = .next { s with toMeter := s.toMeter ++ [.list] } := by
  change execRestartLoanClose s = _
  rw [execRestartLoanClose, if_pos (lib_runs on lib), restartLoans, if_neg (by simp [restarted]), silent]
  dsimp only
  rw [if_neg (by simpa using unasked)]

end

/-! The partition layout and binding (15 R484 to R486) -/

/-- A legal layout that changes only CLOSED and empty partitions is taken. -/
theorem setLayout_takes {v : BitVec 24} {m : Module} (legal : layoutOk v = true)
    (idle : ∀ k ∈ changedParts m v, (m.part k).st = .closed ∧ hasCtx m k = false) :
    (setLayout 0 v m).layout = v ∧ (setLayout 0 v m).ctxs = m.ctxs := by
  have takes : ¬ (!(layoutOk v) || (changedParts m v).any fun p => (m.part p).st != .closed || hasCtx m p) = true := by
    simp only [legal, Bool.not_true, Bool.false_or, List.any_eq_true, not_exists, not_and]
    intro k changed
    simp [idle k changed]
  rw [setLayout, physOnly, if_pos rfl]
  dsimp only
  rw [if_neg takes]
  refine foldl_keeps (I := fun q : Module => q.layout = v ∧ q.ctxs = m.ctxs) (fun q p kept => ?_) _ ⟨rfl, rfl⟩
  obtain ⟨layout, ctxs⟩ := kept
  split
  · exact ⟨layout, ctxs⟩
  · simp [layout, ctxs]

/-- A CLOSED partition takes a binding to no function or to the physical one. -/
theorem setBind_takes {p : Nat} {v : BitVec 4} {m : Module} (isP : isPart m p = true) (idle : (m.part p).st = .closed)
    (plain : v = 0 ∨ v = 15) : setBind 0 p v m = m.updPart p fun q => { q with bind := v } := by
  have untaken : (decide (1 ≤ v.toNat) && decide (v.toNat ≤ 8)) = false := by rcases plain with rfl | rfl <;> decide
  have few : ¬ (1 ≤ v.toNat ∧ v.toNat ≤ 8) := by rcases plain with rfl | rfl <;> decide
  have legal : ¬ (8 < v.toNat ∧ v.toNat ≠ 15) := by rcases plain with rfl | rfl <;> decide
  unfold setBind
  dsimp only
  rw [physPart, if_neg (by simp [isP]), if_pos rfl, if_neg few]
  refine if_neg ?_
  rw [untaken, Bool.false_and]
  exact fun h => h.elim (· idle) fun h => h.elim legal Bool.false_ne_true

/-- Settles O37, from what a close writes of the partition and what `sendCloses` adds to it (`Sends`); layout and binding are writes of one register. -/
theorem loanClosing : Obligations.LoanClosing := by
  intro part s on lib isP p m
  refine ⟨fun up opened => ?_, fun c r q answer closes own record same closing => ?_, fun r record sent late => ?_,
    fun r record late => closeDelayLedger_gives on lib record late,
    fun restarted => ⟨restartLoanClose_asks on lib restarted, fun c q listed => ?_⟩, fun v up legal idle => ?_,
    fun v up idle plain => liftW_gives (w := some 0) on lib rfl up (setBind_takes isP idle plain)⟩
  · obtain ⟨t, answers, ⟨_, mod⟩, parts, -, -⟩ := loanClose_closes on lib up isP opened
    obtain ⟨_, kept⟩ := parts p
    obtain ⟨closing, cause, down⟩ := closeBegin_begins p 0 m
    dsimp only at mod kept
    generalize closeBegin p 0 m = b at mod kept closing cause down
    refine ⟨t, answers, ?_, ?_, fun i present own => ?_⟩
    · rw [kept]; exact closing
    · rw [kept]; exact cause
    · rw [mod]; exact down i present own
  · subst own
    refine ⟨_, meterCloseCosign_closes on lib answer closes record same, rfl, ?_, ?_, ?_, ?_⟩ <;>
      rw [(closed_changes _ c m closing).own] <;> rfl
  · have unsent := (updPart_changes p (fun q => { q with closeSent := 0 }) m).own
    obtain ⟨again, sends⟩ := sendCloses_sent (s := { s with mod := m.updPart p fun q => { q with closeSent := 0 } }) part.isLt
      ((congrArg Part.closeRec unsent).trans record) (congrArg Part.closeSent unsent)
    exact ⟨_, closeResend_sends on lib record sent late, again, congrArg Part.closeSent sends⟩
  · obtain ⟨t, cause, answers, done, taken, sent⟩ := restartLoanClose_closes on lib restarted listed
    exact ⟨t, restartRec c m cause, answers, done, taken, sent, rfl, rfl, rfl⟩
  · exact ⟨_, liftW_gives (w := some 0) on lib rfl up rfl, setLayout_takes legal idle⟩

end Sys2Proof.Machine
